-- ==== Sys2Proof/Word.lean ====
section
/-! DEFINITION. Words of the GM4: registers are 64 bits (R7), X registers 32 bits (R74), a cache line is 64 bytes. -/

namespace Sys2Proof

/-- A byte of memory. -/
abbrev Byte := BitVec 8
/-- A 32-bit X register (R74), a mask of the 32 threads of a group. -/
abbrev W32 := BitVec 32
/-- A device register or a U register (R7, R74). -/
abbrev W64 := BitVec 64
/-- A 64-byte line; byte n of the line lies in bits [8n+7:8n] (R3). -/
abbrev Line := BitVec 512

end Sys2Proof
end

