-- ==== Sys2Proof/Syntax.lean ====
section
/-! DEFINITION. The commands of the GM4-384L: one constructor of `Instr` for each row of spec/opcode_table.json, with its operands.
GIA instructions carry the group that issues them and the fields of their word (R99-R108); message rows carry the message; event rows
carry what the event brings from outside (a sample, an edge, an answer). -/

namespace Sys2Proof

/-- A group slot of a core (R71), or an S-core thread: pipe 0 and slot the thread number. -/
structure Grp where
  core : Nat
  pipe : Nat
  slot : Nat
  deriving DecidableEq, Repr, Inhabited

/-- R-form (R105) with the guard of R100. -/
structure RForm where
  pr : BitVec 3
  pn : Bool
  d : BitVec 8
  a : BitVec 8
  b : BitVec 8
  c : BitVec 8
  ty : BitVec 4
  rm : BitVec 3
  sat : Bool
  sub : BitVec 8
  deriving DecidableEq, Repr, Inhabited

/-- I-form (R106). -/
structure IForm where
  pr : BitVec 3
  pn : Bool
  d : BitVec 8
  a : BitVec 8
  imm : BitVec 32
  deriving DecidableEq, Repr, Inhabited

/-- B-layout of FORM 1 (R106). -/
structure BForm where
  pr : BitVec 3
  pn : Bool
  rpc : BitVec 24
  target : BitVec 24
  deriving DecidableEq, Repr, Inhabited

/-- M-form (R107). -/
structure MForm where
  pr : BitVec 3
  pn : Bool
  d : BitVec 8
  a : BitVec 8
  b : BitVec 8
  c : BitVec 8
  size : BitVec 3
  space : BitVec 2
  hint : BitVec 3
  aop : BitVec 4
  ty : BitVec 4
  deriving DecidableEq, Repr, Inhabited

/-- L-form (R108): a first word in R-form layout and a second word. -/
structure LForm where
  r : RForm
  w2 : BitVec 64
  deriving DecidableEq, Repr, Inhabited

/-- The kind of a context access (R493 check 5; DETAIL of PERMISSION in R98). -/
inductive Access where
  | read | write | fetch | atomic
  deriving DecidableEq, Repr, Inhabited

/-- An agent that can address a slice (R197). -/
inductive Agent where
  | core (c : Nat)          -- global core number
  | guest (die slice : Nat) -- a guest or far slice
  | engine (chan : Nat)     -- a deck engine, global channel number
  | walker (half : Nat)
  | port (p : Nat)          -- Mbolvoar ingress
  | host (att : Nat)
  | turnpike
  | mc
  deriving DecidableEq, Repr, Inhabited

/-- The kinds of coherence message (R193), with the deck controller's own (R230) and the answers of R195. -/
inductive MsgKind where
  | gets | getm | wr | atom | red | redw | putm | strip | clean | claim
  | deckRead | writeBack | residencyNote
  | fwdShare | fwdOwn | fwdRecall | fwdDrop
  | inv | ack | data | nack | ticket | go | putack | fenced | error | atomResult
  deriving DecidableEq, Repr, Inhabited

/-- One coherence message (R193). `req` is the requester; `die`, `slice` the slice it is for or comes from (for a message between a slice
and an L1 or a deck controller, the slice side); `line` the line's system address div 64. -/
structure Msg where
  kind : MsgKind
  req : Agent
  die : Nat
  slice : Nat
  line : Nat
  id : Nat             -- the operation the message belongs to (a tag of the requester)
  thread : Nat := 0    -- the thread an atomic or RED belongs to
  data : Line := 0
  mask : BitVec 64 := 0 -- byte mask (WR, RED, REDW), or the word's place (ATOM)
  op : Nat := 0        -- AOP code of R117
  ty : Nat := 0        -- TYPE code of R104
  -- of a request: HINT in bits 2:0; bit 3 of a GETS: a granule alone; bit 3 of a GETM: its sender holds GS. Of a PUTACK: 1 STALE. Of DATA: bit 0
  -- uncorrectable; bit 1 the owner holds nothing further, or a GETM is not granted; bit 2 not to install; bits 5:3 a granule; bit 6 a strip mark
  flags : Nat := 0
  tries : Nat := 0     -- refusals so far (R196)
  err : Nat := 0       -- with uncorrectable data: the index of its error record (R98)
  src : Nat := 0       -- of an answer to a FWD: 1 + the die of the owner that sends it
  deriving DecidableEq, Repr, Inhabited

/-- Slices of the device (die × 96 + slice) that an advance of a far tag's epoch, or the removal of its lines, reaches together (R206). -/
structure EpochAt where
  tag : Nat
  slices : List Nat
  deriving DecidableEq, Repr, Inhabited

/-- The kinds of Waymark event (R277). -/
inductive EvKind where
  | add | set | read | value | update
  deriving DecidableEq, Repr, Inhabited

/-- One Waymark event (R277). `half` is where it comes from (ADD, SET, READ) or goes to (VALUE, UPDATE). -/
structure WmEvent where
  kind : EvKind
  wm : Nat
  half : Nat           -- source half (or 8, the MC or a link port), or destination half
  core : Nat := 0      -- stop (READ, VALUE)
  count : W32 := 0     -- increment or count
  lead : Nat := 0      -- lead in ns
  abs : Option W64 := none -- absolute release MST (from the MC)
  rel : W64 := 0       -- RELEASE_MST (VALUE, UPDATE)
  deriving DecidableEq, Repr, Inhabited

/-- A request of a remote device at a port (R289, R297). -/
structure LinkReq where
  src : Nat            -- source device
  tag : Nat
  gen : Nat
  addr : Nat           -- system address
  size : Nat           -- bytes read (64 or 16), or operand bytes
  mask : BitVec 64 := 0
  data : Line := 0
  op : Nat := 0
  ty : Nat := 0
  merge : Bool := false -- REDW
  sub : Nat := 0       -- the sub-channel it arrives on (R289, R295)
  deriving DecidableEq, Repr, Inhabited

/-- What a remote response carries (R289, R299). -/
inductive LinkAns where
  | ack | data (v : Line) | bad (v : Line) | result (v : W64) | fenced | error
  deriving DecidableEq, Repr, Inhabited

/-- A command entry accepted from a ring: function (attachment × 128 + number), ring and index (R316). -/
structure CmdRef where
  fid : Nat
  ring : Nat
  index : Nat
  deriving DecidableEq, Repr, Inhabited

/-- Who accesses a register: the MC, a PF of an attachment, a VF, or a remote manager over MGMT (R488, R310). -/
inductive Who where
  | mc | pf (att : Nat) | vf (att n : Nat) | mgmt
  deriving DecidableEq, Repr, Inhabited

/-- A convoy broadcast as received: source, sequence number, convoy number (R302). -/
structure Bcast where
  port : Nat
  src : Nat
  seq : Nat
  convoy : Nat
  deriving DecidableEq, Repr, Inhabited

/-- A BEACON payload (R419). -/
structure BeaconBody where
  throttled : Bool
  paced : Bool
  shed : Bool
  cause : Nat
  code : Nat
  ratio : Nat
  paceKhz : Nat
  deriving DecidableEq, Repr, Inhabited

/-- A POWER payload (R398). -/
structure PowerBody where
  capPm : Nat
  offset : Int
  applyMst : Nat
  deriving DecidableEq, Repr, Inhabited

/-- What a re-read of an entry brings (R322, R329): the entry, or an error answer. -/
inductive EntryAns where
  | entry (e : BitVec 512)
  | error (code : Nat)
  deriving DecidableEq, Repr, Inhabited

/-- What a host access that changes the window carries (R306, R315): bytes to write, or the operand of an atomic. -/
inductive HdmWr where
  | data (bytes : List Byte)
  | atomic (operand : List Byte)
  deriving DecidableEq, Repr, Inhabited

/-- The answer of the host to a device read, or its error answer to a device write (R329). -/
inductive HostAns where
  | data (bytes : List Byte)
  | error (code : Nat)   -- 1 unsupported request, 2 completer abort, 3 poisoned data
  deriving DecidableEq, Repr, Inhabited

/-- A firmware image as the checks of R450 see it: each Boolean is the outcome of one check. -/
structure Image where
  version : Nat
  svn : Nat
  slot : Nat           -- fuse key slot
  structOk : Bool      -- step 1
  keysOk : Bool        -- the digests of step 2
  edOk : Bool          -- step 4
  mldsaOk : Bool       -- step 5
  bodyOk : Bool        -- step 6
  digest : Nat         -- a label for the digests that the measurement log holds
  deriving DecidableEq, Repr, Inhabited

/-- How a read of a deck line came out (R236, R237). -/
inductive EccOut where
  | ok | corrected (lane : Nat) | uncorrectable
  deriving DecidableEq, Repr, Inhabited

/-- A deck line that a controller reads, with how the read comes out. -/
structure LineRead where
  line : Nat
  out : EccOut := .ok
  deriving DecidableEq, Repr, Inhabited

/-- The channel whose engine takes its next step, with how the read of the line that it takes comes out. -/
structure EngAt where
  chan : Nat
  out : EccOut := .ok
  deriving DecidableEq, Repr, Inhabited

/-- How the on-chip memories that a command reads behave (R463): no error, one corrected in the structure of that STRUCT code (R467), or one
that cannot be corrected. -/
inductive Sram where
  | ok | corrected (strct : Nat) | uncorrectable (strct : Nat)
  deriving DecidableEq, Repr, Inhabited

/-- Which unit of an engine has come how far with its command: its mover or its array; to its end or, with `part`, past its next 32 along K or one
granule (R132, R150, R154). -/
structure UnitRun where
  mover : Bool
  part : Option Nat := none
  deriving DecidableEq, Repr, Inhabited

/-- The commands, one constructor for each row of the table. -/
inductive Instr where
  -- integer and logic (R111)
  | iadd (g : Grp) (f : RForm) | isub (g : Grp) (f : RForm) | imul (g : Grp) (f : RForm) | imulh (g : Grp) (f : RForm)
  | imad (g : Grp) (f : RForm) | imin (g : Grp) (f : RForm) | imax (g : Grp) (f : RForm) | and (g : Grp) (f : RForm)
  | or (g : Grp) (f : RForm) | xor (g : Grp) (f : RForm) | not (g : Grp) (f : RForm) | shl (g : Grp) (f : RForm)
  | shr (g : Grp) (f : RForm) | popc (g : Grp) (f : RForm) | clz (g : Grp) (f : RForm) | pick (g : Grp) (f : RForm)
  | iaddi (g : Grp) (f : IForm) | andi (g : Grp) (f : IForm) | ori (g : Grp) (f : IForm) | xori (g : Grp) (f : IForm)
  | shli (g : Grp) (f : IForm) | shri (g : Grp) (f : IForm) | movi (g : Grp) (f : IForm) | movl (g : Grp) (f : LForm)
  -- floating (R111, R65, R69), conversion, move and cross-thread (R64, R112), compare (R111)
  | fadd (g : Grp) (f : RForm) | fmul (g : Grp) (f : RForm) | ffma (g : Grp) (f : RForm) | fmin (g : Grp) (f : RForm)
  | fmax (g : Grp) (f : RForm) | fdiv (g : Grp) (f : RForm) | fsqrt (g : Grp) (f : RForm) | frcp (g : Grp) (f : RForm)
  | frsq (g : Grp) (f : RForm) | fexp2 (g : Grp) (f : RForm) | flog2 (g : Grp) (f : RForm) | ftanh (g : Grp) (f : RForm)
  | cvt (g : Grp) (f : RForm) | mov (g : Grp) (f : RForm) | xlane (g : Grp) (f : RForm) | tally (g : Grp) (f : RForm)
  | icmp (g : Grp) (f : RForm) | fcmp (g : Grp) (f : RForm) | pbool (g : Grp) (f : RForm)
  -- control (R113), special registers (R121)
  | bra (g : Grp) (f : BForm) | bri (g : Grp) (f : LForm) | call (g : Grp) (f : BForm) | ret (g : Grp) (f : RForm)
  | exit (g : Grp) (f : RForm) | trap (g : Grp) (f : IForm) | yield (g : Grp) (f : RForm) | waypoint (g : Grp) (f : RForm)
  | wait (g : Grp) (f : RForm) | nop (g : Grp) (f : RForm) | srd (g : Grp) (f : IForm) | swr (g : Grp) (f : IForm)
  -- memory (R115-R118)
  | ld (g : Grp) (f : MForm) (e : Sram) | st (g : Grp) (f : MForm) | gather (g : Grp) (f : MForm) | atom (g : Grp) (f : MForm)
  | red (g : Grp) (f : MForm) | acquireY (g : Grp) (f : LForm) | release (g : Grp) (f : MForm)
  | fenceCoreRel (g : Grp) (f : RForm) | fenceCoreAcq (g : Grp) (f : RForm) | fenceDeviceRel (g : Grp) (f : RForm)
  | fenceDeviceAcq (g : Grp) (f : RForm) | fenceSystemRel (g : Grp) (f : RForm) | fenceSystemAcq (g : Grp) (f : RForm)
  | fenceRetire (g : Grp) | strip (g : Grp) (f : MForm) | prefetch (g : Grp) (f : MForm)
  -- waymarks, deck-engine issue, matrix engines (R120, R122, R134-R144)
  | wmAdd (g : Grp) (f : RForm) | wmSet (g : Grp) (f : RForm) | wmRead (g : Grp) (f : RForm) | desc (g : Grp) (f : RForm)
  | mma (g : Grp) (f : LForm) (e : Sram) | tload (g : Grp) (f : LForm) | tstore (g : Grp) (f : LForm) | tcollect (g : Grp) (f : LForm)
  | crgn (g : Grp) (f : IForm)
  -- what happens inside a core
  | pathRotate (g : Grp) | yieldRetake (g : Grp) | noWaypoint (g : Grp) | flagReread (g : Grp) (thread : Nat)
  | matrixCmdComplete (core eng : Nat) (mover : UnitRun) | matrixCmd (core eng : Nat) (mover : Bool) (addr : Option Nat)
  | engineCold (core eng : Nat) | rampGateOpen (core : Nat)
  -- kill and pre-emption (R95, R336-R347)
  | coreKill (core ctx : Nat) | contextKill (ctx : Nat) | killDrainDone (ctx : Nat) | preempt (core : Nat)
  | preemptSave (core : Nat) | blockResume (core block : Nat) | coreFree (core : Nat) | agentRestart (half : Nat)
  | accountingPeriod
  -- coherence (R193-R208)
  | gets (m : Msg) (e : Sram) | getm (m : Msg) | wr (m : Msg) | atomMsg (m : Msg) | redMsg (m : Msg) | redw (m : Msg) | putm (m : Msg)
  | stripMsg (m : Msg) | clean (m : Msg) | claim (m : Msg) | fwdShare (m : Msg) | fwdOwn (m : Msg) | fwdRecall (m : Msg)
  | fwdDrop (m : Msg) | inv (m : Msg) | ack (m : Msg) | data (m : Msg) | nack (m : Msg) | nackRetry (m : Msg)
  | ticket (m : Msg) | go (m : Msg) | putack (m : Msg) | epoch (e : EpochAt) | epochSweepDone (e : EpochAt)
  | streamTimeout (die slice : Nat) (req : Agent) (range : Nat) | thatchScrub (die slice line : Nat) (out : EccOut)
  -- translation and the deck (R219-R241, R493)
  | firstTouch (half ctx : Nat) (va : Nat) | walk (half ctx : Nat) (va : Nat) (acc : Access)
  | deckRead (m : Msg) (out : EccOut) | writeBack (m : Msg) | residencyNote (m : Msg) | critWindow (chan : Nat)
  | wcbTimeout (chan : Nat) (at_ : LineRead) | refreshDue (chan : Nat) | refreshWindowExpiry (half : Nat)
  | deckTempChange (die quad layer : Nat) (temp : Nat) | thermalTrip (die quad : Nat) | patrolScrubRead (out : EccOut)
  | dkRetireReq (page : Nat)
  -- deck engines (R244, R250)
  | copy (at_ : EngAt) | fill (at_ : EngAt) | zero (at_ : EngAt) | convert (at_ : EngAt) | reduce (at_ : EngAt)
  | gatherReduce (at_ : EngAt) | scatterAdd (at_ : EngAt) | topk (at_ : EngAt) | crc32c (at_ : EngAt) | descComplete (chan : Nat)
  -- the Waymark network (R278), ramp gates (R152)
  | add (e : WmEvent) | set (e : WmEvent) | read (e : WmEvent) | value (e : WmEvent) | update (e : WmEvent)
  | gate (halves : BitVec 8) (mst : Nat) (spacing lanes : Nat) | waitReread (g : Grp) (thread : Nat)
  -- faults of dies and halves (R26, R27, R266, R273, R430)
  | routerFault (die stop : Nat) | domainPowerLoss (die quad : Nat) | halfIsolation (half : Nat) | halfReturn (half : Nat)
  | halfReturnTimeout (half : Nat) | resyncComplete (die : Nat) | dieReset (die : Nat)
  -- Milestone Time and the mains (R31-R45, R383-R385)
  | mstNextPpsWrite (v : W64) | refPpsEdge | refPpsLoss | ref10mLoss | ref10mQualified
  | halfCycleEnd (intervalNs : Nat) (halfUv cycleUv : Nat) (positive : Bool) | mainsLockLoss | flywheelExpiry
  | mainsNoCrossing | mtArm (entry : Nat) (v : W64) (owner : Nat) | mtDisarm (entry : Nat) (v : W64) | mtFire (entry : Nat)
  -- Mbolvoar links (R285-R304). LINK_UP carries the partner's capability word: the highest rate it allows, its intact lanes, its number, whether it
  -- supports time transfer, its generation. FRAME_RECEIVE carries the frame word, for each lane the symbol errors in the two codewords, and the flits.
  | linkEnable (port : Nat) | retrain (port : Nat)
  | linkUp (port rate lanes partner : Nat) (tt : Bool) (gen : Nat) | trainFail (port step : Nat)
  | frameReceive (port : Nat) (word : BitVec 40) (errs : List (Nat × Nat))
    (flits : List (BitVec 2048)) (e : Sram) | nak (port seq : Nat) | replayTimeout (port : Nat)
  | idleAck (port : Nat) | laneFault (port lane : Nat) | egressDiscard (port : Nat) | linkRead (port : Nat) (r : LinkReq)
  | linkWr (port : Nat) (r : LinkReq) | linkAtom (port : Nat) (r : LinkReq) | linkRed (port : Nat) (r : LinkReq)
  | linkStrip (port : Nat) (r : LinkReq) | linkResponse (port tag gen : Nat) (ans : LinkAns)
  | linkWmAdd (port convoy index : Nat) (count : W32) (lead : Nat) | mgmtRead (port off size : Nat)
  | mgmtWrite (port off size : Nat) (v : W64) | ttExchange (port : Nat) (t1 t2 t3 t4 : Nat) (epoch : Bool)
  | ttReq (port : Nat) (t1 : Nat) | ttRsp (port : Nat) (t2 t3 : Nat) | broadcastLapse (src : Nat)
  | beacon (b : Bcast) (p : BeaconBody) | beaconSend | beaconStale (dev : Nat) | powerBroadcast (b : Bcast) (p : PowerBody)
  | powerSend | capApply | capRise | leaderTimeout | frModeWrite (v : W64)
  -- supply, the Kerb and power control (R381-R418)
  | busSample (busMv busDa stbyMv stbyMa : Nat) | busShedStart | busShedEnd | holdRequest | stage1OvStop | stage1Restart
  | pqSummaryUpdate | kerbShedStart | kerbShedEnd | kerbDisable | kerbClkLost | kerbClkRestored
  | hpcSample (half amps : Nat) | ratioReturn (half : Nat) | budgetTick (watts deciAmps : Nat) | codeStep (die : Nat)
  | codeGrant (die : Nat) | vfTransitionDone (die : Nat) | reqCodeWrite (die : Nat) (v : W64)
  | reqRatioWrite (half : Nat) (v : W64) | thermalCeilStep (die : Nat) | droopTrip (half quad : Nat) | stretchLimit (half : Nat)
  | hintPhaseEnable (hint : Nat) | hintBasis (hint : Nat) | peakWindowExpiry | peakRecoveryEnd
  -- the host attachment (R308-R335)
  | doorbell (fid : Nat) (v : W64) | entryRead (fid ring : Nat) (entries : List (BitVec 512))
  | sealReread (fid ring : Nat) (entry : EntryAns) | ringEnable (fid ring : Nat) (v : W64)
  | cqHeadWrite (fid ring : Nat) (v : W64) | hdmWrite (fid addr : Nat) (bytes : HdmWr) | hdmRead (fid addr len : Nat)
  | hdmFlush (fid : Nat) | hostReadCompletion (att tag : Nat) (ans : HostAns) | haModeWrite (att : Nat) (v : W64)
  | linkRecovery (att : Nat) | linkL0 (att : Nat) | hostLoss (att cause : Nat) | attachAck (pfAtt att : Nat) (gen : Nat)
  -- commands of the rings (R318, R353), their ends and the batching loop (R325, R354)
  | cmdNop (r : CmdRef) | launch (r : CmdRef) | copyCommand (r : CmdRef) | fillCommand (r : CmdRef) | waymarkWait (r : CmdRef)
  | waymarkAdd (r : CmdRef) | heavyHint (r : CmdRef) | lightHint (r : CmdRef) | seqAdd (r : CmdRef) | seqCancel (r : CmdRef)
  | batchStart (r : CmdRef) | batchStop (r : CmdRef) | seqPriority (r : CmdRef) | batchStep (ctx : Nat)
  | commandEnd (r : CmdRef)
  -- contexts (R338) and instances (R358-R379)
  | create (ctx : Nat) | suspend (ctx : Nat) | resume (ctx : Nat) | kill (ctx : Nat) | destroy (ctx : Nat)
  | setWeight (ctx weight : Nat) | enable (who : Who) (n : Nat) | disable (who : Who) (n : Nat) | reset (who : Who) (n : Nat)
  | flr (n : Nat) | drainDeadline (n : Nat) | freeze (who : Who) (n : Nat) | save (who : Who) (n sec : Nat)
  | wrap (who : Who) (n : Nat) (bundleOk : Bool) | restore (who : Who) (n : Nat) (plain : Option (List Byte)) | thaw (who : Who) (n : Nat)
  | addUnit (who : Who) (n unit : Nat) | removeUnit (who : Who) (n unit : Nat) | setCores (who : Who) (n : Nat)
  | unitScrubDone (unit : Nat) | unwrap (who : Who) (n : Nat) (keyOk : Bool)
  -- resets, power states and boot (R429-R446, R497-R503)
  | coldReset (cause : Nat) | warmReset | resetNLow (ns : Nat) | hostHotReset (att kind : Nat) | coreReset (core : Nat)
  | clearFails | reqRun | reqTrim | reqHold | reqWatch | holdEntry | holdEntryPowerLoss | vioLoss | wakeFromHold | autoWake
  | linkWake (port : Nat) | holdMaxExpiry | standbyLoss
  | bootInputGood (deadCores : List Nat) (closed : List Nat) (badDies : List Nat) | startTimeout (reason detail : Nat) | mcWatchdog
  -- firmware, attestation, debug (R448-R458)
  | firmwareUpdate (img : Image) | firmwareActivate | getVersion | getCapabilities | negotiateAlgorithms (asym hash : Nat)
  | getDigests | getCertificate (slot off len : Nat) | challenge (slot nonce : Nat) | getMeasurements (index : Nat) (signed : Bool)
  | debugUnlock (edOk mldsaOk : Bool)
  -- reliability and service (R465-R481)
  | fencePlanned (core cause : Nat) | fenceForced (core cause : Nat) | onlineTest (core : Nat) (auto : Bool) | testAbort
  | testComplete (failPhase : Nat) (us : Nat) | resurvey (ppm : List Nat) | ageMeasure (ppm : List Nat)
  | atInvalidate (v : W64)
  -- registers and what remains
  | registerWrite (who : Who) (off size : Nat) (v : W64) | invalidOpcode (g : Grp) (w : W64)
  | waitMstReached (g : Grp) (thread : Nat) | atomicResult (m : Msg) | fencedRsp (m : Msg) | droopDetectorClear (half : Nat)
  | exitCountRestart | refreshDone (chan : Nat) | supCtrlWrite (v : W64)
  deriving DecidableEq, Repr

end Sys2Proof
end

