-- ==== Sys2Proof/WellFormed.lean ====
section
/-! DEFINITION. The ranges that the operands of a command stand in (R1, R13-R15, R71, R186, R285, R310, R337): commands outside them do not
come from this device's parts. The meanings are total all the same. -/

namespace Sys2Proof

/-- Groups: cores 0-831; an M-core has 2 pipes of 16 slots, a V-core 8 of 16, an S-core 8 threads (R71). -/
def Grp.ok (g : Grp) : Bool :=
  g.core < 832 &&
    (if g.core % 104 < 64 then g.pipe < 2 && g.slot < 16
     else if g.core % 104 < 96 then g.pipe < 8 && g.slot < 16
     else g.pipe = 0 && g.slot < 8)

/-- Agents that can address a slice (R197). -/
def Agent.ok : Agent → Bool
  | .core c => c < 832
  | .guest d t => d < 4 && t < 96
  | .engine ch => ch < 2048
  | .walker h => h < 8
  | .port p => p < 8
  | .host a => a < 2
  | .turnpike => true
  | .mc => true

/-- A coherence message names an agent, a slice of a die (R13, R186), an operation (a STRIP its context) and a type. -/
def Msg.ok (m : Msg) : Bool := m.req.ok && m.die < 4 && m.slice < 96 && (m.op < 16 || (m.kind = .strip && m.op ≤ 4096)) && m.ty < 16 && m.thread < 32

/-- A Waymark event (R277) names a waymark of R275 and a half, or 8 for the MC and the link ports. -/
def WmEvent.ok (e : WmEvent) : Bool := e.wm < 4096 && e.half ≤ 8

def CmdRef.ok (r : CmdRef) : Bool := r.fid < 256 && r.ring < 32

/-- VF numbers are 1-64 (R357). -/
def Who.ok : Who → Bool
  | .mc => true
  | .pf a => a < 2
  | .vf a n => a < 2 && 1 ≤ n && n ≤ 64
  | .mgmt => true

/-- A request names one of the 4,096 devices (R484). -/
def LinkReq.ok (r : LinkReq) : Bool := r.src < 4096 && r.op < 16 && r.ty < 16 && r.sub < 2

def Bcast.ok (b : Bcast) : Bool := b.port < 8 && b.src < 4096

/-- The operands of a command stand in their ranges. -/
def Instr.wf : Instr → Bool
  | .iadd g _ => Grp.ok g
  | .isub g _ => Grp.ok g
  | .imul g _ => Grp.ok g
  | .imulh g _ => Grp.ok g
  | .imad g _ => Grp.ok g
  | .imin g _ => Grp.ok g
  | .imax g _ => Grp.ok g
  | .and g _ => Grp.ok g
  | .or g _ => Grp.ok g
  | .xor g _ => Grp.ok g
  | .not g _ => Grp.ok g
  | .shl g _ => Grp.ok g
  | .shr g _ => Grp.ok g
  | .popc g _ => Grp.ok g
  | .clz g _ => Grp.ok g
  | .pick g _ => Grp.ok g
  | .iaddi g _ => Grp.ok g
  | .andi g _ => Grp.ok g
  | .ori g _ => Grp.ok g
  | .xori g _ => Grp.ok g
  | .shli g _ => Grp.ok g
  | .shri g _ => Grp.ok g
  | .movi g _ => Grp.ok g
  | .movl g _ => Grp.ok g
  | .fadd g _ => Grp.ok g
  | .fmul g _ => Grp.ok g
  | .ffma g _ => Grp.ok g
  | .fmin g _ => Grp.ok g
  | .fmax g _ => Grp.ok g
  | .fdiv g _ => Grp.ok g
  | .fsqrt g _ => Grp.ok g
  | .frcp g _ => Grp.ok g
  | .frsq g _ => Grp.ok g
  | .fexp2 g _ => Grp.ok g
  | .flog2 g _ => Grp.ok g
  | .ftanh g _ => Grp.ok g
  | .cvt g _ => Grp.ok g
  | .mov g _ => Grp.ok g
  | .xlane g _ => Grp.ok g
  | .tally g _ => Grp.ok g
  | .icmp g _ => Grp.ok g
  | .fcmp g _ => Grp.ok g
  | .pbool g _ => Grp.ok g
  | .bra g _ => Grp.ok g
  | .bri g _ => Grp.ok g
  | .call g _ => Grp.ok g
  | .ret g _ => Grp.ok g
  | .exit g _ => Grp.ok g
  | .trap g _ => Grp.ok g
  | .yield g _ => Grp.ok g
  | .waypoint g _ => Grp.ok g
  | .wait g _ => Grp.ok g
  | .nop g _ => Grp.ok g
  | .srd g _ => Grp.ok g
  | .swr g _ => Grp.ok g
  | .ld g _ _ => Grp.ok g
  | .st g _ => Grp.ok g
  | .gather g _ => Grp.ok g
  | .atom g _ => Grp.ok g
  | .red g _ => Grp.ok g
  | .acquireY g _ => Grp.ok g
  | .release g _ => Grp.ok g
  | .fenceCoreRel g _ => Grp.ok g
  | .fenceCoreAcq g _ => Grp.ok g
  | .fenceDeviceRel g _ => Grp.ok g
  | .fenceDeviceAcq g _ => Grp.ok g
  | .fenceSystemRel g _ => Grp.ok g
  | .fenceSystemAcq g _ => Grp.ok g
  | .fenceRetire g => Grp.ok g
  | .strip g _ => Grp.ok g
  | .prefetch g _ => Grp.ok g
  | .wmAdd g _ => Grp.ok g
  | .wmSet g _ => Grp.ok g
  | .wmRead g _ => Grp.ok g
  | .desc g _ => Grp.ok g
  | .mma g _ _ => Grp.ok g
  | .tload g _ => Grp.ok g
  | .tstore g _ => Grp.ok g
  | .tcollect g _ => Grp.ok g
  | .crgn g _ => Grp.ok g
  | .pathRotate g => Grp.ok g
  | .yieldRetake g => Grp.ok g
  | .noWaypoint g => Grp.ok g
  | .flagReread g thread => Grp.ok g && thread < 32
  | .matrixCmdComplete core eng _ => core < 832 && eng < 8
  | .matrixCmd core eng _ _ => core < 832 && eng < 8
  | .engineCold core eng => core < 832 && eng < 8
  | .rampGateOpen core => core < 832
  | .coreKill core ctx => core < 832 && ctx < 4096
  | .contextKill ctx => ctx < 4096
  | .killDrainDone ctx => ctx < 4096
  | .preempt core => core < 832
  | .preemptSave core => core < 832
  | .blockResume core _ => core < 832
  | .coreFree core => core < 832
  | .agentRestart half => half < 8
  | .accountingPeriod => true
  | .gets m _ => Msg.ok m
  | .getm m => Msg.ok m
  | .wr m => Msg.ok m
  | .atomMsg m => Msg.ok m
  | .redMsg m => Msg.ok m
  | .redw m => Msg.ok m
  | .putm m => Msg.ok m
  | .stripMsg m => Msg.ok m
  | .clean m => Msg.ok m
  | .claim m => Msg.ok m
  | .fwdShare m => Msg.ok m
  | .fwdOwn m => Msg.ok m
  | .fwdRecall m => Msg.ok m
  | .fwdDrop m => Msg.ok m
  | .inv m => Msg.ok m
  | .ack m => Msg.ok m
  | .data m => Msg.ok m
  | .nack m => Msg.ok m
  | .nackRetry m => Msg.ok m
  | .ticket m => Msg.ok m
  | .go m => Msg.ok m
  | .putack m => Msg.ok m
  | .epoch e => e.tag < 256 && e.slices.all (fun k => decide (k < 384))
  | .epochSweepDone e => e.tag < 256 && e.slices.all (fun k => decide (k < 384))
  | .streamTimeout die slice req _ => die < 4 && slice < 96 && Agent.ok req
  | .thatchScrub die slice _ _ => die < 4 && slice < 96
  | .firstTouch half ctx _ => half < 8 && ctx < 4096
  | .walk half ctx _ _ => half < 8 && ctx < 4096
  | .deckRead m _ => Msg.ok m
  | .writeBack m => Msg.ok m
  | .residencyNote m => Msg.ok m
  | .critWindow chan => chan < 2048
  | .wcbTimeout chan _ => chan < 2048
  | .refreshDue chan => chan < 2048
  | .refreshWindowExpiry half => half < 8
  | .deckTempChange die quad layer _ => die < 4 && quad < 16 && layer < 4
  | .thermalTrip die quad => die < 4 && quad < 16
  | .patrolScrubRead _ => true
  | .dkRetireReq _ => true
  | .copy a => a.chan < 2048
  | .fill a => a.chan < 2048
  | .zero a => a.chan < 2048
  | .convert a => a.chan < 2048
  | .reduce a => a.chan < 2048
  | .gatherReduce a => a.chan < 2048
  | .scatterAdd a => a.chan < 2048
  | .topk a => a.chan < 2048
  | .crc32c a => a.chan < 2048
  | .descComplete chan => chan < 2048
  | .add e => WmEvent.ok e
  | .set e => WmEvent.ok e
  | .read e => WmEvent.ok e
  | .value e => WmEvent.ok e
  | .update e => WmEvent.ok e
  | .gate _ _ _ _ => true
  | .waitReread g thread => Grp.ok g && thread < 32
  | .routerFault die stop => die < 4 && stop < 208
  | .domainPowerLoss die quad => die < 4 && quad < 16
  | .halfIsolation half => half < 8
  | .halfReturn half => half < 8
  | .halfReturnTimeout half => half < 8
  | .resyncComplete die => die < 4
  | .dieReset die => die < 4
  | .mstNextPpsWrite _ => true
  | .refPpsEdge => true
  | .refPpsLoss => true
  | .ref10mLoss => true
  | .ref10mQualified => true
  | .halfCycleEnd _ _ _ _ => true
  | .mainsLockLoss => true
  | .flywheelExpiry => true
  | .mainsNoCrossing => true
  | .mtArm entry _ _ => entry < 256
  | .mtDisarm entry _ => entry < 256
  | .mtFire entry => entry < 256
  | .linkEnable port => port < 8
  | .retrain port => port < 8
  | .linkUp port _ _ _ _ _ => port < 8
  | .trainFail port _ => port < 8
  | .frameReceive port _ errs flits _ => port < 8 && errs.length ≤ 8 && flits.length ≤ 5
  | .nak port _ => port < 8
  | .replayTimeout port => port < 8
  | .idleAck port => port < 8
  | .laneFault port lane => port < 8 && lane < 8
  | .egressDiscard port => port < 8
  | .linkRead port r => port < 8 && LinkReq.ok r
  | .linkWr port r => port < 8 && LinkReq.ok r
  | .linkAtom port r => port < 8 && LinkReq.ok r
  | .linkRed port r => port < 8 && LinkReq.ok r
  | .linkStrip port r => port < 8 && LinkReq.ok r
  | .linkResponse port tag _ _ => port < 8 && tag < 8192
  | .linkWmAdd port _ _ _ _ => port < 8
  | .mgmtRead port _ _ => port < 8
  | .mgmtWrite port _ _ _ => port < 8
  | .ttExchange port _ _ _ _ _ => port < 8
  | .ttReq port _ => port < 8
  | .ttRsp port _ _ => port < 8
  | .broadcastLapse _ => true
  | .beacon b _ => Bcast.ok b
  | .beaconSend => true
  | .beaconStale dev => dev < 4096
  | .powerBroadcast b _ => Bcast.ok b
  | .powerSend => true
  | .capApply => true
  | .capRise => true
  | .leaderTimeout => true
  | .frModeWrite _ => true
  | .busSample _ _ _ _ => true
  | .busShedStart => true
  | .busShedEnd => true
  | .holdRequest => true
  | .stage1OvStop => true
  | .stage1Restart => true
  | .pqSummaryUpdate => true
  | .kerbShedStart => true
  | .kerbShedEnd => true
  | .kerbDisable => true
  | .kerbClkLost => true
  | .kerbClkRestored => true
  | .hpcSample half _ => half < 8
  | .ratioReturn half => half < 8
  | .budgetTick _ _ => true
  | .codeStep die => die < 4
  | .codeGrant die => die < 4
  | .vfTransitionDone die => die < 4
  | .reqCodeWrite die _ => die < 4
  | .reqRatioWrite half _ => half < 8
  | .thermalCeilStep die => die < 4
  | .droopTrip half quad => half < 8 && quad < 8
  | .stretchLimit half => half < 8
  | .hintPhaseEnable _ => true
  | .hintBasis _ => true
  | .peakWindowExpiry => true
  | .peakRecoveryEnd => true
  | .doorbell fid _ => fid < 256
  | .entryRead fid ring _ => fid < 256 && ring < 32
  | .sealReread fid ring _ => fid < 256 && ring < 32
  | .ringEnable fid ring _ => fid < 256 && ring < 32
  | .cqHeadWrite fid ring _ => fid < 256 && ring < 32
  | .hdmWrite fid _ _ => fid < 256
  | .hdmRead fid _ _ => fid < 256
  | .hdmFlush fid => fid < 256
  | .hostReadCompletion att tag _ => att < 2 && tag < 65536
  | .haModeWrite att _ => att < 2
  | .linkRecovery att => att < 2
  | .linkL0 att => att < 2
  | .hostLoss att _ => att < 2
  | .attachAck pfAtt att _ => pfAtt < 2 && att < 2
  | .cmdNop r => CmdRef.ok r
  | .launch r => CmdRef.ok r
  | .copyCommand r => CmdRef.ok r
  | .fillCommand r => CmdRef.ok r
  | .waymarkWait r => CmdRef.ok r
  | .waymarkAdd r => CmdRef.ok r
  | .heavyHint r => CmdRef.ok r
  | .lightHint r => CmdRef.ok r
  | .seqAdd r => CmdRef.ok r
  | .seqCancel r => CmdRef.ok r
  | .batchStart r => CmdRef.ok r
  | .batchStop r => CmdRef.ok r
  | .seqPriority r => CmdRef.ok r
  | .batchStep ctx => ctx < 4096
  | .commandEnd r => CmdRef.ok r
  | .create ctx => ctx < 4096
  | .suspend ctx => ctx < 4096
  | .resume ctx => ctx < 4096
  | .kill ctx => ctx < 4096
  | .destroy ctx => ctx < 4096
  | .setWeight ctx _ => ctx < 4096
  | .enable who n => Who.ok who && n ≤ 64
  | .disable who n => Who.ok who && n ≤ 64
  | .reset who n => Who.ok who && n ≤ 64
  | .flr n => n ≤ 64
  | .drainDeadline n => n ≤ 64
  | .freeze who n => Who.ok who && n ≤ 64
  | .save who n _ => Who.ok who && n ≤ 64
  | .wrap who n _ => Who.ok who && n ≤ 64
  | .restore who n _ => Who.ok who && n ≤ 64
  | .thaw who n => Who.ok who && n ≤ 64
  | .addUnit who n _ => Who.ok who && n ≤ 64
  | .removeUnit who n _ => Who.ok who && n ≤ 64
  | .setCores who n => Who.ok who && n ≤ 64
  | .unitScrubDone unit => unit < 384
  | .unwrap who n _ => Who.ok who && n ≤ 64
  | .coldReset _ => true
  | .warmReset => true
  | .resetNLow _ => true
  | .hostHotReset att _ => att < 2
  | .coreReset core => core < 1024
  | .clearFails => true
  | .reqRun => true
  | .reqTrim => true
  | .reqHold => true
  | .reqWatch => true
  | .holdEntry => true
  | .holdEntryPowerLoss => true
  | .vioLoss => true
  | .wakeFromHold => true
  | .autoWake => true
  | .linkWake port => port < 8
  | .holdMaxExpiry => true
  | .standbyLoss => true
  | .bootInputGood _ _ _ => true
  | .startTimeout _ _ => true
  | .mcWatchdog => true
  | .firmwareUpdate _ => true
  | .firmwareActivate => true
  | .getVersion => true
  | .getCapabilities => true
  | .negotiateAlgorithms _ _ => true
  | .getDigests => true
  | .getCertificate slot _ _ => slot < 8
  | .challenge slot _ => slot < 8
  | .getMeasurements _ _ => true
  | .debugUnlock _ _ => true
  | .fencePlanned core _ => core < 1024
  | .fenceForced core _ => core < 1024
  | .onlineTest core _ => core < 1024
  | .testAbort => true
  | .testComplete _ _ => true
  | .resurvey _ => true
  | .ageMeasure _ => true
  | .atInvalidate _ => true
  | .registerWrite who _ _ _ => Who.ok who
  | .invalidOpcode g _ => Grp.ok g
  | .waitMstReached g thread => Grp.ok g && thread < 32
  | .atomicResult m => Msg.ok m
  | .fencedRsp m => Msg.ok m
  | .droopDetectorClear half => half < 8
  | .exitCountRestart => true
  | .refreshDone chan => chan < 2048
  | .supCtrlWrite _ => true

end Sys2Proof
end

