-- ==== Sys2Proof/Decode.lean ====
section
/-! DEFINITION. No row of spec/opcode_table.json gives bits: the commands reach the block as messages, events and register accesses, not as
words. -/

namespace Sys2Proof

/-- The command that a word spells by the table's bits: no row has any, so none. -/
def decodeTableWord (_nbits _w : Nat) : Option Instr := none

end Sys2Proof
end

