-- ==== Sys2Proof/Config.lean ====
section
/-! DEFINITION. The values the spec leaves open. An opaque constant has no body that a proof can see; the step applies it to the operands
it depends on or to the free-value counter of State (log 7, DESIGN CHOICE). -/

namespace Sys2Proof

/-- A fresh open value: applied to `State.freeCtr` (log 7, DESIGN CHOICE). Used where the spec names no value: random jitter (R196), stochastic draws
(R62, R63), the order of a sum (R68), victim choices (R209), output granules of killed commands (R95). -/
opaque Config.freeNat : Nat → Nat
/-- The value an approximate function returns within its bound (R69), by function code, core type and operand bits. -/
opaque Config.approx : Nat → Nat → BitVec 32 → BitVec 32
/-- The set of a line in an L1 of 8 ways and 256 sets (R183), whose index the spec does not give. -/
opaque Config.l1Set : Nat → Nat
/-- The set of a line in a slice of 16 ways and 2,048 sets (R209), whose index the spec does not give. -/
opaque Config.thatchSet : Nat → Nat
/-- How many requests a slice's queue holds beyond the first (R196). -/
opaque Config.reqDepth : Nat
/-- Whether a quotient that the spec does not say how to round goes up: numerator and denominator. -/
opaque Config.roundUp : Nat → Nat → Bool
/-- The factory voltage of a half's code without guard band, in mV (R480). -/
opaque Config.vNom : Nat → Nat → Nat
/-- K of a half's ageing record, in mV per 1,000 ppm (R480). -/
opaque Config.ageK : Nat → Nat
/-- The ciphertext and tags of a migration section by blob key, BLOB_ID, section, header and plaintext (R375-R377), of which the spec gives the algorithm
by name. -/
opaque Config.seal : Nat → Nat → Nat → List (BitVec 8) → List (BitVec 8) → List (BitVec 8)
/-- The unique device secret of the fuses (R448, R454). -/
opaque Config.uds : BitVec 256
/-- HKDF-SHA-384 (R454), of which the spec gives the algorithm by name: secret, label, context. -/
opaque Config.hkdf : BitVec 256 → String → Nat → BitVec 384
/-- The public key of a pair (R454) by algorithm, 0 Ed25519, 1 ML-DSA-65, 2 X25519, 3 ML-KEM-768, and private key. -/
opaque Config.pubKey : Nat → BitVec 384 → Nat
/-- A signature (R454) by algorithm, private key and what is signed. -/
opaque Config.sign : Nat → BitVec 384 → List Nat → Nat
/-- The identity CA's signature of a DeviceID public key (R454) by algorithm and key. -/
opaque Config.caSign : Nat → Nat → Nat
/-- The bytes of an SPDM response by kind and content (R457, R458): the encoding is SPDM's own. -/
opaque Config.spdm : Nat → List Nat → List (BitVec 8)

end Sys2Proof
end

