-- ==== Sys2Proof/Machine/State.lean ====
section
/-! DEFINITION. The state of the device as plain data, chapter by chapter, the fault and refusal names, and State.reset. Status bits that
a register of the spec shows live in `flds` (Machine/Regs.lean) and nowhere else; what a register derives from other state is computed
when the register is read. Log 1-10 say what of this is the model's own choice. -/

namespace Sys2Proof.Machine

/-- Sparse data by key: keys strictly rising (`SMap.wf` in Machine/Ops.lean). What an absent key means is said by each field. -/
abbrev SMap (V : Type) := List (Nat × V)

/-! ### Cores and groups (chapters 04-07) -/

/-- ARITH of a group or S-core thread (R66): RM, SAT, and the sticky flags [13:8]. -/
structure ArithReg where
  rm : BitVec 3 := 0
  sat : Bool := true
  flags : BitVec 6 := 0
  deriving DecidableEq, Repr, Inhabited

/-- A WAIT that has not been satisfied (R119). `target` gives, for each executing thread, the waymark or address and the comparand;
`left` are the threads whose condition has not yet been seen to hold; the path resumes no earlier than MST `notBefore`. -/
structure WaitRec where
  kind : Nat
  cond : Nat
  acq : Nat
  target : List (Nat × W64 × W64)
  left : W32
  notBefore : Nat := 0
  lastRead : Nat := 0      -- wall time of the last READ or re-read, ns
  inUnit : Bool := true    -- held in the stop's wait unit of 64 entries (R278)
  deriving DecidableEq, Repr, Inhabited

/-- Whether a path can issue (R81). A path that waits for a lock's atomic results keeps the pipe. -/
inductive PStat where
  | ready
  | waiting (w : WaitRec)
  | collective
  | locking (op : Nat)
  deriving DecidableEq, Repr, Inhabited

/-- A pending fence of a path (R160): kind 0 release, 1 acquire; scope 1 CORE, 2 DEVICE, 3 SYSTEM; the operations it waits for. -/
structure FenceRec where
  acquire : Bool
  scope : Nat
  ops : List Nat
  lines : List Nat := []   -- lines whose PARTIAL is being pushed (R202)
  advance : Bool := false  -- a far-epoch advance is still under way (R206)
  late : Bool := false     -- the lines that gathered a contribution after the fence issued have been pushed too (R160)
  deriving DecidableEq, Repr, Inhabited

/-- A path (R77): its PC, active threads, innermost reconvergence entry, yielding mark, pending fences, call depth in a region (R143). -/
structure Path where
  pc : W64
  mask : W32
  entry : Option Nat := none
  yielding : Bool := false
  stat : PStat := .ready
  fences : List FenceRec := []
  depth : BitVec 16 := 0
  ran : Bool := false        -- has taken the pipe (R80)
  deriving DecidableEq, Repr, Inhabited

/-- A reconvergence entry (R77): its RPC, the threads it divided that have not exited, those that arrived, the entry it nests in; the pending
fences (R161) and the call depth (R143) that the arrived threads brought. -/
structure REntry where
  id : Nat
  parent : Option Nat
  rpc : W64
  members : W32
  arrived : W32
  fences : List FenceRec := []
  depth : BitVec 16 := 0
  deriving DecidableEq, Repr, Inhabited

/-- One thread's arrival at a collective (R144, R145). -/
structure Arrival where
  thread : Nat
  count : Nat
  d : W32
  row : W64
  w2 : W64
  ty : Nat
  eng : Nat
  deriving DecidableEq, Repr, Inhabited

/-- An open collective region (R142-R146). -/
structure Region where
  entry : W32
  start : W64
  stop : W64
  gone : W32 := 0
  counts : List (Nat × Nat) := []   -- per thread; absent: 0
  arrivals : List Arrival := []
  deriving DecidableEq, Repr, Inhabited

/-- A resident thread group, or an S-core thread (one thread, mask 1). Registers that hold zero are not listed. `preds` holds P1-P7 as
masks of threads. -/
structure Group where
  block : Nat                -- work block (chapter 13)
  index : Nat := 0           -- U2, the group's index in the block
  n : Nat := 8               -- registers per thread (R75)
  xs : SMap Nat := []        -- key register * 32 + thread
  us : SMap Nat := []
  preds : SMap Nat := []
  arith : ArithReg := {}
  run : Option Path := none
  others : List Path := []
  entries : List REntry := []
  nextEntry : Nat := 0
  issued : Nat := 0          -- instructions since the running path took the pipe (R81)
  yieldCyc : Nat := 0        -- half-clock cycle of the last give-up of the pipe (R83)
  lastLow : Nat := 32        -- lowest thread of the path that last gave up the pipe (R81)
  wpCyc : Nat := 0           -- half-clock cycle at which the waypoint counter was last zero (R91)
  region : Option Region := none
  signal : W32 := 0          -- S-core thread's signal word (R93)
  stopped : Bool := false    -- stopped at a waypoint for pre-emption (R347)
  deriving DecidableEq, Repr, Inhabited

/-- One word an outstanding load, atomic or lock attempt still waits for, or a store's line: the thread, the system address, bytes. -/
structure Part where
  thread : Nat
  addr : Nat
  size : Nat
  va : Nat := 0
  deriving DecidableEq, Repr, Inhabited

/-- What an outstanding operation of a core is (R160): a load into registers, an atomic, a lock attempt, a write, RED or STRIP, an
instruction-side prefetch into L1. -/
inductive OpKind where
  | load (dest : BitVec 8) (sext gather : Bool)
  | atom (dest : BitVec 8)
  | lock (rpc : W64) (scope : Nat) (width : Nat) (pdest : BitVec 8)
  | write | red | strip | prefetch
  | flag (size : Nat)     -- the re-read of a WAIT's flag on another device (R119)
  | move (eng id : Nat)   -- a remote read or write of a tile move (R140), by engine and command
  deriving DecidableEq, Repr, Inhabited

/-- An outstanding memory operation of a core: `parts` are what has not been answered; `won` and `lost` threads of a lock attempt. -/
structure OutOp where
  id : Nat
  pipe : Nat
  slot : Nat
  pathLow : Nat           -- lowest thread of the issuing path
  path : W32 := 0         -- threads of the issuing path
  pc : W64 := 0           -- its PC
  insn : Nat := 0         -- first 32 bits of the instruction (R97)
  kind : OpKind
  parts : List Part
  regs : List Nat := []   -- operand codes of the registers it will write (R110)
  far : Bool := false     -- to another device
  install : Bool := true  -- the fill may be installed in L1 (R183)
  noFill : List Nat := [] -- lines whose fill must not be installed: invalidated or written since the request (R215)
  lowEx : Nat := 0        -- lowest executing thread
  won : W32 := 0
  lost : W32 := 0
  deriving DecidableEq, Repr, Inhabited

/-- A range in the scoreboard (R147): memory (context virtual) or loft, first byte and byte after the last, write side. -/
structure Rng where
  loft : Bool
  lo : Nat
  hi : Nat
  write : Bool
  deriving DecidableEq, Repr, Inhabited

/-- What an engine command does (R135, R140, R144), with the issuing thread's register values. -/
inductive MOp where
  | mma (d a b sa sb : Nat) (tyA tyB outTy : Nat) (m n k bank : Nat) (accum out layA layB scA scB scD : Bool)
  | tload (dst src stride ty rows cols bank : Nat) (useBank farLoft : Bool) (hint : Nat)
  | tstore (dst src stride scale ty rows cols bank : Nat) (useBank farLoft scaled : Bool) (hint : Nat)
  | tcollect (dst ty rows cols hint : Nat) (addrs : List (Nat × Nat))
  deriving DecidableEq, Repr, Inhabited

/-- A command in an engine's queue (R132), with the rounding it took at issue (R60) and the ranges it holds (R147). -/
structure MCmd where
  id : Nat
  pipe : Nat
  slot : Nat
  op : MOp
  rm : Nat
  sat : Bool
  ranges : List Rng
  seq : Nat              -- place in the core's program order (R148)
  prog : Nat := 0        -- array: steps of 32 along K that are done (R154)
  wrote : List Nat := [] -- mover: its granules that are done, by their number (R150, R154)
  got : List (Nat × Line) := [] -- lines that it has read (R140)
  asked : List Nat := [] -- lines that it has asked for
  key : Nat := 0         -- the first of the open values set aside for its conversions
  fl : BitVec 6 := 0     -- flags so far (R67)
  deriving DecidableEq, Repr, Inhabited

/-- A matrix engine (R129). Bank elements that are zero are not listed: key bank * 4096 + row * 64 + column. -/
structure Engine where
  banks : SMap Nat := []
  queue : List MCmd := []
  warm : Bool := false
  lastCyc : Nat := 0     -- cycle of its last array cycle (R151)
  deriving DecidableEq, Repr, Inhabited

/-- A cached translation (R492): context, page base, log2 of the page size, leaf entry. -/
structure TlbEntry where
  ctx : Nat
  va : Nat
  log2 : Nat
  leaf : W64
  deriving DecidableEq, Repr, Inhabited

/-- A walk in flight (R491): who asked for it and for what access. -/
structure WalkReq where
  half : Nat
  ctx : Nat
  va : Nat
  acc : Access
  agent : Agent
  pipe : Nat
  slot : Nat
  insn : Nat := 0          -- first 32 bits of the instruction (R97)
  path : W32 := 0          -- active mask and PC of the path (R97)
  pc : W64 := 0
  deferred : Bool := false -- waits for the agent's first touch (R223)
  once : Bool := false     -- the agent walks at the time of use and waits for the page alone
  deriving DecidableEq, Repr, Inhabited

/-- A core: the context it runs (R73), its groups by pipe * 16 + slot, L1 data cache by line, translation cache, outstanding operations,
engines, ramp gate, flags of a kill and of a pre-emption. -/
structure Core where
  ctx : Option Nat := none
  blocks : List Nat := []
  groups : SMap Group := []
  l1 : SMap (BitVec 512) := []
  tlb : List TlbEntry := []
  outs : List OutOp := []
  nextOp : Nat := 0
  engines : SMap Engine := []
  gate : Nat := 0
  shedCold : Bool := false
  halted : Bool := false      -- issue stopped by a fault or KILL (R95)
  preempting : Bool := false  -- PREEMPT received (R347)
  gated : Bool := false       -- core domain gated: fenced, under test or in core reset (R22)
  resumes : Nat := 0          -- starts and resumes so far: the seed's resume count (R63)
  winTop : Nat := 0           -- byte after the highest loft byte written through its window (R349)
  killed : Bool := false      -- KILL received (R95)
  since : Nat := 0            -- wall time up to which its holding has been charged (R342)
  sinceCyc : Nat := 0         -- the same in cycles of its half (R344)
  deriving DecidableEq, Repr, Inhabited

/-! ### The Thatch (chapter 08) -/

/-- States of a line in a slice (R188, R189); absent: HI or GI. -/
inductive LSt where
  | hc | hd | hg | gs | gm | part | far
  deriving DecidableEq, Repr, Inhabited

/-- A slice's entry (R188-R191, R201, R205). For a PARTIAL line `sharers` is the contributor vector. -/
structure SEntry where
  st : LSt
  data : Line := 0
  sharers : BitVec 208 := 0
  guests : BitVec 4 := 0
  op : Nat := 0
  ty : Nat := 0
  emask : BitVec 64 := 0
  tag : Nat := 0
  epoch : Nat := 0
  valid : Bool := true
  age : Nat := 0            -- order of creation (R201: the oldest PARTIAL goes first)
  use : Nat := 0            -- when it was last used, in the order of `age` (R209)
  strm : Option Agent := none -- the agent whose stream, or HINT STREAM, brought it in (R208)
  way : Nat := 0            -- the way it stands in (R209)
  bad : Bool := false       -- holds data merged into an uncorrectable line (R237)
  deriving DecidableEq, Repr, Inhabited

/-- A transaction that holds a line BUSY (R188, R195): the request, answers awaited, whether data is awaited, data received. -/
structure Txn where
  msg : Msg
  acks : Nat
  needData : Bool
  data : Option Line := none
  bad : Bool := false       -- the data is uncorrectable
  stale : Bool := false     -- the fill must not be installed (R215, R205)
  waiting : List Msg := []  -- requests held until this transaction ends (R202)
  gone : Bool := false      -- the owner answered from its victim buffer: it holds nothing further (R214)
  gut : Bool := false       -- the line is gutter-allocated (R208)
  err : Nat := 0            -- index of the error record of uncorrectable data (R98)
  way : Option Nat := none  -- the way set aside for the line (R209)
  step : Nat := 0           -- 1: the write-back of a CLEAN or CLAIM is under way (R195); 2: a write in a GM line; 3: the write-back of an eviction,
                            -- 4: its INVs (R185, R203), 5: its recall; 6: INVs of a CLAIM; of a far read: the epoch of its request (R205)
  deriving DecidableEq, Repr, Inhabited

/-- A ticket (R197), its age, and whether GO has been answered. -/
structure Ticket where
  agent : Agent
  kind : MsgKind
  id : Nat
  at_ : Nat
  go : Bool := false
  deriving DecidableEq, Repr, Inhabited

/-- A refused request, held by its requester: not before the given cycle, or waiting for GO (R196, R197). -/
structure Refused where
  msg : Msg
  ready : Nat
  ticket : Bool := false
  armed : Bool := false     -- NACK received, backoff running
  deriving DecidableEq, Repr, Inhabited

/-- A stream-detector entry (R208). -/
structure Strm where
  agent : Agent
  range : Nat
  last : Nat
  count : Nat
  stamp : Nat
  deriving DecidableEq, Repr, Inhabited

/-- What a guest slice still owes for an INV or FWD: acknowledgements of its die's L1s, then the messages it sends (R185, R194). -/
structure PendInv where
  die : Nat
  line : Nat
  cores : List Nat
  out : List Msg
  deriving DecidableEq, Repr, Inhabited

/-- Coherence state. Keys of `lines`, `busy`, `tickets`: die * 2^46 + line. `victims` are GM lines with a PUTM under way (R214). -/
structure Coh where
  net : List Msg := []
  lines : SMap SEntry := []
  busy : SMap Txn := []
  tickets : SMap (List Ticket) := []
  refused : List Refused := []
  victims : SMap (BitVec 512) := []
  streams : SMap (List Strm) := []   -- key die * 96 + slice
  epochs : SMap Nat := []            -- of each slice (die * 96 + slice), by far tag: key slice * 256 + tag (R205)
  advances : List (Nat × List Nat) := [] -- far tags whose epoch advances, each with the slices that have still to advance (R206)
  sweeps : List (Nat × Nat) := []    -- slices with the far tag that each removes (R206)
  pendInv : List PendInv := []
  age : Nat := 0
  deriving DecidableEq, Repr, Inhabited

/-! ### The deck (chapter 09) -/

/-- Mark of a deck line (R238), or an uncorrectable line. -/
inductive Mark where
  | strip (ctx : Nat) | poison | bad
  deriving DecidableEq, Repr, Inhabited

/-- A write-combining entry (R228): line, bytes, mask, wall time of the first write, cores that wrote. -/
structure Wcb where
  line : Nat
  data : Line
  mask : BitVec 64
  since : Nat
  writers : List Nat
  deriving DecidableEq, Repr, Inhabited

/-- A descriptor in a deck engine's queue (R243), with what its issue fixed (R60, R245). -/
structure DDesc where
  id : Nat
  raw : Line
  ctx : Nat
  core : Nat
  pipe : Nat := 0
  slot : Nat := 0
  turnpike : Bool := false
  rm : Nat := 0
  sat : Bool := true
  seq : Nat := 0
  phase : Nat := 0        -- 0 queued or under way, 2 its last line is done and it is not yet completed
  unit : Nat := 0         -- progress: portions of its work that are done (R252)
  awaiting : List Nat := [] -- lines whose CLEAN or CLAIM is not answered
  asked : List Nat := []  -- lines CLEANed or CLAIMed for the portion in hand
  reds : List Nat := []   -- lines whose REDs are not answered (R250)
  trans : List TlbEntry := [] -- translations walked for the portion in hand
  cand : List (Nat × Nat) := [] -- TOPK: the candidates so far, value and position
  read : List Nat := []   -- lines of the portion in hand that have been read (R252)
  passed : Bool := false  -- its own engine waits for what other engines of the group read of the portion in hand (R249)
  code : Nat := 0
  arith : BitVec 6 := 0
  skipped : Nat := 0
  result : Nat := 0
  cmd : Option CmdRef := none
  ranges : List Rng := []
  deriving DecidableEq, Repr, Inhabited

/-- Work in an engine's sub-queue (R249): the channel that leads it, the descriptor, its place in the order of arrival. -/
structure SubWork where
  lead : Nat
  desc : Nat
  at_ : Nat
  deriving DecidableEq, Repr, Inhabited

/-- A channel with its engine: descriptor queue, sub-queue, write-combining buffer, CRIT time of the current 1 µs (in half slots of 0.5 ns) and the
time that refresh held in it, refresh in progress, degraded-lane bookkeeping: per lane, the pages it has corrected, with the wall time of the latest correction. -/
structure Chan where
  queue : List DDesc := []
  sub : List SubWork := []
  wcb : List Wcb := []
  critHalf : Nat := 0
  critStart : Nat := 0
  refNs : Nat := 0
  refDue : Nat := 0
  refBusy : Option Nat := none    -- wall time at which the refresh in progress began
  refKind : Nat := 0              -- what it is: 0 forced, 1 owed, 2 ahead (R232, R233)
  forced : Bool := false          -- a forced refresh waits for the hold in progress (R232)
  critTurn : Bool := false        -- between two holds of a window: one queued CRIT request goes first (R233)
  crNorm : Nat := 0               -- half slots that NORM, BULK and BACK have left of their round (R227)
  crBulk : Nat := 0
  crBack : Nat := 0
  degraded : List Nat := []       -- lanes marked degraded (R240)
  lanePages : List (Nat × Nat × Nat) := []  -- lane, page, wall time
  deriving DecidableEq, Repr, Inhabited

/-- A refresh window of a half (R233). -/
structure RefWin where
  until_ : Nat
  deriving DecidableEq, Repr, Inhabited

/-- A page's correction record (R240): corrected lines with counts, and the time of Run (ns) at which each distinct line was first corrected. -/
structure PageErr where
  lines : List (Nat × Nat × Nat) := []
  deriving DecidableEq, Repr, Inhabited

/-- Deck state. `res`: residency counts by page. `owner`: allocated pages and their context (R225). `marks` by local line; `pendingPages` with their reasons. `retired` and
`pendingPages`: R241. `temps` by (die * 16 + quadrant) * 4 + layer: hottest sensor;
`quads` by die * 16 + quadrant: actions in force (1: above 85 °C, 2: 90, 4: 95). `hotSince`: 98 °C since. `zeroing`: pages being zeroed by DESTROY. -/
structure Deck where
  chans : SMap Chan := []
  marks : SMap Mark := []
  res : SMap Nat := []
  owner : SMap Nat := []
  zeroing : List Nat := []
  retired : List Nat := []
  pendingPages : List (Nat × Nat) := []
  errs : SMap PageErr := []
  wins : SMap RefWin := []
  temps : SMap Nat := []
  quads : SMap Nat := []
  hotSince : SMap Nat := []
  scrubbed : Nat := 0
  scrubStart : Nat := 0   -- time of Run and Trim at which the pass of patrol scrub began (R239)
  walks : List WalkReq := []
  nextId : Nat := 0
  engTlb : SMap (List TlbEntry) := []    -- by engine group (global channel div 4)
  walkTlb : SMap (List TlbEntry) := []   -- entries of every level that a half's walker keeps, by half (R492)
  deriving DecidableEq, Repr, Inhabited

/-! ### The networks (chapter 10) -/

/-- A waymark (R120, R276): COUNT, RELEASE_MST, watch mask. -/
structure Waymark where
  count : W32 := 0
  rel : W64 := 0
  watch : BitVec 8 := 0
  deriving DecidableEq, Repr, Inhabited

/-- A Waymark event in flight (R277) with the boundaries that it has still to cross: ridge (0) or bridge (1), its index, the direction. It is pending at
the first of them (R271). -/
structure WmFlight where
  ev : WmEvent
  pend : List (Nat × Nat × Nat)
  deriving DecidableEq, Repr, Inhabited

/-- A GATE event in flight (R277), with the instance whose M-cores alone it sets (R39), 0 for all. -/
structure GateEv where
  halves : BitVec 8
  mst : Nat
  spacing : Nat
  lanes : Nat
  owner : Nat
  deriving DecidableEq, Repr, Inhabited

/-- A WM.READ that waits for its VALUE (R278): its tag, the group's core and key, destination, executing threads, waymark. -/
structure WmRd where
  id : Nat
  core : Nat
  key : Nat
  d : BitVec 8
  mask : W32
  wm : Nat
  deriving DecidableEq, Repr, Inhabited

/-- Waymark banks, events in flight in the order they were sent, GATE events in flight, WM.READs that wait. -/
structure WmS where
  marks : SMap Waymark := []
  flight : List WmFlight := []
  gates : List GateEv := []
  reads : List WmRd := []
  deriving DecidableEq, Repr, Inhabited

/-- Faults of dies and halves: when a half was isolated; dies held in reset (R264) or in a die reset, with its cause. -/
structure DieS where
  isolated : SMap Nat := []      -- half: wall time
  down : List Nat := []          -- dies in reset or held
  dead : List Nat := []          -- dies held in reset by R264
  resync : SMap Nat := []        -- handshakes in progress, of a die's ridge, or of bridge b as 8 + b: the slower clock's time, in the units of `cyc` (R273, R275)
  faulted : List Nat := []       -- stops whose router has faulted, die * 208 + stop: the next self-test closes them (R266)
  detour : SMap Nat := []        -- the routers' detour tables (R263): (die * 208 + stop) * 512 + destination: output port, 0 W, 1 E, 2 N, 3 S
  deriving DecidableEq, Repr, Inhabited

/-! ### Milestone Time and the mains (chapter 02) -/

/-- An entry that has fallen due and waits for its dispatch (R41): the instant (the basis of a firing on time, else the firing MST), and the
flags that it will set. -/
structure Due where
  at_ : Nat
  late : Bool := false
  noMains : Bool := false
  fly : Bool := false
  deriving DecidableEq, Repr, Inhabited

/-- MST and the mains angle. `phase` counts the angle: one cycle is 10^12 (mHz times ns). `slew` is the MST correction still to be made, `slewPh`
the nanoseconds since the last correction of 1 ns. `ppsAt` is the wall time of the last REF_PPS edge, `ppsBase` the MST that the last
counting edge stood for. `basis`: the scheduled basis of an armed entry (KIND 0: MST; KIND 1: the earliest MST of the crossing). `due`:
entries that have fallen due. `skip`: crossings to pass before a repeating KIND 1 entry's crossing counts; for an entry that is due, crossings
since. `disarm`: entries whose disarm takes effect after the firing (R43). `snaps`: the MC's standby buffer (R49). -/
structure TimeS where
  mst : Nat := 0
  isSet : Bool := false
  slew : Int := 0
  slewPh : Nat := 0
  ppsAt : Option Nat := none
  ppsBase : Option Nat := none
  holdSince : Option Nat := none
  phase : Nat := 0
  mhz : Nat := 0             -- last measured half-cycle frequency, mHz
  phaseErr : Int := 0        -- signal phase minus angle, still to be slewed
  badHalves : Nat := 0
  goodHalves : Nat := 0
  lossAt : Option Nat := none
  lastCross : Nat := 0       -- wall time of the last zero crossing
  missAt : Nat := 0          -- from which a missing crossing is counted
  due : SMap Due := []
  basis : SMap Nat := []
  skip : SMap Nat := []
  disarm : List Nat := []
  snaps : List (Nat × List Byte) := []
  deriving DecidableEq, Repr, Inhabited

/-! ### Links (chapter 11) -/

/-- A message on a link (R289): `op` is the kind's code; `sub` the dateline sub-channel; `param` packs the operation and type (op + 16 ty) or, in
a data answer, 1 for uncorrectable; the operands in `data`. -/
structure LMsg where
  op : Nat
  dest : Nat
  src : Nat
  tag : Nat := 0
  gen : Nat := 0
  addr : Nat := 0
  param : Nat := 0
  mask : BitVec 64 := 0
  data : Line := 0
  sub : Nat := 0
  deriving DecidableEq, Repr, Inhabited

/-- An outstanding remote request by tag (R298): who waits for the answer, and the instance's generation at the sending (R369). -/
structure FarReq where
  tag : Nat
  port : Nat
  msg : Msg
  ctx : Nat
  inst : Nat
  gen : Nat
  deriving DecidableEq, Repr, Inhabited

/-- A request of another device under way at its home here (R297): the port, the request, which kind, the id of its messages. -/
structure InReq where
  port : Nat
  id : Nat
  kind : MsgKind
  r : LinkReq
  deriving DecidableEq, Repr, Inhabited

/-- A flit that this device sends (R288): KIND, SEQ, ACK, credit returns, and the message that it carries (log 34, DESIGN CHOICE: one each). -/
structure TxFlit where
  kind : Nat
  seq : Nat := 0
  ack : Option Nat := none
  cr : List (Nat × Nat) := []
  msg : Option LMsg := none
  deriving DecidableEq, Repr, Inhabited

/-- An exchange of time stamps that has been answered (R301): t1 to t4, EPOCH of the partner and its UNCERT. -/
structure TtStamps where
  t1 : Nat
  t2 : Nat
  t3 : Nat
  t4 : Nat
  epoch : Bool
  uncert : Nat
  deriving DecidableEq, Repr, Inhabited

/-- A port beside its registers (R285-R304). `egress`: messages waiting; `replay`: flits sent and not acknowledged, with their sequence numbers,
one message each (log 34, DESIGN CHOICE); `wire`: flits that have left since time last passed (log 34, DESIGN CHOICE); `ackAt`: wall time of the last advance of ACK; `replaysNow`: replays since then; `expect`: the sequence number
the receiver expects; `got`: it has taken an MSG flit since training; `part`: slots of the message under way, header first; `inbox`: messages received and not yet handled, in
order; `nakIn`: the number that a NAK received names; `sinceMgmt`: MSG flits sent since the last of MGMT; `notUp`: wall time since which the port is not UP (none while UP); `bad`: by lane, consecutive uncorrectable frames that
the lane's symbol errors account for (R303); `clean`: consecutive frames of the training under way without an uncorrectable error; `tries`:
failed training attempts; `full`: the training under way retries every lane; `group`: the lanes kept, as a mask, 0 before the first training; `tt`: (delay, offset) of the exchanges averaged, twice over, in ns;
`ttSent`: MST at which the exchange under way began; `ttAt`: wall time of that; `ttOrigin`: the stamps of its answer; `ttUnc`: UNCERT of the partner at the last exchange. -/
structure Port where
  egress : List LMsg := []
  replay : List (Nat × LMsg) := []
  nextSeq : Nat := 0
  ackAt : Nat := 0
  replaysNow : Nat := 0
  expect : Nat := 0
  got : Bool := false
  part : List Nat := []
  inbox : List LMsg := []
  nakSent : Bool := false
  nakIn : Option Nat := none
  sinceMgmt : Nat := 15
  wire : List TxFlit := []
  lastAckSent : Nat := 0
  notUp : Option Nat := some 0
  bad : List Nat := List.replicate 8 0
  clean : Nat := 0
  tries : Nat := 0
  full : Bool := false
  group : Nat := 0
  cred : List Nat := List.replicate 10 64   -- credits held for reserved slots, by virtual channel (R292)
  shared : Nat := 3456                      -- credits held for shared slots
  owed : List Nat := List.replicate 10 0    -- slots freed here whose credits are still to be returned
  tt : List (Int × Int) := []
  ttSent : Option Nat := none
  ttAt : Nat := 0
  ttOrigin : Option TtStamps := none
  ttUnc : Nat := 0
  deriving DecidableEq, Repr, Inhabited

/-- A request to another device that waits for a tag of its port (R298), with its operation code. -/
structure FarWait where
  port : Nat
  msg : Msg
  op : Nat
  ctx : Nat := 0
  deriving DecidableEq, Repr, Inhabited

/-- Links: ports, outstanding remote requests, those that wait for a tag, requests of others, broadcast sequence numbers by source with the MST of the last taken, the
device's own. -/
structure LinkS where
  ports : SMap Port := []
  far : List FarReq := []
  waits : List FarWait := []
  inReqs : List InReq := []
  nextTag : Nat := 0
  nextIn : Nat := 0
  bcast : SMap (Nat × Nat) := []
  ownSeq : Nat := 0
  deriving DecidableEq, Repr, Inhabited
/-! ### The host attachment (chapter 12) -/

/-- A command accepted from a ring (R317, R319). `fin`: status and DETAIL once its work is done (R325 is then to come). `flush`: 0 before, 1
while, 2 after the zero-length read of HOST_VISIBLE. `sent`: bytes of a COPY from the host that were asked for; `part`: bytes that have
arrived in order. -/
structure Cmd where
  ref : CmdRef
  raw : BitVec 512
  started : Bool := false
  fin : Option (Nat × Nat) := none
  flush : Nat := 0
  sent : Nat := 0
  part : Nat := 0
  far : List (Nat × Nat × Nat) := [] -- requests that are not answered: tag, line, context address (R169, R171)
  got : List (Nat × Line) := []   -- lines that have been read
  deriving DecidableEq, Repr, Inhabited

/-- A completion record (R324) before it takes its number: function, ring and the fields. -/
structure CRec where
  fid : Nat
  ring : Nat
  tag : Nat
  status : Nat
  ctx : Nat
  index : Nat
  detail : Nat
  endMst : Nat
  attachGen : Nat
  gen : Nat
  deriving DecidableEq, Repr, Inhabited

/-- What a posted host write carries (R325, R331): data of a COPY (command, its TAG, context address), a piece of a completion record and its number,
a piece of a fault record (the function's number and the whole record). -/
inductive HPay where
  | copy (r : CmdRef) (tag va : Nat)
  | record (r : CRec) (num : Nat)
  | fault (fid : Nat) (whole : List Byte)
  deriving DecidableEq, Repr, Inhabited

/-- A posted write to host memory, in the order sent. `tag` tells it from every other; `held`: posted in Recovery, it waits in the transmit
buffer (R330). -/
structure HostWr where
  att : Nat
  tag : Nat := 0
  held : Bool := false
  addr : Nat
  bytes : List Byte
  relaxed : Bool
  pay : HPay
  deriving DecidableEq, Repr, Inhabited

/-- What an outstanding host read is for (R329): entries of a ring; bytes of a COPY, their offset and number; a command's flushing read. -/
inductive RdKind where
  | entry (fid ring : Nat)
  | copy (r : CmdRef) (off len : Nat)
  | flush (r : CmdRef)
  deriving DecidableEq, Repr, Inhabited

/-- An outstanding host read: attachment, tag, host address, bytes. -/
structure HostRd where
  att : Nat
  tag : Nat
  addr : Nat
  len : Nat
  kind : RdKind
  deriving DecidableEq, Repr, Inhabited

/-- A ring beside its registers (R312, R322, R327): re-reads done so far with the wall time of the last, records held in the device, whether a failed entry
read has stopped it until EN is cleared and set again. -/
structure RingX where
  reread : Option (Nat × Nat) := none
  held : List CRec := []
  stopped : Bool := false
  deriving DecidableEq, Repr, Inhabited

/-- The answer that a read or request from outside was given last: bytes, poisoned data, an unsupported request, a completer abort, the completion of a CXL.mem write, none sent. -/
inductive Reply where
  | data (bytes : List Byte) | poison | unsupported | abort | done | silent
  deriving DecidableEq, Repr, Inhabited

/-- What a window access of the host is (R313, R315): a write, whose completion is returned in a CXL mode; a read of `n` bytes at a system address;
a read of HDM_FLUSH, with the writes before it that it waits for. -/
inductive HdmKind where
  | write (completes : Bool)
  | read (a n : Nat)
  | flush (fid : Nat) (after : List Nat)
  deriving DecidableEq, Repr, Inhabited

/-- A window access of an attachment that is under way. `wait`: pieces that are not sent yet (line, byte mask, data); `sent`: requests that the home
has not answered, as (id, line); `got`: lines read; `bad`: one of them is uncorrectable, or its home is in reset. -/
structure HdmAcc where
  no : Nat
  att : Nat
  kind : HdmKind
  wait : List (Nat × BitVec 64 × Line) := []
  sent : List (Nat × Nat) := []
  got : List (Nat × Line) := []
  bad : Bool := false
  deriving DecidableEq, Repr, Inhabited

/-- Configuration space of an attachment's PF as far as the window uses it (R311, R313, R314): log2 of the GiB of a VF BAR4, as the VF Resizable BAR
capability sets it; VF Memory Space Enable; base and size of the HDM decoder. -/
structure AttCfg where
  vfBar : Nat := 9
  vfMse : Bool := false
  hdmBase : Nat := 0
  hdmSize : Nat := 0
  deriving DecidableEq, Repr, Inhabited

/-- Host state. `cmds`: accepted commands in the order of acceptance. `out`: posted writes of the attachments. `left`: attachment to the MST
at which it left L0, and whether the
loss has been declared. `modeWr`: writes of HA_MODE whose update of the flash record may be under way, oldest first: the wall time and the settings before each (R308). `window`:
window accesses under way, oldest first. `journal`: entries by slot (R332). `reply`: see `Reply`. -/
structure HostS where
  cmds : List Cmd := []
  out : List HostWr := []
  reads : List HostRd := []
  nextTag : Nat := 0
  rings : SMap RingX := []       -- key fid * 32 + ring
  left : SMap (Nat × Bool) := []
  modeWr : List (Nat × Nat × Nat) := []
  window : List HdmAcc := []
  cfg : SMap AttCfg := []        -- key attachment
  journal : SMap (List Byte) := []
  reply : Reply := .silent
  deriving DecidableEq, Repr, Inhabited


/-! ### Scheduling (chapter 13, and R94-R98) -/

/-- A fault as detected (R97): what the record will hold. `time` is MST at detection. -/
structure FaultRec where
  ctx : Nat
  code : Nat
  detail : Nat := 0
  core : Nat := 0
  pipe : Nat := 0
  slot : Nat := 0
  group : Bool := false    -- pipe and slot are those of a group
  score : Bool := false
  active : W32 := 0
  pc : W64 := 0
  insn : Nat := 0
  addr : Option Nat := none
  time : Nat := 0
  secondary : Nat := 0
  manager : Bool := false
  deriving DecidableEq, Repr, Inhabited

/-- States of a live context (TP_CTX_STATUS.STATE); FREE: the number is not listed. -/
inductive CtxSt where
  | ready | suspended | killing | dead
  deriving DecidableEq, Repr, Inhabited

/-- A context: the descriptor of R337, its state, far tag, charge (R342), toll counters (R344), contention figures of the period (R346),
the fault being recorded and whether its drain is under way. `budget` none: DEF_BUDGET. -/
structure Ctx where
  inst : Nat := 0
  stripPoison : Bool := false
  farEn : Bool := false
  batch : Bool := false
  weight : Nat := 1
  policy : Nat := 0
  wmLog2 : Nat := 0
  budget : Option Nat := none
  wmBase : Nat := 0
  convoy : Nat := 0
  convoyEn : Bool := false
  seed : Nat := 0
  ptRoot : Nat := 0
  faultAddr : Nat := 0
  st : CtxSt := .ready
  farTag : Option Nat := none
  charge : Nat := 0
  tolls : List Nat := [0, 0, 0, 0, 0, 0, 0, 0]
  periodTolls : List Nat := [0, 0, 0, 0, 0, 0, 0, 0]   -- values at the start of the period
  held : Nat := 0          -- core-cycles held in the period
  stalls : Nat := 0        -- contention stall cycles in the period
  heldCore : Bool := false -- held a core in the period
  slowdown : Nat := 256
  fault : Option FaultRec := none
  nextWeight : Option Nat := none   -- SET_WEIGHT, from the next period (R338)
  mgr : Bool := false      -- the manager is killing it (R96)
  deriving DecidableEq, Repr, Inhabited

/-- Where a work block that has started is (R340, R341): on a core, or saved. A block that ends is no longer listed. -/
inductive BlkSt where
  | running (core : Nat) | saved
  deriving DecidableEq, Repr, Inhabited

/-- A work block that has started: its LAUNCH and number, its resumes (R347), the core it left. -/
structure Block where
  ctx : Nat
  launch : Nat
  number : Nat
  st : BlkSt
  resumes : Nat := 0
  left : Nat := 0
  loftTop : Nat := 0     -- highest LOFT_BYTES of the kernels it has run (R349)
  slot : Nat := 0        -- of a saved block: the slot of its image, 341 to a unit (R364)
  deriving DecidableEq, Repr, Inhabited

/-- A running LAUNCH (R340): the command or the loop step it belongs to, kernel, blocks, pin. -/
structure Launch where
  ctx : Nat
  cmd : Option CmdRef
  entry : Nat
  args : Nat
  list : Nat := 0
  wblocks : Nat
  groups : Nat
  ctype : Nat
  n : Nat
  arith : ArithReg
  loftBytes : Nat := 0
  pin : Option Nat := none
  fresh : Nat := 0     -- blocks that have started
  ended : Nat := 0
  deriving DecidableEq, Repr, Inhabited

/-- A save image (R349) as data: groups, engines, unresolved remote reads, deck descriptors by engine, loft bytes
that are not zero by offset, LOFT_SAVED. -/
structure SaveImg where
  ctype : Nat
  source : Nat
  groups : SMap Group
  engines : SMap Engine
  outs : List OutOp
  descs : List (Nat × List DDesc)
  loft : List Host.Cell
  loftSaved : Nat
  deriving DecidableEq, Repr, Inhabited

/-- A batching loop (R353, R354): its command, the step kernel, the next step's number, the launch of the step that runs. -/
structure Loop where
  cmd : CmdRef
  entry : Nat
  args : Nat
  maxBatch : Nat
  groups : Nat
  perBlock : Nat
  list : Nat
  step : Nat := 0
  launch : Option Nat := none
  stopping : Bool := false
  deriving DecidableEq, Repr, Inhabited

/-- Turnpike state. `agents`: half to S-core, with the wall time of a restart under way. `seqCmds`: open SEQ_ADD commands by sequence.
`cancels`: SEQ_CANCELs recorded. `faults`: FAULTs sent and not yet taken. -/
structure Sched where
  ctxs : SMap Ctx := []
  faults : List FaultRec := []
  blocks : SMap Block := []
  launches : SMap Launch := []
  nextId : Nat := 1
  images : SMap SaveImg := []
  agents : SMap (Nat × Option Nat) := []
  instTolls : SMap (List Nat) := []
  loops : SMap Loop := []
  batches : SMap (List Nat) := []   -- context: its RUNNING sequences in join order
  seqCmds : SMap CmdRef := []
  cancels : List Nat := []
  periodStart : Nat := 0
  periodUj : Nat := 0
  lastCtx : SMap Nat := []    -- core: context it last ran (R341)
  wantPre : List Nat := []    -- cores that PREEMPT is to be sent to
  inval : Option (Nat × Nat × Nat) := none   -- the invalidation under way (R494): context, first address, address after the last
  deriving DecidableEq, Repr, Inhabited
/-! ### Instances (chapter 14) -/

/-- An instance beside its registers. `kind`: the reset under way (0 none, 1 RESET, 2 FLR, 3 DISABLE; 4 the scrub of an ENABLE) since the wall time
`since`; `squash`: contexts that its squash kills without a record.
`freezing`: a FREEZE has not ended. `removing`: cores that a SET_CORES takes away (R361). `mts`: milestone entries recorded at the freeze: number,
seven registers, remaining skips. Migration: the blob key (a label), BLOB_ID, the key unwrapped here, sections restored, their unit map. -/
structure InstX where
  kind : Nat := 0
  since : Nat := 0
  squash : List Nat := []
  freezing : Bool := false
  removing : List Nat := []
  mts : List (Nat × List Nat) := []
  key : Option (Nat × Nat) := none      -- blob key, BLOB_ID
  unwrapped : Option Nat := none        -- BLOB_ID that the unwrapped key serves, 0 when not yet known
  sections : Nat := 0
  restored : List Nat := []
  incomplete : Bool := false
  srcDev : Nat := 0
  unitMap : List (Nat × Nat) := []
  deriving DecidableEq, Repr, Inhabited

/-- Instances: `cores` maps a core to the instance that holds it (R360); `x` by instance; `mail`: mailbox bytes by
instance * 4096 + offset (R372); `scrubs`: units to be scrubbed, in order (R363); `keep`: the state that a unit has after its scrub, FREE when
absent. -/
structure InstS where
  cores : SMap Nat := []
  x : SMap InstX := []
  mail : List Host.Cell := []
  scrubs : List Nat := []
  keep : SMap Nat := []
  deriving DecidableEq, Repr, Inhabited


/-! ### Supply, mains and the Kerb (chapter 15) -/

/-- An entry of the power-quality log (R386). -/
structure PqEntry where
  start : Nat
  dur : Nat := 0
  kind : Nat
  flags : Nat := 1
  extreme : Int := 0
  deriving DecidableEq, Repr, Inhabited

/-- The power-quality summary (R387): MST of the last update, events by kind 1-9, extremes (none before the first half-cycle), nanoseconds in sheds. -/
structure PqSum where
  mst : Nat := 0
  counts : List Nat := [0, 0, 0, 0, 0, 0, 0, 0, 0]
  rmsMin : Option Nat := none
  rmsMax : Option Nat := none
  freqMin : Option Int := none
  freqMax : Option Int := none
  shedNs : Nat := 0
  deriving DecidableEq, Repr, Inhabited

/-- Supply and grid. The last sample; `last1ms`: bus samples of the last millisecond, newest first; `energy`: what PW_ENERGY has not counted, in
pJ; counts of consecutive samples of the comparators (R382, R385, R497): `lowShed` below SHED_V, `okShed` at or above SHED_V + 1 V, `lowHold`,
`okHold`, `hiBus` above 60 V, `loBus` at or below 59.5 V, `lowStby`, `okStby`, `ov` above 63 V; `held`: a Hold request was made for this
excursion; `okSince`: wall time since which the bus is at or below 60 V; `stageOff`: stage one is stopped; `goodSince`: since which the bus is
at or above HOLD_V + 2 V (R439). `log`: the power-quality log by slot; `open_`: by kind, the number of the open entry and the entry; `sum`: the
summary in the MC, `flash` in module flash; `sumAt`: run time of its last hourly rewrite. `kerbLow`: wall time of the last low sample of SHED_N in a Kerb
shed; `shedSince`: wall time since which a shed holds, for SHED_S. Frequency response: `target` of R397, `computed`: what a leader computed
last and when; `applyQ`: caps to be applied with their APPLY_MST; `leadCap`: the leader's latest cap; `heard`: MST of its latest broadcast;
`sent`: MST of the last POWER sent; `sendDue`: one is due; `stepAt`: MST of the last step of the applied cap. -/
structure SupS where
  busMv : Nat := 0
  busDa : Nat := 0
  stbyMv : Nat := 0
  stbyMa : Nat := 0
  last1ms : List Nat := []
  energy : Nat := 0
  lowShed : Nat := 0
  okShed : Nat := 0
  lowHold : Nat := 0
  okHold : Nat := 0
  hiBus : Nat := 0
  loBus : Nat := 0
  lowStby : Nat := 0
  okStby : Nat := 0
  ov : Nat := 0
  held : Bool := false
  okSince : Option Nat := none
  goodSince : Option Nat := none
  stageOff : Bool := false
  log : SMap PqEntry := []
  open_ : SMap (Nat × PqEntry) := []
  sum : PqSum := {}
  flash : PqSum := {}
  sumAt : Nat := 0
  kerbLow : Nat := 0
  shedSince : Option Nat := none
  target : Nat := 1000
  computed : Nat := 1000
  computedAt : Nat := 0
  applyQ : List (Nat × Nat) := []
  leadCap : Nat := 1000
  heard : Nat := 0
  sent : Nat := 0
  sendDue : Bool := false
  stepAt : Nat := 0
  deriving DecidableEq, Repr, Inhabited

/-! ### Power (chapter 16) -/

/-- A HINT command's work (R415): KIND, half mask, basis, whether its phases have been enabled. -/
structure Hint where
  heavy : Bool
  halves : Nat
  basis : Nat
  phased : Bool := false
  deriving DecidableEq, Repr, Inhabited

/-- A beacon taken (R421): pace in kHz, THROTTLED, wall time of arrival. -/
structure BeaconRec where
  pace : Nat
  throttled : Bool
  at_ : Nat
  deriving DecidableEq, Repr, Inhabited

/-- Why a half's ratio stands above the requested one (R411, R413, R417). -/
inductive Raised where
  | limit | shed | back
  deriving DecidableEq, Repr, Inhabited

/-- Power control. `stretch`: halves whose clock generators stretch (R414), with the cycle at which the episode began; `tripped`: quadrants
(half * 8 + VQ) whose droop detector is tripped. By half: `samples` of current, newest first, up to 100 ms; `upAt`: wall time of the last
increase of n; `ratioAt`: of its last change; `raised`; `budget`: B of R410 (absent: its base value); `above`: wall time at which I_1MS last exceeded
GRANT_PCT of B. By die: `target`: the code a transition moves to; `wantReq`: dies whose requested raise waits for the transition in progress;
`cur`: the current bound (absent: 56) with the CAUSE bit it stands for; `stepAt`, `downAt`, `grantAt`, `thermAt`: wall times of the last step, the last step down for current,
the last grant, the last step of the thermal ceiling. `watts`: the last 100 µs average of input power. `peakSince`: when the first half
opened a window; `recovery`: since when the device recovers. `heavy`: halves on which phase shedding is not allowed by a HEAVY hint. `hints`;
`paceN`: n - 1 that pacing asks for, by die. `beacons` by device; `beaconAt`: wall time of the last beacon sent. -/
structure PowS where
  stretch : SMap Nat := []
  tripped : List Nat := []
  samples : SMap (List Nat) := []
  upAt : SMap Nat := []
  ratioAt : SMap Nat := []
  raised : SMap Raised := []
  budget : SMap Nat := []
  above : SMap Nat := []
  target : SMap Nat := []
  wantReq : List Nat := []
  cur : SMap (Nat × Nat) := []
  stepAt : SMap Nat := []
  downAt : SMap Nat := []
  grantAt : SMap Nat := []
  thermAt : SMap Nat := []
  watts : Nat := 0
  peakSince : Option Nat := none
  recovery : Option Nat := none
  heavy : List Nat := []
  hints : SMap Hint := []
  nextHint : Nat := 0
  paceN : SMap Nat := []
  beacons : SMap BeaconRec := []
  beaconAt : Nat := 0
  deriving DecidableEq, Repr, Inhabited

/-! ### Resets, power states, boot (chapter 17) and firmware (chapter 18) -/

/-- An image in a flash bank (R449) with the outcome of its checks' material; `none` of these: the bank is empty. -/
structure BankImg where
  img : Image
  deriving DecidableEq, Repr, Inhabited

/-- Whether an entry to Hold goes on, or has ended (R437). -/
inductive HoldSt where
  | awake | entering | asleep
  deriving DecidableEq, Repr, Inhabited

/-- Whose key a pair is (R454). -/
inductive KeyRole where
  | deviceId | alias_ | wrap
  deriving DecidableEq, Repr, Inhabited

/-- A key pair (R454): algorithm (0 Ed25519, 1 ML-DSA-65, 2 X25519, 3 ML-KEM-768), private key, none once it is erased, public key. -/
structure KeyPair where
  role : KeyRole
  alg : Nat
  priv : Option (BitVec 384)
  pub : Nat
  deriving DecidableEq, Repr, Inhabited

/-- A certificate (R454): whose public keys it names, and the signature with its algorithm: of the identity CA for DeviceID, of a DeviceID key else. -/
structure Cert where
  role : KeyRole
  subject : List Nat
  signer : Nat
  sig : Nat
  deriving DecidableEq, Repr, Inhabited

/-- Boot and power states. `began`: MST at which the start in progress began, with `heldNs` of Hold since; `startS`:
standby seconds at its beginning; `running`: the bank that runs; `lateReport`: a report to be written at step 3
of the next start. `stbyNs`: time on standby power, `beganNs` what it was when the start began. `hold`; `holdFrom`, `holdAt`: wall times at which the entry to Hold
began and ended; `holdReq`, `watchReq`, `wakeReq`: requests that wait; `resume`: a start was
interrupted by Hold; `dieLater`: die resets deferred to the wake; `flrLater`: FLRs recorded in Hold; `lost`: contexts that the wake kills; `lostPages`: pages
that the wake retires first; `vio`: VIO is up. `runNs`: time in Run and Trim; `hourMark`: what it was when RUN_HOURS last rose. `banks`: flash banks (0 A, 1 B);
`meas`: measurement digests as labels by index; `spdm`: version and algorithms negotiated. -/
structure BootS where
  began : Option Nat := none
  heldNs : Nat := 0
  startS : Nat := 0
  stbyNs : Nat := 0
  beganNs : Nat := 0
  running : Nat := 0
  lateReport : Option (Nat × Nat × Nat × Nat) := none
  hold : HoldSt := .awake
  holdAt : Nat := 0
  holdFrom : Nat := 0
  holdReq : Bool := false
  watchReq : Bool := false
  wakeReq : Option Nat := none
  resume : Bool := false
  dieLater : List Nat := []
  flrLater : List Nat := []
  lost : List Nat := []
  lostPages : List Nat := []
  vio : Bool := false
  runNs : Nat := 0
  hourMark : Nat := 0
  banks : SMap BankImg := []
  meas : SMap Nat := []
  spdm : Nat × Nat := (0, 0)
  keys : List KeyPair := []       -- the key store (R454)
  certs : List Cert := []         -- certificates, those of flash first (R454)
  deriving DecidableEq, Repr, Inhabited

/-! ### Reliability (chapter 19) -/

/-- An error record (R467); `detail` is bytes 32-47 as a number. -/
structure ErrRec where
  mst : Nat
  code : Nat
  sev : Nat
  strct : Nat := 0
  loc : Nat := 0
  addr : Nat := 0
  count : Nat := 0
  ctx : Nat := 0
  inst : Nat := 0
  gen : Nat := 0
  detail : Nat := 0
  deriving DecidableEq, Repr, Inhabited
/-- A half's ageing record beside its registers (R480, R482): last D of its 16 pairs, its table in mV by code (empty: the factory's). -/
structure HalfAge where
  d : List Nat := []
  table : List Nat := []
  deriving DecidableEq, Repr, Inhabited

/-- Reliability: the error log by slot (R466), corrections by unit since its last record with that record's wall time, a planned fence that
waits for its pre-emption (core, cause), whether the core under test got a forced fence (R476), test candidates in order (R465), ageing; by
core, run times of the corrected SRAM errors of the last hour of Run, and the wall time of the last uncorrectable one; cores that a second
one forces out of service. -/
structure RelS where
  log : SMap ErrRec := []
  corr : SMap (Nat × Nat) := []
  fencing : Option (Nat × Nat) := none
  testForced : Bool := false
  cands : List Nat := []
  age : SMap HalfAge := []
  ce : SMap (List Nat) := []
  ue : SMap Nat := []
  mustFence : List Nat := []
  deriving DecidableEq, Repr, Inhabited


/-! ### Faults, refusals, the state -/

/-- Stops of the model: none of the spec's commands ends in one, since the device completes every command that reaches it (log 2, DESIGN CHOICE), so
no constructor is raised by a meaning. `absent` is kept for an access to an address that the spec says does not exist; every such access
of the spec has an outcome of its own (R485, R488), so nothing raises it (safe). -/
inductive Fault where
  | absent
  deriving DecidableEq, Repr, Inhabited

/-- Refusals. `notModelled` is raised by the arms of Machine/Dispatch.lean whose meaning is not written (safe). -/
inductive Refusal where
  | notModelled (mnemonic : String)
  deriving DecidableEq, Repr, Inhabited

/-- The device. `flds` are the register fields (Machine/Regs.lean), `mem` the bytes of the local physical space, deck and lofts, that are not
zero (log 8, DESIGN CHOICE), `cyc` the half clocks' elapsed time by half, in units of 1/3603600000 cycle. -/
structure State where
  pending : List Instr := []
  now : Nat := 0
  freeCtr : Nat := 0
  flds : SMap Nat := []
  mem : List Host.Cell := []
  cyc : SMap Nat := []
  cores : SMap Core := []
  coh : Coh := {}
  deck : Deck := {}
  wm : WmS := {}
  die : DieS := {}
  time : TimeS := {}
  sched : Sched := {}
  sup : SupS := {}
  pow : PowS := {}
  boot : BootS := {}
  link : LinkS := {}
  rel : RelS := {}
  host : HostS := {}
  inst : InstS := {}

  deriving DecidableEq, Repr, Inhabited

/-- The machine at the instant of reset, before boot step 1 (R441; log 9, DESIGN CHOICE): every register field at its default, nothing listed anywhere. -/
def State.reset : State := {}

end Sys2Proof.Machine
end

