-- ==== Sys2Proof/Machine/Regs.lean ====
section
/-! DEFINITION. The register fields of the device (R4-R7, R18, R46, R66, R76, R153, R218, R255, R282, R305, R312, R356, R380, R402,
R428, R447, R462, R483, R488): one constructor of `Fld` per field of the spec's register tables, its place, access code, reset class and
default, and the offset of every register. The status bits of the device live here and nowhere else. -/

namespace Sys2Proof.Machine

/-- Access codes (R4). -/
inductive Acc where
  | ro | rw | wo | w1c
  deriving DecidableEq, Repr, Inhabited

/-- Reset classes (R5); `none` is the class of write-only fields, which hold nothing. -/
inductive Cls where
  | cold | warm | host | flr | die | core | persist | none
  deriving DecidableEq, Repr, Inhabited

/-- The register fields, named REGISTER_FIELD. -/
inductive Fld where
  | ORG_FACTORY_LIVE_LIVE | ORG_LIVE_LIVE | ORG_LIVE_COUNT_LIVE_M | ORG_FACTORY_COUNT_LIVE_M | ORG_LIVE_COUNT_LIVE_V
  | ORG_FACTORY_COUNT_LIVE_V | ORG_LIVE_COUNT_LIVE_S | ORG_FACTORY_COUNT_LIVE_S | ORG_LIVE_COUNT_CHANGES | ORG_FACTORY_COUNT_CHANGES
  | MST_NOW_MST | MST_NEXT_PPS_NEXT | MAINS_ANGLE_ANGLE | MST_STATUS_SOURCE | MST_STATUS_PPS_OK | MST_STATUS_REF10_OK
  | MST_STATUS_LINK_OK | MST_STATUS_SLEWING | MST_STATUS_STEPPED | MST_STATUS_EPOCH | MST_STATUS_NEXT_ARMED | MST_STATUS_EPOCH_ERR
  | MST_STATUS_UNCERT | MST_STATUS_HOLDOVER_S | MST_CTRL_REF_EN | MST_CTRL_LINK_EN | MST_CTRL_LINK_PORT | MST_CTRL_STEP_OK
  | MAINS_STATUS_LOCK | MAINS_STATUS_FLYWHEEL | MAINS_STATUS_VALID | MAINS_STATUS_CYCLES | MT_TIME_TIME | MT_ANGLE_ANGLE | MT_ARG0_ARG
  | MT_ARG1_ARG | MT_FIRE_MST_FIRE_MST | MT_ARM_MST_ARM_MST | MT_CTRL_ARMED | MT_CTRL_KIND | MT_CTRL_REPEAT | MT_CTRL_ACTION
  | MT_CTRL_OWNER | MT_CTRL_MISSED | MT_CTRL_FIRED | MT_CTRL_LATE | MT_CTRL_SUPPRESSED | MT_CTRL_FENCED | MT_CTRL_CLAMPED
  | MT_CTRL_NO_MAINS | MT_CTRL_FLYWHEEL | MT_CTRL_ARM_ERR | MT_CTRL_PERIOD | MX_RAMP_CTRL_LANES | MX_RAMP_CTRL_SPACING
  | MX_RAMP_CTRL_AUTO | MX_RAMP_MAP_LANES | MX_RAMP_STATUS_PENDING | MX_RAMP_STATUS_HELD | MX_RAMP_STATUS_WARM_ENG | TH_NACK_COUNT
  | TH_TICKET_COUNT | TH_TICKET_WAIT_MAX_COUNT | TH_PUSH_COUNT | TH_GUTTER_COUNT | TH_EPOCH_SWEEP_COUNT | DK_QOS_W_NORM | DK_QOS_W_BULK
  | DK_QOS_W_BACK | DK_QOS_CRIT_CAP | DK_SCRUB_CTRL_EN | DK_SCRUB_CTRL_PERIOD_H | DK_SCRUB_STATUS_PAGE | DK_SCRUB_STATUS_PASSES
  | DK_RETIRE_COUNT_COUNT | DK_RETIRE_COUNT_FULL | DK_RETIRE_COUNT_PENDING | DK_RETIRE_IDX_IDX | DK_RETIRE_DATA_PAGE
  | DK_RETIRE_DATA_REASON | DK_RETIRE_DATA_HOURS | DK_RETIRE_REQ_PAGE | DK_CHAN_SEL_CHAN | DK_CHAN_STATUS_OWED | DK_CHAN_STATUS_AHEAD
  | DK_CHAN_STATUS_WCB | DK_CHAN_STATUS_HOT | DK_CHAN_STATUS_CRIT_PCT | DK_CHAN_STATUS_SELF_REFRESH | DK_CHAN_STATUS_DEGRADED_LANE
  | DK_CHAN_STATUS_CORR | DK_CHAN_STATUS_UNCORR | DK_TEMP_LAYER | DK_TEMP_MAX | DK_TEMP_HOT85 | DK_TEMP_CEIL90 | DK_TEMP_STOP95
  | DK_ECC_CORRECTED | DK_ECC_UNCORRECTABLE | DK_ECC_MARKED | NET_CLOSED_CLOSED | NET_RIDGE_CW_OPEN | NET_RIDGE_FP_OPEN
  | NET_RIDGE_WM_OPEN | NET_RIDGE_ISOLATED | NET_RIDGE_RESYNC | NET_RIDGE_RATIO_W | NET_RIDGE_RATIO_E | NET_RIDGE_RESYNCS
  | NET_WMX_PEND_0 | NET_WMB_PEND_0 | NET_WMX_PEND_1 | NET_WMB_PEND_1 | NET_WMX_OVR_0 | NET_WMB_OVR_0 | NET_WMX_OVR_1 | NET_WMB_OVR_1
  | NET_WMX_DROP_0 | NET_WMB_DROP_0 | NET_WMX_DROP_1 | NET_WMB_DROP_1 | LK_DEVNUM_DEV | LK_ROUTE_IDX_IDX | LK_ROUTE_DATA_PORT
  | LK_ROUTE_DATA_DIM | LK_ROUTE_DATA_VALID | LK_BCAST_ORIG | LK_BCAST_CONVOY | LK_CTRL_MAX_RATE | LK_CTRL_EN | LK_CTRL_RETRAIN
  | LK_CTRL_FULL_WIDTH | LK_CTRL_DATELINE | LK_STATUS_STATE | LK_STATUS_RATE | LK_STATUS_WIDTH | LK_STATUS_FAULTY | LK_STATUS_PARTNER
  | LK_STATUS_PARTNER_TT | LK_STATUS_PARTNER_GEN | LK_STATUS_RETRAINS | LK_STATUS_DOWN_REASON | LK_ERR_CORR | LK_ERR_UNCORR
  | LK_ERR_REPLAYS | LK_ERR_MALFORMED | LK_TT_DELAY | LK_TT_OFFSET | LK_TT_VALID | LK_CONVOY_FWD | LK_CONVOY_LOCAL | HA_MODE_SPLIT_NEXT
  | HA_MODE_MAX_RATE_NEXT | HA_MODE_SPLIT | HA_MODE_MAX_RATE | HA_ID_INSTANCE | HA_ID_ATTACHMENT | HA_ID_SPLIT | HA_ID_RINGS
  | HA_ATTACH_ATTACH_GEN | HA_ATTACH_LOST | HA_ATTACH_ACK | HDM_FLUSH_ATTACH_GEN | HA_LINK_MODE | HA_LINK_WIDTH | HA_LINK_VERGE
  | HA_LINK_RETRAINS | HA_LINK_LOSSES | HA_JNL_HEAD | HA_JNL_TAIL | HA_JNL_FULL | HA_JNL_DROPPED | RING_BASE_BASE | CQ_BASE_BASE
  | RING_CFG_EN | RING_CFG_SIZE | RING_CFG_CQ_SIZE | RING_STATUS_ACTIVE | RING_STATUS_DOORBELL_AHEAD | RING_STATUS_DOORBELL_RANGE
  | RING_STATUS_CFG_ERR | RING_STATUS_DETACHED | RING_STATUS_CQ_FULL | RING_STATUS_FETCH_ERR | RING_STATUS_AHEAD_EVENTS
  | RING_STATUS_DB_PI | RING_CI_CI | CQ_HEAD_HEAD | CQ_TAIL_TAIL | DOORBELL_PI | DOORBELL_RING | TP_CFG_DEF_BUDGET | TP_CFG_SLACK
  | TP_CFG_PERIOD | TP_CTX_CMD_CONTEXT | TP_CTX_CMD_OP | TP_CTX_CMD_WEIGHT | TP_CTX_ARG_ADDR | TP_CTX_RESULT_RESULT | TP_CTX_RESULT_BUSY
  | TP_CTX_SEL_CONTEXT | TP_CTX_STATUS_STATE | TP_CTX_STATUS_INSTANCE | TP_CTX_STATUS_FAR_TAG | TP_CTX_STATUS_FAR_EN
  | TP_CTX_STATUS_SLOWDOWN | TP_CTX_STATUS_CORES | TP_TOLL_SEL_KIND | TP_TOLL_SEL_NUMBER | TP_TOLL_COUNT | TP_EWEIGHT_PJ
  | TP_STATIC_WATTS | TP_SEQ_BASE_BASE | TP_CONVOY_IDX_IDX | TP_CONVOY_DATA_BASE | TP_CONVOY_DATA_LOG2 | TP_CONVOY_DATA_VALID
  | TP_CONVOY_DATA_DISCARDS | IN_SEL_INSTANCE | IN_CMD_OP | IN_CMD_SECTION | IN_ARG_ARG | IN_RESULT_RESULT | IN_RESULT_BUSY
  | IN_STATUS_STATE | IN_STATUS_GEN | IN_STATUS_RESET_DONE | IN_STATUS_BY_FLR | IN_STATUS_STALE | IN_STATUS_UNITS | IN_CFG_ATTACH
  | IN_CFG_SCRUB_ON_RESET | IN_CFG_DRAIN_US | IN_CFG_POOL_GIB | IN_RES_WAYS | IN_RES_LINK_WEIGHT | IN_RES_SEQ_QUOTA | IN_WM_BASE
  | IN_WM_LOG2 | IN_CORES_CORES | IN_UNIT_IDX_UNIT | IN_UNIT_DATA_OWNER | IN_UNIT_DATA_STATE | IN_UNIT_DATA_RETIRED | SUP_BUS_VOLT
  | SUP_BUS_CURR | SUP_BUS_POWER | SUP_STBY_VOLT | SUP_STBY_CURR | SUP_CTRL_SHED_V | SUP_CTRL_AUTO_SHED | SUP_CTRL_HOLD_V
  | SUP_CTRL_AUTO_HOLD | MAINS_MEAS_HALF | MAINS_MEAS_AVG | MAINS_MEAS_VALID | MAINS_RMS_HALF | MAINS_RMS_CYCLE | MAINS_RMS_SENSE
  | PQ_CFG_NOMINAL_RMS | PQ_CFG_SAG_PCT | PQ_CFG_SWELL_PCT | PQ_CFG_INTR_PCT | PQ_CFG_HYST_PCT | PQ_CFG_FREQ_BAND | PQ_HEAD_COUNT
  | PQ_HEAD_WRAPPED | PQ_IDX_SLOT | PQ_DATA_DATA | PQ_SUM_DATA | KB_CTRL_EN | KB_CTRL_LEVEL | KB_CTRL_EXIT_EDGES | KB_STATUS_SHED
  | KB_STATUS_KERB | KB_STATUS_BUS | KB_STATUS_ACK | KB_STATUS_CLK_LOST | KB_STATUS_LINE_ACK | KB_STATUS_COUNT | KB_LAST_MST
  | FR_CTRL_MODE | FR_CTRL_NOMINAL | FR_CTRL_RISE | FR_CTRL_LEADER | FR_CTRL_TIMEOUT | FR_CTRL_LEAD | FR_STATUS_CAP_PM
  | FR_STATUS_CURVE_PM | FR_STATUS_LEADER_LOST | FR_STATUS_NO_MAINS | FR_STATUS_CFG_ERR | FR_STATUS_LATE | FR_POINT_OFFSET
  | FR_POINT_CAP_PM | PW_DIE_CTRL_REQ_CODE | PW_DIE_CTRL_TRIM_CEIL | PW_DIE_STATUS_CODE | PW_DIE_STATUS_THERM_CEIL
  | PW_DIE_STATUS_AGE_CEIL | PW_DIE_STATUS_PACE_CEIL | PW_DIE_STATUS_TRANSITION | PW_DIE_STATUS_GRANT_HI | PW_DIE_STATUS_CAUSE
  | PW_DIE_STATUS_STEPS_DOWN | PW_HALF_CTRL_REQ_RATIO | PW_HALF_CTRL_DROOP_MV | PW_HALF_CTRL_PHASE_SHED | PW_HALF_STATUS_RATIO
  | PW_HALF_STATUS_PEAK | PW_HALF_STATUS_ALL_PHASES | PW_HALF_STATUS_I_NOW | PW_HALF_STATUS_I_1MS | PW_HALF_STATUS_I_100MS
  | PW_HALF_STATUS_DIDT | PW_HALF_STATUS_STRETCH | PW_LIMIT_TRIP_FAST | PW_LIMIT_I_CONT | PW_LIMIT_GRANT_PCT | PW_INPUT_P_LIM
  | PW_INPUT_PEAK_OPEN | PW_INPUT_RECOVERY | PW_INPUT_PEAK_COUNT | PW_INPUT_PEAK_DENIED | PW_ENERGY_UJ | PW_CONVOY_CTRL_BEACON_EN
  | PW_CONVOY_CTRL_PACE_EN | PW_CONVOY_CTRL_PERIOD | PW_CONVOY_CTRL_STALE | PW_CONVOY_STATUS_SLOW_DEV | PW_CONVOY_STATUS_SLOW_VALID
  | PW_CONVOY_STATUS_THROTTLED | PW_CONVOY_STATUS_PACED | PW_CONVOY_STATUS_SLOW_PACE | PW_CONVOY_WAIT_NS | PW_CONVOY_PREV_DEV
  | PW_CONVOY_PREV_NS | PS_CTRL_REQ | PS_CTRL_WARM_RESET | PS_CTRL_COLD_RESET | PS_CTRL_CLEAR_FAILS | PS_CTRL_DIE_RESET
  | PS_CORE_RESET_CORE | PS_CORE_RESET_GO | PS_STATUS_STATE | PS_STATUS_TRANSITION | PS_STATUS_DIE_DOWN | PS_STATUS_WAKE_CAUSE
  | PS_STATUS_LAST_RESET | PS_STATUS_HOLD_COUNT | PS_STATUS_HOLD_LOSS | PS_CFG_AUTO_WAKE | PS_CFG_LINK_WAKE | PS_CFG_WAKE_DELAY
  | PS_CFG_HOLD_MAX_S | PS_CFG_POOL0_GIB | PS_BOOT_FAILS | PS_BOOT_LAST_STEP | PS_BOOT_VERGE | PS_BOOT_BOOT_MS | PS_REPORT_REASON
  | PS_REPORT_STEP | PS_REPORT_DETAIL | PS_REPORT_START_S | PS_BANK_BANK_A | PS_BANK_BANK_B | PS_BANK_VER_A | PS_BANK_VER_B
  | SEC_STATUS_FAIL_A | SEC_STATUS_FAIL_B | SEC_STATUS_PREFERRED | SEC_STATUS_TRIAL | SEC_STATUS_DEBUG | SEC_STATUS_REVOKED
  | SEC_STATUS_MIN_SVN | SEC_CMD_OP | SEC_CMD_INSTANCE | SEC_ARG_ARG | SEC_RESULT_RESULT | SEC_RESULT_BUSY | RL_ERR_HEAD_COUNT
  | RL_ERR_HEAD_WRAPPED | RL_ERR_IDX_SLOT | RL_ERR_DATA_DATA | RL_CFG_CE_TEST | RL_CFG_AUTO_TEST | RL_FENCE_CORE | RL_FENCE_MODE
  | RL_FENCE_GO | RL_FENCE_STATUS_CORE | RL_FENCE_STATUS_BUSY | RL_FENCE_STATUS_FENCES | RL_TEST_CTRL_CORE | RL_TEST_CTRL_GO
  | RL_TEST_CTRL_ABORT | RL_TEST_STATUS_CORE | RL_TEST_STATUS_PHASE | RL_TEST_STATUS_STATE | RL_TEST_STATUS_ABORTED
  | RL_TEST_STATUS_REFUSED | RL_TEST_STATUS_TESTS | RL_TEST_STATUS_FAILS | RL_AGE_CTRL_GO | RL_AGE_CTRL_BUSY | RL_AGE_CFG_INTERVAL_H
  | RL_AGE_CFG_G_BASE_MV | RL_AGE_CFG_MARGIN_MIN_MV | RL_AGE_CFG_RATED_WARN_MV | RL_AGE_SEL_HALF | RL_AGE_STATUS_D_MAX
  | RL_AGE_STATUS_DV_MV | RL_AGE_STATUS_CEIL | RL_AGE_STATUS_MARGIN_TOP | RL_AGE_STATUS_MARGIN_RATED | RL_AGE_HOURS_RUN_HOURS
  | RL_AGE_HOURS_LAST_RESURVEY_H | RG_ID_PART | RG_ID_STEPPING | RG_MGMT_RD_EN | RG_MGMT_WR_EN | AT_INV_VA_VA | AT_INV_LEN_LEN
  | AT_INV_CMD_CONTEXT | AT_INV_CMD_ALL | AT_INV_CMD_GO | AT_INV_STATUS_BUSY | AT_INV_STATUS_DONE
  deriving DecidableEq, Repr, Inhabited

/-- What the tables say of a field: low bit, width, access code, reset class, default. -/
structure FldSpec where
  lo : Nat
  w : Nat
  acc : Acc
  cls : Cls
  dflt : Nat
  deriving DecidableEq, Repr, Inhabited

/-- The table of fields (R4, R5). A default that depends on the register's number stands in `Fld.dflt`. -/
def Fld.spec : Fld → FldSpec
  | .ORG_FACTORY_LIVE_LIVE => ⟨0, 64, .ro, .persist, 18446744073709551615⟩
  | .ORG_LIVE_LIVE => ⟨0, 64, .ro, .cold, 18446744073709551615⟩
  | .ORG_LIVE_COUNT_LIVE_M => ⟨0, 10, .ro, .cold, 512⟩
  | .ORG_FACTORY_COUNT_LIVE_M => ⟨0, 10, .ro, .persist, 512⟩
  | .ORG_LIVE_COUNT_LIVE_V => ⟨16, 10, .ro, .cold, 256⟩
  | .ORG_FACTORY_COUNT_LIVE_V => ⟨16, 10, .ro, .persist, 256⟩
  | .ORG_LIVE_COUNT_LIVE_S => ⟨32, 7, .ro, .cold, 64⟩
  | .ORG_FACTORY_COUNT_LIVE_S => ⟨32, 7, .ro, .persist, 64⟩
  | .ORG_LIVE_COUNT_CHANGES => ⟨48, 16, .ro, .cold, 0⟩
  | .ORG_FACTORY_COUNT_CHANGES => ⟨48, 16, .ro, .persist, 0⟩
  | .MST_NOW_MST => ⟨0, 64, .ro, .cold, 0⟩
  | .MST_NEXT_PPS_NEXT => ⟨0, 64, .rw, .cold, 0⟩
  | .MAINS_ANGLE_ANGLE => ⟨0, 32, .ro, .cold, 0⟩
  | .MST_STATUS_SOURCE => ⟨0, 2, .ro, .cold, 0⟩
  | .MST_STATUS_PPS_OK => ⟨2, 1, .ro, .cold, 0⟩
  | .MST_STATUS_REF10_OK => ⟨3, 1, .ro, .cold, 0⟩
  | .MST_STATUS_LINK_OK => ⟨4, 1, .ro, .cold, 0⟩
  | .MST_STATUS_SLEWING => ⟨5, 1, .ro, .cold, 0⟩
  | .MST_STATUS_STEPPED => ⟨6, 1, .w1c, .cold, 0⟩
  | .MST_STATUS_EPOCH => ⟨7, 1, .ro, .cold, 0⟩
  | .MST_STATUS_NEXT_ARMED => ⟨8, 1, .ro, .cold, 0⟩
  | .MST_STATUS_EPOCH_ERR => ⟨9, 1, .w1c, .cold, 0⟩
  | .MST_STATUS_UNCERT => ⟨16, 16, .ro, .cold, 65535⟩
  | .MST_STATUS_HOLDOVER_S => ⟨32, 32, .ro, .cold, 0⟩
  | .MST_CTRL_REF_EN => ⟨0, 1, .rw, .cold, 1⟩
  | .MST_CTRL_LINK_EN => ⟨1, 1, .rw, .cold, 0⟩
  | .MST_CTRL_LINK_PORT => ⟨2, 3, .rw, .cold, 0⟩
  | .MST_CTRL_STEP_OK => ⟨5, 1, .rw, .cold, 0⟩
  | .MAINS_STATUS_LOCK => ⟨0, 1, .ro, .cold, 0⟩
  | .MAINS_STATUS_FLYWHEEL => ⟨1, 1, .ro, .cold, 0⟩
  | .MAINS_STATUS_VALID => ⟨2, 1, .ro, .cold, 0⟩
  | .MAINS_STATUS_CYCLES => ⟨32, 32, .ro, .cold, 0⟩
  | .MT_TIME_TIME => ⟨0, 64, .rw, .cold, 0⟩
  | .MT_ANGLE_ANGLE => ⟨0, 32, .rw, .cold, 0⟩
  | .MT_ARG0_ARG => ⟨0, 64, .rw, .cold, 0⟩
  | .MT_ARG1_ARG => ⟨0, 64, .rw, .cold, 0⟩
  | .MT_FIRE_MST_FIRE_MST => ⟨0, 64, .ro, .cold, 0⟩
  | .MT_ARM_MST_ARM_MST => ⟨0, 64, .ro, .cold, 0⟩
  | .MT_CTRL_ARMED => ⟨0, 1, .rw, .cold, 0⟩
  | .MT_CTRL_KIND => ⟨1, 1, .rw, .cold, 0⟩
  | .MT_CTRL_REPEAT => ⟨2, 1, .rw, .cold, 0⟩
  | .MT_CTRL_ACTION => ⟨4, 4, .rw, .cold, 0⟩
  | .MT_CTRL_OWNER => ⟨8, 7, .ro, .cold, 0⟩
  | .MT_CTRL_MISSED => ⟨16, 8, .ro, .cold, 0⟩
  | .MT_CTRL_FIRED => ⟨24, 1, .w1c, .cold, 0⟩
  | .MT_CTRL_LATE => ⟨25, 1, .w1c, .cold, 0⟩
  | .MT_CTRL_SUPPRESSED => ⟨26, 1, .w1c, .cold, 0⟩
  | .MT_CTRL_FENCED => ⟨27, 1, .w1c, .cold, 0⟩
  | .MT_CTRL_CLAMPED => ⟨28, 1, .w1c, .cold, 0⟩
  | .MT_CTRL_NO_MAINS => ⟨29, 1, .w1c, .cold, 0⟩
  | .MT_CTRL_FLYWHEEL => ⟨30, 1, .w1c, .cold, 0⟩
  | .MT_CTRL_ARM_ERR => ⟨31, 1, .w1c, .cold, 0⟩
  | .MT_CTRL_PERIOD => ⟨32, 32, .rw, .cold, 0⟩
  | .MX_RAMP_CTRL_LANES => ⟨0, 4, .rw, .warm, 15⟩
  | .MX_RAMP_CTRL_SPACING => ⟨4, 8, .rw, .warm, 25⟩
  | .MX_RAMP_CTRL_AUTO => ⟨16, 1, .rw, .warm, 1⟩
  | .MX_RAMP_MAP_LANES => ⟨0, 64, .rw, .warm, 18364758544493064720⟩
  | .MX_RAMP_STATUS_PENDING => ⟨0, 1, .ro, .warm, 0⟩
  | .MX_RAMP_STATUS_HELD => ⟨1, 1, .ro, .warm, 0⟩
  | .MX_RAMP_STATUS_WARM_ENG => ⟨16, 10, .ro, .warm, 0⟩
  | .TH_NACK_COUNT => ⟨0, 64, .ro, .warm, 0⟩
  | .TH_TICKET_COUNT => ⟨0, 64, .ro, .warm, 0⟩
  | .TH_TICKET_WAIT_MAX_COUNT => ⟨0, 64, .ro, .warm, 0⟩
  | .TH_PUSH_COUNT => ⟨0, 64, .ro, .warm, 0⟩
  | .TH_GUTTER_COUNT => ⟨0, 64, .ro, .warm, 0⟩
  | .TH_EPOCH_SWEEP_COUNT => ⟨0, 64, .ro, .warm, 0⟩
  | .DK_QOS_W_NORM => ⟨0, 8, .rw, .warm, 12⟩
  | .DK_QOS_W_BULK => ⟨8, 8, .rw, .warm, 3⟩
  | .DK_QOS_W_BACK => ⟨16, 8, .rw, .warm, 1⟩
  | .DK_QOS_CRIT_CAP => ⟨24, 7, .rw, .warm, 30⟩
  | .DK_SCRUB_CTRL_EN => ⟨0, 1, .rw, .warm, 1⟩
  | .DK_SCRUB_CTRL_PERIOD_H => ⟨8, 8, .rw, .warm, 24⟩
  | .DK_SCRUB_STATUS_PAGE => ⟨0, 23, .ro, .cold, 0⟩
  | .DK_SCRUB_STATUS_PASSES => ⟨32, 16, .ro, .cold, 0⟩
  | .DK_RETIRE_COUNT_COUNT => ⟨0, 15, .ro, .persist, 0⟩
  | .DK_RETIRE_COUNT_FULL => ⟨15, 1, .ro, .persist, 0⟩
  | .DK_RETIRE_COUNT_PENDING => ⟨16, 16, .ro, .cold, 0⟩
  | .DK_RETIRE_IDX_IDX => ⟨0, 14, .rw, .warm, 0⟩
  | .DK_RETIRE_DATA_PAGE => ⟨0, 23, .ro, .persist, 0⟩
  | .DK_RETIRE_DATA_REASON => ⟨24, 4, .ro, .persist, 0⟩
  | .DK_RETIRE_DATA_HOURS => ⟨32, 32, .ro, .persist, 0⟩
  | .DK_RETIRE_REQ_PAGE => ⟨0, 23, .wo, .none, 0⟩
  | .DK_CHAN_SEL_CHAN => ⟨0, 11, .rw, .warm, 0⟩
  | .DK_CHAN_STATUS_OWED => ⟨0, 4, .ro, .warm, 0⟩
  | .DK_CHAN_STATUS_AHEAD => ⟨4, 4, .ro, .warm, 0⟩
  | .DK_CHAN_STATUS_WCB => ⟨8, 7, .ro, .warm, 0⟩
  | .DK_CHAN_STATUS_HOT => ⟨15, 1, .ro, .warm, 0⟩
  | .DK_CHAN_STATUS_CRIT_PCT => ⟨16, 7, .ro, .warm, 0⟩
  | .DK_CHAN_STATUS_SELF_REFRESH => ⟨23, 1, .ro, .warm, 0⟩
  | .DK_CHAN_STATUS_DEGRADED_LANE => ⟨24, 6, .ro, .cold, 0⟩
  | .DK_CHAN_STATUS_CORR => ⟨32, 16, .ro, .warm, 0⟩
  | .DK_CHAN_STATUS_UNCORR => ⟨48, 8, .ro, .warm, 0⟩
  | .DK_TEMP_LAYER => ⟨0, 32, .ro, .cold, 0⟩
  | .DK_TEMP_MAX => ⟨32, 8, .ro, .cold, 0⟩
  | .DK_TEMP_HOT85 => ⟨40, 1, .ro, .cold, 0⟩
  | .DK_TEMP_CEIL90 => ⟨41, 1, .ro, .cold, 0⟩
  | .DK_TEMP_STOP95 => ⟨42, 1, .ro, .cold, 0⟩
  | .DK_ECC_CORRECTED => ⟨0, 32, .ro, .warm, 0⟩
  | .DK_ECC_UNCORRECTABLE => ⟨32, 16, .ro, .warm, 0⟩
  | .DK_ECC_MARKED => ⟨48, 16, .ro, .warm, 0⟩
  | .NET_CLOSED_CLOSED => ⟨0, 64, .ro, .die, 0⟩
  | .NET_RIDGE_CW_OPEN => ⟨0, 32, .ro, .die, 4294967295⟩
  | .NET_RIDGE_FP_OPEN => ⟨32, 8, .ro, .die, 255⟩
  | .NET_RIDGE_WM_OPEN => ⟨40, 4, .ro, .die, 15⟩
  | .NET_RIDGE_ISOLATED => ⟨44, 2, .ro, .die, 0⟩
  | .NET_RIDGE_RESYNC => ⟨46, 1, .ro, .die, 0⟩
  | .NET_RIDGE_RATIO_W => ⟨48, 4, .ro, .die, 0⟩
  | .NET_RIDGE_RATIO_E => ⟨52, 4, .ro, .die, 0⟩
  | .NET_RIDGE_RESYNCS => ⟨56, 8, .ro, .die, 0⟩
  | .NET_WMX_PEND_0 => ⟨0, 8, .ro, .die, 0⟩
  | .NET_WMB_PEND_0 => ⟨0, 8, .ro, .die, 0⟩
  | .NET_WMX_PEND_1 => ⟨8, 8, .ro, .die, 0⟩
  | .NET_WMB_PEND_1 => ⟨8, 8, .ro, .die, 0⟩
  | .NET_WMX_OVR_0 => ⟨16, 1, .w1c, .die, 0⟩
  | .NET_WMB_OVR_0 => ⟨16, 1, .w1c, .die, 0⟩
  | .NET_WMX_OVR_1 => ⟨17, 1, .w1c, .die, 0⟩
  | .NET_WMB_OVR_1 => ⟨17, 1, .w1c, .die, 0⟩
  | .NET_WMX_DROP_0 => ⟨32, 16, .ro, .die, 0⟩
  | .NET_WMB_DROP_0 => ⟨32, 16, .ro, .die, 0⟩
  | .NET_WMX_DROP_1 => ⟨48, 16, .ro, .die, 0⟩
  | .NET_WMB_DROP_1 => ⟨48, 16, .ro, .die, 0⟩
  | .LK_DEVNUM_DEV => ⟨0, 12, .rw, .warm, 0⟩
  | .LK_ROUTE_IDX_IDX => ⟨0, 12, .rw, .warm, 0⟩
  | .LK_ROUTE_DATA_PORT => ⟨0, 3, .rw, .warm, 0⟩
  | .LK_ROUTE_DATA_DIM => ⟨3, 2, .rw, .warm, 0⟩
  | .LK_ROUTE_DATA_VALID => ⟨7, 1, .rw, .warm, 0⟩
  | .LK_BCAST_ORIG => ⟨0, 8, .rw, .warm, 0⟩
  | .LK_BCAST_CONVOY => ⟨8, 8, .rw, .warm, 0⟩
  | .LK_CTRL_MAX_RATE => ⟨0, 2, .rw, .warm, 0⟩
  | .LK_CTRL_EN => ⟨2, 1, .rw, .warm, 0⟩
  | .LK_CTRL_RETRAIN => ⟨3, 1, .wo, .none, 0⟩
  | .LK_CTRL_FULL_WIDTH => ⟨4, 1, .rw, .warm, 0⟩
  | .LK_CTRL_DATELINE => ⟨5, 1, .rw, .warm, 0⟩
  | .LK_STATUS_STATE => ⟨0, 3, .ro, .warm, 0⟩
  | .LK_STATUS_RATE => ⟨3, 2, .ro, .warm, 0⟩
  | .LK_STATUS_WIDTH => ⟨5, 2, .ro, .warm, 0⟩
  | .LK_STATUS_FAULTY => ⟨8, 8, .ro, .warm, 0⟩
  | .LK_STATUS_PARTNER => ⟨16, 12, .ro, .warm, 0⟩
  | .LK_STATUS_PARTNER_TT => ⟨28, 1, .ro, .warm, 0⟩
  | .LK_STATUS_PARTNER_GEN => ⟨29, 3, .ro, .warm, 0⟩
  | .LK_STATUS_RETRAINS => ⟨32, 16, .ro, .warm, 0⟩
  | .LK_STATUS_DOWN_REASON => ⟨48, 8, .ro, .warm, 0⟩
  | .LK_ERR_CORR => ⟨0, 32, .ro, .warm, 0⟩
  | .LK_ERR_UNCORR => ⟨32, 12, .ro, .warm, 0⟩
  | .LK_ERR_REPLAYS => ⟨44, 12, .ro, .warm, 0⟩
  | .LK_ERR_MALFORMED => ⟨56, 8, .ro, .warm, 0⟩
  | .LK_TT_DELAY => ⟨0, 16, .ro, .warm, 0⟩
  | .LK_TT_OFFSET => ⟨16, 16, .ro, .warm, 0⟩
  | .LK_TT_VALID => ⟨32, 1, .ro, .warm, 0⟩
  | .LK_CONVOY_FWD => ⟨0, 8, .rw, .warm, 0⟩
  | .LK_CONVOY_LOCAL => ⟨8, 1, .rw, .warm, 0⟩
  | .HA_MODE_SPLIT_NEXT => ⟨0, 1, .rw, .persist, 0⟩
  | .HA_MODE_MAX_RATE_NEXT => ⟨1, 2, .rw, .persist, 0⟩
  | .HA_MODE_SPLIT => ⟨8, 1, .ro, .cold, 0⟩
  | .HA_MODE_MAX_RATE => ⟨9, 2, .ro, .cold, 0⟩
  | .HA_ID_INSTANCE => ⟨0, 7, .ro, .cold, 0⟩
  | .HA_ID_ATTACHMENT => ⟨8, 1, .ro, .cold, 0⟩
  | .HA_ID_SPLIT => ⟨9, 1, .ro, .cold, 0⟩
  | .HA_ID_RINGS => ⟨16, 5, .ro, .cold, 31⟩
  | .HA_ATTACH_ATTACH_GEN => ⟨0, 16, .ro, .warm, 0⟩
  | .HA_ATTACH_LOST => ⟨16, 1, .ro, .warm, 0⟩
  | .HA_ATTACH_ACK => ⟨32, 16, .wo, .none, 0⟩
  | .HDM_FLUSH_ATTACH_GEN => ⟨0, 16, .ro, .warm, 0⟩
  | .HA_LINK_MODE => ⟨0, 3, .ro, .cold, 0⟩
  | .HA_LINK_WIDTH => ⟨3, 5, .ro, .cold, 0⟩
  | .HA_LINK_VERGE => ⟨8, 1, .ro, .cold, 0⟩
  | .HA_LINK_RETRAINS => ⟨16, 16, .ro, .cold, 0⟩
  | .HA_LINK_LOSSES => ⟨32, 16, .ro, .cold, 0⟩
  | .HA_JNL_HEAD => ⟨0, 17, .ro, .warm, 0⟩
  | .HA_JNL_TAIL => ⟨17, 17, .rw, .warm, 0⟩
  | .HA_JNL_FULL => ⟨34, 1, .ro, .warm, 0⟩
  | .HA_JNL_DROPPED => ⟨48, 16, .ro, .warm, 0⟩
  | .RING_BASE_BASE => ⟨12, 52, .rw, .flr, 0⟩
  | .CQ_BASE_BASE => ⟨12, 52, .rw, .flr, 0⟩
  | .RING_CFG_EN => ⟨0, 1, .rw, .flr, 0⟩
  | .RING_CFG_SIZE => ⟨1, 4, .rw, .flr, 0⟩
  | .RING_CFG_CQ_SIZE => ⟨8, 4, .rw, .flr, 0⟩
  | .RING_STATUS_ACTIVE => ⟨0, 1, .ro, .flr, 0⟩
  | .RING_STATUS_DOORBELL_AHEAD => ⟨1, 1, .ro, .flr, 0⟩
  | .RING_STATUS_DOORBELL_RANGE => ⟨2, 1, .w1c, .flr, 0⟩
  | .RING_STATUS_CFG_ERR => ⟨3, 1, .w1c, .flr, 0⟩
  | .RING_STATUS_DETACHED => ⟨4, 1, .ro, .flr, 0⟩
  | .RING_STATUS_CQ_FULL => ⟨5, 1, .ro, .flr, 0⟩
  | .RING_STATUS_FETCH_ERR => ⟨6, 1, .w1c, .flr, 0⟩
  | .RING_STATUS_AHEAD_EVENTS => ⟨16, 16, .ro, .flr, 0⟩
  | .RING_STATUS_DB_PI => ⟨32, 32, .ro, .flr, 0⟩
  | .RING_CI_CI => ⟨0, 32, .ro, .flr, 0⟩
  | .CQ_HEAD_HEAD => ⟨0, 32, .rw, .flr, 0⟩
  | .CQ_TAIL_TAIL => ⟨0, 32, .ro, .flr, 0⟩
  | .DOORBELL_PI => ⟨0, 32, .wo, .none, 0⟩
  | .DOORBELL_RING => ⟨32, 5, .wo, .none, 0⟩
  | .TP_CFG_DEF_BUDGET => ⟨0, 24, .rw, .warm, 262144⟩
  | .TP_CFG_SLACK => ⟨24, 16, .rw, .warm, 2000⟩
  | .TP_CFG_PERIOD => ⟨40, 8, .rw, .warm, 10⟩
  | .TP_CTX_CMD_CONTEXT => ⟨0, 12, .wo, .none, 0⟩
  | .TP_CTX_CMD_OP => ⟨16, 4, .wo, .none, 0⟩
  | .TP_CTX_CMD_WEIGHT => ⟨32, 16, .wo, .none, 0⟩
  | .TP_CTX_ARG_ADDR => ⟨0, 40, .rw, .warm, 0⟩
  | .TP_CTX_RESULT_RESULT => ⟨0, 4, .ro, .warm, 0⟩
  | .TP_CTX_RESULT_BUSY => ⟨4, 1, .ro, .warm, 0⟩
  | .TP_CTX_SEL_CONTEXT => ⟨0, 12, .rw, .warm, 0⟩
  | .TP_CTX_STATUS_STATE => ⟨0, 3, .ro, .warm, 0⟩
  | .TP_CTX_STATUS_INSTANCE => ⟨8, 8, .ro, .warm, 0⟩
  | .TP_CTX_STATUS_FAR_TAG => ⟨16, 8, .ro, .warm, 0⟩
  | .TP_CTX_STATUS_FAR_EN => ⟨24, 1, .ro, .warm, 0⟩
  | .TP_CTX_STATUS_SLOWDOWN => ⟨32, 16, .ro, .warm, 256⟩
  | .TP_CTX_STATUS_CORES => ⟨48, 10, .ro, .warm, 0⟩
  | .TP_TOLL_SEL_KIND => ⟨0, 1, .rw, .warm, 0⟩
  | .TP_TOLL_SEL_NUMBER => ⟨1, 12, .rw, .warm, 0⟩
  | .TP_TOLL_COUNT => ⟨0, 64, .ro, .warm, 0⟩
  | .TP_EWEIGHT_PJ => ⟨0, 32, .rw, .warm, 0⟩
  | .TP_STATIC_WATTS => ⟨0, 16, .rw, .warm, 900⟩
  | .TP_SEQ_BASE_BASE => ⟨0, 40, .rw, .warm, 0⟩
  | .TP_CONVOY_IDX_IDX => ⟨0, 8, .rw, .warm, 0⟩
  | .TP_CONVOY_DATA_BASE => ⟨0, 12, .rw, .warm, 0⟩
  | .TP_CONVOY_DATA_LOG2 => ⟨12, 4, .rw, .warm, 0⟩
  | .TP_CONVOY_DATA_VALID => ⟨16, 1, .rw, .warm, 0⟩
  | .TP_CONVOY_DATA_DISCARDS => ⟨32, 16, .ro, .warm, 0⟩
  | .IN_SEL_INSTANCE => ⟨0, 7, .rw, .warm, 0⟩
  | .IN_CMD_OP => ⟨0, 4, .wo, .none, 0⟩
  | .IN_CMD_SECTION => ⟨16, 16, .wo, .none, 0⟩
  | .IN_ARG_ARG => ⟨0, 40, .rw, .warm, 0⟩
  | .IN_RESULT_RESULT => ⟨0, 4, .ro, .warm, 0⟩
  | .IN_RESULT_BUSY => ⟨4, 1, .ro, .warm, 0⟩
  | .IN_STATUS_STATE => ⟨0, 3, .ro, .warm, 0⟩
  | .IN_STATUS_GEN => ⟨8, 8, .ro, .warm, 0⟩
  | .IN_STATUS_RESET_DONE => ⟨16, 1, .w1c, .warm, 0⟩
  | .IN_STATUS_BY_FLR => ⟨17, 1, .ro, .warm, 0⟩
  | .IN_STATUS_STALE => ⟨32, 16, .ro, .warm, 0⟩
  | .IN_STATUS_UNITS => ⟨48, 9, .ro, .warm, 0⟩
  | .IN_CFG_ATTACH => ⟨0, 1, .rw, .warm, 0⟩
  | .IN_CFG_SCRUB_ON_RESET => ⟨1, 1, .rw, .warm, 1⟩
  | .IN_CFG_DRAIN_US => ⟨16, 16, .rw, .warm, 2000⟩
  | .IN_CFG_POOL_GIB => ⟨32, 8, .rw, .warm, 1⟩
  | .IN_RES_WAYS => ⟨0, 16, .rw, .warm, 65535⟩
  | .IN_RES_LINK_WEIGHT => ⟨16, 8, .rw, .warm, 16⟩
  | .IN_RES_SEQ_QUOTA => ⟨24, 22, .rw, .warm, 0⟩
  | .IN_WM_BASE => ⟨0, 12, .rw, .warm, 0⟩
  | .IN_WM_LOG2 => ⟨12, 4, .rw, .warm, 0⟩
  | .IN_CORES_CORES => ⟨0, 64, .rw, .warm, 0⟩
  | .IN_UNIT_IDX_UNIT => ⟨0, 9, .rw, .warm, 0⟩
  | .IN_UNIT_DATA_OWNER => ⟨0, 7, .ro, .warm, 0⟩
  | .IN_UNIT_DATA_STATE => ⟨8, 2, .ro, .warm, 0⟩
  | .IN_UNIT_DATA_RETIRED => ⟨16, 10, .ro, .warm, 0⟩
  | .SUP_BUS_VOLT => ⟨0, 16, .ro, .cold, 0⟩
  | .SUP_BUS_CURR => ⟨16, 16, .ro, .cold, 0⟩
  | .SUP_BUS_POWER => ⟨32, 16, .ro, .cold, 0⟩
  | .SUP_STBY_VOLT => ⟨0, 16, .ro, .cold, 0⟩
  | .SUP_STBY_CURR => ⟨16, 16, .ro, .cold, 0⟩
  | .SUP_CTRL_SHED_V => ⟨0, 16, .rw, .cold, 41000⟩
  | .SUP_CTRL_AUTO_SHED => ⟨16, 1, .rw, .cold, 1⟩
  | .SUP_CTRL_HOLD_V => ⟨32, 16, .rw, .cold, 40000⟩
  | .SUP_CTRL_AUTO_HOLD => ⟨48, 1, .rw, .cold, 1⟩
  | .MAINS_MEAS_HALF => ⟨0, 20, .ro, .cold, 0⟩
  | .MAINS_MEAS_AVG => ⟨20, 20, .ro, .cold, 0⟩
  | .MAINS_MEAS_VALID => ⟨40, 1, .ro, .cold, 0⟩
  | .MAINS_RMS_HALF => ⟨0, 16, .ro, .cold, 0⟩
  | .MAINS_RMS_CYCLE => ⟨16, 16, .ro, .cold, 0⟩
  | .MAINS_RMS_SENSE => ⟨32, 16, .ro, .cold, 0⟩
  | .PQ_CFG_NOMINAL_RMS => ⟨0, 16, .rw, .cold, 2300⟩
  | .PQ_CFG_SAG_PCT => ⟨16, 8, .rw, .cold, 90⟩
  | .PQ_CFG_SWELL_PCT => ⟨24, 8, .rw, .cold, 110⟩
  | .PQ_CFG_INTR_PCT => ⟨32, 8, .rw, .cold, 10⟩
  | .PQ_CFG_HYST_PCT => ⟨40, 8, .rw, .cold, 2⟩
  | .PQ_CFG_FREQ_BAND => ⟨48, 16, .rw, .cold, 100⟩
  | .PQ_HEAD_COUNT => ⟨0, 32, .ro, .cold, 0⟩
  | .PQ_HEAD_WRAPPED => ⟨32, 1, .ro, .cold, 0⟩
  | .PQ_IDX_SLOT => ⟨0, 12, .rw, .cold, 0⟩
  | .PQ_DATA_DATA => ⟨0, 64, .ro, .cold, 0⟩
  | .PQ_SUM_DATA => ⟨0, 64, .ro, .persist, 0⟩
  | .KB_CTRL_EN => ⟨0, 1, .rw, .cold, 1⟩
  | .KB_CTRL_LEVEL => ⟨8, 7, .rw, .cold, 25⟩
  | .KB_CTRL_EXIT_EDGES => ⟨16, 16, .rw, .cold, 100⟩
  | .KB_STATUS_SHED => ⟨0, 1, .ro, .cold, 0⟩
  | .KB_STATUS_KERB => ⟨1, 1, .ro, .cold, 0⟩
  | .KB_STATUS_BUS => ⟨2, 1, .ro, .cold, 0⟩
  | .KB_STATUS_ACK => ⟨3, 1, .ro, .cold, 0⟩
  | .KB_STATUS_CLK_LOST => ⟨4, 1, .ro, .cold, 0⟩
  | .KB_STATUS_LINE_ACK => ⟨5, 1, .ro, .cold, 0⟩
  | .KB_STATUS_COUNT => ⟨16, 32, .ro, .cold, 0⟩
  | .KB_LAST_MST => ⟨0, 64, .ro, .cold, 0⟩
  | .FR_CTRL_MODE => ⟨0, 2, .rw, .cold, 0⟩
  | .FR_CTRL_NOMINAL => ⟨8, 16, .rw, .cold, 50000⟩
  | .FR_CTRL_RISE => ⟨24, 8, .rw, .cold, 50⟩
  | .FR_CTRL_LEADER => ⟨32, 12, .rw, .cold, 0⟩
  | .FR_CTRL_TIMEOUT => ⟨44, 8, .rw, .cold, 6⟩
  | .FR_CTRL_LEAD => ⟨52, 12, .rw, .cold, 100⟩
  | .FR_STATUS_CAP_PM => ⟨0, 10, .ro, .cold, 1000⟩
  | .FR_STATUS_CURVE_PM => ⟨10, 10, .ro, .cold, 1000⟩
  | .FR_STATUS_LEADER_LOST => ⟨20, 1, .ro, .cold, 0⟩
  | .FR_STATUS_NO_MAINS => ⟨21, 1, .ro, .cold, 0⟩
  | .FR_STATUS_CFG_ERR => ⟨22, 1, .w1c, .cold, 0⟩
  | .FR_STATUS_LATE => ⟨32, 16, .ro, .cold, 0⟩
  | .FR_POINT_OFFSET => ⟨0, 16, .rw, .cold, 0⟩
  | .FR_POINT_CAP_PM => ⟨16, 10, .rw, .cold, 0⟩
  | .PW_DIE_CTRL_REQ_CODE => ⟨0, 6, .rw, .warm, 42⟩
  | .PW_DIE_CTRL_TRIM_CEIL => ⟨8, 6, .rw, .warm, 42⟩
  | .PW_DIE_STATUS_CODE => ⟨0, 6, .ro, .warm, 42⟩
  | .PW_DIE_STATUS_THERM_CEIL => ⟨8, 6, .ro, .warm, 56⟩
  | .PW_DIE_STATUS_AGE_CEIL => ⟨16, 6, .ro, .cold, 56⟩
  | .PW_DIE_STATUS_PACE_CEIL => ⟨24, 6, .ro, .warm, 56⟩
  | .PW_DIE_STATUS_TRANSITION => ⟨30, 1, .ro, .warm, 0⟩
  | .PW_DIE_STATUS_GRANT_HI => ⟨31, 1, .ro, .warm, 0⟩
  | .PW_DIE_STATUS_CAUSE => ⟨32, 6, .ro, .warm, 0⟩
  | .PW_DIE_STATUS_STEPS_DOWN => ⟨48, 16, .ro, .warm, 0⟩
  | .PW_HALF_CTRL_REQ_RATIO => ⟨0, 4, .rw, .warm, 0⟩
  | .PW_HALF_CTRL_DROOP_MV => ⟨8, 8, .rw, .warm, 40⟩
  | .PW_HALF_CTRL_PHASE_SHED => ⟨16, 1, .rw, .warm, 1⟩
  | .PW_HALF_STATUS_RATIO => ⟨0, 4, .ro, .warm, 0⟩
  | .PW_HALF_STATUS_PEAK => ⟨4, 1, .ro, .warm, 0⟩
  | .PW_HALF_STATUS_ALL_PHASES => ⟨5, 1, .ro, .warm, 0⟩
  | .PW_HALF_STATUS_I_NOW => ⟨8, 11, .ro, .warm, 0⟩
  | .PW_HALF_STATUS_I_1MS => ⟨19, 11, .ro, .warm, 0⟩
  | .PW_HALF_STATUS_I_100MS => ⟨30, 11, .ro, .warm, 0⟩
  | .PW_HALF_STATUS_DIDT => ⟨42, 6, .ro, .warm, 0⟩
  | .PW_HALF_STATUS_STRETCH => ⟨48, 16, .ro, .warm, 0⟩
  | .PW_LIMIT_TRIP_FAST => ⟨0, 11, .rw, .warm, 1550⟩
  | .PW_LIMIT_I_CONT => ⟨11, 11, .rw, .warm, 1300⟩
  | .PW_LIMIT_GRANT_PCT => ⟨32, 8, .rw, .warm, 85⟩
  | .PW_INPUT_P_LIM => ⟨0, 16, .ro, .warm, 9000⟩
  | .PW_INPUT_PEAK_OPEN => ⟨16, 1, .ro, .warm, 0⟩
  | .PW_INPUT_RECOVERY => ⟨17, 1, .ro, .warm, 0⟩
  | .PW_INPUT_PEAK_COUNT => ⟨32, 16, .ro, .warm, 0⟩
  | .PW_INPUT_PEAK_DENIED => ⟨48, 16, .ro, .warm, 0⟩
  | .PW_ENERGY_UJ => ⟨0, 64, .ro, .cold, 0⟩
  | .PW_CONVOY_CTRL_BEACON_EN => ⟨0, 1, .rw, .warm, 0⟩
  | .PW_CONVOY_CTRL_PACE_EN => ⟨1, 1, .rw, .warm, 0⟩
  | .PW_CONVOY_CTRL_PERIOD => ⟨8, 8, .rw, .warm, 10⟩
  | .PW_CONVOY_CTRL_STALE => ⟨16, 8, .rw, .warm, 3⟩
  | .PW_CONVOY_STATUS_SLOW_DEV => ⟨0, 12, .ro, .warm, 0⟩
  | .PW_CONVOY_STATUS_SLOW_VALID => ⟨12, 1, .ro, .warm, 0⟩
  | .PW_CONVOY_STATUS_THROTTLED => ⟨13, 1, .ro, .warm, 0⟩
  | .PW_CONVOY_STATUS_PACED => ⟨14, 1, .ro, .warm, 0⟩
  | .PW_CONVOY_STATUS_SLOW_PACE => ⟨16, 32, .ro, .warm, 0⟩
  | .PW_CONVOY_WAIT_NS => ⟨0, 64, .ro, .warm, 0⟩
  | .PW_CONVOY_PREV_DEV => ⟨0, 12, .ro, .warm, 0⟩
  | .PW_CONVOY_PREV_NS => ⟨16, 48, .ro, .warm, 0⟩
  | .PS_CTRL_REQ => ⟨0, 3, .wo, .none, 0⟩
  | .PS_CTRL_WARM_RESET => ⟨8, 1, .wo, .none, 0⟩
  | .PS_CTRL_COLD_RESET => ⟨9, 1, .wo, .none, 0⟩
  | .PS_CTRL_CLEAR_FAILS => ⟨10, 1, .wo, .none, 0⟩
  | .PS_CTRL_DIE_RESET => ⟨16, 4, .wo, .none, 0⟩
  | .PS_CORE_RESET_CORE => ⟨0, 10, .wo, .none, 0⟩
  | .PS_CORE_RESET_GO => ⟨15, 1, .wo, .none, 0⟩
  | .PS_STATUS_STATE => ⟨0, 3, .ro, .cold, 0⟩
  | .PS_STATUS_TRANSITION => ⟨3, 1, .ro, .cold, 0⟩
  | .PS_STATUS_DIE_DOWN => ⟨4, 4, .ro, .cold, 0⟩
  | .PS_STATUS_WAKE_CAUSE => ⟨8, 4, .ro, .cold, 0⟩
  | .PS_STATUS_LAST_RESET => ⟨12, 4, .ro, .cold, 0⟩
  | .PS_STATUS_HOLD_COUNT => ⟨16, 16, .ro, .cold, 0⟩
  | .PS_STATUS_HOLD_LOSS => ⟨32, 16, .ro, .cold, 0⟩
  | .PS_CFG_AUTO_WAKE => ⟨0, 1, .rw, .cold, 1⟩
  | .PS_CFG_LINK_WAKE => ⟨1, 1, .rw, .cold, 1⟩
  | .PS_CFG_WAKE_DELAY => ⟨8, 8, .rw, .cold, 10⟩
  | .PS_CFG_HOLD_MAX_S => ⟨16, 16, .rw, .cold, 0⟩
  | .PS_CFG_POOL0_GIB => ⟨32, 8, .rw, .warm, 1⟩
  | .PS_BOOT_FAILS => ⟨0, 4, .ro, .persist, 0⟩
  | .PS_BOOT_LAST_STEP => ⟨4, 4, .ro, .cold, 0⟩
  | .PS_BOOT_VERGE => ⟨8, 1, .ro, .cold, 0⟩
  | .PS_BOOT_BOOT_MS => ⟨16, 32, .ro, .cold, 0⟩
  | .PS_REPORT_REASON => ⟨0, 8, .ro, .persist, 0⟩
  | .PS_REPORT_STEP => ⟨8, 4, .ro, .persist, 0⟩
  | .PS_REPORT_DETAIL => ⟨16, 16, .ro, .persist, 0⟩
  | .PS_REPORT_START_S => ⟨32, 32, .ro, .persist, 0⟩
  | .PS_BANK_BANK_A => ⟨0, 8, .ro, .cold, 0⟩
  | .PS_BANK_BANK_B => ⟨8, 8, .ro, .cold, 0⟩
  | .PS_BANK_VER_A => ⟨16, 16, .ro, .cold, 0⟩
  | .PS_BANK_VER_B => ⟨32, 16, .ro, .cold, 0⟩
  | .SEC_STATUS_FAIL_A => ⟨0, 3, .ro, .cold, 0⟩
  | .SEC_STATUS_FAIL_B => ⟨3, 3, .ro, .cold, 0⟩
  | .SEC_STATUS_PREFERRED => ⟨6, 1, .ro, .persist, 0⟩
  | .SEC_STATUS_TRIAL => ⟨7, 1, .ro, .persist, 0⟩
  | .SEC_STATUS_DEBUG => ⟨8, 1, .ro, .cold, 0⟩
  | .SEC_STATUS_REVOKED => ⟨9, 2, .ro, .persist, 0⟩
  | .SEC_STATUS_MIN_SVN => ⟨16, 7, .ro, .persist, 0⟩
  | .SEC_CMD_OP => ⟨0, 4, .wo, .none, 0⟩
  | .SEC_CMD_INSTANCE => ⟨8, 7, .wo, .none, 0⟩
  | .SEC_ARG_ARG => ⟨0, 40, .rw, .warm, 0⟩
  | .SEC_RESULT_RESULT => ⟨0, 4, .ro, .warm, 0⟩
  | .SEC_RESULT_BUSY => ⟨4, 1, .ro, .warm, 0⟩
  | .RL_ERR_HEAD_COUNT => ⟨0, 32, .ro, .cold, 0⟩
  | .RL_ERR_HEAD_WRAPPED => ⟨32, 1, .ro, .cold, 0⟩
  | .RL_ERR_IDX_SLOT => ⟨0, 10, .rw, .cold, 0⟩
  | .RL_ERR_DATA_DATA => ⟨0, 64, .ro, .cold, 0⟩
  | .RL_CFG_CE_TEST => ⟨0, 8, .rw, .cold, 16⟩
  | .RL_CFG_AUTO_TEST => ⟨8, 1, .rw, .cold, 1⟩
  | .RL_FENCE_CORE => ⟨0, 10, .wo, .none, 0⟩
  | .RL_FENCE_MODE => ⟨12, 1, .wo, .none, 0⟩
  | .RL_FENCE_GO => ⟨15, 1, .wo, .none, 0⟩
  | .RL_FENCE_STATUS_CORE => ⟨0, 10, .ro, .cold, 0⟩
  | .RL_FENCE_STATUS_BUSY => ⟨16, 1, .ro, .cold, 0⟩
  | .RL_FENCE_STATUS_FENCES => ⟨32, 16, .ro, .cold, 0⟩
  | .RL_TEST_CTRL_CORE => ⟨0, 10, .wo, .none, 0⟩
  | .RL_TEST_CTRL_GO => ⟨15, 1, .wo, .none, 0⟩
  | .RL_TEST_CTRL_ABORT => ⟨16, 1, .wo, .none, 0⟩
  | .RL_TEST_STATUS_CORE => ⟨0, 10, .ro, .cold, 0⟩
  | .RL_TEST_STATUS_PHASE => ⟨10, 3, .ro, .cold, 0⟩
  | .RL_TEST_STATUS_STATE => ⟨13, 2, .ro, .cold, 0⟩
  | .RL_TEST_STATUS_ABORTED => ⟨15, 1, .ro, .cold, 0⟩
  | .RL_TEST_STATUS_REFUSED => ⟨16, 1, .w1c, .cold, 0⟩
  | .RL_TEST_STATUS_TESTS => ⟨32, 16, .ro, .cold, 0⟩
  | .RL_TEST_STATUS_FAILS => ⟨48, 16, .ro, .cold, 0⟩
  | .RL_AGE_CTRL_GO => ⟨0, 1, .wo, .none, 0⟩
  | .RL_AGE_CTRL_BUSY => ⟨1, 1, .ro, .cold, 0⟩
  | .RL_AGE_CFG_INTERVAL_H => ⟨0, 16, .rw, .cold, 1000⟩
  | .RL_AGE_CFG_G_BASE_MV => ⟨16, 8, .rw, .cold, 10⟩
  | .RL_AGE_CFG_MARGIN_MIN_MV => ⟨24, 8, .rw, .cold, 0⟩
  | .RL_AGE_CFG_RATED_WARN_MV => ⟨32, 8, .rw, .cold, 50⟩
  | .RL_AGE_SEL_HALF => ⟨0, 3, .rw, .cold, 0⟩
  | .RL_AGE_STATUS_D_MAX => ⟨0, 16, .ro, .persist, 0⟩
  | .RL_AGE_STATUS_DV_MV => ⟨16, 8, .ro, .persist, 10⟩
  | .RL_AGE_STATUS_CEIL => ⟨24, 6, .ro, .persist, 56⟩
  | .RL_AGE_STATUS_MARGIN_TOP => ⟨32, 16, .ro, .persist, 0⟩
  | .RL_AGE_STATUS_MARGIN_RATED => ⟨48, 16, .ro, .persist, 140⟩
  | .RL_AGE_HOURS_RUN_HOURS => ⟨0, 32, .ro, .persist, 0⟩
  | .RL_AGE_HOURS_LAST_RESURVEY_H => ⟨32, 32, .ro, .persist, 0⟩
  | .RG_ID_PART => ⟨0, 16, .ro, .persist, 18228⟩
  | .RG_ID_STEPPING => ⟨16, 8, .ro, .persist, 0⟩
  | .RG_MGMT_RD_EN => ⟨0, 1, .rw, .warm, 1⟩
  | .RG_MGMT_WR_EN => ⟨1, 1, .rw, .warm, 0⟩
  | .AT_INV_VA_VA => ⟨16, 32, .rw, .warm, 0⟩
  | .AT_INV_LEN_LEN => ⟨16, 32, .rw, .warm, 0⟩
  | .AT_INV_CMD_CONTEXT => ⟨0, 12, .wo, .none, 0⟩
  | .AT_INV_CMD_ALL => ⟨12, 1, .wo, .none, 0⟩
  | .AT_INV_CMD_GO => ⟨15, 1, .wo, .none, 0⟩
  | .AT_INV_STATUS_BUSY => ⟨0, 1, .ro, .warm, 0⟩
  | .AT_INV_STATUS_DONE => ⟨16, 32, .ro, .warm, 0⟩

/-- A register: its offset in the register space, the strides and counts of its copies, its fields. -/
structure RegRow where
  off : Nat
  dims : List (Nat × Nat)
  flds : List Fld
  deriving DecidableEq, Repr, Inhabited

/-- The register block of chapter 01. -/
def regsOrg : List RegRow := [
  ⟨0x10000, [(8, 13)], [.ORG_FACTORY_LIVE_LIVE]⟩,
  ⟨0x10080, [(8, 13)], [.ORG_LIVE_LIVE]⟩,
  ⟨0x10100, [], [.ORG_LIVE_COUNT_LIVE_M, .ORG_LIVE_COUNT_LIVE_V, .ORG_LIVE_COUNT_LIVE_S, .ORG_LIVE_COUNT_CHANGES]⟩,
  ⟨0x10108, [], [.ORG_FACTORY_COUNT_LIVE_M, .ORG_FACTORY_COUNT_LIVE_V, .ORG_FACTORY_COUNT_LIVE_S, .ORG_FACTORY_COUNT_CHANGES]⟩]

/-- The register block of chapter 02. -/
def regsMst : List RegRow := [
  ⟨0x20000, [], [.MST_NOW_MST]⟩,
  ⟨0x20008, [], [.MST_STATUS_SOURCE, .MST_STATUS_PPS_OK, .MST_STATUS_REF10_OK, .MST_STATUS_LINK_OK, .MST_STATUS_SLEWING, .MST_STATUS_STEPPED, .MST_STATUS_EPOCH, .MST_STATUS_NEXT_ARMED, .MST_STATUS_EPOCH_ERR, .MST_STATUS_UNCERT, .MST_STATUS_HOLDOVER_S]⟩,
  ⟨0x20010, [], [.MST_CTRL_REF_EN, .MST_CTRL_LINK_EN, .MST_CTRL_LINK_PORT, .MST_CTRL_STEP_OK]⟩,
  ⟨0x20018, [], [.MST_NEXT_PPS_NEXT]⟩,
  ⟨0x20020, [], [.MAINS_ANGLE_ANGLE]⟩,
  ⟨0x20028, [], [.MAINS_STATUS_LOCK, .MAINS_STATUS_FLYWHEEL, .MAINS_STATUS_VALID, .MAINS_STATUS_CYCLES]⟩,
  ⟨0x21000, [(64, 256)], [.MT_TIME_TIME]⟩,
  ⟨0x21008, [(64, 256)], [.MT_ANGLE_ANGLE]⟩,
  ⟨0x21010, [(64, 256)], [.MT_CTRL_ARMED, .MT_CTRL_KIND, .MT_CTRL_REPEAT, .MT_CTRL_ACTION, .MT_CTRL_OWNER, .MT_CTRL_MISSED, .MT_CTRL_FIRED, .MT_CTRL_LATE, .MT_CTRL_SUPPRESSED, .MT_CTRL_FENCED, .MT_CTRL_CLAMPED, .MT_CTRL_NO_MAINS, .MT_CTRL_FLYWHEEL, .MT_CTRL_ARM_ERR, .MT_CTRL_PERIOD]⟩,
  ⟨0x21018, [(64, 256)], [.MT_ARG0_ARG]⟩,
  ⟨0x21020, [(64, 256)], [.MT_ARG1_ARG]⟩,
  ⟨0x21028, [(64, 256)], [.MT_FIRE_MST_FIRE_MST]⟩,
  ⟨0x21030, [(64, 256)], [.MT_ARM_MST_ARM_MST]⟩]

/-- The register block of chapter 06. -/
def regsMatrix : List RegRow := [
  ⟨0x30000, [(8, 8)], [.MX_RAMP_CTRL_LANES, .MX_RAMP_CTRL_SPACING, .MX_RAMP_CTRL_AUTO]⟩,
  ⟨0x30040, [(32, 8), (8, 4)], [.MX_RAMP_MAP_LANES]⟩,
  ⟨0x30140, [(8, 8)], [.MX_RAMP_STATUS_PENDING, .MX_RAMP_STATUS_HELD, .MX_RAMP_STATUS_WARM_ENG]⟩]

/-- The register block of chapter 08. -/
def regsThatch : List RegRow := [
  ⟨0x40000, [(64, 4)], [.TH_NACK_COUNT]⟩,
  ⟨0x40008, [(64, 4)], [.TH_TICKET_COUNT]⟩,
  ⟨0x40010, [(64, 4)], [.TH_TICKET_WAIT_MAX_COUNT]⟩,
  ⟨0x40018, [(64, 4)], [.TH_PUSH_COUNT]⟩,
  ⟨0x40020, [(64, 4)], [.TH_GUTTER_COUNT]⟩,
  ⟨0x40028, [(64, 4)], [.TH_EPOCH_SWEEP_COUNT]⟩]

/-- The register block of chapter 09. -/
def regsDeck : List RegRow := [
  ⟨0x50000, [], [.DK_QOS_W_NORM, .DK_QOS_W_BULK, .DK_QOS_W_BACK, .DK_QOS_CRIT_CAP]⟩,
  ⟨0x50008, [], [.DK_SCRUB_CTRL_EN, .DK_SCRUB_CTRL_PERIOD_H]⟩,
  ⟨0x50010, [], [.DK_SCRUB_STATUS_PAGE, .DK_SCRUB_STATUS_PASSES]⟩,
  ⟨0x50018, [], [.DK_RETIRE_COUNT_COUNT, .DK_RETIRE_COUNT_FULL, .DK_RETIRE_COUNT_PENDING]⟩,
  ⟨0x50020, [], [.DK_RETIRE_IDX_IDX]⟩,
  ⟨0x50028, [], [.DK_RETIRE_DATA_PAGE, .DK_RETIRE_DATA_REASON, .DK_RETIRE_DATA_HOURS]⟩,
  ⟨0x50030, [], [.DK_RETIRE_REQ_PAGE]⟩,
  ⟨0x50038, [], [.DK_CHAN_SEL_CHAN]⟩,
  ⟨0x50040, [], [.DK_CHAN_STATUS_OWED, .DK_CHAN_STATUS_AHEAD, .DK_CHAN_STATUS_WCB, .DK_CHAN_STATUS_HOT, .DK_CHAN_STATUS_CRIT_PCT, .DK_CHAN_STATUS_SELF_REFRESH, .DK_CHAN_STATUS_DEGRADED_LANE, .DK_CHAN_STATUS_CORR, .DK_CHAN_STATUS_UNCORR]⟩,
  ⟨0x50060, [(8, 4)], [.DK_TEMP_LAYER, .DK_TEMP_MAX, .DK_TEMP_HOT85, .DK_TEMP_CEIL90, .DK_TEMP_STOP95]⟩,
  ⟨0x50080, [(8, 4)], [.DK_ECC_CORRECTED, .DK_ECC_UNCORRECTABLE, .DK_ECC_MARKED]⟩]

/-- The register block of chapter 10. -/
def regsNet : List RegRow := [
  ⟨0x60000, [(16, 8), (8, 2)], [.NET_CLOSED_CLOSED]⟩,
  ⟨0x60080, [(8, 4)], [.NET_RIDGE_CW_OPEN, .NET_RIDGE_FP_OPEN, .NET_RIDGE_WM_OPEN, .NET_RIDGE_ISOLATED, .NET_RIDGE_RESYNC, .NET_RIDGE_RATIO_W, .NET_RIDGE_RATIO_E, .NET_RIDGE_RESYNCS]⟩,
  ⟨0x600a0, [(32, 4), (8, 4)], [.NET_WMX_PEND_0, .NET_WMX_PEND_1, .NET_WMX_OVR_0, .NET_WMX_OVR_1, .NET_WMX_DROP_0, .NET_WMX_DROP_1]⟩,
  ⟨0x60120, [(8, 8)], [.NET_WMB_PEND_0, .NET_WMB_PEND_1, .NET_WMB_OVR_0, .NET_WMB_OVR_1, .NET_WMB_DROP_0, .NET_WMB_DROP_1]⟩]

/-- The register block of chapter 11. -/
def regsLink : List RegRow := [
  ⟨0x70000, [], [.LK_DEVNUM_DEV]⟩,
  ⟨0x70008, [], [.LK_ROUTE_IDX_IDX]⟩,
  ⟨0x70010, [], [.LK_ROUTE_DATA_PORT, .LK_ROUTE_DATA_DIM, .LK_ROUTE_DATA_VALID]⟩,
  ⟨0x70018, [], [.LK_BCAST_ORIG, .LK_BCAST_CONVOY]⟩,
  ⟨0x70100, [(64, 8)], [.LK_CTRL_MAX_RATE, .LK_CTRL_EN, .LK_CTRL_RETRAIN, .LK_CTRL_FULL_WIDTH, .LK_CTRL_DATELINE]⟩,
  ⟨0x70108, [(64, 8)], [.LK_STATUS_STATE, .LK_STATUS_RATE, .LK_STATUS_WIDTH, .LK_STATUS_FAULTY, .LK_STATUS_PARTNER, .LK_STATUS_PARTNER_TT, .LK_STATUS_PARTNER_GEN, .LK_STATUS_RETRAINS, .LK_STATUS_DOWN_REASON]⟩,
  ⟨0x70110, [(64, 8)], [.LK_ERR_CORR, .LK_ERR_UNCORR, .LK_ERR_REPLAYS, .LK_ERR_MALFORMED]⟩,
  ⟨0x70118, [(64, 8)], [.LK_TT_DELAY, .LK_TT_OFFSET, .LK_TT_VALID]⟩,
  ⟨0x70120, [(64, 8)], [.LK_CONVOY_FWD, .LK_CONVOY_LOCAL]⟩]

/-- The function register block (offsets in BAR0 or BAR2 of a function, R312) of chapter 12. -/
def regsFn : List RegRow := [
  ⟨0x0, [], [.HA_ID_INSTANCE, .HA_ID_ATTACHMENT, .HA_ID_SPLIT, .HA_ID_RINGS]⟩,
  ⟨0x8, [], [.HA_ATTACH_ATTACH_GEN, .HA_ATTACH_LOST, .HA_ATTACH_ACK]⟩,
  ⟨0x10, [], [.HDM_FLUSH_ATTACH_GEN]⟩,
  ⟨0x18, [], [.HA_LINK_MODE, .HA_LINK_WIDTH, .HA_LINK_VERGE, .HA_LINK_RETRAINS, .HA_LINK_LOSSES]⟩,
  ⟨0x20, [], [.HA_JNL_HEAD, .HA_JNL_TAIL, .HA_JNL_FULL, .HA_JNL_DROPPED]⟩,
  ⟨0x28, [], [.HA_MODE_SPLIT_NEXT, .HA_MODE_MAX_RATE_NEXT, .HA_MODE_SPLIT, .HA_MODE_MAX_RATE]⟩,
  ⟨0x100, [(64, 32)], [.RING_BASE_BASE]⟩,
  ⟨0x108, [(64, 32)], [.RING_CFG_EN, .RING_CFG_SIZE, .RING_CFG_CQ_SIZE]⟩,
  ⟨0x110, [(64, 32)], [.CQ_BASE_BASE]⟩,
  ⟨0x118, [(64, 32)], [.RING_STATUS_ACTIVE, .RING_STATUS_DOORBELL_AHEAD, .RING_STATUS_DOORBELL_RANGE, .RING_STATUS_CFG_ERR, .RING_STATUS_DETACHED, .RING_STATUS_CQ_FULL, .RING_STATUS_FETCH_ERR, .RING_STATUS_AHEAD_EVENTS, .RING_STATUS_DB_PI]⟩,
  ⟨0x120, [(64, 32)], [.RING_CI_CI]⟩,
  ⟨0x128, [(64, 32)], [.CQ_HEAD_HEAD]⟩,
  ⟨0x130, [(64, 32)], [.CQ_TAIL_TAIL]⟩,
  ⟨0x8000, [], [.DOORBELL_PI, .DOORBELL_RING]⟩]

/-- The register block of chapter 13. -/
def regsTurnpike : List RegRow := [
  ⟨0x80000, [], [.TP_CFG_DEF_BUDGET, .TP_CFG_SLACK, .TP_CFG_PERIOD]⟩,
  ⟨0x80008, [], [.TP_CTX_CMD_CONTEXT, .TP_CTX_CMD_OP, .TP_CTX_CMD_WEIGHT]⟩,
  ⟨0x80010, [], [.TP_CTX_ARG_ADDR]⟩,
  ⟨0x80018, [], [.TP_CTX_RESULT_RESULT, .TP_CTX_RESULT_BUSY]⟩,
  ⟨0x80020, [], [.TP_CTX_SEL_CONTEXT]⟩,
  ⟨0x80028, [], [.TP_CTX_STATUS_STATE, .TP_CTX_STATUS_INSTANCE, .TP_CTX_STATUS_FAR_TAG, .TP_CTX_STATUS_FAR_EN, .TP_CTX_STATUS_SLOWDOWN, .TP_CTX_STATUS_CORES]⟩,
  ⟨0x80030, [], [.TP_TOLL_SEL_KIND, .TP_TOLL_SEL_NUMBER]⟩,
  ⟨0x80040, [(8, 8)], [.TP_TOLL_COUNT]⟩,
  ⟨0x80080, [(8, 7)], [.TP_EWEIGHT_PJ]⟩,
  ⟨0x800c0, [], [.TP_STATIC_WATTS]⟩,
  ⟨0x800c8, [], [.TP_SEQ_BASE_BASE]⟩,
  ⟨0x800d0, [], [.TP_CONVOY_IDX_IDX]⟩,
  ⟨0x800d8, [], [.TP_CONVOY_DATA_BASE, .TP_CONVOY_DATA_LOG2, .TP_CONVOY_DATA_VALID, .TP_CONVOY_DATA_DISCARDS]⟩]

/-- The register block of chapter 14. -/
def regsInst : List RegRow := [
  ⟨0x100000, [], [.IN_SEL_INSTANCE]⟩,
  ⟨0x100008, [], [.IN_CMD_OP, .IN_CMD_SECTION]⟩,
  ⟨0x100010, [], [.IN_ARG_ARG]⟩,
  ⟨0x100018, [], [.IN_RESULT_RESULT, .IN_RESULT_BUSY]⟩,
  ⟨0x100020, [], [.IN_STATUS_STATE, .IN_STATUS_GEN, .IN_STATUS_RESET_DONE, .IN_STATUS_BY_FLR, .IN_STATUS_STALE, .IN_STATUS_UNITS]⟩,
  ⟨0x100028, [], [.IN_CFG_ATTACH, .IN_CFG_SCRUB_ON_RESET, .IN_CFG_DRAIN_US, .IN_CFG_POOL_GIB]⟩,
  ⟨0x100030, [], [.IN_RES_WAYS, .IN_RES_LINK_WEIGHT, .IN_RES_SEQ_QUOTA]⟩,
  ⟨0x100038, [], [.IN_WM_BASE, .IN_WM_LOG2]⟩,
  ⟨0x100040, [(8, 13)], [.IN_CORES_CORES]⟩,
  ⟨0x1000c0, [], [.IN_UNIT_IDX_UNIT]⟩,
  ⟨0x1000c8, [], [.IN_UNIT_DATA_OWNER, .IN_UNIT_DATA_STATE, .IN_UNIT_DATA_RETIRED]⟩]

/-- The register block of chapter 15. -/
def regsSupply : List RegRow := [
  ⟨0x90000, [], [.SUP_BUS_VOLT, .SUP_BUS_CURR, .SUP_BUS_POWER]⟩,
  ⟨0x90008, [], [.SUP_STBY_VOLT, .SUP_STBY_CURR]⟩,
  ⟨0x90010, [], [.SUP_CTRL_SHED_V, .SUP_CTRL_AUTO_SHED, .SUP_CTRL_HOLD_V, .SUP_CTRL_AUTO_HOLD]⟩,
  ⟨0x90018, [], [.MAINS_MEAS_HALF, .MAINS_MEAS_AVG, .MAINS_MEAS_VALID]⟩,
  ⟨0x90020, [], [.MAINS_RMS_HALF, .MAINS_RMS_CYCLE, .MAINS_RMS_SENSE]⟩,
  ⟨0x90028, [], [.PQ_CFG_NOMINAL_RMS, .PQ_CFG_SAG_PCT, .PQ_CFG_SWELL_PCT, .PQ_CFG_INTR_PCT, .PQ_CFG_HYST_PCT, .PQ_CFG_FREQ_BAND]⟩,
  ⟨0x90030, [], [.PQ_HEAD_COUNT, .PQ_HEAD_WRAPPED]⟩,
  ⟨0x90038, [], [.PQ_IDX_SLOT]⟩,
  ⟨0x90040, [(8, 4)], [.PQ_DATA_DATA]⟩,
  ⟨0x90060, [], [.KB_CTRL_EN, .KB_CTRL_LEVEL, .KB_CTRL_EXIT_EDGES]⟩,
  ⟨0x90068, [], [.KB_STATUS_SHED, .KB_STATUS_KERB, .KB_STATUS_BUS, .KB_STATUS_ACK, .KB_STATUS_CLK_LOST, .KB_STATUS_LINE_ACK, .KB_STATUS_COUNT]⟩,
  ⟨0x90070, [], [.KB_LAST_MST]⟩,
  ⟨0x90078, [], [.FR_CTRL_MODE, .FR_CTRL_NOMINAL, .FR_CTRL_RISE, .FR_CTRL_LEADER, .FR_CTRL_TIMEOUT, .FR_CTRL_LEAD]⟩,
  ⟨0x90080, [], [.FR_STATUS_CAP_PM, .FR_STATUS_CURVE_PM, .FR_STATUS_LEADER_LOST, .FR_STATUS_NO_MAINS, .FR_STATUS_CFG_ERR, .FR_STATUS_LATE]⟩,
  ⟨0x900c0, [(8, 8)], [.FR_POINT_OFFSET, .FR_POINT_CAP_PM]⟩,
  ⟨0x90100, [(8, 8)], [.PQ_SUM_DATA]⟩]

/-- The register block of chapter 16. -/
def regsPower : List RegRow := [
  ⟨0xa0000, [(8, 4)], [.PW_DIE_CTRL_REQ_CODE, .PW_DIE_CTRL_TRIM_CEIL]⟩,
  ⟨0xa0020, [(8, 4)], [.PW_DIE_STATUS_CODE, .PW_DIE_STATUS_THERM_CEIL, .PW_DIE_STATUS_AGE_CEIL, .PW_DIE_STATUS_PACE_CEIL, .PW_DIE_STATUS_TRANSITION, .PW_DIE_STATUS_GRANT_HI, .PW_DIE_STATUS_CAUSE, .PW_DIE_STATUS_STEPS_DOWN]⟩,
  ⟨0xa0040, [(8, 8)], [.PW_HALF_CTRL_REQ_RATIO, .PW_HALF_CTRL_DROOP_MV, .PW_HALF_CTRL_PHASE_SHED]⟩,
  ⟨0xa0080, [(8, 8)], [.PW_HALF_STATUS_RATIO, .PW_HALF_STATUS_PEAK, .PW_HALF_STATUS_ALL_PHASES, .PW_HALF_STATUS_I_NOW, .PW_HALF_STATUS_I_1MS, .PW_HALF_STATUS_I_100MS, .PW_HALF_STATUS_DIDT, .PW_HALF_STATUS_STRETCH]⟩,
  ⟨0xa00c0, [], [.PW_LIMIT_TRIP_FAST, .PW_LIMIT_I_CONT, .PW_LIMIT_GRANT_PCT]⟩,
  ⟨0xa00c8, [], [.PW_INPUT_P_LIM, .PW_INPUT_PEAK_OPEN, .PW_INPUT_RECOVERY, .PW_INPUT_PEAK_COUNT, .PW_INPUT_PEAK_DENIED]⟩,
  ⟨0xa00d0, [], [.PW_ENERGY_UJ]⟩,
  ⟨0xa00d8, [], [.PW_CONVOY_CTRL_BEACON_EN, .PW_CONVOY_CTRL_PACE_EN, .PW_CONVOY_CTRL_PERIOD, .PW_CONVOY_CTRL_STALE]⟩,
  ⟨0xa00e0, [], [.PW_CONVOY_STATUS_SLOW_DEV, .PW_CONVOY_STATUS_SLOW_VALID, .PW_CONVOY_STATUS_THROTTLED, .PW_CONVOY_STATUS_PACED, .PW_CONVOY_STATUS_SLOW_PACE]⟩,
  ⟨0xa00e8, [], [.PW_CONVOY_WAIT_NS]⟩,
  ⟨0xa00f0, [], [.PW_CONVOY_PREV_DEV, .PW_CONVOY_PREV_NS]⟩]

/-- The register block of chapter 17. -/
def regsPState : List RegRow := [
  ⟨0xb0000, [], [.PS_CTRL_REQ, .PS_CTRL_WARM_RESET, .PS_CTRL_COLD_RESET, .PS_CTRL_CLEAR_FAILS, .PS_CTRL_DIE_RESET]⟩,
  ⟨0xb0008, [], [.PS_STATUS_STATE, .PS_STATUS_TRANSITION, .PS_STATUS_DIE_DOWN, .PS_STATUS_WAKE_CAUSE, .PS_STATUS_LAST_RESET, .PS_STATUS_HOLD_COUNT, .PS_STATUS_HOLD_LOSS]⟩,
  ⟨0xb0010, [], [.PS_CFG_AUTO_WAKE, .PS_CFG_LINK_WAKE, .PS_CFG_WAKE_DELAY, .PS_CFG_HOLD_MAX_S, .PS_CFG_POOL0_GIB]⟩,
  ⟨0xb0018, [], [.PS_BOOT_FAILS, .PS_BOOT_LAST_STEP, .PS_BOOT_VERGE, .PS_BOOT_BOOT_MS]⟩,
  ⟨0xb0020, [(8, 3)], [.PS_REPORT_REASON, .PS_REPORT_STEP, .PS_REPORT_DETAIL, .PS_REPORT_START_S]⟩,
  ⟨0xb0038, [], [.PS_BANK_BANK_A, .PS_BANK_BANK_B, .PS_BANK_VER_A, .PS_BANK_VER_B]⟩,
  ⟨0xb0040, [], [.PS_CORE_RESET_CORE, .PS_CORE_RESET_GO]⟩]

/-- The register block of chapter 18. -/
def regsSec : List RegRow := [
  ⟨0xc0000, [], [.SEC_STATUS_FAIL_A, .SEC_STATUS_FAIL_B, .SEC_STATUS_PREFERRED, .SEC_STATUS_TRIAL, .SEC_STATUS_DEBUG, .SEC_STATUS_REVOKED, .SEC_STATUS_MIN_SVN]⟩,
  ⟨0xc0008, [], [.SEC_CMD_OP, .SEC_CMD_INSTANCE]⟩,
  ⟨0xc0010, [], [.SEC_ARG_ARG]⟩,
  ⟨0xc0018, [], [.SEC_RESULT_RESULT, .SEC_RESULT_BUSY]⟩]

/-- The register block of chapter 19. -/
def regsRel : List RegRow := [
  ⟨0xd0000, [], [.RL_ERR_HEAD_COUNT, .RL_ERR_HEAD_WRAPPED]⟩,
  ⟨0xd0008, [], [.RL_ERR_IDX_SLOT]⟩,
  ⟨0xd0040, [(8, 8)], [.RL_ERR_DATA_DATA]⟩,
  ⟨0xd0080, [], [.RL_FENCE_CORE, .RL_FENCE_MODE, .RL_FENCE_GO]⟩,
  ⟨0xd0088, [], [.RL_FENCE_STATUS_CORE, .RL_FENCE_STATUS_BUSY, .RL_FENCE_STATUS_FENCES]⟩,
  ⟨0xd0090, [], [.RL_TEST_CTRL_CORE, .RL_TEST_CTRL_GO, .RL_TEST_CTRL_ABORT]⟩,
  ⟨0xd0098, [], [.RL_TEST_STATUS_CORE, .RL_TEST_STATUS_PHASE, .RL_TEST_STATUS_STATE, .RL_TEST_STATUS_ABORTED, .RL_TEST_STATUS_REFUSED, .RL_TEST_STATUS_TESTS, .RL_TEST_STATUS_FAILS]⟩,
  ⟨0xd00a0, [], [.RL_CFG_CE_TEST, .RL_CFG_AUTO_TEST]⟩,
  ⟨0xd00c0, [], [.RL_AGE_CTRL_GO, .RL_AGE_CTRL_BUSY]⟩,
  ⟨0xd00c8, [], [.RL_AGE_CFG_INTERVAL_H, .RL_AGE_CFG_G_BASE_MV, .RL_AGE_CFG_MARGIN_MIN_MV, .RL_AGE_CFG_RATED_WARN_MV]⟩,
  ⟨0xd00d0, [], [.RL_AGE_SEL_HALF]⟩,
  ⟨0xd00d8, [], [.RL_AGE_STATUS_D_MAX, .RL_AGE_STATUS_DV_MV, .RL_AGE_STATUS_CEIL, .RL_AGE_STATUS_MARGIN_TOP, .RL_AGE_STATUS_MARGIN_RATED]⟩,
  ⟨0xd00e0, [], [.RL_AGE_HOURS_RUN_HOURS, .RL_AGE_HOURS_LAST_RESURVEY_H]⟩]

/-- The register block of chapter 20. -/
def regsMap : List RegRow := [
  ⟨0x0, [], [.RG_ID_PART, .RG_ID_STEPPING]⟩,
  ⟨0x8, [], [.RG_MGMT_RD_EN, .RG_MGMT_WR_EN]⟩,
  ⟨0x10, [], [.AT_INV_VA_VA]⟩,
  ⟨0x18, [], [.AT_INV_LEN_LEN]⟩,
  ⟨0x20, [], [.AT_INV_CMD_CONTEXT, .AT_INV_CMD_ALL, .AT_INV_CMD_GO]⟩,
  ⟨0x28, [], [.AT_INV_STATUS_BUSY, .AT_INV_STATUS_DONE]⟩]

/-- Every register of the device register space (R487). -/
def regTable : List RegRow :=
  regsOrg ++ regsMst ++ regsMatrix ++ regsThatch ++ regsDeck ++ regsNet ++ regsLink ++ regsTurnpike ++ regsInst ++ regsSupply ++ regsPower ++ regsPState ++ regsSec ++ regsRel ++ regsMap

/-- The default curve of R396: offsets as 16-bit two's complement, caps in per mille. -/
def frCurve : List (Nat × Nat) :=
  [(0xF448, 250), (0xFC18, 250), (0xFE0C, 400), (0xFED4, 600), (0xFF9C, 900), (0xFFEC, 1000), (0x0000, 1000), (0x0BB8, 1000)]

/-- The default of field `f` of copy `i` of its register: the table's value, or the values that the spec gives per copy (R356, R396). -/
def Fld.dflt (f : Fld) (i : Nat) : Nat :=
  match f with
  | .FR_POINT_OFFSET => (frCurve.getD i (0, 0)).1
  | .FR_POINT_CAP_PM => (frCurve.getD i (0, 0)).2
  | .TP_EWEIGHT_PJ => [150, 900, 100, 900, 10, 80, 16].getD i 0
  | _ => f.spec.dflt

/-- The key of field `f` of copy `i` in `State.flds`. -/
def Fld.key (f : Fld) (i : Nat) : Nat := f.ctorIdx * 4194304 + i % 4194304

end Sys2Proof.Machine
end

