-- ==== Sys2Proof/Machine/Ops.lean ====
section
/-! DEFINITION. Named operations on sparse maps, register fields, memory bytes, clocks and free values: the only ways in which the meanings
touch `State.flds` and `State.mem`. -/

namespace Sys2Proof.Machine

/-- What a command's meaning answers: every command of this block has a next state (log 2, DESIGN CHOICE). -/
abbrev Out := Host.Outcome State Fault Refusal

/-! ### Sparse maps -/

/-- Keys strictly rising: the canonical form of a sparse map. -/
abbrev SMap.wf {V : Type} (m : SMap V) : Prop := m.Pairwise (fun a b => a.1 < b.1)

/-- The value at a key. -/
def SMap.get {V : Type} : SMap V → Nat → Option V
  | [], _ => none
  | (a, v) :: t, k => if a = k then some v else SMap.get t k

/-- The value at a key, with what an absent key means. -/
def SMap.getD {V : Type} (m : SMap V) (k : Nat) (d : V) : V := (m.get k).getD d

/-- Put a value at a key, keeping the order. -/
def SMap.put {V : Type} : SMap V → Nat → V → SMap V
  | [], k, v => [(k, v)]
  | (a, w) :: t, k, v => if k < a then (k, v) :: (a, w) :: t else if k = a then (k, v) :: t else (a, w) :: SMap.put t k v

/-- Remove a key. -/
def SMap.del {V : Type} (m : SMap V) (k : Nat) : SMap V := m.filter (fun e => e.1 ≠ k)

/-- Set a value, where an absent key means `d`: writing `d` removes the entry. -/
def SMap.set {V : Type} [DecidableEq V] (m : SMap V) (k : Nat) (d v : V) : SMap V := if v = d then m.del k else m.put k v

/-- The keys. -/
def SMap.keys {V : Type} (m : SMap V) : List Nat := m.map (·.1)

/-- Change every value, keeping the keys. -/
def SMap.mapV {V : Type} (m : SMap V) (f : Nat → V → V) : SMap V := m.map (fun e => (e.1, f e.1 e.2))

/-! ### Register fields -/

/-- Field `f` of copy `i`: the value written, or the default (R5). -/
def rd (s : State) (f : Fld) (i : Nat := 0) : Nat := s.flds.getD (f.key i) (f.dflt i)

/-- Give field `f` of copy `i` a value, cut to the field's width. -/
def wr (s : State) (f : Fld) (i v : Nat) : State :=
  { s with flds := s.flds.set (f.key i) (f.dflt i) (v % 2 ^ f.spec.w) }

/-- One-copy forms. -/
def wr0 (s : State) (f : Fld) (v : Nat) : State := wr s f 0 v

/-- Count modulo the field's width. -/
def bump (s : State) (f : Fld) (i : Nat := 0) : State := wr s f i (rd s f i + 1)

/-- Count, saturating at the field's largest value. -/
def bumpSat (s : State) (f : Fld) (i : Nat := 0) (by_ : Nat := 1) : State := wr s f i (min (rd s f i + by_) (2 ^ f.spec.w - 1))

/-- A one-bit field as a Boolean. -/
def flag (s : State) (f : Fld) (i : Nat := 0) : Bool := rd s f i ≠ 0

/-- Set or clear a one-bit field. -/
def setFlag (s : State) (f : Fld) (i : Nat) (b : Bool) : State := wr s f i b.toNat

/-! ### Free values (log 7, DESIGN CHOICE) -/

/-- A value that the spec leaves open, fresh at each use. -/
def free (s : State) : Nat × State := (Config.freeNat s.freeCtr, { s with freeCtr := s.freeCtr + 1 })

/-! ### Memory of the local space (R485) -/

/-- Bytes of the deck: 384 GiB (R1). -/
def deckBytes : Nat := 0x6000000000
/-- Bytes of one die's deck. -/
def dieBytes : Nat := 0x1800000000
/-- Base of the loft windows (R485). -/
def loftBase : Nat := 0xE000000000
/-- Size of one core's window. -/
def loftStride : Nat := 0x400000

/-- A byte of the local space; what nothing has written reads as 0 (log 8, DESIGN CHOICE). -/
def readByte (m : List Host.Cell) (a : Nat) : Byte := SMap.getD m a 0

/-- Write a byte; writing 0 removes the entry. -/
def writeByte (m : List Host.Cell) (a : Nat) (b : Byte) : List Host.Cell := SMap.set m a 0 b

/-- The canonical form of memory: addresses strictly rising, no entry equal to 0. -/
abbrev Memory.wf (m : List Host.Cell) : Prop := SMap.wf m ∧ ∀ c ∈ m, c.2 ≠ 0

/-- `n` bytes from `a`, lowest address first. -/
def readBytes (m : List Host.Cell) (a n : Nat) : List Byte := (List.range n).map (fun k => readByte m (a + k))

/-- Write bytes from `a` up. -/
def writeBytes (m : List Host.Cell) (a : Nat) : List Byte → List Host.Cell
  | [] => m
  | b :: t => writeBytes (writeByte m a b) (a + 1) t

/-- Bytes as a little-endian number (R3). -/
def leNat : List Byte → Nat
  | [] => 0
  | b :: t => b.toNat + 256 * leNat t

/-- A number as `n` little-endian bytes (R3). -/
def natLe : Nat → Nat → List Byte
  | 0, _ => []
  | n + 1, v => BitVec.ofNat 8 v :: natLe n (v / 256)

/-- A number of `n` bytes at `a`. -/
def readNat (m : List Host.Cell) (a n : Nat) : Nat := leNat (readBytes m a n)

/-- Write a number of `n` bytes at `a`. -/
def writeNat (m : List Host.Cell) (a n v : Nat) : List Host.Cell := writeBytes m a (natLe n v)

/-- The 64 bytes of a local line, as they stand in memory. -/
def memLine (m : List Host.Cell) (line : Nat) : Line := BitVec.ofNat 512 (readNat m (line * 64) 64)

/-- Bytes `[lo, hi)` of a number laid out little-endian: field access in records. -/
def bits (v lo w : Nat) : Nat := (v / 2 ^ lo) % 2 ^ w

/-- A number's bit. -/
def tb (v i : Nat) : Bool := v.testBit i

/-- Sign-extend a `w`-bit number. -/
def sext (w v : Nat) : Int := if v.testBit (w - 1) then (v : Int) - 2 ^ w else v

/-- An integer as a `w`-bit number. -/
def wrap (w : Nat) (z : Int) : Nat := (z % 2 ^ w).toNat

/-- Whether a bit of a mask is set. -/
def has {w : Nat} (m : BitVec w) (i : Nat) : Bool := m.getLsbD i

/-- The mask with bit `i` set. -/
def bit (w i : Nat) : BitVec w := BitVec.ofNat w (2 ^ i)

/-- Byte mask `m` of a line selects bytes of `new` over `old`. -/
def mergeLine (old new : Line) (m : BitVec 64) : Line :=
  BitVec.ofNat 512 (leNat ((List.range 64).map (fun k =>
    if has m k then new.extractLsb' (8 * k) 8 else old.extractLsb' (8 * k) 8)))

/-- A line's bytes `[at, at + n)` as a number. -/
def lineNat (l : Line) (at_ n : Nat) : Nat := bits l.toNat (8 * at_) (8 * n)

/-- A line with `n` bytes at `at_` replaced. -/
def lineSet (l : Line) (at_ n v : Nat) : Line :=
  mergeLine l (BitVec.ofNat 512 (v * 2 ^ (8 * at_))) (BitVec.ofNat 64 ((2 ^ n - 1) * 2 ^ at_))

/-- Threads of a mask, ascending. -/
def threads (m : W32) : List Nat := (List.range 32).filter (fun t => has m t)

/-- The lowest thread of a mask (32 when empty). -/
def lowest (m : W32) : Nat := (threads m).headD 32

/-- A mask of the threads listed. -/
def maskOf (l : List Nat) : W32 := l.foldl (fun a t => a ||| bit 32 t) 0

/-- The number of threads in a mask. -/
def popc32 (m : W32) : Nat := (threads m).length

/-! ### Cores, halves, stops (R13-R16) -/

/-- Local index of a core in its half (R13). -/
def coreLocal (c : Nat) : Nat := c % 104
/-- Half of a core, 2d + h. -/
def coreHalf (c : Nat) : Nat := c / 104
/-- Die of a core. -/
def coreDie (c : Nat) : Nat := c / 208
/-- Core type: 1 M, 2 V, 3 S (the codes of R126). -/
def coreType (c : Nat) : Nat := if coreLocal c < 64 then 1 else if coreLocal c < 96 then 2 else 3
/-- Loft bytes by core type (R1). -/
def loftSize (c : Nat) : Nat := match coreType c with | 1 => 0x200000 | 2 => 0x100000 | _ => 0x80000
/-- Local address of byte 0 of a core's loft. -/
def loftAt (c : Nat) : Nat := loftBase + c * loftStride
/-- Global channel of a local deck address (R219). -/
def chanOf (a : Nat) : Nat := (a / dieBytes) * 512 + ((a % dieBytes) / 65536) % 512
/-- Device page number (R220). -/
def pageOf (a : Nat) : Nat := a / 65536
/-- Half of a channel. -/
def chanHalf (ch : Nat) : Nat := ch / 256
/-- The M-core above a channel, as a global core number (R16). -/
def chanCore (ch : Nat) : Nat := (ch / 512) * 208 + ((ch / 256) % 2) * 104 + (ch % 256) / 4
/-- First near channel of an M-core. -/
def nearChan (c : Nat) : Nat := coreDie c * 512 + (coreHalf c % 2) * 256 + 4 * coreLocal c
/-- Column and row of a stop (R14). -/
def stopCol (i : Nat) : Nat := i % 13
def stopRow (i : Nat) : Nat := i / 13
/-- Voltage quadrant of a stop (R24). -/
def quadOf (i : Nat) : Nat :=
  (if stopRow i < 4 then 0 else 4) + (if stopCol i < 4 then 0 else if stopCol i < 7 then 1 else if stopCol i < 10 then 2 else 3)

/-- Half of a requester; I/O agents run on IOD0, whose requests are timed by half 0 here (log 26, DEDUCED). -/
def agentHalf : Agent → Nat
  | .core c => coreHalf c
  | .guest d t => 2 * d + t / 48
  | .engine ch => chanHalf ch
  | .walker h => h
  | _ => 0

/-! ### Clocks -/

/-- Units of `State.cyc` per cycle. -/
def cycUnit : Nat := 3603600000

/-- Half-clock cycles since the reset state. -/
def cycles (s : State) (h : Nat) : Nat := s.cyc.getD h 0 / cycUnit

/-- Frequency of a code in MHz (R47). -/
def codeMhz (c : Nat) : Nat := 350 + 25 * c

/-- MST now (R31), 64 bits. -/
def mstNow (s : State) : Nat := s.time.mst % 2 ^ 64

/-- The mains angle (R36), 32 bits. -/
def mainsAngle (s : State) : Nat := s.time.phase * 2 ^ 32 / 10 ^ 12 % 2 ^ 32

/-! ### Liveness (R18, R19) -/

/-- ORG_LIVE bit of a core. -/
def coreLive (s : State) (c : Nat) : Bool := c < 832 && (rd s .ORG_LIVE_LIVE (c / 64)).testBit (c % 64)

/-- The count field of a core's type. -/
def liveCountFld (c : Nat) : Fld :=
  match coreType c with | 1 => .ORG_LIVE_COUNT_LIVE_M | 2 => .ORG_LIVE_COUNT_LIVE_V | _ => .ORG_LIVE_COUNT_LIVE_S

/-- Change a core's liveness by the steps of R19: CHANGES rises by two, the bit and the count change together. -/
def setLive (s : State) (c : Nat) (b : Bool) : State :=
  if coreLive s c = b || c ≥ 832 then s else
    let s := bump s .ORG_LIVE_COUNT_CHANGES
    let w := rd s .ORG_LIVE_LIVE (c / 64)
    let s := wr s .ORG_LIVE_LIVE (c / 64) (if b then w + 2 ^ (c % 64) else w - 2 ^ (c % 64))
    let n := rd s (liveCountFld c)
    let s := wr0 s (liveCountFld c) (if b then n + 1 else n - 1)
    bump s .ORG_LIVE_COUNT_CHANGES

/-! ### Parts of the state -/

/-- A core's state; a core of which nothing is recorded is idle and empty. -/
def getCore (s : State) (c : Nat) : Core := s.cores.getD c {}

def setCore (s : State) (c : Nat) (k : Core) : State := { s with cores := s.cores.set c {} k }

/-- Note a write of `n` bytes at a local address of a loft window (R349): its highest byte counts for a save image. -/
def winMark (s : State) (a n : Nat) : State :=
  let c := (a - loftBase) / loftStride
  let k := getCore s c
  setCore s c { k with winTop := max k.winTop ((a - loftBase) % loftStride + n) }

/-- Key of a group slot in its core. -/
def gkey (g : Grp) : Nat := g.pipe * 16 + g.slot

def getGroup (s : State) (g : Grp) : Option Group := (getCore s g.core).groups.get (gkey g)

def setGroup (s : State) (g : Grp) (x : Group) : State :=
  let k := getCore s g.core
  setCore s g.core { k with groups := k.groups.put (gkey g) x }

def getChan (s : State) (ch : Nat) : Chan := s.deck.chans.getD ch {}

def setChan (s : State) (ch : Nat) (x : Chan) : State := { s with deck := { s.deck with chans := s.deck.chans.set ch {} x } }

def getCtx (s : State) (n : Nat) : Option Ctx := s.sched.ctxs.get n

def setCtx (s : State) (n : Nat) (x : Ctx) : State := { s with sched := { s.sched with ctxs := s.sched.ctxs.put n x } }

/-- Apply a state change to each element in turn. -/
def each {α : Type} (l : List α) (f : State → α → State) (s : State) : State := l.foldl f s

/-- Count toward toll counter `k` of a context and its instance (R344). -/
def toll (s : State) (ctx k n : Nat) : State :=
  match getCtx s ctx with
  | none => s
  | some x =>
    let up := fun (l : List Nat) => l.set k ((l.getD k 0 + n) % 2 ^ 64)
    let s := setCtx s ctx { x with tolls := up x.tolls }
    let zero := [0, 0, 0, 0, 0, 0, 0, 0]
    { s with sched := { s.sched with instTolls := s.sched.instTolls.put x.inst (up (s.sched.instTolls.getD x.inst zero)) } }

end Sys2Proof.Machine
end

