-- ==== Sys2Proof/Machine/Flags.lean ====
section
/-! DEFINITION. ARITH's sticky flags, rounding modes and saturation (R60, R61, R66). -/

namespace Sys2Proof.Machine

/-- Flags as ARITH [13:8] holds them (R66). -/
abbrev Flg := BitVec 6

def fInvalid : Flg := 1
def fDivzero : Flg := 2
def fOverflow : Flg := 4
def fUnderflow : Flg := 8
def fInexact : Flg := 16
def fSaturated : Flg := 32

/-- A flag when a condition holds. -/
def fIf (b : Bool) (f : Flg) : Flg := if b then f else 0

/-- Rounding modes in force (R60). SR carries its 16-bit draw (R62). -/
inductive RMode where
  | rne | rtz | rdn | rup | rna | sr (r : Nat)
  deriving DecidableEq, Repr, Inhabited

/-- The mode of a code 0-5, with the draw SR takes. -/
def rmodeOf (code draw : Nat) : RMode :=
  match code with | 1 => .rtz | 2 => .rdn | 3 => .rup | 4 => .rna | 5 => .sr draw | _ => .rne

/-- Rounding mode code and saturation in force for a field pair: DYN takes both from ARITH (R60). -/
def resolveRm (ar : ArithReg) (rm : Nat) (sat : Bool) : Nat × Bool := if rm = 6 then (ar.rm.toNat, ar.sat) else (rm, sat)

/-- In arithmetic an SR selected through DYN rounds RNE (R60). -/
def arithRm (code : Nat) : Nat := if code = 5 then 0 else code

/-- Whether the magnitude rounds up: `odd` the kept part's parity, remainder `rem` of `den`, sign (R60, R62). Not called when `rem` is 0. -/
def roundsUp (m : RMode) (neg odd : Bool) (rem den : Nat) : Bool :=
  match m with
  | .rne => decide (den < 2 * rem) || (decide (2 * rem = den) && odd)
  | .rtz => false
  | .rdn => neg
  | .rup => !neg
  | .rna => decide (den ≤ 2 * rem)
  | .sr r =>
    -- f is counted from the lower neighbour, which for a negative value is the one of larger magnitude
    if neg then !decide (r < (den - rem) * 65536 / den) else decide (r < rem * 65536 / den)

/-- ARITH as the 64-bit register (R66). -/
def ArithReg.toWord (a : ArithReg) : Nat := a.rm.toNat + a.sat.toNat * 8 + a.flags.toNat * 256

/-- A write of ARITH by SWR: RM refuses 6 and 7, SAT is written, a 1 clears a flag (R4, R66). -/
def ArithReg.write (a : ArithReg) (v : Nat) : ArithReg :=
  let rm := v % 8
  { rm := if rm ≥ 6 then a.rm else BitVec.ofNat 3 rm
    sat := v.testBit 3
    flags := a.flags &&& ~~~BitVec.ofNat 6 (v / 256) }

/-- Flags are sticky: they are ORed in (R66, R67). -/
def ArithReg.raise (a : ArithReg) (f : Flg) : ArithReg := { a with flags := a.flags ||| f }

/-- ARITH at entry from the kernel header's ARITH_INIT byte (R126, R128): VALID 0 gives the reset value. -/
def arithInit (b : Nat) : ArithReg := if b.testBit 7 then { rm := BitVec.ofNat 3 b, sat := b.testBit 3 } else {}

end Sys2Proof.Machine
end

