-- ==== Sys2Proof/Machine/Float.lean ====
section
/-! DEFINITION. The twelve number formats (R51), exact values, rounding into a format (R60-R64, R508), arithmetic with one rounding (R59,
R65), the bounds of the approximate functions (R69), block scaling (R55, R56). Values are exact dyadics; every result is computed exactly
and rounded once. Log 13, DEDUCED (INEXACT of a saturated result), log 14, DESIGN CHOICE (approximate functions). -/

namespace Sys2Proof.Machine

/-- An exact value: NaN, an infinity, or m * 2^e with a sign. -/
inductive Val where
  | nan
  | inf (neg : Bool)
  | fin (neg : Bool) (m : Nat) (e : Int)
  deriving DecidableEq, Repr, Inhabited

/-- How a floating format uses its top exponent (R51). -/
inductive Top where
  | ieee | e4m3 | finite
  deriving DecidableEq, Repr, Inhabited

/-- Layout of a floating format: exponent bits, mantissa bits, bias. -/
structure Fmt where
  eb : Nat
  mb : Nat
  bias : Int
  top : Top
  deriving DecidableEq, Repr, Inhabited

/-- Floating formats by TYPE code (R104); INT8, INT4, E8M0 and the integers are not floating. -/
def fmtOf (ty : Nat) : Option Fmt :=
  match ty with
  | 0 => some ⟨11, 52, 1023, .ieee⟩
  | 1 => some ⟨8, 23, 127, .ieee⟩
  | 2 => some ⟨5, 10, 15, .ieee⟩
  | 3 => some ⟨8, 7, 127, .ieee⟩
  | 4 => some ⟨5, 2, 15, .ieee⟩
  | 5 => some ⟨4, 3, 7, .e4m3⟩
  | 6 => some ⟨3, 2, 3, .finite⟩
  | 7 => some ⟨2, 3, 1, .finite⟩
  | 8 => some ⟨2, 1, 1, .finite⟩
  | _ => none

/-- Integer types by TYPE code: width and signedness (INT8, INT4, S32, U32, S64, U64). -/
def intOf (ty : Nat) : Option (Nat × Bool) :=
  match ty with
  | 9 => some (8, true) | 10 => some (4, true) | 12 => some (32, true) | 13 => some (32, false)
  | 14 => some (64, true) | 15 => some (64, false) | _ => none

/-- Width in bits of an element of a TYPE. -/
def tyBits (ty : Nat) : Nat :=
  match ty with
  | 0 => 64 | 1 => 32 | 2 => 16 | 3 => 16 | 4 => 8 | 5 => 8 | 6 => 6 | 7 => 6 | 8 => 4 | 9 => 8 | 10 => 4 | 11 => 8
  | 12 => 32 | 13 => 32 | _ => 64

/-- 2^z for z at or above 0, else 1. -/
def pow2 (z : Int) : Nat := 2 ^ z.toNat

/-- floor(log2 n) of a positive number. -/
def ilog2 (n : Nat) : Nat := Nat.log2 n

/-- Largest finite magnitude as mantissa and exponent (R51). -/
def Fmt.maxFin (f : Fmt) : Nat × Int :=
  let topE : Int := (2 ^ f.eb : Nat) - (match f.top with | .ieee => 2 | _ => 1)
  (2 ^ (f.mb + 1) - (match f.top with | .e4m3 => 2 | _ => 1), topE - f.bias - f.mb)

/-- Compare m * 2^e with n * 2^g. -/
def dyLt (m : Nat) (e : Int) (n : Nat) (g : Int) : Bool := m * pow2 (e - min e g) < n * pow2 (g - min e g)

/-- The canonical NaN of a format (R52); formats without one give +0 (R64). -/
def Fmt.nanBits (f : Fmt) : Nat :=
  match f.top with
  | .ieee => (2 ^ f.eb - 1) * 2 ^ f.mb + 2 ^ (f.mb - 1)
  | .e4m3 => 0x7F
  | .finite => 0

/-- The encoding of an infinity. -/
def Fmt.infBits (f : Fmt) (neg : Bool) : Nat := neg.toNat * 2 ^ (f.eb + f.mb) + (2 ^ f.eb - 1) * 2 ^ f.mb

/-- The encoding of a finite value that the format represents exactly. -/
def Fmt.enc (f : Fmt) (neg : Bool) (m : Nat) (e : Int) : Nat :=
  let s := neg.toNat * 2 ^ (f.eb + f.mb)
  if m = 0 then s else
    let ex := (ilog2 m : Int) + e
    let q := max ex (1 - f.bias) - f.mb
    let k := if e ≥ q then m * pow2 (e - q) else m / pow2 (q - e)
    if ex < 1 - f.bias then s + k else s + (ex + f.bias).toNat * 2 ^ f.mb + (k - 2 ^ f.mb)

/-- The value of an encoding; the Boolean tells a signalling NaN (R52). -/
def Fmt.dec (f : Fmt) (v : Nat) : Val × Bool :=
  let neg := v.testBit (f.eb + f.mb)
  let ef := (v / 2 ^ f.mb) % 2 ^ f.eb
  let mf := v % 2 ^ f.mb
  if f.top = .ieee && ef = 2 ^ f.eb - 1 then
    if mf = 0 then (.inf neg, false) else (.nan, (f.mb ≥ 7) && !mf.testBit (f.mb - 1))
  else if f.top = .e4m3 && ef = 2 ^ f.eb - 1 && mf = 2 ^ f.mb - 1 then (.nan, false)
  else if ef = 0 then (.fin neg mf (1 - f.bias - f.mb), false)
  else (.fin neg (mf + 2 ^ f.mb) ((ef : Int) - f.bias - f.mb), false)

/-- The value of an element of any TYPE (R51, R55). -/
def decTy (ty v : Nat) : Val × Bool :=
  match fmtOf ty with
  | some f => f.dec (v % 2 ^ tyBits ty)
  | none =>
    match intOf ty with
    | some (w, sg) =>
      let z : Int := if sg then sext w (v % 2 ^ w) else (v % 2 ^ w : Nat)
      (.fin (z < 0) z.natAbs 0, false)
    | none => if v % 256 = 255 then (.nan, false) else (.fin false 1 ((v % 256 : Nat) - 127), false)

/-- m * 2^e with m possibly carrying a sticky low bit, rounded to a multiple of 2^q: the multiple and whether it is inexact. -/
def roundAt (md : RMode) (neg : Bool) (m : Nat) (e q : Int) : Nat × Bool :=
  if e ≥ q then (m * pow2 (e - q), false) else
    let den := pow2 (q - e)
    let lo := m / den
    let rem := m % den
    if rem = 0 then (lo, false) else (lo + (roundsUp md neg (lo % 2 = 1) rem den).toNat, true)

/-- Where a finite result that overflows goes with SAT 0 (R61): true, infinity (or NaN); false, the largest finite value. -/
def overToInf (md : RMode) (neg : Bool) : Bool :=
  match md with | .rtz => false | .rdn => neg | .rup => !neg | _ => true

/-- Round an exact value into a floating format: bits and flags (R53, R60, R61, R66). INEXACT beside SATURATED or OVERFLOW: log 13, DESIGN CHOICE. -/
def Fmt.round (f : Fmt) (md : RMode) (sat : Bool) : Val → Nat × Flg
  | .nan => if f.top = .finite then (0, fInvalid) else (f.nanBits, 0)
  | .inf neg =>
    let mx := f.maxFin
    match f.top with
    | .ieee => (f.infBits neg, 0)
    | .e4m3 => if sat then (f.enc neg mx.1 mx.2, fSaturated) else (f.nanBits, fInvalid)
    | .finite => (f.enc neg mx.1 mx.2, fSaturated)
  | .fin neg m e =>
    if m = 0 then (f.enc neg 0 0, 0) else
      let ex := (ilog2 m : Int) + e
      let emin := 1 - f.bias
      let q := max ex emin - f.mb
      let (k, inex) := roundAt md neg m e q
      let mx := f.maxFin
      if dyLt mx.1 mx.2 k q then
        let ix := fIf inex fInexact
        if sat || f.top = .finite then (f.enc neg mx.1 mx.2, fSaturated ||| ix)
        else if overToInf md neg then (if f.top = .ieee then f.infBits neg else f.nanBits, fOverflow ||| fInexact)
        else (f.enc neg mx.1 mx.2, fOverflow ||| fInexact)
      else
        let tiny := inex && decide (ex < emin) &&
          (let (k', _) := roundAt md neg m e (ex - f.mb); dyLt k' (ex - f.mb) 1 emin)
        (f.enc neg k q, fIf inex fInexact ||| fIf tiny fUnderflow)

/-- Round into an integer type, saturating (R64). INEXACT beside SATURATED: log 13, DESIGN CHOICE. -/
def roundInt (w : Nat) (sg : Bool) (md : RMode) : Val → Nat × Flg
  | .nan => (0, fInvalid)
  | .inf neg => (wrap w (if neg then (if sg then -(2 ^ (w - 1) : Nat) else 0) else (2 ^ (if sg then w - 1 else w) : Nat) - 1), fSaturated)
  | .fin neg m e =>
    let (k, inex) := roundAt md neg m e 0
    let z : Int := if neg then -(k : Int) else k
    let lo : Int := if sg then -(2 ^ (w - 1) : Nat) else 0
    let hi : Int := (2 ^ (if sg then w - 1 else w) : Nat) - 1
    let c := if z < lo then lo else if hi < z then hi else z
    (wrap w c, fIf inex fInexact ||| fIf (c ≠ z) fSaturated)

/-- Conversion into E8M0 (R508). -/
def roundE8 (md : RMode) : Val → Nat × Flg
  | .fin false m e =>
    if m = 0 then (0xFF, fInvalid) else
      let ex := (ilog2 m : Int) + e
      let den := 2 ^ ilog2 m
      let rem := m - den
      let up := if rem = 0 then false else
        if md = .rne && 2 * rem = den then decide ((ex + 127) % 2 ≠ 0) else roundsUp md false false rem den
      let k := if up then ex + 1 else ex
      let ix := fIf (rem ≠ 0) fInexact
      -- a power of two above 2^127 is one of the values that set INEXACT
      if k > 127 then (0xFE, fSaturated ||| fInexact)
      else if k < -127 then (0, fUnderflow ||| fInexact)
      else ((k + 127).toNat, ix)
  | _ => (0xFF, fInvalid)

/-- Round an exact value into any TYPE. -/
def encTy (ty : Nat) (md : RMode) (sat : Bool) (v : Val) : Nat × Flg :=
  match fmtOf ty with
  | some f => f.round md sat v
  | none =>
    match intOf ty with
    | some (w, sg) => roundInt w sg md v
    | none => roundE8 md v

/-- Whether a rounding of `v` into `ty` under SR would consume a draw (R62): the value is not exactly representable. -/
def needsDraw (ty : Nat) (v : Val) : Bool :=
  match v with
  | .fin _ m e =>
    if m = 0 then false else
      match fmtOf ty with
      | some f => (roundAt .rtz false m e (max ((ilog2 m : Int) + e) (1 - f.bias) - f.mb)).2
      | none => match intOf ty with
        | some _ => (roundAt .rtz false m e 0).2
        | none => m ≠ 2 ^ ilog2 m
  | _ => false

/-- Convert an element (R64): bits and flags. A signalling NaN sets INVALID (R52). -/
def cvtElem (src dst : Nat) (md : RMode) (sat : Bool) (v : Nat) : Nat × Flg :=
  let (x, sn) := decTy src v
  let (r, f) := encTy dst md sat x
  (r, f ||| fIf sn fInvalid)

/-! ### Exact arithmetic -/

def Val.neg : Val → Val
  | .nan => .nan | .inf n => .inf (!n) | .fin n m e => .fin (!n) m e

def Val.abs : Val → Val
  | .nan => .nan | .inf _ => .inf false | .fin _ m e => .fin false m e

def Val.isNan (v : Val) : Bool := v = .nan

def Val.isZero : Val → Bool
  | .fin _ m _ => m = 0 | _ => false

/-- Signed integer of a finite value in units of 2^g, for g at or below its exponent. -/
def signedAt (neg : Bool) (m : Nat) (e g : Int) : Int := (if neg then -1 else 1) * (m * pow2 (e - g) : Nat)

/-- Exact sum; ∞ − ∞ is invalid (R66); the sign of an exact zero follows R53. -/
def vAdd (md : RMode) (a b : Val) : Val × Flg :=
  match a, b with
  | .nan, _ => (.nan, 0)
  | _, .nan => (.nan, 0)
  | .inf x, .inf y => if x = y then (.inf x, 0) else (.nan, fInvalid)
  | .inf x, _ => (.inf x, 0)
  | _, .inf y => (.inf y, 0)
  | .fin n m e, .fin n' m' e' =>
    let g := min e e'
    let z := signedAt n m e g + signedAt n' m' e' g
    if z = 0 then
      if m = 0 && m' = 0 && n = n' then (.fin n 0 0, 0) else (.fin (md = .rdn) 0 0, 0)
    else (.fin (z < 0) z.natAbs g, 0)

/-- Exact product; 0 × ∞ is invalid. -/
def vMul (a b : Val) : Val × Flg :=
  match a, b with
  | .nan, _ => (.nan, 0)
  | _, .nan => (.nan, 0)
  | .inf x, .inf y => (.inf (x != y), 0)
  | .inf x, .fin y m _ => if m = 0 then (.nan, fInvalid) else (.inf (x != y), 0)
  | .fin x m _, .inf y => if m = 0 then (.nan, fInvalid) else (.inf (x != y), 0)
  | .fin x m e, .fin y m' e' => (.fin (x != y) (m * m') (e + e'), 0)

/-- Bits of quotient and root kept before the one rounding: enough that a sticky low bit decides every case. -/
def guardBits : Nat := 140

/-- Quotient, with a sticky low bit when inexact. INVALID for 0/0 and ∞/∞, which the list of R66 does not name: log 147, PRESUMED. -/
def vDiv (a b : Val) : Val × Flg :=
  match a, b with
  | .nan, _ => (.nan, 0)
  | _, .nan => (.nan, 0)
  | .inf _, .inf _ => (.nan, fInvalid)
  | .inf x, .fin y _ _ => (.inf (x != y), 0)
  | .fin x _ _, .inf y => (.fin (x != y) 0 0, 0)
  | .fin x m e, .fin y m' e' =>
    if m' = 0 then (if m = 0 then (.nan, fInvalid) else (.inf (x != y), fDivzero)) else
      let k := guardBits + ilog2 m'
      let n := m * 2 ^ k
      (.fin (x != y) (2 * (n / m') + (n % m' ≠ 0 : Bool).toNat) (e - e' - k - 1), 0)

/-- Square root, with a sticky low bit when inexact; a negative nonzero operand is invalid (log 147, PRESUMED: the list of R66 does not name
it). -/
def vSqrt (a : Val) : Val × Flg :=
  match a with
  | .nan => (.nan, 0)
  | .inf true => (.nan, fInvalid)
  | .inf false => (.inf false, 0)
  | .fin n m e =>
    if m = 0 then (.fin n 0 0, 0) else if n then (.nan, fInvalid) else
      let k : Nat := 2 * guardBits + (if e % 2 = 0 then 0 else 1)
      let x := m * 2 ^ k
      let r := Nat.sqrt x
      (.fin false (2 * r + (r * r ≠ x : Bool).toNat) ((e - k) / 2 - 1), 0)

/-- a < b for non-NaN values. -/
def vLt (a b : Val) : Bool :=
  match a, b with
  | .nan, _ => false
  | _, .nan => false
  | .inf x, .inf y => x && !y
  | .inf x, _ => x
  | _, .inf y => !y
  | .fin n m e, .fin n' m' e' => let g := min e e'; signedAt n m e g < signedAt n' m' e' g

/-- Equality of non-NaN values: zeros of either sign are equal. -/
def vEq (a b : Val) : Bool := !a.isNan && !b.isNan && !vLt a b && !vLt b a

/-- The sign of a value. -/
def Val.sign : Val → Bool
  | .nan => false | .inf n => n | .fin n _ _ => n

/-- minimumNumber and maximumNumber (R65): one NaN gives the other operand; −0 orders below +0. -/
def vMinMax (isMax : Bool) (a b : Val) : Val :=
  if a.isNan then b else if b.isNan then a else
    let less := vLt a b || (vEq a b && a.sign && !b.sign)
    if less != isMax then a else b

/-- A floating operation of the pipes on exact operands, before rounding: the table of R111. Code: 0 add, 1 mul, 2 fma, 3 min, 4 max, 5 div,
6 sqrt. -/
def fOp (op : Nat) (md : RMode) (a b c : Val) : Val × Flg :=
  match op with
  | 0 => vAdd md a b
  | 1 => vMul a b
  | 2 => let (p, f) := vMul a b; let (r, f') := vAdd md p c; (r, f ||| f')
  | 3 => (vMinMax false a b, 0)
  | 4 => (vMinMax true a b, 0)
  | 5 => vDiv a b
  | _ => vSqrt a

/-- One element of a floating operation in a format with one rounding (R59, R69), the modifiers NEG_A, NEG_C, ABS_A, ABS_B applied
(R105). -/
def fElem (f : Fmt) (op : Nat) (md : RMode) (sat : Bool) (sub : BitVec 8) (a b c : Nat) : Nat × Flg :=
  let (va, sa) := f.dec a
  let (vb, sb) := f.dec b
  let (vc, sc) := f.dec c
  let va := if has sub 2 then va.abs else va
  let va := if has sub 0 then va.neg else va
  let vb := if has sub 3 then vb.abs else vb
  let vc := if has sub 1 then vc.neg else vc
  let useB := op ≤ 5
  let useC := op = 2
  let (r, g) := fOp op md va vb vc
  let (bits, h) := f.round md sat r
  (bits, g ||| h ||| fIf (sa || (useB && sb) || (useC && sc)) fInvalid)

/-! ### Approximate functions (R69) -/

/-- A rational interval [lo, hi] in units of 2^-p. -/
structure Iv where
  lo : Int
  hi : Int
  deriving DecidableEq, Repr, Inhabited

/-- Fixed-point precision of the enclosures. -/
def ivP : Nat := 80

/-- Multiply fixed-point numbers, rounding down and up. -/
def fxMul (a b : Int) : Iv := ⟨(a * b) / 2 ^ ivP, (a * b) / 2 ^ ivP + 1⟩

/-- ln 2 in units of 2^-80, below and above. -/
def ln2Iv : Iv :=
  -- ln 2 = sum over k >= 1 of 1 / (k 2^k); 90 terms, the rest is below one unit
  let s := (List.range 90).foldl (fun (a : Int) k => a + (2 ^ ivP : Int) / ((k + 1 : Nat) * 2 ^ (k + 1))) 0
  ⟨s, s + 92⟩

/-- e^r for 0 ≤ r < 1 in fixed point: Taylor terms, with the error of the truncations and of the rest counted above. -/
def expIv (r : Iv) : Iv :=
  let one : Int := 2 ^ ivP
  let go := fun (x : Int) => ((List.range 30).foldl (fun (st : Int × Int) k => let t := (st.2 * x) / one / ((k + 1 : Nat) : Int); (st.1 + t, t)) (one, one)).1
  ⟨go r.lo, go r.hi + 64⟩

/-- 2^x for a finite x = m 2^e: an enclosure of 2^frac in [1, 2] and the integer exponent. -/
def exp2Iv (neg : Bool) (m : Nat) (e : Int) : Iv × Int :=
  let fx : Int := (if neg then -1 else 1) * (if e + ivP ≥ 0 then ((m * pow2 (e + ivP) : Nat) : Int) else ((m / pow2 (-(e + ivP)) : Nat) : Int))
  let n := fx / 2 ^ ivP
  let fr := fx - n * 2 ^ ivP
  let lo := (fxMul fr ln2Iv.lo).lo
  let hi := (fxMul (fr + 1) ln2Iv.hi).hi
  (expIv ⟨lo, hi⟩, n)

/-- log2 of m in [1, 2) (units of 2^-80): the squaring method, one bit a step, as an enclosure. -/
def log2Iv (x : Nat) : Iv :=
  -- x in units of 2^-P, P = 200
  let P := 200
  let x := x * 2 ^ (P - ivP)
  let step := fun (st : Nat × Nat) (_ : Nat) =>
    let y := st.1 * st.1 / 2 ^ P
    if y ≥ 2 * 2 ^ P then (y / 2, 2 * st.2 + 1) else (y, 2 * st.2)
  let r := (List.range ivP).foldl step (x, 0)
  ⟨(r.2 : Int) - 2, (r.2 : Int) + 2⟩

/-- Whether |y − t| ≤ k ulp + abs for some t of the enclosure, all in units of 2^-s: `y` the candidate, `lo`, `hi` the enclosure. -/
def within (y lo hi bound : Int) : Bool := lo - bound ≤ y && y ≤ hi + bound

/-- One unit in the last place of a positive magnitude v (units of 2^-s) in binary32, in the same units. -/
def ulp32 (v : Nat) (s : Nat) : Int :=
  if v = 0 then pow2 ((s : Int) - 149) else pow2 (max ((ilog2 v : Int) - s - 23) (-149) + s)

/-- The value of a finite binary32 candidate in units of 2^-s (s at least 149). -/
def candAt (b : Nat) (s : Nat) : Option Int :=
  match (⟨8, 23, 127, .ieee⟩ : Fmt).dec b with
  | (.fin n m e, _) => some (signedAt n m e (-(s : Int)))
  | _ => none

/-- An enclosure of the exact result in units of 2^-s, s = 400, for a finite nonzero operand in the function's domain. Functions: 0 RCP,
1 RSQRT, 2 EXP2, 3 LOG2, 4 TANH. -/
def approxIv (fn : Nat) (neg : Bool) (m : Nat) (e : Int) : Option Iv :=
  let s : Int := 400
  let scale := fun (i : Iv) (x : Int) =>
    -- i * 2^x in units of 2^-400, i in units of 2^-80
    let k := s - ivP + x
    if k ≥ 0 then (⟨i.lo * pow2 k, i.hi * pow2 k⟩ : Iv) else ⟨i.lo / pow2 (-k), i.hi / pow2 (-k) + 1⟩
  let sg := fun (i : Iv) => if neg then (⟨-i.hi, -i.lo⟩ : Iv) else i
  match fn with
  | 0 => let q : Int := ((pow2 (s - e) : Nat) / m : Nat); some (sg ⟨q, q + 1⟩)
  | 1 =>
    -- 1 / sqrt (m 2^e) = sqrt (2^(2s - e) / m) in units of 2^-s
    let q := Nat.sqrt (pow2 (2 * s - e) / m)
    some ⟨q, q + 1⟩
  | 2 => let (i, n) := exp2Iv neg m e; some (scale i n)
  | 3 =>
    let ex := (ilog2 m : Int) + e
    let i := log2Iv (m * 2 ^ ivP / 2 ^ ilog2 m)
    some (scale ⟨i.lo + ex * 2 ^ ivP - 1, i.hi + ex * 2 ^ ivP + 1⟩ 0)
  | _ =>
    -- tanh x = 1 - 2 / (e^2x + 1); e^2x = 2^(2x / ln 2)
    let x : Int := if e + 1 + ivP ≥ 0 then ((m * pow2 (e + 1 + ivP) : Nat) : Int) else ((m / pow2 (-(e + 1 + ivP)) : Nat) : Int)
    if x > 64 * 2 ^ ivP then some (sg (scale ⟨2 ^ ivP - 1, 2 ^ ivP⟩ 0)) else
      let qlo := x * 2 ^ ivP / ln2Iv.hi
      let qhi := (x + 1) * 2 ^ ivP / ln2Iv.lo + 1
      let at_ := fun (q : Int) => exp2Iv false q.toNat (-(ivP : Int))
      let (il, nl) := at_ qlo
      let (ih, nh) := at_ qhi
      let den := fun (v : Int) (n : Int) => v * pow2 n + 2 ^ ivP
      let lo : Int := 2 ^ ivP - (2 * 2 ^ ivP * 2 ^ ivP) / den il.lo nl - 1
      let hi : Int := 2 ^ ivP - (2 * 2 ^ ivP * 2 ^ ivP) / den ih.hi nh + 1
      some (sg (scale ⟨lo, hi⟩ 0))

/-- The bound of R69 for a function at an enclosure, units of 2^-400: `none` where R69 states no bound. -/
def approxBound (fn : Nat) (neg : Bool) (m : Nat) (e : Int) (i : Iv) : Option Int :=
  -- the smaller end: the exact result's unit is not above it
  let mag := min i.lo.natAbs i.hi.natAbs
  let u := ulp32 mag 400
  let normal : Bool := decide (pow2 (400 - 126) ≤ mag) && decide (mag < pow2 (400 + 128))
  match fn with
  | 0 => if normal && decide ((ilog2 m : Int) + e ≥ -126) then some u else none
  | 1 => if decide ((ilog2 m : Int) + e ≥ -126) then some u else none
  | 2 => if normal then some (2 * u) else none
  | 3 =>
    -- inside [0.5, 2]: absolute 2^-22
    let inside := !dyLt m e 1 (-1) && !dyLt 2 0 m e && !neg
    if inside then some (pow2 (400 - 22)) else some (2 * u)
  | _ => some (2 * u + pow2 (400 - 24))

/-- The integer that m * 2^e is, if it is one and below 2^64. -/
def dyInt (neg : Bool) (m : Nat) (e : Int) : Option Int :=
  if m ≠ 0 && decide ((ilog2 m : Int) + e > 63) then none else
    let k := m * pow2 e
    let d := pow2 (-e)
    if k % d = 0 then some ((if neg then -1 else 1) * ((k / d : Nat) : Int)) else none

/-- The function's exact result where it is a dyadic number or an infinity: `none` for an irrational or rational one and where there is none. -/
def approxExact (fn : Nat) (v : Val) : Option Val :=
  let pow := fun (neg : Bool) (x : Int) => Val.fin neg 1 x
  match fn, v with
  | 0, .inf n => some (.fin n 0 0)
  | 0, .fin n m e => if m = 0 then some (.inf n) else if m = 2 ^ ilog2 m then some (pow n (-(ilog2 m + e))) else none
  | 1, .inf false => some (.fin false 0 0)
  | 1, .fin n m e =>
    if m = 0 then some (.inf n) else if !n && m = 2 ^ ilog2 m && (ilog2 m + e) % 2 = 0 then some (pow false (-((ilog2 m + e) / 2))) else none
  | 2, .inf n => some (if n then .fin false 0 0 else .inf false)
  | 2, .fin n m e => (dyInt n m e).map (pow false)
  | 3, .inf false => some (.inf false)
  | 3, .fin n m e =>
    if m = 0 then some (.inf true) else if !n && m = 2 ^ ilog2 m then let x := (ilog2 m : Int) + e; some (.fin (x < 0) x.natAbs 0) else none
  | 4, .inf n => some (.fin n 1 0)
  | 4, .fin n m _ => if m = 0 then some (.fin n 0 0) else none
  | _, _ => none

/-- The flags of R66 for an approximate function (log 14, DEDUCED) by operand and the bits `r` it returned: DIVZERO for the reciprocal and
the reciprocal root of zero; INVALID for the root or logarithm of a negative number (log 147, PRESUMED); OVERFLOW where the exact finite result
lies beyond binary32; INEXACT where the result differs from the exact one; UNDERFLOW where the exact result is tiny as well. -/
def approxFlags (fn : Nat) (v : Val) (r : Nat) : Flg :=
  let two := fun (x : Int) => ((1 : Nat), x)
  let (ovf, tiny) := match fn, v with
    | 0, .fin _ m e => (m ≠ 0 && !dyLt (two (-128)).1 (two (-128)).2 m e, m ≠ 0 && dyLt (two 126).1 (two 126).2 m e)
    | 2, .fin n m e => (!n && m ≠ 0 && !dyLt m e 128 0, n && dyLt 126 0 m e)
    | 4, .fin _ m e => (false, m ≠ 0 && dyLt m e 1 (-126))
    | _, _ => (false, false)
  let bad := (fn = 1 || fn = 3) && (match v with | .inf n => n | .fin n m _ => n && m ≠ 0 | .nan => false)
  let pole := (fn = 0 || fn = 1) && v.isZero
  let got := ((⟨8, 23, 127, .ieee⟩ : Fmt).dec r).1
  let inex := ovf || (!bad && (match approxExact fn v with | some x => !vEq got x | none => true))
  fIf bad fInvalid ||| fIf pole fDivzero ||| fIf ovf fOverflow ||| fIf (tiny && inex) fUnderflow ||| fIf inex fInexact

/-- The result of an approximate function on a binary32 operand (R69, log 14, DESIGN CHOICE): a NaN gives the canonical NaN (R52); where R69 states a
bound, the opaque candidate if it lies within it, else a value that does; where R69 states none (an infinity, a pole, a negative root or
logarithm, a result outside the normal range), the candidate. -/
def approxElem (fn ctype : Nat) (a : Nat) : Nat × Flg :=
  let f : Fmt := ⟨8, 23, 127, .ieee⟩
  let (v, sn) := f.dec a
  let free_ := (Config.approx fn ctype (BitVec.ofNat 32 a)).toNat
  -- the only NaN is the canonical one (R52)
  let cand := if (f.dec free_).1.isNan then f.nanBits else free_
  let res := fun (r : Nat) => (r, approxFlags fn v r ||| fIf sn fInvalid)
  let open_ := res cand
  let check := fun (i : Iv) (b : Int) =>
    let ok := match candAt cand 400 with | some y => within y i.lo i.hi b | none => false
    if ok then open_ else res (f.round .rne false (.fin (i.lo < 0) i.lo.natAbs (-400))).1
  match v with
  | .nan => (f.nanBits, fIf sn fInvalid)
  | .inf n => if fn = 4 then (let o : Int := 2 ^ 400; let z := if n then -o else o; check ⟨z, z⟩ (2 * ulp32 (2 ^ 400) 400 + pow2 (400 - 24))) else open_
  | .fin n m e =>
    if m = 0 then
      match fn with
      | 2 => check ⟨2 ^ 400, 2 ^ 400⟩ (2 * ulp32 (2 ^ 400) 400)
      | 4 => check ⟨0, 0⟩ (2 * ulp32 0 400 + pow2 (400 - 24))
      | _ => open_
    else if (n && (fn = 1 || fn = 3)) || (fn = 2 && dyLt 256 0 m e) then open_
    else
      match approxIv fn n m e with
      | none => open_
      | some i => match approxBound fn n m e i with | none => open_ | some b => check i b

/-! ### Sums in an order the device chooses (R59, R68) -/

/-- Add two encodings of a format, rounded RNE: bits and the flags raised (R59). -/
def addRne (f : Fmt) (a b : Nat) : Nat × Flg :=
  let (t, g) := vAdd .rne (f.dec a).1 (f.dec b).1
  let (r, h) := f.round .rne false t
  (r, g ||| h)

/-- Add the terms two by two in an order that nothing fixes, each sum rounded (R59, R68): which two are added next is open (`key`). -/
def sumAnyOrder (f : Fmt) (key : Nat) : Nat → List Nat → Nat × Flg
  | 0, l => (l.headD 0, 0)
  | n + 1, l =>
    match l with
    | [] => (0, 0)
    | [a] => (a, 0)
    | _ =>
      let i := Config.freeNat (key + 2 * n) % l.length
      let rest := l.eraseIdx i
      let j := Config.freeNat (key + 2 * n + 1) % rest.length
      let (r, g) := addRne f (l.getD i 0) (rest.getD j 0)
      let (t, h) := sumAnyOrder f key n (r :: rest.eraseIdx j)
      (t, g ||| h)

/-- Whether a value is tiny in binary32, judged after rounding RNE (R66). -/
def tiny32 (v : Val) : Bool :=
  match v with
  | .fin neg m e => m ≠ 0 && (let q := (ilog2 m : Int) + e - 23; dyLt (roundAt .rne neg m e q).1 q 1 (-126))
  | _ => false

/-- The aligned adder of an engine (R59): products kept to 40 bits below the leading bit of the largest, what lies below dropped to either
side (open, `key`), the exact sum of what is kept rounded once to binary32 RNE. NaN and infinities as in any addition. -/
def alignedSum (key : Nat) (ps : List Val) : Nat × Flg :=
  let top := ps.foldl (fun (a : Option Int) v =>
    match v with
    | .fin _ m e => if m = 0 then a else let l := (ilog2 m : Int) + e; some (match a with | none => l | some b => max b l)
    | _ => a) none
  let q := (top.getD 0) - 40
  let kept := ps.zipIdx.map (fun p =>
    match p.1 with
    | .fin n m e =>
      if e ≥ q then (p.1, false) else
        let d := pow2 (q - e)
        let up := decide (m % d ≠ 0) && decide (Config.freeNat (key + p.2) % 2 = 1)
        (.fin n (m / d + up.toNat) q, m % d ≠ 0)
    | v => (v, false))
  let (t, g) := match kept.map (·.1) with
    | [] => ((.fin false 0 0 : Val), (0 : Flg))
    | v :: l => l.foldl (fun (a : Val × Flg) w => let (r, h) := vAdd .rne a.1 w; (r, a.2 ||| h)) (v, 0)
  let (b, h) := (⟨8, 23, 127, .ieee⟩ : Fmt).round .rne false t
  -- what was dropped makes the sum inexact; a tiny one raises UNDERFLOW too (R66)
  let lost := kept.any (·.2)
  let exact := (ps.drop 1).foldl (fun (a : Val) w => (vAdd .rne a w).1) (ps.headD (.fin false 0 0))
  (b, g ||| h ||| fIf lost fInexact ||| fIf (lost && tiny32 exact) fUnderflow)

/-! ### Block scaling (R55, R56) -/

/-- An element scaled by its block's E8M0 byte: a scale of 0xFF makes it NaN. -/
def scaled (v : Val) (s : Nat) : Val :=
  if s = 255 then .nan else match v with | .fin n m e => .fin n m (e + s - 127) | x => x

/-- EMAX of R56. -/
def emaxOf (ty : Nat) : Int := match ty with | 4 => 15 | 5 => 8 | 6 => 4 | 7 => 2 | 8 => 2 | 9 => 6 | _ => 2

/-- The scale of a block (R56): none when an element is NaN or infinite (0xFF, every element zero, INVALID). -/
def blockScale (ty : Nat) (vs : List Val) : Option Nat :=
  if vs.any (fun v => match v with | .fin _ _ _ => false | _ => true) then none else
    let mx := vs.foldl (fun (a : Option Int) v =>
      match v with
      | .fin _ m e => if m = 0 then a else let l := (ilog2 m : Int) + e; some (match a with | none => l | some b => max b l)
      | _ => a) none
    match mx with
    | none => some 127
    | some l => some (min (max (l - emaxOf ty + 127) 0) 254).toNat

end Sys2Proof.Machine
end

