-- ==== Sys2Proof/Machine/Paths.lean ====
section
/-! DEFINITION. Paths of a group: divergence, parking, reconvergence, the giving up of the pipe (R77-R86), collective regions (R142-R146).
Everything here changes one group and nothing else. Log 11, DESIGN CHOICE (which side of a divergence runs on), log 12, DEDUCED (the reuse of an entry). -/

namespace Sys2Proof.Machine

/-- A path that could issue (R81). -/
def Path.runnable (p : Path) : Bool := p.stat = .ready

/-- The path takes the pipe: its yielding mark clears (R83). -/
def takePipe (x : Group) (p : Path) : Group := { x with run := some { p with yielding := false, ran := true }, issued := 0 }

/-- Of the paths listed, the first in ascending order of lowest thread after thread `last`, wrapping round (R81). -/
def nextPath (l : List Path) (last : Nat) : Option Path :=
  let best := fun (c : List Path) => c.foldl (fun (a : Option Path) p =>
    match a with | none => some p | some q => if lowest p.mask < lowest q.mask then some p else some q) none
  match best (l.filter (fun p => last < lowest p.mask)) with
  | some p => some p
  | none => best l

/-- With no running path: choose the next to run (R80, R81). A path marked yielding that is the only runnable one waits for
YIELD_RETAKE (R83). `prefer`: the entry whose waiting path has not yet run. -/
def choose (x : Group) (last : Nat) (prefer : Option Nat) : Group :=
  match x.run with
  | some _ => x
  | none =>
    let rs := x.others.filter Path.runnable
    if rs.length = 1 && rs.all (·.yielding) then x else
      let pick := match rs.filter (fun p => p.entry = prefer && prefer.isSome && !p.ran) with
        | p :: _ => some p
        | [] => nextPath rs last
      match pick with
      | none => x
      | some p => takePipe { x with others := x.others.erase p } p

/-- The running path gives up the pipe at half-clock cycle `cyc` (R81). -/
def giveUp (x : Group) (cyc : Nat) (mark : Bool) : Group :=
  match x.run with
  | none => x
  | some p =>
    let x := { x with run := none, others := x.others ++ [{ p with yielding := p.yielding || mark }], yieldCyc := cyc, lastLow := lowest p.mask }
    choose x (lowest p.mask) none

/-- Threads join an entry's arrived mask, with their pending fences, which go on holding the joined path (R161), and their call depth. -/
def joinArrived (l : List REntry) (id : Nat) (m : W32) (fences : List FenceRec) (depth : BitVec 16) : List REntry :=
  l.map (fun e => if e.id = id then
    { e with arrived := e.arrived ||| m, fences := e.fences ++ fences.filter (fun f => !e.fences.contains f), depth := depth } else e)

/-- The entry at which the threads of entry `id` stand after `settle` has turned `x0` into `x`: `id` itself while it is in use, else the nearest
outer entry. `fuel` bounds the 16 entries. -/
def standsAt (x0 x : Group) : Nat → Option Nat → Option Nat
  | 0, _ => none
  | _, none => none
  | fuel + 1, some id =>
    if x.entries.any (fun e => e.id = id) then some id
    else standsAt x0 x fuel ((x0.entries.find? (fun e => e.id = id)).bind (·.parent))

/-- Pop every entry whose remaining threads have all arrived (R80); the joined threads go on from the RPC, or join the outer entry that has
the same RPC. `fuel` bounds the 16 entries. -/
def settle : Nat → Group → Group
  | 0, x => x
  | fuel + 1, x =>
    match x.entries.find? (fun e => e.members &&& ~~~e.arrived = 0) with
    | none => x
    | some e =>
      let x := { x with entries := x.entries.filter (fun f => f.id ≠ e.id) }
      let x := { x with entries := x.entries.map (fun f => if f.parent = some e.id then { f with parent := e.parent } else f) }
      let x :=
        if e.arrived = 0 then x else
          match e.parent.bind (fun q => x.entries.find? (fun f => f.id = q && f.rpc = e.rpc)) with
          | some f => { x with entries := joinArrived x.entries f.id e.arrived e.fences e.depth }
          | none =>
            let j : Path := { pc := e.rpc, mask := e.arrived, entry := e.parent, fences := e.fences, depth := e.depth }
            match x.run with
            | none => takePipe x j
            | some _ => { x with others := x.others ++ [j] }
      settle fuel x

/-- If the running path stands at the RPC of its entry, it parks there (R80), and another path runs. -/
def parkRun (x : Group) (cyc : Nat) : Group :=
  match x.run with
  | none => x
  | some p =>
    match p.entry.bind (fun q => x.entries.find? (fun f => f.id = q)) with
    | some e =>
      if e.rpc = p.pc then
        let x0 := { x with run := none, entries := joinArrived x.entries e.id p.mask p.fences p.depth, yieldCyc := cyc, lastLow := lowest p.mask }
        let x := settle 17 x0
        choose x (lowest p.mask) (standsAt x0 x 17 (some e.id))
      else x
    | none => x

/-- Park every waiting path that stands at the RPC of its entry. -/
def parkOthers (x : Group) : Group :=
  x.others.foldl (fun x p =>
    match p.entry.bind (fun q => x.entries.find? (fun f => f.id = q)) with
    | some e =>
      if e.rpc = p.pc && p.stat = .ready then
        settle 17 { x with others := x.others.erase p, entries := joinArrived x.entries e.id p.mask p.fences p.depth }
      else x
    | none => x) x

/-- Build the paths of a divergence, the first continuing as the running path (R77, R78): one nested entry for each further way. -/
def splitWays (x : Group) (p : Path) (rpc : W64) : List (W64 × W32 × Bool) → Option Nat → Group
  | [], _ => x
  | [(pc, m, y)], par => { x with run := some { p with pc := pc, mask := m, entry := par, yielding := y } }
  | (pc, m, y) :: rest, par =>
    -- the last of `rest` runs; this way waits in a new entry
    let all := rest.foldl (fun a w => a ||| w.2.1) m
    let id := x.nextEntry
    let x := { x with
      nextEntry := id + 1
      entries := x.entries ++ [{ id := id, parent := par, rpc := rpc, members := all, arrived := 0 }]
      others := x.others ++ [{ pc := pc, mask := m, entry := some id, yielding := y, fences := p.fences, depth := p.depth }] }
    splitWays x p rpc rest (some id)

/-- The entry that a divergence of path `p` to `rpc` uses again (R78): the innermost of the stack, if the path belongs to it and it has that
RPC. -/
def reusable (x : Group) (p : Path) (rpc : W64) : Option REntry :=
  x.entries.getLast?.bind (fun e => if some e.id = p.entry && e.rpc = rpc then some e else none)

/-- Entries that a divergence of the running path into `ways` (PC, threads, yielding mark) needs, after the reuse rule of R78 (log 12, DEDUCED). -/
def entriesNeeded (x : Group) (p : Path) (rpc : W64) (ways : List (W64 × W32 × Bool)) : Nat :=
  if (reusable x p rpc).isSome then
    let live := ways.filter (fun w => w.1 ≠ rpc)
    let room := if x.others.any (fun q => q.entry = p.entry) then 0 else 1
    live.length - 1 - room
  else ways.length - 1

/-- Divide the running path (R78, R79); the last of `ways` runs on. `none`: more entries than remain free (DIVERGE_DEPTH). -/
def diverge (x : Group) (rpc : W64) (ways : List (W64 × W32 × Bool)) : Option Group :=
  match x.run with
  | none => some x
  | some p =>
    if x.entries.length + entriesNeeded x p rpc ways > 16 then none else
      match reusable x p rpc with
      | some e =>
        let sent := (ways.filter (fun w => w.1 = rpc)).foldl (fun a w => a ||| w.2.1) (0 : W32)
        let live := ways.filter (fun w => w.1 ≠ rpc)
        let x := { x with entries := joinArrived x.entries e.id sent p.fences p.depth }
        let room := !(x.others.any (fun q => q.entry = p.entry))
        match live with
        | [] => some { x with run := none }
        | w :: rest =>
          if room && !rest.isEmpty then
            let x := { x with others := x.others ++ [{ pc := w.1, mask := w.2.1, entry := p.entry, yielding := w.2.2, fences := p.fences, depth := p.depth }] }
            some (splitWays x p rpc rest p.entry)
          else some (splitWays x p rpc live p.entry)
      | none => some (splitWays x p rpc ways p.entry)

/-- After a divergence: ways that stand at their RPC park at once (R80); a running path marked yielding gives up the pipe (R82). -/
def afterDiverge (x : Group) (cyc : Nat) : Group :=
  let x := settle 17 (parkOthers x)
  let x := choose (parkRun x cyc) 32 none
  match x.run with
  | some p => if p.yielding then giveUp x cyc true else x
  | none => x

/-! ### Collective regions -/

/-- A thread's collective count (R145). -/
def Region.count (r : Region) (t : Nat) : Nat := ((r.counts.find? (fun e => e.1 = t)).map (·.2)).getD 0

/-- Threads `m` leave the open region (R143). The fault of R146 when another thread has arrived with a count that a leaving thread has not
reached. The region closes when all have left. -/
def leaveRegion (x : Group) (m : W32) : Group × Option (Nat × Nat) :=
  match x.region with
  | none => (x, none)
  | some r =>
    let m := m &&& r.entry &&& ~~~r.gone
    if m = 0 then (x, none) else
      let bad := r.arrivals.any (fun a => !has m a.thread && (threads m).any (fun t => r.count t ≤ a.count))
      if bad then (x, some (0x0105, m.toNat)) else
        let r := { r with gone := r.gone ||| m }
        ({ x with region := if r.entry &&& ~~~r.gone = 0 then none else some r }, none)

/-- Whether a PC lies in the region's range from CRGN + 8 up to its end (R143). -/
def Region.inside (r : Region) (pc : W64) : Bool := r.start ≤ pc && pc < r.stop

/-- The running path has moved by fall-through (`taken` false) or a taken branch: its threads leave the region at its end, or, at call
depth zero, at a branch out of its range (R143). -/
def regionCheck (x : Group) (taken : Bool) : Group × Option (Nat × Nat) :=
  match x.region, x.run with
  | some r, some p =>
    if p.pc = r.stop || (taken && p.depth = 0 && !r.inside p.pc) then leaveRegion x p.mask else (x, none)
  | _, _ => (x, none)

/-- The running path moves to `pc`: region and reconvergence follow (R80, R143). -/
def moveTo (x : Group) (pc : W64) (taken : Bool) (cyc : Nat) : Group × Option (Nat × Nat) :=
  match x.run with
  | none => (x, none)
  | some p =>
    let (x, f) := regionCheck { x with run := some { p with pc := pc } } taken
    (parkRun x cyc, f)

/-- Threads `m` of the running path exit (R80): they leave every mask. -/
def exitThreads (x : Group) (m : W32) (cyc : Nat) : Group × Option (Nat × Nat) :=
  match x.run with
  | none => (x, none)
  | some p =>
    let m := m &&& p.mask
    let (x, f) := leaveRegion x m
    let x := { x with
      run := if p.mask &&& ~~~m = 0 then none else some { p with mask := p.mask &&& ~~~m }
      entries := (x.entries.map (fun e => { e with members := e.members &&& ~~~m, arrived := e.arrived &&& ~~~m })) }
    let x0 := x
    let x := settle 17 x0
    -- threads that the last exit sends to an outer RPC park there, and that entry's waiting path runs next
    let at_ := standsAt x0 x 17 p.entry
    (choose { x with yieldCyc := if x.run.isNone then cyc else x.yieldCyc, lastLow := if x.run.isNone then lowest p.mask else x.lastLow } (lowest p.mask) (if at_ = p.entry then none else at_), f)

/-- Every path of a group. -/
def allPaths (x : Group) : List Path := x.run.toList ++ x.others

/-- The group's threads have all exited. -/
def Group.done (x : Group) : Bool := x.run.isNone && x.others.isEmpty

/-- Entries in use (GSTAT.DEPTH). -/
def Group.depth (x : Group) : Nat := x.entries.length

end Sys2Proof.Machine
end

