-- ==== Sys2Proof/Machine/Operands.lean ====
section
/-! DEFINITION. Register operands (R102, R103, R106, R107), the decode checks (R125), how a command finds the path that issues it, and how a
GIA fault leaves the core (R94, R95). Log 15, DEDUCED (results in an S-core's registers), log 16, DESIGN CHOICE (which commands issue). -/

namespace Sys2Proof.Machine

/-! ### Reading and writing registers -/

/-- An X register of a thread. -/
def Group.xreg (x : Group) (r t : Nat) : Nat := x.xs.getD (r * 32 + t) 0

/-- Write an X register, cut to its width: 32 bits, 64 on an S-core. -/
def Group.setX (x : Group) (w r t v : Nat) : Group := { x with xs := x.xs.set (r * 32 + t) 0 (v % 2 ^ w) }

def Group.ureg (x : Group) (u : Nat) : Nat := x.us.getD u 0

def Group.setU (x : Group) (u v : Nat) : Group := { x with us := x.us.set u 0 (v % 2 ^ 64) }

/-- A predicate register as a mask of threads: P0 reads as 1 (R74). -/
def Group.pmask (x : Group) (p : Nat) : W32 := if p = 0 then BitVec.allOnes 32 else BitVec.ofNat 32 (x.preds.getD p 0)

/-- Write a predicate register for the threads of `m`: writes to P0 are ignored (R74). -/
def Group.setP (x : Group) (p : Nat) (m v : W32) : Group :=
  if p = 0 then x else { x with preds := x.preds.set p 0 ((x.pmask p &&& ~~~m) ||| (v &&& m)).toNat }

/-- The value of operand `code` for thread `t`, `w` bits wide (R102, R103): X, U, P (as 0 or 1), or ZERO. -/
def Group.opnd (x : Group) (score : Bool) (w : Nat) (code : BitVec 8) (t : Nat) : Nat :=
  let k := code.toNat
  if k < 0x80 then
    if score then x.xreg k t % 2 ^ w
    else if w ≤ 32 then x.xreg k t % 2 ^ w else x.xreg k t % 2 ^ 32 + 2 ^ 32 * (x.xreg (k + 1) t % 2 ^ 32)
  else if k < 0xC0 then x.ureg (k - 0x80) % 2 ^ w
  else if k < 0xC8 then (has (x.pmask (k - 0xC0)) t).toNat
  else 0

/-- How a 32-bit result enters a 64-bit register (R103, R106): sign-extended or zero-extended. -/
def extend (w : Nat) (sx : Bool) (v : Nat) : Nat := if w < 64 && sx then wrap 64 (sext w (v % 2 ^ w)) else v % 2 ^ w

/-- Write the results of threads `m` to operand `code`: each thread's X register; a U register takes the lowest thread's result; a write to
ZERO is discarded. `sx`: a narrow result is sign-extended in a 64-bit register (R103; on an S-core log 15, DEDUCED). -/
def Group.putRes (x : Group) (score : Bool) (w : Nat) (sx : Bool) (code : BitVec 8) (m : W32) (f : Nat → Nat) : Group :=
  let k := code.toNat
  if k < 0x80 then
    (threads m).foldl (fun x t =>
      if score then x.setX 64 k t (extend w sx (f t))
      else if w ≤ 32 then x.setX 32 k t (f t)
      else (x.setX 32 k t (f t % 2 ^ 32)).setX 32 (k + 1) t (f t / 2 ^ 32 % 2 ^ 32)) x
  else if k < 0xC0 then
    match threads m with | [] => x | t :: _ => x.setU (k - 0x80) (extend w sx (f t))
  else x

/-! ### Decode checks (R125) -/

/-- What an operand field may hold (R102, R103, R107): ZERO only; a P register; one other than P0; a 32-bit register, or one that is not
ZERO; a 64-bit one; a 16-byte group; a 64-bit one that is not ZERO; an X pair. -/
inductive OKind where
  | z | p | p1 | r | rn | w | q | wr | xp
  deriving DecidableEq, Repr, Inhabited

/-- An operand field: its lowest bit, its code, what it may hold. -/
structure OField where
  lo : Nat
  code : BitVec 8
  kind : OKind
  deriving DecidableEq, Repr, Inhabited

/-- Whether the code is not reserved in this field on this core type. -/
def OField.ok (f : OField) (score : Bool) : Bool :=
  let k := f.code.toNat
  let x (al : Nat) := k < 0x80 && (score || k % al = 0)
  let u := 0x80 ≤ k && k < 0xC0 && !score
  match f.kind with
  | .z => k = 0xC8
  | .p => 0xC0 ≤ k && k < 0xC8
  | .p1 => 0xC1 ≤ k && k < 0xC8
  | .r => x 1 || u || k = 0xC8
  | .rn => x 1 || u
  | .w => x 2 || u || k = 0xC8
  | .q => k < 0x80 && k % 4 = 0
  | .wr => x 2 || u
  | .xp => x 2

/-- The first X register index of the field at or above the limit (R75, R103). -/
def OField.range (f : OField) (score : Bool) (n : Nat) : Option Nat :=
  let k := f.code.toNat
  if k < 0x80 then
    let len := match f.kind with | .w => if score then 1 else 2 | .wr => if score then 1 else 2 | .xp => 2 | .q => if score then 2 else 4 | _ => 1
    let lim := if score then 32 else n
    if k ≥ lim then some k else if k + len > lim then some lim else none
  else none

/-- The operand order of R125 step 3: D, A, B, C. -/
def firstRange (l : List OField) (score : Bool) (n : Nat) : Option Nat := l.findSome? (fun f => f.range score n)

/-- The checks of R125 on an instruction: whether it is provided on the core type, the guard, the operand fields, further fields as pairs of
lowest bit and whether the value is allowed. Answers the fault's code and DETAIL. -/
def decodeCheck (ct n : Nat) (prov : Bool) (pr : BitVec 3) (pn uncond : Bool) (ops : List OField) (fields : List (Nat × Bool)) :
    Option (Nat × Nat) :=
  let score := ct = 3
  if !prov then some (0x0101, 0) else
    let guardOk := if uncond then pr = 0 && !pn else !(pr = 0 && pn)
    let bad := (if guardOk then [] else [0]) ++ (ops.filter (fun f => !f.ok score)).map (·.lo) ++
      (fields.filter (fun f => !f.2)).map (·.1)
    match bad.foldl (fun (a : Option Nat) b => match a with | none => some b | some c => some (min b c)) none with
    | some b => some (0x0102, b)
    | none => (firstRange ops score n).map (fun r => (0x0103, r))

/-! ### Faults (R94, R95) -/

/-- A fault is sent to the Turnpike and the core stops every group of the context it runs (R95 step 1). -/
def raiseFault (s : State) (f : FaultRec) : State :=
  let s := { s with sched := { s.sched with faults := s.sched.faults ++ [{ f with time := mstNow s }] } }
  each ((s.cores.filter (fun e => e.1 = f.core && e.2.ctx = some f.ctx)).map (·.1))
    (fun s c => setCore s c { getCore s c with halted := true }) s

/-- A fault of a path of a group: its active mask and PC, the instruction where one is named. -/
def pathFault (s : State) (g : Grp) (code detail : Nat) (insn : Option Nat) (addr : Option Nat) (active : W32) (pc : W64) : State :=
  match (getCore s g.core).ctx with
  | some ctx =>
    raiseFault s { ctx := ctx, code := code, detail := detail, core := g.core, pipe := g.pipe, slot := g.slot, group := true, score := coreType g.core = 3,
                   active := active, pc := pc, insn := insn.getD 0, addr := addr }
  | none => s

/-- A fault of the running path of a group. -/
def groupFault (s : State) (g : Grp) (code detail : Nat) (insn : Option Nat) (addr : Option Nat) : State :=
  match getGroup s g with
  | some x =>
    let p := x.run.getD ((x.others.headD { pc := 0, mask := 0 }))
    pathFault s g code detail insn addr p.mask p.pc
  | none => s

/-! ### Issue -/

/-- What a GIA instruction sees when it issues: core type, core, context, group, running path, executing threads (R101). -/
structure Env where
  g : Grp
  ct : Nat
  k : Core
  ctx : Nat
  x : Group
  p : Path
  ex : W32
  insn : Nat := 0   -- first 32 bits of the instruction
  deriving DecidableEq, Repr, Inhabited

/-- S-core? -/
def Env.sc (e : Env) : Bool := e.ct = 3

/-- Whether the group's running path can issue (log 16, DESIGN CHOICE): its core runs a context, is not halted nor gated, the group is not stopped, the
path is not blocked. -/
def env? (s : State) (g : Grp) (pr : BitVec 3) (pn : Bool) : Option Env :=
  let k := getCore s g.core
  match k.ctx, k.groups.get (gkey g) with
  | some ctx, some x =>
    match x.run with
    | some p =>
      if k.halted || k.gated || x.stopped || p.stat ≠ .ready then none else
        let pm := x.pmask pr.toNat
        some { g := g, ct := coreType g.core, k := k, ctx := ctx, x := x, p := p, ex := p.mask &&& (if pn then ~~~pm else pm) }
    | none => none
  | _, _ => none

/-- The first 32 bits of the instruction (R97, R99): guard, form, opcode, D and A fields. -/
def insnWord (pr : BitVec 3) (pn : Bool) (form op : Nat) (d a : BitVec 8) : Nat :=
  pr.toNat + pn.toNat * 8 + form * 16 + op * 64 + d.toNat * 65536 + a.toNat * 16777216

/-- Operand codes of the registers that outstanding loads and atomics of the group will write (R110). -/
def pendingRegs (k : Core) (g : Grp) : List Nat :=
  (k.outs.filter (fun o => o.pipe = g.pipe && o.slot = g.slot && !o.parts.isEmpty)).flatMap (·.regs)

/-- Operand codes of the registers that an operand field covers. -/
def OField.regs (f : OField) (score : Bool) : List Nat :=
  let k := f.code.toNat
  if k < 0x80 then
    match f.kind with
    | .w => if score then [k] else [k, k + 1]
    | .wr => if score then [k] else [k, k + 1]
    | .q => if score then [k, k + 1] else [k, k + 1, k + 2, k + 3]
    | _ => [k]
  else if k = 0xC8 then [] else [k]

/-- Whether the instruction's registers are free of earlier writes outstanding (R110). -/
def regsReady (s : State) (e : Env) (ops : List OField) : Bool :=
  (pendingRegs e.k e.g ++ (s.wm.reads.filter (fun r => r.core = e.g.core && r.key = gkey e.g)).map (·.d.toNat)).all (fun d => ops.all (fun f => !(f.regs e.sc).contains d))

/-- Count an issued instruction; after 64 with another path yielding, PATH_ROTATE applies (R81). -/
def countIssue (x : Group) : Group := { x with issued := x.issued + 1 }

/-- Store the group and raise the fault that a move of its running path found (R143, R146), in that path's name. -/
def finish (s : State) (g : Grp) (r : Group × Option (Nat × Nat)) : State :=
  match r.2, (getGroup s g).bind (·.run) with
  | none, _ => setGroup s g r.1
  | some (c, d), some p => pathFault (setGroup s g r.1) g c d none none p.mask p.pc
  | some (c, d), none => groupFault (setGroup s g r.1) g c d none none

/-- The path goes on after an instruction of `len` bytes. -/
def advance (s : State) (g : Grp) (x : Group) (len : Nat) : State :=
  match x.run with
  | none => setGroup s g x
  | some p => finish s g (moveTo (countIssue x) (p.pc + BitVec.ofNat 64 len) false (cycles s (coreHalf g.core)))

/-- The common course of an instruction: nothing if no path can issue; the decode faults of R125; nothing while a register is awaited
(R110); else its own effect. -/
def issue (s : State) (g : Grp) (pr : BitVec 3) (pn uncond : Bool) (form op : Nat) (d a : BitVec 8) (prov : Nat → Bool)
    (ops : Nat → List OField) (fields : Nat → List (Nat × Bool)) (body : Env → State) : State :=
  match env? s g pr pn with
  | none => s
  | some e =>
    match decodeCheck e.ct e.x.n (prov e.ct) pr pn uncond (ops e.ct) (fields e.ct) with
    | some (c, det) => groupFault s g c det (some (insnWord pr pn form op d a)) none
    | none => if regsReady s e (ops e.ct) then body { e with insn := insnWord pr pn form op d a } else s

end Sys2Proof.Machine
end

