-- ==== Sys2Proof/Machine/Alu.lean ====
section
/-! DEFINITION. Integer and logic, floating, conversion, cross-thread and compare instructions (R111, R112). -/

namespace Sys2Proof.Machine

/-! ### Shared shapes -/

/-- A register operand kind by width. -/
def wk (w : Nat) : OKind := if w = 64 then .w else .r

/-- TYPE is one of the four integer types (R111). -/
def isInt (ty : BitVec 4) : Bool := 12 ≤ ty.toNat

/-- Whether a type is signed. -/
def isSigned (ty : BitVec 4) : Bool := ty = 12 || ty = 14

/-- RM, SAT and SUB all zero (R105). -/
def plainTail (f : RForm) : List (Nat × Bool) := [(52, f.rm = 0), (55, !f.sat), (56, f.sub = 0)]

/-- Write per-thread results and go on. -/
def putAdvance (s : State) (e : Env) (w : Nat) (sx : Bool) (d : BitVec 8) (f : Nat → Nat) (fl : Flg) (len : Nat) : State :=
  let x := e.x.putRes e.sc w sx d e.ex f
  advance s e.g { x with arith := x.arith.raise fl } len

/-- Which operands an integer operation has: B, C as a register, C as a P register. -/
inductive IShape where
  | unary | binary | ternary | pick
  deriving DecidableEq, Repr, Inhabited

/-- An integer R-form operation: `f` takes width, signedness, A, B, C (for PICK, C is the predicate bit). -/
def intOp (g : Grp) (i : RForm) (op : Nat) (sh : IShape) (f : Nat → Bool → Nat → Nat → Nat → Nat) (s : State) : Out :=
  let w := tyBits i.ty.toNat
  .next (issue s g i.pr i.pn false 0 op i.d i.a (fun _ => true)
    (fun _ => [⟨16, i.d, wk w⟩, ⟨24, i.a, wk w⟩, ⟨32, i.b, if sh = .unary then .z else wk w⟩,
      ⟨40, i.c, match sh with | .ternary => wk w | .pick => .p | _ => .z⟩])
    (fun _ => (48, isInt i.ty) :: plainTail i)
    (fun e => putAdvance s e w (i.ty = 12) i.d (fun t =>
      f w (isSigned i.ty) (e.x.opnd e.sc w i.a t) (e.x.opnd e.sc w i.b t) (e.x.opnd e.sc w i.c t)) 0 8))

/-- Compare by the type's sign. -/
def intLt (w : Nat) (sg : Bool) (a b : Nat) : Bool := if sg then sext w a < sext w b else a < b

def execIadd (g : Grp) (i : RForm) (s : State) : Out := intOp g i 0x000 .binary (fun w _ a b _ => (a + b) % 2 ^ w) s
def execIsub (g : Grp) (i : RForm) (s : State) : Out := intOp g i 0x001 .binary (fun w _ a b _ => (a + (2 ^ w - b)) % 2 ^ w) s
def execImul (g : Grp) (i : RForm) (s : State) : Out := intOp g i 0x002 .binary (fun w _ a b _ => a * b % 2 ^ w) s
/-- High half of the product, signed or unsigned by TYPE. -/
def execImulh (g : Grp) (i : RForm) (s : State) : Out :=
  intOp g i 0x003 .binary (fun w sg a b _ => if sg then wrap w (sext w a * sext w b / 2 ^ w) else a * b / 2 ^ w) s
def execImad (g : Grp) (i : RForm) (s : State) : Out := intOp g i 0x004 .ternary (fun w _ a b c => (a * b + c) % 2 ^ w) s
def execImin (g : Grp) (i : RForm) (s : State) : Out := intOp g i 0x005 .binary (fun w sg a b _ => if intLt w sg b a then b else a) s
def execImax (g : Grp) (i : RForm) (s : State) : Out := intOp g i 0x006 .binary (fun w sg a b _ => if intLt w sg a b then b else a) s
def execAnd (g : Grp) (i : RForm) (s : State) : Out := intOp g i 0x008 .binary (fun _ _ a b _ => Nat.land a b) s
def execOr (g : Grp) (i : RForm) (s : State) : Out := intOp g i 0x009 .binary (fun _ _ a b _ => Nat.lor a b) s
def execXor (g : Grp) (i : RForm) (s : State) : Out := intOp g i 0x00A .binary (fun _ _ a b _ => Nat.xor a b) s
def execNot (g : Grp) (i : RForm) (s : State) : Out := intOp g i 0x00B .unary (fun w _ a _ _ => 2 ^ w - 1 - a) s
def execShl (g : Grp) (i : RForm) (s : State) : Out := intOp g i 0x00C .binary (fun w _ a b _ => a * 2 ^ (b % w) % 2 ^ w) s
/-- Logical for U types, arithmetic for S types (R111). -/
def execShr (g : Grp) (i : RForm) (s : State) : Out :=
  intOp g i 0x00D .binary (fun w sg a b _ => if sg then wrap w (sext w a / 2 ^ (b % w)) else a / 2 ^ (b % w)) s
def execPopc (g : Grp) (i : RForm) (s : State) : Out :=
  intOp g i 0x00E .unary (fun w _ a _ _ => ((List.range w).filter (fun k => a.testBit k)).length) s
def execClz (g : Grp) (i : RForm) (s : State) : Out :=
  intOp g i 0x00F .unary (fun w _ a _ _ => if a = 0 then w else w - 1 - Nat.log2 a) s
/-- D := A if P-register C is 1, else B (R111). -/
def execPick (g : Grp) (i : RForm) (s : State) : Out := intOp g i 0x010 .pick (fun _ _ a b c => if c ≠ 0 then a else b) s

/-- An integer I-form operation: 32 bits; a 64-bit destination takes the result sign-extended (R106). -/
def immOp (g : Grp) (i : IForm) (op : Nat) (useA : Bool) (f : Nat → Nat → Nat) (s : State) : Out :=
  .next (issue s g i.pr i.pn false 1 op i.d i.a (fun _ => true)
    (fun _ => [⟨16, i.d, .r⟩, ⟨24, i.a, if useA then .r else .z⟩]) (fun _ => [])
    (fun e => putAdvance s e 32 true i.d (fun t => f (e.x.opnd e.sc 32 i.a t) i.imm.toNat) 0 8))

def execIaddi (g : Grp) (i : IForm) (s : State) : Out := immOp g i 0x040 true (fun a b => (a + b) % 2 ^ 32) s
def execAndi (g : Grp) (i : IForm) (s : State) : Out := immOp g i 0x041 true (fun a b => Nat.land a b) s
def execOri (g : Grp) (i : IForm) (s : State) : Out := immOp g i 0x042 true (fun a b => Nat.lor a b) s
def execXori (g : Grp) (i : IForm) (s : State) : Out := immOp g i 0x043 true (fun a b => Nat.xor a b) s
def execShli (g : Grp) (i : IForm) (s : State) : Out := immOp g i 0x044 true (fun a b => a * 2 ^ (b % 32) % 2 ^ 32) s
/-- A logical shift (R111). -/
def execShri (g : Grp) (i : IForm) (s : State) : Out := immOp g i 0x045 true (fun a b => a / 2 ^ (b % 32)) s
def execMovi (g : Grp) (i : IForm) (s : State) : Out := immOp g i 0x046 false (fun _ b => b) s

/-- D (a pair or U) := second word (R111). -/
def execMovl (g : Grp) (i : LForm) (s : State) : Out :=
  let r := i.r
  .next (issue s g r.pr r.pn false 3 0x047 r.d r.a (fun _ => true)
    (fun _ => [⟨16, r.d, .w⟩, ⟨24, r.a, .z⟩, ⟨32, r.b, .z⟩, ⟨40, r.c, .z⟩]) (fun _ => (48, r.ty = 0) :: plainTail r)
    (fun e => putAdvance s e 64 false r.d (fun _ => i.w2.toNat) 0 16))

/-! ### Floating arithmetic -/

/-- Floating TYPEs of the core type (R57, R109): binary32 on M-cores, all four on V-cores, binary64 and binary32 on S-cores. -/
def floatTy (ct : Nat) (ty : BitVec 4) : Bool :=
  match ct with | 1 => ty = 1 | 2 => ty.toNat ≤ 3 | _ => ty.toNat ≤ 1

/-- Width of a floating operand in registers: packed pairs are 32 bits (R104). -/
def regW (ty : BitVec 4) : Nat := if ty = 0 || ty = 14 || ty = 15 then 64 else 32

/-- One register's floating result: one element, or the two of a packed pair (R111). -/
def floatReg (ty : Nat) (op : Nat) (md : RMode) (sat : Bool) (sub : BitVec 8) (a b c : Nat) : Nat × Flg :=
  match fmtOf ty with
  | none => (0, 0)
  | some f =>
    if ty = 2 || ty = 3 then
      let (l, fl) := fElem f op md sat sub (a % 65536) (b % 65536) (c % 65536)
      let (h, fh) := fElem f op md sat sub (a / 65536 % 65536) (b / 65536 % 65536) (c / 65536 % 65536)
      (l + 65536 * h, fl ||| fh)
    else fElem f op md sat sub a b c

/-- Flags over the threads of a mask. -/
def orFlags (m : W32) (f : Nat → Flg) : Flg := (threads m).foldl (fun a t => a ||| f t) 0

/-- RM and SAT of arithmetic: 0-4 or DYN; SAT must be 0 with DYN (R60). -/
def rmChecks (f : RForm) (sr : Bool) : List (Nat × Bool) :=
  [(52, f.rm ≠ 7 && (sr || f.rm ≠ 5)), (55, !(f.rm = 6 && f.sat))]

/-- A floating R-form operation (R111). `op` numbers the operation of `fOp`; min and max have no rounding. -/
def floatOp (g : Grp) (i : RForm) (code op : Nat) (types : Nat → BitVec 4 → Bool) (s : State) : Out :=
  let w := regW i.ty
  let minmax := op = 3 || op = 4
  .next (issue s g i.pr i.pn false 0 code i.d i.a (fun _ => true)
    (fun _ => [⟨16, i.d, wk w⟩, ⟨24, i.a, wk w⟩, ⟨32, i.b, if op = 6 then .z else wk w⟩, ⟨40, i.c, if op = 2 then wk w else .z⟩])
    (fun ct => (48, types ct i.ty) :: (60, i.sub.toNat < 16) ::
      (if minmax then [(52, i.rm = 0), (55, !i.sat)] else rmChecks i false))
    (fun e =>
      let (rm, sat) := resolveRm e.x.arith i.rm.toNat i.sat
      let md := rmodeOf (arithRm rm) 0
      let r := fun t => floatReg i.ty.toNat op md sat i.sub (e.x.opnd e.sc w i.a t) (e.x.opnd e.sc w i.b t) (e.x.opnd e.sc w i.c t)
      putAdvance s e w false i.d (fun t => (r t).1) (orFlags e.ex (fun t => (r t).2)) 8))

def execFadd (g : Grp) (i : RForm) (s : State) : Out := floatOp g i 0x080 0 floatTy s
def execFmul (g : Grp) (i : RForm) (s : State) : Out := floatOp g i 0x081 1 floatTy s
def execFfma (g : Grp) (i : RForm) (s : State) : Out := floatOp g i 0x082 2 floatTy s
def execFmin (g : Grp) (i : RForm) (s : State) : Out := floatOp g i 0x083 3 floatTy s
def execFmax (g : Grp) (i : RForm) (s : State) : Out := floatOp g i 0x084 4 floatTy s
/-- FDIV and FSQRT take binary64 and binary32 (R111). -/
def wideTy (ct : Nat) (ty : BitVec 4) : Bool := floatTy ct ty && ty.toNat ≤ 1
def execFdiv (g : Grp) (i : RForm) (s : State) : Out := floatOp g i 0x085 5 wideTy s
def execFsqrt (g : Grp) (i : RForm) (s : State) : Out := floatOp g i 0x086 6 wideTy s

/-- An approximate function (R69, R111): binary32 only, B and C ZERO, RM and SAT zero (R105: it has no rounding and no saturation); `fn` numbers it for `approxElem`. -/
def approxOp (g : Grp) (i : RForm) (code fn : Nat) (s : State) : Out :=
  .next (issue s g i.pr i.pn false 0 code i.d i.a (fun _ => true)
    (fun _ => [⟨16, i.d, .r⟩, ⟨24, i.a, .r⟩, ⟨32, i.b, .z⟩, ⟨40, i.c, .z⟩])
    (fun ct => [(48, i.ty = 1 && floatTy ct i.ty), (52, i.rm = 0), (55, !i.sat), (60, i.sub.toNat < 16)])
    (fun e =>
      let arg := fun t =>
        let a := e.x.opnd e.sc 32 i.a t
        let a := if has i.sub 2 then a % 2 ^ 31 else a
        if has i.sub 0 then (a + 2 ^ 31) % 2 ^ 32 else a
      putAdvance s e 32 false i.d (fun t => (approxElem fn e.ct (arg t)).1) (orFlags e.ex (fun t => (approxElem fn e.ct (arg t)).2)) 8))

def execFrcp (g : Grp) (i : RForm) (s : State) : Out := approxOp g i 0x088 0 s
def execFrsq (g : Grp) (i : RForm) (s : State) : Out := approxOp g i 0x089 1 s
def execFexp2 (g : Grp) (i : RForm) (s : State) : Out := approxOp g i 0x08A 2 s
def execFlog2 (g : Grp) (i : RForm) (s : State) : Out := approxOp g i 0x08B 3 s
def execFtanh (g : Grp) (i : RForm) (s : State) : Out := approxOp g i 0x08C 4 s

/-! ### Conversion and moves -/

/-- Types that CVT accepts on a core type, destination and source (R57, R109, R508). On an S-core: its arithmetic formats and the
integers (log 17, DEDUCED). Between two integer types: log 148, DESIGN CHOICE. -/
def cvtOk (ct : Nat) (dst src : Nat) : Bool :=
  match ct with
  | 1 => (dst = 1 && (src = 12 || src = 13)) || (src = 1 && (dst = 12 || dst = 13))
  | 2 => true
  | _ => (dst ≤ 1 || dst ≥ 12) && (src ≤ 1 || src ≥ 12)

/-- Destination types of CVT on a core type. -/
def cvtDst (ct dst : Nat) : Bool := match ct with | 1 => dst = 1 || dst = 12 || dst = 13 | 2 => true | _ => dst ≤ 1 || dst ≥ 12

/-- One register's conversion (R111): two elements between packed types, else element 0 in and element 0 out with the rest zero. -/
def cvtReg (src dst : Nat) (md : Nat → RMode) (sat : Bool) (v : Nat) : Nat × Flg :=
  let packed := fun t => t = 2 || t = 3
  let elem := fun k v => cvtElem src dst (md k) sat (v % 2 ^ tyBits src)
  if packed src && packed dst then
    let (l, fl) := elem 0 v
    let (h, fh) := elem 1 (v / 65536)
    (l + 65536 * h, fl ||| fh)
  else elem 0 v

/-- CVT (R64, R111). SR takes a fresh draw for each element (R62, R63). -/
def execCvt (g : Grp) (i : RForm) (s : State) : Out :=
  let src := i.sub.toNat % 16
  let wd := regW i.ty
  let ws := regW (BitVec.ofNat 4 src)
  .next (issue s g i.pr i.pn false 0 0x100 i.d i.a (fun _ => true)
    (fun _ => [⟨16, i.d, wk wd⟩, ⟨24, i.a, wk ws⟩, ⟨32, i.b, .z⟩, ⟨40, i.c, .z⟩])
    (fun ct => (48, cvtDst ct i.ty.toNat) :: (56, cvtOk ct i.ty.toNat src) ::
      (60, i.sub.toNat < 16) :: rmChecks i true)
    (fun e =>
      let (rm, sat) := resolveRm e.x.arith i.rm.toNat i.sat
      -- two draws are set aside for each thread
      let md := fun t k => rmodeOf rm (Config.freeNat (s.freeCtr + 2 * t + k) % 65536)
      let r := fun t => cvtReg src i.ty.toNat (md t) sat (e.x.opnd e.sc ws i.a t)
      let s := if rm = 5 then { s with freeCtr := s.freeCtr + 64 } else s
      putAdvance s e wd (i.ty = 12) i.d (fun t => (r t).1) (orFlags e.ex (fun t => (r t).2)) 8))

/-- D := A (R111); 32 bits on M- and V-cores' X registers, 64 between 64-bit registers (log 18, DEDUCED). -/
def execMov (g : Grp) (i : RForm) (s : State) : Out :=
  let u := fun (c : BitVec 8) => 0x80 ≤ c.toNat
  .next (issue s g i.pr i.pn false 0 0x101 i.d i.a (fun _ => true)
    (fun _ => [⟨16, i.d, .r⟩, ⟨24, i.a, .r⟩, ⟨32, i.b, .z⟩, ⟨40, i.c, .z⟩]) (fun _ => (48, i.ty = 0) :: plainTail i)
    (fun e =>
      let w := if e.sc || (u i.d && u i.a) then 64 else 32
      putAdvance s e w false i.d (fun t => e.x.opnd e.sc w i.a t) 0 8))

/-- The source thread of XLANE (R112): none when it lies outside 0-31. B is unsigned, and t - B and t + B do not wrap (log 181, DESIGN CHOICE). -/
def laneSrc (mode t b : Nat) : Option Nat :=
  let r : Int := match mode with
    | 0 => b | 1 => (t : Int) - b | 2 => (t : Int) + b | 3 => (Nat.xor t b : Nat) | _ => ((t + b) % 32 : Nat)
  if 0 ≤ r && r < 32 then some r.toNat else none

/-- XLANE (R112): a lane whose source is out of range or does not execute receives its own A. -/
def execXlane (g : Grp) (i : RForm) (s : State) : Out :=
  .next (issue s g i.pr i.pn false 0 0x102 i.d i.a (fun ct => ct ≠ 3)
    (fun _ => [⟨16, i.d, .r⟩, ⟨24, i.a, .r⟩, ⟨32, i.b, .r⟩, ⟨40, i.c, .z⟩])
    (fun _ => [(48, i.ty = 0), (52, i.rm = 0), (55, !i.sat), (56, i.sub.toNat % 8 ≤ 4), (59, i.sub.toNat / 8 = 0)])
    (fun e => putAdvance s e 32 false i.d (fun t =>
      match laneSrc (i.sub.toNat % 8) t (e.x.opnd false 32 i.b t) with
      | some q => if has e.ex q then e.x.opnd false 32 i.a q else e.x.opnd false 32 i.a t
      | none => e.x.opnd false 32 i.a t) 0 8))

/-- TALLY (R112): ANY, ALL to a P register, MASK, COUNT to an X or U register, over the executing threads. -/
def execTally (g : Grp) (i : RForm) (s : State) : Out :=
  let mode := i.sub.toNat % 4
  .next (issue s g i.pr i.pn false 0 0x103 i.d i.a (fun ct => ct ≠ 3)
    (fun _ => [⟨16, i.d, if mode < 2 then .p else .r⟩, ⟨24, i.a, .p⟩, ⟨32, i.b, .z⟩, ⟨40, i.c, .z⟩])
    (fun _ => [(48, i.ty = 0), (52, i.rm = 0), (55, !i.sat), (58, i.sub.toNat / 4 = 0)])
    (fun e =>
      let m := e.x.pmask (i.a.toNat - 0xC0) &&& e.ex
      match mode with
      | 2 => putAdvance s e 32 false i.d (fun _ => m.toNat) 0 8
      | 3 => putAdvance s e 32 false i.d (fun _ => popc32 m) 0 8
      | k =>
        let v := if k = 0 then m ≠ 0 else m = e.ex
        advance s g (e.x.setP (i.d.toNat - 0xC0) e.ex (if v then BitVec.allOnes 32 else 0)) 8))

/-! ### Compare and predicate -/

/-- Join a compare's result with the old predicate (R111). -/
def joinP (join : Nat) (old new : W32) : W32 := match join with | 1 => old &&& new | 2 => old ||| new | _ => new

/-- Write a compare's result to P register D for the executing threads. -/
def putCmp (s : State) (e : Env) (i : RForm) (f : Nat → Bool) (fl : Flg) : State :=
  let p := i.d.toNat - 0xC0
  let new := maskOf ((threads e.ex).filter f)
  let x := e.x.setP p e.ex (joinP (i.sub.toNat / 16 % 4) (e.x.pmask p) new)
  advance s e.g { x with arith := x.arith.raise fl } 8

/-- SUB of a compare: the condition up to `top`, JOIN not 3, SUB[7:6] zero. -/
def cmpFields (i : RForm) (top : Nat) : List (Nat × Bool) :=
  [(52, i.rm = 0), (55, !i.sat), (56, i.sub.toNat % 16 ≤ top), (60, i.sub.toNat / 16 % 4 ≠ 3), (62, i.sub.toNat / 64 = 0)]

/-- ICMP (R111). -/
def execIcmp (g : Grp) (i : RForm) (s : State) : Out :=
  let w := tyBits i.ty.toNat
  .next (issue s g i.pr i.pn false 0 0x140 i.d i.a (fun _ => true)
    (fun _ => [⟨16, i.d, .p⟩, ⟨24, i.a, wk w⟩, ⟨32, i.b, wk w⟩, ⟨40, i.c, .z⟩])
    (fun _ => (48, isInt i.ty) :: cmpFields i 5)
    (fun e => putCmp s e i (fun t =>
      let a := e.x.opnd e.sc w i.a t
      let b := e.x.opnd e.sc w i.b t
      let lt := intLt w (isSigned i.ty) a b
      match i.sub.toNat % 16 with
      | 0 => a = b | 1 => a ≠ b | 2 => lt | 3 => lt || a = b | 4 => !(lt || a = b) | _ => !lt) 0))

/-- FCMP (R111): the low element of packed pairs; ordered conditions are 0 on a NaN, NE is 1, UNORD is 1 exactly then. -/
def execFcmp (g : Grp) (i : RForm) (s : State) : Out :=
  let w := regW i.ty
  .next (issue s g i.pr i.pn false 0 0x141 i.d i.a (fun _ => true)
    (fun _ => [⟨16, i.d, .p⟩, ⟨24, i.a, wk w⟩, ⟨32, i.b, wk w⟩, ⟨40, i.c, .z⟩])
    (fun ct => (48, floatTy ct i.ty) :: cmpFields i 6)
    (fun e =>
      let val := fun (c : BitVec 8) t => decTy i.ty.toNat (e.x.opnd e.sc w c t % 2 ^ tyBits i.ty.toNat)
      putCmp s e i (fun t =>
        let a := (val i.a t).1
        let b := (val i.b t).1
        let un := a.isNan || b.isNan
        match i.sub.toNat % 16 with
        | 0 => !un && vEq a b | 1 => un || !vEq a b | 2 => !un && vLt a b | 3 => !un && !vLt b a | 4 => !un && vLt b a
        | 5 => !un && !vLt a b | _ => un) (orFlags e.ex (fun t => fIf ((val i.a t).2 || (val i.b t).2) fInvalid))))

/-- PBOOL (R111): ANDN is A AND NOT B. -/
def execPbool (g : Grp) (i : RForm) (s : State) : Out :=
  .next (issue s g i.pr i.pn false 0 0x142 i.d i.a (fun _ => true)
    (fun _ => [⟨16, i.d, .p⟩, ⟨24, i.a, .p⟩, ⟨32, i.b, .p⟩, ⟨40, i.c, .z⟩])
    (fun _ => [(48, i.ty = 0), (52, i.rm = 0), (55, !i.sat), (58, i.sub.toNat / 4 = 0)])
    (fun e =>
      let a := e.x.pmask (i.a.toNat - 0xC0)
      let b := e.x.pmask (i.b.toNat - 0xC0)
      let v := match i.sub.toNat % 4 with | 0 => a &&& b | 1 => a ||| b | 2 => a ^^^ b | _ => a &&& ~~~b
      advance s g (e.x.setP (i.d.toNat - 0xC0) e.ex v) 8))

end Sys2Proof.Machine
end

