-- ==== Sys2Proof/Machine/Lines.lean ====
section
/-! DEFINITION. Lines, their homes and slices (R186, R187), marks of deck lines (R238), deck units (R362). -/

namespace Sys2Proof.Machine

/-! ### Lines and homes -/

/-- Key of a line in a die's slices. -/
def lkey (die line : Nat) : Nat := die * 2 ^ 46 + line

/-- Device number of a system address (R484). -/
def devOf (a : Nat) : Nat := a / 2 ^ 40

/-- This device's number. -/
def myDev (s : State) : Nat := rd s .LK_DEVNUM_DEV

/-- Local physical address of a system address. -/
def locOf (a : Nat) : Nat := a % 2 ^ 40

/-- A system address of this device's deck (R484, R485). -/
def isDeck (s : State) (a : Nat) : Bool := devOf a = myDev s && locOf a < deckBytes

/-- A system address in this device's loft windows. -/
def isLoft (s : State) (a : Nat) : Bool := devOf a = myDev s && loftBase ≤ locOf a && locOf a < loftBase + 832 * loftStride

/-- Local line number of a system line number. -/
def locLine (line : Nat) : Nat := line % 2 ^ 34

/-- Home die of a line: the die whose range contains it, within its own device (R186, R187). -/
def homeDie (line : Nat) : Nat := locLine line * 64 / dieBytes

/-- Whether the line's home is on this device. -/
def isLocal (s : State) (line : Nat) : Bool := line / 2 ^ 34 = myDev s

/-- The slice for a line (R186): of the same number on every die (R187). -/
def sliceOf (line : Nat) : Nat :=
  let x := (locLine line * 64 % dieBytes) / 64 % 2 ^ 30
  let p := fun k => x / 2 ^ (5 * k) % 32
  let f := Nat.xor (Nat.xor (Nat.xor (p 0) (p 1)) (Nat.xor (p 2) (p 3))) (Nat.xor (p 4) (p 5))
  32 * ((x + x / 32) % 3) + f

def getLine (s : State) (die line : Nat) : Option SEntry := s.coh.lines.get (lkey die line)

def setLine (s : State) (die line : Nat) (e : SEntry) : State :=
  { s with coh := { s.coh with lines := s.coh.lines.put (lkey die line) e } }

def delLine (s : State) (die line : Nat) : State := { s with coh := { s.coh with lines := s.coh.lines.del (lkey die line) } }

/-! ### Deck lines -/

def getMark (s : State) (loc : Nat) : Option Mark := s.deck.marks.get loc

def setMark (s : State) (loc : Nat) (m : Option Mark) : State :=
  { s with deck := { s.deck with marks := match m with | some m => s.deck.marks.put loc m | none => s.deck.marks.del loc } }

/-- Owner and state of a deck unit (R362): 0 FREE, 1 OWNED, 2 SCRUBBING, 3 POOL. -/
def unitOf (s : State) (loc : Nat) : Nat × Nat :=
  let u := loc / 2 ^ 30
  (rd s .IN_UNIT_DATA_OWNER u, rd s .IN_UNIT_DATA_STATE u)

end Sys2Proof.Machine
end

