-- ==== Sys2Proof/Machine/Log.lean ====
section
/-! DEFINITION. The error log (R466-R468). Log 40, DEDUCED: where DETAIL names two items without their bytes, the second starts eight bytes after the
first. -/

namespace Sys2Proof.Machine

/-- Write a record to the log (R466): record number j goes to slot j mod 1,024. -/
def logErr (s : State) (r : ErrRec) : State :=
  let j := rd s .RL_ERR_HEAD_COUNT
  let s := { s with rel := { s.rel with log := s.rel.log.put (j % 1024) { r with mst := mstNow s } } }
  let s := bump s .RL_ERR_HEAD_COUNT
  if j + 1 > 1024 then wr0 s .RL_ERR_HEAD_WRAPPED 1 else s

/-- The index of the last record, which a fault record carries (R98, R466). -/
def lastErr (s : State) : Nat := rd s .RL_ERR_HEAD_COUNT - 1

/-- The index of the newest record that is held about uncorrectable data of a local line (R98, R237, R463); none held: of the last record. -/
def errIndex (s : State) (loc : Nat) : Nat :=
  let n := rd s .RL_ERR_HEAD_COUNT
  (((List.range (min n 1024)).map (fun k => n - 1 - k)).find? (fun j => match s.rel.log.get (j % 1024) with
    | some r => (r.code = 0x0102 || r.code = 0x0202) && r.addr = loc * 64
    | none => false)).getD (n - 1)

/-- A corrected error in a unit (R466): at most one record a second, whose COUNT gives the corrections since the last. -/
def logCorrected (s : State) (unit : Nat) (r : ErrRec) : State :=
  match s.rel.corr.get unit with
  | some (n, at_) =>
    if at_ + 1000000000 ≤ s.now then
      logErr { s with rel := { s.rel with corr := s.rel.corr.put unit (0, s.now) } } { r with sev := 1, count := min (n + 1) (2 ^ 32 - 1) }
    else { s with rel := { s.rel with corr := s.rel.corr.put unit (n + 1, at_) } }
  | none => logErr { s with rel := { s.rel with corr := s.rel.corr.put unit (0, s.now) } } { r with sev := 1, count := 1 }

/-- Units of R466: core, slice, channel, port, phase group. -/
def unitCore (c : Nat) : Nat := c
def unitSlice (die slice : Nat) : Nat := 65536 + die * 96 + slice
def unitChan (ch : Nat) : Nat := 131072 + ch
def unitPort (p : Nat) : Nat := 196608 + p

/-- Two items of DETAIL (log 40, DEDUCED). -/
def detail2 (a b : Nat) : Nat := a % 2 ^ 64 + b % 2 ^ 64 * 2 ^ 64

/-- The 64 bytes of the record in a slot (R467), as a number; a slot that holds none reads as zero. -/
def errBytes (s : State) (slot : Nat) : Nat :=
  match s.rel.log.get slot with
  | none => 0
  | some r =>
    leNat (natLe 8 r.mst ++ natLe 2 r.code ++ natLe 1 r.sev ++ natLe 1 r.strct ++ natLe 4 r.loc ++ natLe 8 r.addr ++ natLe 4 r.count ++
      natLe 2 r.ctx ++ natLe 1 r.inst ++ natLe 1 r.gen ++ natLe 16 r.detail ++ natLe 15 0 ++ natLe 1 (128 + slot % 128))

end Sys2Proof.Machine
end

