-- ==== Sys2Proof/Machine/Ecc.lean ====
section
/-! DEFINITION. Errors of deck reads (R236-R238), the bookkeeping of corrections and the retirement of pages (R240, R241), and how a channel's time is
shared (R226, R227). Log 44, DEDUCED: the severities of
page records. -/

namespace Sys2Proof.Machine

/-! ### Retirement (R240, R241) -/

/-- Pages of the device. -/
def pages : Nat := 6291456

/-- Whether an instance holds a page: its unit is not FREE. -/
def pageHeld (s : State) (page : Nat) : Bool := (unitOf s (page * 65536)).2 ≠ 0

/-- Remove a page from the allocator's map and append it to the list (R241). -/
def retirePage (s : State) (page reason : Nat) : State :=
  let n := rd s .DK_RETIRE_COUNT_COUNT
  let r : ErrRec := { mst := 0, code := 0x0105, sev := 2, loc := chanOf (page * 65536), detail := detail2 page reason }
  if n ≥ 16384 then logErr (wr0 s .DK_RETIRE_COUNT_FULL 1) { r with code := 0x0106 } else
    let s := wr (wr (wr s .DK_RETIRE_DATA_PAGE n page) .DK_RETIRE_DATA_REASON n reason) .DK_RETIRE_DATA_HOURS n (rd s .RL_AGE_HOURS_RUN_HOURS)
    let s := wr0 s .DK_RETIRE_COUNT_COUNT (n + 1)
    let s := if n + 1 = 16384 then wr0 s .DK_RETIRE_COUNT_FULL 1 else s
    logErr { s with deck := { s.deck with retired := s.deck.retired ++ [page] } } r

/-- A page meets a condition of R240: removed at once, or PENDING while an instance holds it. -/
def pageCandidate (s : State) (page reason : Nat) : State :=
  if page ≥ pages || s.deck.retired.contains page || s.deck.pendingPages.any (fun p => p.1 = page) then s
  else if pageHeld s page then
    let s := { s with deck := { s.deck with pendingPages := s.deck.pendingPages ++ [(page, reason)] } }
    logErr (bump s .DK_RETIRE_COUNT_PENDING) { mst := 0, code := 0x0104, sev := 5, loc := chanOf (page * 65536), detail := detail2 page reason }
  else retirePage s page reason

/-- The holder frees a page: a PENDING page is removed instead of going back (R225, R241). -/
def pageFreed (s : State) (page : Nat) : State :=
  match s.deck.pendingPages.find? (fun p => p.1 = page) with
  | none => s
  | some (_, reason) =>
    let s := { s with deck := { s.deck with pendingPages := s.deck.pendingPages.filter (fun p => p.1 ≠ page) } }
    retirePage (wr0 s .DK_RETIRE_COUNT_PENDING (rd s .DK_RETIRE_COUNT_PENDING - 1)) page reason

/-! ### Errors on reads (R236-R240) -/

/-- An hour in ns. -/
def hourNs : Nat := 3600000000000

/-- A correction in a line (R237, R240): counts, the record, the lane's and the page's bookkeeping. DEGRADED_LANE shows the lane that was marked last (log 175, DESIGN
CHOICE). -/
def lineCorrected (s : State) (loc lane : Nat) : State :=
  let ch := chanOf (loc * 64)
  let page := pageOf (loc * 64)
  let s := bumpSat (bumpSat s .DK_CHAN_STATUS_CORR ch) .DK_ECC_CORRECTED (ch / 512)
  let s := logCorrected s (unitChan ch) { mst := 0, code := 0x0101, sev := 1, loc := ch, addr := loc * 64, detail := lane }
  let c := getChan s ch
  if c.degraded.contains lane then s else
    -- the pages of the last hour, each with the lane's latest correction in it
    let lp := c.lanePages.filter (fun p => s.now < p.2.2 + hourNs && !(p.1 = lane && p.2.1 = page)) ++ [(lane, page, s.now)]
    let s := setChan s ch { c with lanePages := lp }
    let s := if (lp.filter (fun p => p.1 = lane)).length > 64 then
        logErr (wr (setChan s ch { getChan s ch with degraded := c.degraded ++ [lane] }) .DK_CHAN_STATUS_DEGRADED_LANE ch (lane + 1)) { mst := 0, code := 0x0103, sev := 2, loc := ch, detail := lane }
      else s
    let e := (s.deck.errs.getD page {}).lines
    match e.find? (fun l => l.1 = loc) with
    | some (_, n, h) =>
      let s := { s with deck := { s.deck with errs := s.deck.errs.put page { lines := e.map (fun l => if l.1 = loc then (loc, n + 1, h) else l) } } }
      pageCandidate s page 2
    | none =>
      let e := e ++ [(loc, 1, s.boot.runNs)]
      let s := { s with deck := { s.deck with errs := s.deck.errs.put page { lines := e } } }
      if (e.filter (fun l => s.boot.runNs < l.2.2 + 24 * hourNs)).length ≥ 8 then pageCandidate s page 3 else s

/-- An uncorrectable read of a line (R237): counts and the record; a line so found by other than a mark makes its page a candidate. -/
def lineUncorrectable (s : State) (loc : Nat) (mark : Bool) : State :=
  let ch := chanOf (loc * 64)
  let s := bumpSat (bumpSat s .DK_CHAN_STATUS_UNCORR ch) .DK_ECC_UNCORRECTABLE (ch / 512)
  let s := logErr s { mst := 0, code := 0x0102, sev := 2, loc := ch, addr := loc * 64 }
  if mark then s else pageCandidate s (pageOf (loc * 64)) 1

/-- Read a line of the arrays (R237, R238): whether the data is uncorrectable, after the counts and records. `out` is what the check finds: in
a line that carries a mark, `.ok` is a check field that matches it, any other a line that is decoded as plain data (R238 step 3). -/
def arrayRead (s : State) (loc : Nat) (out : EccOut) : Bool × State :=
  match getMark s loc, out with
  | some .bad, _ => (true, lineUncorrectable s loc false)
  | some (.strip _), .ok => (false, bumpSat s .DK_ECC_MARKED (chanOf (loc * 64) / 512))
  | some .poison, .ok => (true, lineUncorrectable (bumpSat s .DK_ECC_MARKED (chanOf (loc * 64) / 512)) loc true)
  | none, .ok => (false, s)
  | _, .corrected lane => (false, lineCorrected (setMark s loc none) loc lane)
  | _, .uncorrectable => (true, lineUncorrectable (setMark s loc (some .bad)) loc false)

/-! ### The channel's time (R226, R227, R232) -/

/-- The classes of requests at a channel controller (R226). -/
inductive QClass where
  | crit | norm | bulk | back
  deriving DecidableEq, Repr, Inhabited

/-- The class of an access by its HINT (R226): of a slice's miss, a granule or an uncached access. -/
def hintClass (hint : Nat) : QClass := if hint % 8 = 3 then .crit else .norm

/-- A refresh holds the channel for 280 ns, or one that is forced waits to (R227, R232). -/
def inHold (s : State) (ch : Nat) : Bool :=
  let c := getChan s ch
  c.forced || (match c.refBusy with | some t => s.now < t + 280 | none => false)

/-- Whether CRIT may use `half` more half slots of 0.5 ns in the current 1 µs: at most CRIT_CAP percent of the time that refresh does not hold (R227). -/
def critRoom (s : State) (ch half : Nat) : Bool :=
  let c := getChan s ch
  (c.critHalf + half) * 50 ≤ rd s .DK_QOS_CRIT_CAP * (1000 - c.refNs)

/-- The class of a slice's deck read (R226). -/
def readClass (m : Msg) : QClass := if m.op = 1 then .crit else .norm

/-- Whether a write-back of a line is on its way to the controller. -/
def wbQueued (s : State) (line : Nat) : Bool := s.coh.net.any (fun w => w.kind = .writeBack && w.line = line)

/-- Slices' reads that are queued at a channel: none waits behind a write-back of its line. -/
def queuedReads (s : State) (ch : Nat) : List Msg :=
  s.coh.net.filter (fun m => m.kind = .deckRead && chanOf (locLine m.line * 64) = ch && !wbQueued s m.line)

/-- A CRIT read is queued at a channel (R227). -/
def critQueued (s : State) (ch : Nat) : Bool := (queuedReads s ch).any (fun m => readClass m = .crit)

/-- The time of Run and Trim at which patrol scrub reads the next line: a pass takes PERIOD_H hours, evenly (R239; log 156, DEDUCED). -/
def scrubDue (s : State) : Nat :=
  s.deck.scrubStart + (rd s .DK_SCRUB_STATUS_PAGE * 1024 + s.deck.scrubbed) * (rd s .DK_SCRUB_CTRL_PERIOD_H * hourNs) / (pages * 1024)

/-- A descriptor streams at its engine: it has begun, its lines have been given up, and its core holds neither it nor its engine. -/
def streaming (s : State) (d : DDesc) (bulk : Bool) : Bool :=
  let k := getCore s d.core
  d.phase ≠ 2 && (d.unit ≠ 0 || !d.read.isEmpty) && d.awaiting.isEmpty && !d.passed && tb (lineNat d.raw 1 1) 6 = bulk &&
    (d.turnpike || !(k.halted || k.preempting || k.gated))

/-- Whether a channel has something of a class queued (R227). CRIT past its cap is NORM. -/
def classQueued (s : State) (ch : Nat) (q : QClass) : Bool :=
  match q with
  | .crit => critQueued s ch && critRoom s ch 2
  | .norm => (queuedReads s ch).any (fun m => readClass m = .norm || !critRoom s ch 2) ||
      s.coh.net.any (fun m => m.kind = .writeBack && chanOf (locLine m.line * 64) = ch) || (getChan s ch).queue.any (fun d => streaming s d false)
  | .bulk => (getChan s ch).queue.any (fun d => streaming s d true)
  | .back => (rd s .DK_CHAN_STATUS_OWED ch ≠ 0 && (getChan s ch).refBusy.isNone) ||
      (flag s .DK_SCRUB_CTRL_EN && scrubDue s ≤ s.boot.runNs && chanOf (rd s .DK_SCRUB_STATUS_PAGE * 65536) = ch)

/-- Half slots that a class has left of its deficit round robin, and its quantum: its weight in line transfers (R227). -/
def Chan.credit (c : Chan) (q : QClass) : Nat :=
  match q with | .crit => 0 | .norm => c.crNorm | .bulk => c.crBulk | .back => c.crBack
def quantum (s : State) (q : QClass) : Nat :=
  2 * (match q with | .crit => 0 | .norm => rd s .DK_QOS_W_NORM | .bulk => rd s .DK_QOS_W_BULK | .back => rd s .DK_QOS_W_BACK)

/-- Whether a channel serves a request of a class that takes `half` half slots now (R227): nothing during a refresh hold; a queued CRIT request goes first while
CRIT is within its cap; of NORM, BULK and BACK one that has credit left, or any when no other class that is queued has, for a new round begins. Which class
with credit goes first within a round is an order of the commands (log 154, DESIGN CHOICE). -/
def serves (s : State) (ch : Nat) (q : QClass) (half : Nat := 2) : Bool :=
  let c := getChan s ch
  let r := if q = .crit && !critRoom s ch half then .norm else q
  !inHold s ch && (r = .crit || (!classQueued s ch .crit &&
    (half ≤ c.credit r || [QClass.norm, .bulk, .back].all (fun o => o = r || c.credit o < 2 || !classQueued s ch o))))

/-- A request of a class takes `half` half slots: CRIT is charged within its cap, past which it is served as NORM; a class without credit begins a new round, in
which what the other queued classes have left stays theirs (R227). -/
def useSlot (s : State) (ch : Nat) (q : QClass) (half : Nat) : State :=
  let c := getChan s ch
  if q = .crit && critRoom s ch half then setChan s ch { c with critHalf := c.critHalf + half } else
    let r := if q = .crit then .norm else q
    let fill := fun (o : QClass) => (if o = r || classQueued s ch o then c.credit o else 0) + quantum s o
    let c := if half ≤ c.credit r then c else { c with crNorm := fill .norm, crBulk := fill .bulk, crBack := fill .back }
    setChan s ch (match r with
      | .bulk => { c with crBulk := c.crBulk - half }
      | .back => { c with crBack := c.crBack - half }
      | _ => { c with crNorm := c.crNorm - half })

end Sys2Proof.Machine
end

