-- ==== Sys2Proof/Machine/Mem.lean ====
section
/-! DEFINITION. The value a line has in its order (R158, R188-R190), deck lines with marks and
write-combining (R228, R229, R237, R238), writes applied at the home by parties that are not modelled message by message (log 20, DESIGN CHOICE), pages and
translation (R484-R493). -/

namespace Sys2Proof.Machine

/-! ### Deck lines -/

/-- The write-combining entry of a local line, if any (R228). -/
def getWcb (s : State) (loc : Nat) : Option Wcb := (getChan s (chanOf (loc * 64))).wcb.find? (fun w => w.line = loc)

/-- A deck line as a read returns it: memory, with any write-combining entry merged (R229). -/
def deckLine (s : State) (loc : Nat) : Line :=
  let l := memLine s.mem loc
  match getWcb s loc with | some w => mergeLine l w.data w.mask | none => l

/-- Drop the write-combining entry of a line. -/
def dropWcb (s : State) (loc : Nat) : State :=
  let ch := chanOf (loc * 64)
  let c := getChan s ch
  setChan s ch { c with wcb := c.wcb.filter (fun w => w.line ≠ loc) }

/-- Write a whole line into the arrays: it supersedes any write-combining entry and clears either mark (R228, R238). -/
def putDeck (s : State) (loc : Nat) (l : Line) : State :=
  let s := if (getWcb s loc).isSome then dropWcb s loc else s
  setMark { s with mem := writeNat s.mem (loc * 64) 64 l.toNat } loc none

/-- The mark after a partial write merges: a strip mark clears; data-poison stays; an uncorrectable line becomes data-poison (R237,
R238). -/
def mergeMark : Option Mark → Option Mark
  | some (.strip _) => none
  | some .poison => some .poison
  | some .bad => some .poison
  | none => none

/-- Flush a write-combining entry into the arrays (R227, R229): a full mask is written without a read, in one slot; else the line is read, which meets what the check
finds (R237, R254), and merged, in two. -/
def flushAs (s : State) (loc : Nat) (out : EccOut) : State :=
  match getWcb s loc with
  | none => s
  | some w =>
    let full := w.mask = BitVec.allOnes 64
    let s := if full then s else (arrayRead s loc out).2
    let s := useSlot s (chanOf (loc * 64)) .norm (if full then 2 else 4)
    let m := getMark s loc
    let s := dropWcb { s with mem := writeNat s.mem (loc * 64) 64 (mergeLine (memLine s.mem loc) w.data w.mask).toNat } loc
    setMark s loc (if full then none else mergeMark m)

/-- A flush whose read meets no new error (log 174, DESIGN CHOICE). -/
def flushWcb (s : State) (loc : Nat) : State := flushAs s loc .ok

/-- A write of less than a line that reaches the deck: it goes to the write-combining buffer (R228), the oldest entry giving way when 64 are
held; an entry whose mask fills is written at once (R229). A write of all 64 bytes goes to the arrays. -/
def combine (s : State) (loc : Nat) (data : Line) (mask : BitVec 64) (writer : Nat) : State :=
  if mask = BitVec.allOnes 64 then putDeck s loc data else
    -- a partial write clears a strip mark (R212, R238)
    let s := match getMark s loc with | some (.strip _) => setMark s loc none | _ => s
    let ch := chanOf (loc * 64)
    let c := getChan s ch
    match c.wcb.find? (fun w => w.line = loc) with
    | some w =>
      let w' := { w with data := mergeLine w.data data mask, mask := w.mask ||| mask,
                         writers := if w.writers.contains writer then w.writers else w.writers ++ [writer] }
      let s := setChan s ch { c with wcb := c.wcb.map (fun v => if v.line = loc then w' else v) }
      if w'.mask = BitVec.allOnes 64 then flushWcb s loc else s
    | none =>
      let s := if c.wcb.length ≥ 64 then match c.wcb with | w :: _ => flushWcb s w.line | [] => s else s
      let c := getChan s ch
      setChan s ch { c with wcb := c.wcb ++ [{ line := loc, data := data, mask := mask, since := s.now, writers := [writer] }] }

/-- The Turnpike and the host as writers of write-combining entries. -/
def turnpikeWriter : Nat := 1000
def hostWriter : Nat := 1001

/-! ### Residency (R230) -/

def resOf (s : State) (page : Nat) : Nat := s.deck.res.getD page 0

/-- The count is 11 bits wide. -/
def setRes (s : State) (page n : Nat) : State := { s with deck := { s.deck with res := s.deck.res.set page 0 (n % 2048) } }

/-! ### The value in a line's order -/

/-- Whether DATA on its way carries the line itself: to a slice that waits for it as the home or as its new owner, not an answer to a reader. -/
def ownData (s : State) (m : Msg) : Bool :=
  m.op = 1 || (match m.req with
    | .guest d _ => (match s.coh.busy.get (lkey d m.line) with | some t => t.msg.kind ≠ .gets | none => false)
    | _ => false)

/-- Whether a message is one that carries the only valid copy of its line. -/
def carries (s : State) (line : Nat) (m : Msg) : Bool :=
  m.line = line && (m.kind = .putm || m.kind = .writeBack || (m.kind = .data && ownData s m))

/-- A line in HG as its order has it (R190): at the slice that owns it; on its way from one; as the home has got it back; in a victim buffer; in the
copy of a guest that has been granted it; last, as the home had it. -/
def heldLine (s : State) (line : Nat) (e : SEntry) : Line :=
  let at_ := fun (f : Nat → Option Line) => (List.range 4).findSome? f
  let own := at_ (fun d => (getLine s d line).bind (fun g => if g.st = .gm then some g.data else none))
  let fly := (s.coh.net ++ s.coh.pendInv.flatMap (·.out)).findSome? (fun m => if m.kind = .data && carries s line m then some m.data else none)
  let back := (s.coh.busy.get (lkey (homeDie line) line)).bind (·.data)
  let kept := at_ (fun d => if has e.guests d then s.coh.victims.get (lkey d line) else none)
  let copy := at_ (fun d => if has e.guests d then (getLine s d line).map (·.data) else none)
  ((((own.orElse (fun _ => fly)).orElse (fun _ => back)).orElse (fun _ => kept)).orElse (fun _ => copy)).getD e.data

/-- The value a deck line has in its total order (R188, R190): the owning guest's, or what is on its way from an owner; the home slice's; a
write-back on its way to the deck; the deck's. -/
def orderLine (s : State) (line : Nat) : Line :=
  let hd := homeDie line
  match getLine s hd line with
  | some e => if e.st ≠ .hg then e.data else heldLine s line e
  | none =>
    match s.coh.net.findSome? (fun m => if m.line = line && m.kind = .writeBack then some m.data else none) with
    | some l => l
    | none =>
      -- an eviction that still waits for its INVs holds the line (R185)
      match (s.coh.busy.get (lkey hd line)).bind (fun t => if t.step = 4 then t.data else none) with
      | some l => l
      | none => deckLine s (locLine line)

/-- A number of `n` bytes, within one line, from a line's order. -/
def orderNat (s : State) (a n : Nat) : Nat := lineNat (orderLine s (a / 64)) (a % 64) n

/-- Bytes from the deck's order or, in the loft windows, from the loft. -/
def orderBytes (s : State) (a n : Nat) : List Byte :=
  (List.range n).map (fun k =>
    if isLoft s (a + k) then readByte s.mem (locOf (a + k)) else BitVec.ofNat 8 (orderNat s (a + k) 1))

/-- Fills of a line that a core has under way are not to be installed (R215). -/
def staleFills (k : Core) (line : Nat) : Core :=
  if k.outs.all (fun o => o.parts.all (fun p => p.addr / 64 ≠ line)) then k else
    { k with outs := k.outs.map (fun o =>
        if o.parts.any (fun p => p.addr / 64 = line) && !o.noFill.contains line then { o with noFill := o.noFill ++ [line] } else o) }

/-- A write that enters a line's order in one step (log 20, DESIGN CHOICE): every copy of the line takes it, wherever it stands or travels, a clean home
line turns dirty, and a line that its home slice does not hold goes to the deck. Data already sent to a reader stays as it was served; its fill is not
installed. A write of all 64 bytes leaves no copy uncorrectable (R237). -/
def orderWrite (s : State) (line : Nat) (data : Line) (mask : BitVec 64) (writer : Nat) : State :=
  let hd := homeDie line
  let here := (getLine s hd line).isSome
  let upd := fun (l : Line) => mergeLine l data mask
  let full := mask = BitVec.allOnes 64
  let msg := fun (m : Msg) => if carries s line m then { m with data := upd m.data, flags := if full then m.flags / 2 * 2 else m.flags } else m
  let s := { s with
    cores := s.cores.map (fun e =>
      let k := staleFills e.2 line
      match k.l1.get line with
      | some l => (e.1, { k with l1 := k.l1.put line (upd l) })
      | none => (e.1, k))
    coh := { s.coh with
      net := s.coh.net.map msg
      pendInv := s.coh.pendInv.map (fun p => { p with out := p.out.map msg })
      refused := s.coh.refused.map (fun r => { r with msg := msg r.msg })
      lines := s.coh.lines.mapV (fun k e =>
        if k % 2 ^ 46 ≠ line then e else
          match e.st with
          | .hc => { e with st := .hd, data := upd e.data, bad := e.bad && !full }
          | .part => e
          | .far => e
          | _ => { e with data := upd e.data, bad := e.bad && !full })
      busy := s.coh.busy.mapV (fun k t => if k % 2 ^ 46 = line then { t with data := t.data.map upd, bad := t.bad && !full, stale := t.stale || t.msg.kind = .gets } else t)
      victims := s.coh.victims.mapV (fun k l => if k % 2 ^ 46 = line then upd l else l) } }
  if here then setMark s (locLine line) (match getMark s (locLine line) with | some (.strip _) => none | m => m)
  else combine s (locLine line) data mask writer

/-- Cut a run of bytes into pieces of one line each: line, mask, line-wide data. -/
def linePieces (a : Nat) (bs : List Byte) : List (Nat × BitVec 64 × Line) :=
  let n := bs.length
  if n = 0 then [] else
    let v := leNat bs
    let first := a / 64
    let last := (a + n - 1) / 64
    (List.range (last - first + 1)).map (fun j =>
      let line := first + j
      let lo := max a (line * 64)
      let hi := min (a + n) (line * 64 + 64)
      (line, BitVec.ofNat 64 ((2 ^ (hi - lo) - 1) * 2 ^ (lo - line * 64)),
        BitVec.ofNat 512 (bits v (8 * (lo - a)) (8 * (hi - lo)) * 2 ^ (8 * (lo - line * 64)))))

/-- Write bytes at a local address of the deck through the home, or into a loft window. -/
def orderWriteBytes (s : State) (a : Nat) (bs : List Byte) (writer : Nat) : State :=
  if isLoft s a then winMark { s with mem := writeBytes s.mem (locOf a) bs } (locOf a) bs.length
  else each (linePieces a bs) (fun s p => orderWrite s p.1 p.2.2 p.2.1 writer) s

/-- Read a line of this device in its order, for a reader outside the slices (R188, R237): where a slice holds it, what the slice knows of it; else the deck's. -/
def orderRead (s : State) (line : Nat) : Bool × State :=
  let held := (List.range 4).filterMap (fun d => (getLine s d line).filter (fun e => e.st ≠ .part && e.st ≠ .far))
  if held.isEmpty then arrayRead s (locLine line) .ok else (held.any (·.bad), s)

/-- A table entry that a walk found uncorrectable: the counts and the record (R237, R491). -/
def tableRead (s : State) (loc : Nat) : State := (arrayRead s loc .ok).2

/-! ### Instances' cores (R361) -/

/-- Whether an instance holds a core (R360). -/
def inCores (s : State) (inst c : Nat) : Bool := s.inst.cores.get c = some inst

/-! ### Translation (R489-R493) -/

/-- How a walk ends: the leaf and log2 of its page size; a deferred entry at L0; a fault's code and DETAIL; the home die of a table entry, at
the local address given, is in reset; a table read was uncorrectable. -/
inductive WalkEnd where
  | leaf (e : W64) (log2 : Nat)
  | defer (entryAt : Nat)
  | fault (code detail : Nat)
  | fenced (at_ : Nat)
  | uncorrectable (line : Nat)
  deriving DecidableEq, Repr, Inhabited

/-- Index of a virtual address at a level 0 (L3) to 3 (L0), table bytes and log2 of a leaf's size there (R489). -/
def ptIndex (lvl va : Nat) : Nat :=
  match lvl with | 0 => va / 2 ^ 39 % 512 | 1 => va / 2 ^ 30 % 512 | 2 => va / 2 ^ 21 % 512 | _ => va / 2 ^ 16 % 32
def ptLeafLog (lvl : Nat) : Nat := match lvl with | 1 => 30 | 2 => 21 | _ => 16

/-- ADDR of an entry: bits [51:8] of the target (R490). -/
def pteAddr (e : Nat) : Nat := bits e 8 44 * 256

/-- Checks 2 to 4 of R493 on an entry with V = 1 or DEFER at a level: whether its form is legal. -/
def pteForm (lvl e : Nat) : Bool :=
  let v := tb e 0
  let leaf := tb e 1
  let defer := tb e 6
  let reserved := tb e 7 || bits e 52 4 ≠ 0
  let leafOk := match lvl with | 0 => !leaf | 3 => leaf || (defer && !v) | _ => true
  let deferOk := !defer || (lvl = 3 && !v)
  let a := pteAddr e
  let alignOk := if defer && !v then true
    else if leaf then a % 2 ^ ptLeafLog lvl = 0
    else a / 2 ^ 40 = 0 && a % (if lvl = 2 then 256 else 4096) = 0
  !reserved && leafOk && deferOk && alignOk

/-- Check 3: a pointer's target lies in a unit the instance holds as OWNED or POOL; instance 0 is exempt from ownership. -/
def ptrOk (s : State) (inst a : Nat) : Bool :=
  a < deckBytes && (inst = 0 || (let (o, st) := unitOf s a; o = inst && (st = 1 || st = 3)))

/-- Check 4: a leaf's target. -/
def leafOk (s : State) (x : Ctx) (e log2 : Nat) : Bool :=
  let a := pteAddr e
  let sz := 2 ^ log2
  if devOf a ≠ myDev s then x.farEn else
    let l := locOf a
    if l + sz ≤ deckBytes then
      x.inst = 0 || (List.range ((sz + 2 ^ 30 - 1) / 2 ^ 30)).all (fun k => let (o, st) := unitOf s (l + k * 2 ^ 30); o = x.inst && st = 1)
    else if loftBase ≤ l && l + sz ≤ loftBase + 832 * loftStride then
      x.inst = 0 || (List.range ((l + sz - loftBase + loftStride - 1) / loftStride - (l - loftBase) / loftStride)).all (fun k =>
        inCores s x.inst ((l - loftBase) / loftStride + k))
    else false

/-- Check 5: the rights an access needs; PERMISSION's DETAIL. -/
def rightsOk (e : Nat) (acc : Access) : Bool :=
  match acc with | .read => tb e 2 | .write => tb e 3 | .fetch => tb e 4 | .atomic => tb e 2 && tb e 3
def accDetail : Access → Nat
  | .read => 0 | .write => 1 | .fetch => 2 | .atomic => 3

/-- Whether a die answers: not in reset and not held (R26). -/
def dieUp (s : State) (d : Nat) : Bool :=
  !(s.die.down.contains d) && !(s.die.dead.contains d) && (s.die.isolated.get (2 * d)).isNone && (s.die.isolated.get (2 * d + 1)).isNone

/-- Whether a read of a line in its order meets an uncorrectable line or a mark with no valid data (R237): as a slice that holds the line knows it, or the deck. -/
def orderBad (s : State) (line : Nat) : Bool :=
  let held := (List.range 4).filterMap (fun d => (getLine s d line).filter (fun e => e.st ≠ .part && e.st ≠ .far))
  if held.isEmpty then getMark s (locLine line) = some .bad || getMark s (locLine line) = some .poison else held.any (·.bad)

/-- The entry of a walk at a level: one that the walker keeps (R492), else 8 bytes read in the order of its line (R491). -/
def walkEntry (s : State) (kept : Nat → Option Nat) (va table lvl : Nat) : Except WalkEnd Nat :=
  let at_ := table + 8 * ptIndex lvl va
  let line := (myDev s * 2 ^ 40 + at_) / 64
  match kept lvl with
  | some e => .ok e
  | none =>
    if !dieUp s (homeDie line) then .error (.fenced at_)
    else if orderBad s line then .error (.uncorrectable (locLine line))
    else .ok (orderNat s (line * 64 + at_ % 64) 8)

/-- Walk from a table at a level: `n` levels remain (R489, R491, R493). -/
def walkFrom (s : State) (kept : Nat → Option Nat) (x : Ctx) (va : Nat) (acc : Access) : Nat → Nat → Nat → WalkEnd
  | 0, _, lvl => .fault 0x0201 lvl
  | n + 1, table, lvl =>
    match walkEntry s kept va table lvl with
    | .error w => w
    | .ok e =>
      if !tb e 0 && !tb e 6 then .fault 0x0201 lvl
      else if !pteForm lvl e then .fault 0x0201 lvl
      else if !tb e 0 then .defer (table + 8 * ptIndex lvl va)
      else if tb e 1 then
        if !leafOk s x e (ptLeafLog lvl) then .fault 0x0201 lvl
        else if !rightsOk e acc then .fault 0x0202 (accDetail acc)
        else .leaf (BitVec.ofNat 64 e) (ptLeafLog lvl)
      else if !ptrOk s x.inst (pteAddr e) then .fault 0x0201 lvl
      else walkFrom s kept x va acc n (pteAddr e) (lvl + 1)

/-- The walk of a context's address that reads every entry (R491, R493). -/
def walkVa (s : State) (x : Ctx) (va : Nat) (acc : Access) : WalkEnd := walkFrom s (fun _ => none) x va acc 4 x.ptRoot 0

/-- Log2 of what one entry of a level covers (R489). -/
def ptSpan (lvl : Nat) : Nat := match lvl with | 0 => 39 | _ => ptLeafLog lvl

/-- The entries with V = 1 that a walk meets, as a walker keeps them (R492). -/
def walkSeen (s : State) (kept : Nat → Option Nat) (ctx va : Nat) : Nat → Nat → Nat → List TlbEntry
  | 0, _, _ => []
  | n + 1, table, lvl =>
    match walkEntry s kept va table lvl with
    | .error _ => []
    | .ok e =>
      if !tb e 0 || !pteForm lvl e then [] else
        { ctx := ctx, va := va / 2 ^ ptSpan lvl * 2 ^ ptSpan lvl, log2 := ptSpan lvl, leaf := BitVec.ofNat 64 e } ::
          (if tb e 1 then [] else walkSeen s kept ctx va n (pteAddr e) (lvl + 1))

/-- What a half's walker keeps for the levels of a walk; bit `lvl` of `f` says that it has dropped that level's entry: the spec gives the walker's cache no
size (log 21, DESIGN CHOICE). -/
def walkKept (s : State) (half ctx va f lvl : Nat) : Option Nat :=
  if f.testBit lvl then none else
    ((s.deck.walkTlb.getD half []).find? (fun t => t.ctx = ctx && t.log2 = ptSpan lvl && t.va = va / 2 ^ t.log2 * 2 ^ t.log2)).map (fun t => t.leaf.toNat)

/-- The system address that a leaf gives a virtual address. -/
def leafAddr (e : W64) (log2 va : Nat) : Nat := pteAddr e.toNat + va % 2 ^ log2

/-- A cached translation of an address. -/
def tlbFind (l : List TlbEntry) (ctx va : Nat) : Option TlbEntry := l.find? (fun t => t.ctx = ctx && t.va = va / 2 ^ t.log2 * 2 ^ t.log2)

/-- Keep of every translation cache only the entries that satisfy a test (R494). -/
def keepTlb (s : State) (keep : TlbEntry → Bool) : State :=
  { s with
    cores := s.cores.map (fun e => (e.1, { e.2 with tlb := e.2.tlb.filter keep }))
    deck := { s.deck with
      engTlb := (s.deck.engTlb.mapV (fun _ l => l.filter keep)).filter (fun e => !e.2.isEmpty)
      walkTlb := (s.deck.walkTlb.mapV (fun _ l => l.filter keep)).filter (fun e => !e.2.isEmpty)
      chans := s.deck.chans.mapV (fun _ c => { c with queue := c.queue.map (fun d => { d with trans := d.trans.filter keep }) }) } }

/-- Drop the translations of an instance's contexts that target local addresses from `lo` up to, not including, `hi` (R494). -/
def dropTargets (s : State) (inst lo hi : Nat) : State :=
  keepTlb s (fun t =>
    let a := pteAddr t.leaf.toNat
    !((getCtx s t.ctx).map (·.inst) = some inst && devOf a = myDev s && locOf a < hi && lo < locOf a + 2 ^ t.log2))

/-- Drop the translations of an instance's contexts that target the window of a core. -/
def dropWindow (s : State) (inst c : Nat) : State := dropTargets s inst (loftAt c) (loftAt c + loftStride)

/-- Put an entry in a cache of `cap` entries; which one gives way is open, `k` says it (log 21, DESIGN CHOICE). -/
def tlbPut (l : List TlbEntry) (cap k : Nat) (t : TlbEntry) : List TlbEntry :=
  let l := l.filter (fun u => !(u.ctx = t.ctx && u.va = t.va && u.log2 = t.log2))
  let l := if l.length ≥ cap then l.eraseIdx (k % l.length) else l
  l ++ [t]

end Sys2Proof.Machine
end

