-- ==== Sys2Proof/Machine/Wire.lean ====
section
/-! DEFINITION. What stands on a Mbolvoar link: message headers and slots (R289), flits with their CRC (R288), as this device writes and reads them.
Log 168, DESIGN CHOICE: the parts of the layout that the spec leaves open (bit order of the CRC, PARAM, the operand and payload slots of each kind). -/

namespace Sys2Proof.Machine

/-! ### Kinds of message (R289) -/

/-- Class of a message by its kind: 0 REQ, 1 RSP, 2 DATA, 3 SYNC, 4 MGMT. -/
def opClass (op : Nat) : Nat := if op < 0x20 then 0 else if op < 0x40 then 1 else if op < 0x60 then 2 else if op < 0x80 then 3 else 4

/-- The OP values listed. -/
def opKnown (op : Nat) : Bool :=
  (1 ≤ op && op ≤ 7) || (0x20 ≤ op && op ≤ 0x23) || op = 0x40 || op = 0x41 || (0x60 ≤ op && op ≤ 0x64) || (0x80 ≤ op && op ≤ 0x82)

/-- LEN: the slots of a message after its header. An ATOM has a second operand slot for CAS alone; a register response one when it carries a value. -/
def msgLen (op param : Nat) : Nat :=
  match op with
  | 0x03 => 5 | 0x04 => if param % 16 = 7 then 2 else 1 | 0x05 => 5 | 0x06 => 5
  | 0x21 => 1 | 0x40 => 4 | 0x41 => 1
  | 0x60 => 1 | 0x61 => 1 | 0x62 => 1 | 0x63 => 1 | 0x64 => 2
  | 0x81 => 1 | 0x82 => if param = 0 then 0 else 1 | _ => 0

/-- Slots of a message: the header and LEN more. -/
def LMsg.slots (m : LMsg) : Nat := msgLen m.op m.param + 1

/-- Whether LINK bytes of a message count for someone: 16 per slot (R344). -/
def LMsg.bytes (m : LMsg) : Nat := 16 * m.slots

/-- Bytes of an element by its TYPE (R104). -/
def elemBytes (ty : Nat) : Nat := tyBits ty / 8

/-- Bytes of an ATOM's word by its TYPE (R117): packed pairs of 16-bit formats stand in 4. -/
def atomBytes (ty : Nat) : Nat := if ty = 0 || ty = 14 || ty = 15 then 8 else 4

/-- The element mask of a RED's first slot: bit e for element e; and back to bytes. -/
def elemMask (ty : Nat) (m : BitVec 64) : Nat :=
  let n := max 1 (elemBytes ty)
  ((List.range (64 / n)).filter (fun e => has m (e * n))).foldl (fun a e => a + 2 ^ e) 0
def byteMask (ty m : Nat) : BitVec 64 :=
  let n := max 1 (elemBytes ty)
  BitVec.ofNat 64 (((List.range 64).filter (fun k => tb m (k / n))).foldl (fun a k => a + 2 ^ k) 0)

/-! ### Messages as slots -/

/-- The header slot. -/
def LMsg.header (m : LMsg) : Nat :=
  opClass m.op + m.sub % 2 * 2 ^ 3 + m.op % 2 ^ 8 * 2 ^ 4 + m.dest % 2 ^ 12 * 2 ^ 12 + m.src % 2 ^ 12 * 2 ^ 24 + msgLen m.op m.param * 2 ^ 36 +
    m.tag % 2 ^ 13 * 2 ^ 39 + m.gen % 2 ^ 8 * 2 ^ 52 + m.addr % 2 ^ 52 * 2 ^ 64 + m.param % 2 ^ 12 * 2 ^ 116

/-- The slots after the header. -/
def LMsg.body (m : LMsg) : List Nat :=
  let d := m.data.toNat
  match m.op with
  | 0x03 => m.mask.toNat :: (List.range 4).map (fun k => bits d (128 * k) 128)
  | 0x05 => elemMask (m.param / 16 % 16) m.mask :: (List.range 4).map (fun k => bits d (128 * k) 128)
  | 0x06 => elemMask (m.param / 16 % 16) m.mask :: (List.range 4).map (fun k => bits d (128 * k) 128)
  | 0x04 => (List.range (msgLen m.op m.param)).map (fun k => bits d (64 * k) 64)
  | _ => (List.range (msgLen m.op m.param)).map (fun k => bits d (128 * k) 128)

/-- Slots in order as one number. -/
def joinSlots : Nat → List Nat → Nat
  | _, [] => 0
  | w, a :: t => a % 2 ^ w + 2 ^ w * joinSlots w t

/-- The message that a header and the slots after it make up. -/
def msgOfSlots (h : Nat) (l : List Nat) : LMsg :=
  let op := bits h 4 8
  let param := bits h 116 12
  let red := op = 0x05 || op = 0x06
  { op := op, dest := bits h 12 12, src := bits h 24 12, tag := bits h 39 13, gen := bits h 52 8, addr := bits h 64 52, param := param, sub := bits h 3 1,
    mask := if op = 0x03 then BitVec.ofNat 64 (l.headD 0) else if red then byteMask (param / 16 % 16) (l.headD 0) else 0,
    data := BitVec.ofNat 512 (if op = 0x03 || red then joinSlots 128 l.tail else if op = 0x04 then joinSlots 64 l else joinSlots 128 l) }

/-- Whether a message holds no reserved value, no nonzero reserved field and no CLASS or LEN that does not match its OP (R57, R117, R289, R398, R419). -/
def slotsOk (h : Nat) (l : List Nat) : Bool :=
  let op := bits h 4 8
  let param := bits h 116 12
  let aop := param % 16
  let ty := param / 16 % 16
  let a := bits h 64 52
  let s0 := l.headD 0
  opKnown op && bits h 60 4 = 0 && bits h 0 3 = opClass op && bits h 36 3 = msgLen op param && l.length = msgLen op param &&
    (match op with
     | 0x01 => a % 64 = 0
     | 0x02 => a % 16 = 0
     | 0x03 => a % 64 = 0 && s0 < 2 ^ 64
     | 0x04 =>
       let size := atomBytes ty
       let float := ty ≤ 3
       param < 256 && aop ≤ 10 && a % size = 0 && (if aop ≤ 4 then 12 ≤ ty else if aop ≤ 7 then float || 12 ≤ ty else float) && l.all (fun v => v < 2 ^ (8 * size))
     | 0x07 => a % 64 = 0
     | 0x61 => bits s0 24 8 = 1 && bits s0 32 8 < 8 && bits s0 40 8 < 64 && bits s0 96 32 = 0
     | 0x62 => bits s0 24 8 = 1
     | _ =>
       if op = 0x05 || op = 0x06 then
         param < 256 && a % 64 = 0 && (if aop ≤ 4 then 12 ≤ ty else 8 ≤ aop && aop ≤ 10 && ty ≤ 3) && s0 < 2 ^ (64 / max 1 (elemBytes ty))
       else true)

/-! ### Flits (R288) -/

/-- The bits of a number at the places listed into a CRC-32 of polynomial 0x04C1_1DB7 (log 168, DESIGN CHOICE: least significant bit first). -/
def crcRun (v : Nat) : List Nat → Nat → Nat
  | [], c => c
  | i :: t, c => if (c + bits v i 1) % 2 = 1 then crcRun v t (Nat.xor (c / 2) 0xEDB88320) else crcRun v t (c / 2)

/-- The CRC-32 of the first `n` bytes of a number laid out little-endian: initial value 0xFFFF_FFFF and final inversion. -/
def crc32 (v n : Nat) : Nat := Nat.xor (crcRun v (List.range (8 * n)) 0xFFFFFFFF) 0xFFFFFFFF

/-- A flit as this device writes it. A NAK carries the number it expects in SEQ (log 168, DESIGN CHOICE). -/
def TxFlit.word (f : TxFlit) : BitVec 2048 :=
  let cr := fun (k : Nat) => match f.cr[k]? with | some (v, n) => v % 16 + n % 4096 * 16 | none => 0
  let slots := match f.msg with | some m => m.header :: m.body | none => []
  let head := f.kind % 16 + f.seq % 4096 * 2 ^ 4 + (match f.ack with | some a => a % 4096 * 2 ^ 16 + 2 ^ 28 | none => 0) + cr 0 * 2 ^ 32 + cr 1 * 2 ^ 48 +
    (if slots.isEmpty then 0 else 2 ^ 64)
  let body := head + joinSlots 128 slots * 2 ^ 96
  BitVec.ofNat 2048 (body + crc32 body 252 * 2 ^ 2016)

/-- A flit's fields as the receiver reads them. -/
structure FlitV where
  kind : Nat
  seq : Nat
  ack : Option Nat
  cr : List (Nat × Nat)
  start : Nat
  slots : List Nat
  crcOk : Bool
  reserved : Bool    -- a reserved KIND or a nonzero reserved field
  deriving DecidableEq, Repr, Inhabited

def readFlit (f : BitVec 2048) : FlitV :=
  let v := f.toNat
  let b := bits v
  { kind := b 0 4, seq := b 4 12, ack := if b 28 1 = 1 then some (b 16 12) else none,
    cr := [(b 32 4, b 36 12), (b 48 4, b 52 12)].filter (fun c => c.1 < 10 && c.2 ≠ 0), start := b 64 15,
    slots := (List.range 15).map (fun k => b (96 + 128 * k) 128), crcOk := crc32 v 252 = b 2016 32,
    reserved := 3 ≤ b 0 4 || b 29 3 ≠ 0 || b 79 17 ≠ 0 }

end Sys2Proof.Machine
end

