-- ==== Sys2Proof/Machine/Net.lean ====
section
/-! DEFINITION. Sending on the networks and links: Waymark events with the pending counts of the boundaries they cross (R262, R271, R276), messages
at the egress of a link port (R293-R296, R298, R304). Log 33, DEDUCED: where an event counts as pending; log 34, DESIGN CHOICE: a message is one flit, and leaves its
port at once while the port is UP with room in the replay buffer; what left stands in `Port.wire` until time passes. -/

namespace Sys2Proof.Machine

/-! ### Waymark routes -/

/-- The next die from die `a` toward die `b` (R262): direct, or forward along the ring 0, 1, 3, 2. -/
def nextDie (a b : Nat) : Nat :=
  if b = 3 - a then (match a with | 0 => 1 | 1 => 3 | 3 => 2 | _ => 0) else b

/-- The bridge between neighbouring dies and its ends (R274): index, half of `a` (0 W, 1 E), half of `b`, direction. -/
def bridge (a b : Nat) : Nat × Nat × Nat × Nat :=
  match a, b with
  | 0, 1 => (0, 1, 0, 0) | 1, 0 => (0, 0, 1, 1)
  | 1, 3 => (1, 1, 1, 0) | 3, 1 => (1, 1, 1, 1)
  | 3, 2 => (2, 0, 1, 0) | 2, 3 => (2, 1, 0, 1)
  | 2, 0 => (3, 0, 0, 0) | _, _ => (3, 0, 0, 1)

/-- The ridge of a die as a boundary: Waymark crossing w mod 4 (R276), direction. -/
def ridgeOf (d from_ w : Nat) : Nat × Nat × Nat := (0, d * 4 + w % 4, from_)

/-- Boundaries from a half (die, side) to another, `n` die hops at most. -/
def wmRoute (w : Nat) : Nat → Nat → Nat → Nat → Nat → List (Nat × Nat × Nat)
  | 0, _, _, _, _ => []
  | n + 1, d, h, td, th =>
    if d = td then (if h = th then [] else [ridgeOf d h w]) else
      let nd := nextDie d td
      let (b, ha, hb, dir) := bridge d nd
      (if h = ha then [] else [ridgeOf d h w]) ++ (1, b, dir) :: wmRoute w n nd hb td th

/-- Halves that a path from a half (die, side) to another passes, its ends among them. -/
def hopHalves : Nat → Nat → Nat → Nat → Nat → List Nat
  | 0, _, _, _, _ => []
  | n + 1, d, h, td, th =>
    if d = td then [2 * d + h, 2 * d + th] else
      let nd := nextDie d td
      let (_, ha, hb, _) := bridge d nd
      [2 * d + h, 2 * d + ha] ++ hopHalves n nd hb td th

/-- Where a path from an I/O die enters the compute dies: die and side (R262, R274). -/
def iodEntry (iod td : Nat) : Nat × Nat :=
  match iod, td with
  | 0, 0 => (0, 1) | 0, 2 => (0, 1) | 0, _ => (1, 0)
  | _, 2 => (2, 1) | _, 0 => (2, 1) | _, _ => (3, 0)

/-- Halves on the way from a half, or from an I/O die (8, 9), to a half. -/
def halvesTo (from_ to_ : Nat) : List Nat :=
  if from_ < 8 then hopHalves 4 (from_ / 2) (from_ % 2) (to_ / 2) (to_ % 2)
  else let (d, h) := iodEntry (from_ - 8) (to_ / 2)
       hopHalves 4 d h (to_ / 2) (to_ % 2)

/-- Boundaries from an I/O die to a half: IOD0 by bridges 4 and 5, IOD1 by 6 and 7 (R262, R274). -/
def iodRoute (w iod td th : Nat) : List (Nat × Nat × Nat) :=
  let (d, h) := iodEntry iod td
  (1, 4 + d, 1) :: wmRoute w 4 d h td th

/-- Boundaries of an event. Half 8 is the MC (core 0), on IOD0, or the link port core - 1 (R276, R283). -/
def evRoute (e : WmEvent) : List (Nat × Nat × Nat) :=
  match e.kind with
  | .value => wmRoute e.wm 4 (e.wm / 512 / 2) (e.wm / 512 % 2) (e.half / 2) (e.half % 2)
  | .update => wmRoute e.wm 4 (e.wm / 512 / 2) (e.wm / 512 % 2) (e.half / 2) (e.half % 2)
  | _ =>
    if e.half ≥ 8 then iodRoute e.wm (if e.core ≤ 4 then 0 else 1) (e.wm / 512 / 2) (e.wm / 512 % 2)
    else wmRoute e.wm 4 (e.half / 2) (e.half % 2) (e.wm / 512 / 2) (e.wm / 512 % 2)

/-- The halves at the ends A and B of a bridge (R274); 8 and 9 are the I/O dies. -/
def bridgeEnds (b : Nat) : Nat × Nat := [(1, 2), (3, 7), (6, 5), (4, 0), (1, 8), (2, 8), (5, 9), (6, 9)].getD b (0, 0)

/-- The bridges with an end on a die. -/
def bridgesOf (d : Nat) : List Nat := (List.range 8).filter (fun b => (bridgeEnds b).1 / 2 = d || (bridgeEnds b).2 / 2 = d)

/-- The halves at the send end and the far end of a boundary. -/
def boundaryEnds (b : Nat × Nat × Nat) : Nat × Nat :=
  if b.1 = 0 then (2 * (b.2.1 / 4) + b.2.2, 2 * (b.2.1 / 4) + 1 - b.2.2)
  else if b.2.2 = 0 then bridgeEnds b.2.1 else ((bridgeEnds b.2.1).2, (bridgeEnds b.2.1).1)

/-- The key in `die.resync` of a boundary's handshake: the die of a ridge, or 8 + the bridge. -/
def boundaryKey (b : Nat × Nat × Nat) : Nat := if b.1 = 0 then b.2.1 / 4 else 8 + b.2.1

/-- The PEND, OVR and DROP fields of a boundary's direction. -/
def pendFld (b : Nat × Nat × Nat) : Fld × Fld × Fld :=
  match b.1, b.2.2 with
  | 0, 0 => (.NET_WMX_PEND_0, .NET_WMX_OVR_0, .NET_WMX_DROP_0)
  | 0, _ => (.NET_WMX_PEND_1, .NET_WMX_OVR_1, .NET_WMX_DROP_1)
  | _, 0 => (.NET_WMB_PEND_0, .NET_WMB_OVR_0, .NET_WMB_DROP_0)
  | _, _ => (.NET_WMB_PEND_1, .NET_WMB_OVR_1, .NET_WMB_DROP_1)

/-- The half an event goes to. -/
def evDest (e : WmEvent) : Nat := match e.kind with | .value => e.half | .update => e.half | _ => e.wm / 512

/-- Whether a half answers: not isolated, its die not in reset (R273, R275). -/
def halfUp (s : State) (h : Nat) : Bool := (s.die.isolated.get h).isNone && !s.die.down.contains (h / 2) && !s.die.dead.contains (h / 2)

/-- A boundary passes events: both its ends answer, and no handshake is in progress there (R273, R275; log 176, DEDUCED). -/
def boundaryOpen (s : State) (b : Nat × Nat × Nat) : Bool :=
  let (near, far) := boundaryEnds b
  (8 ≤ near || halfUp s near) && (8 ≤ far || halfUp s far) && (s.die.resync.get (boundaryKey b)).isNone

/-- Source and place of an event: events of one source to one bank, and of one waymark's bank to one half, keep their order (R280). -/
def evLane (e : WmEvent) : Nat × Nat × Nat :=
  match e.kind with
  | .value | .update => (1, e.wm, e.half)
  | _ => (0, e.wm / 512, e.half * 1024 + e.core)

def putFlight (s : State) (l : List WmFlight) : State := { s with wm := { s.wm with flight := l } }

/-- Merge an UPDATE (R271): it replaces in place the last flight of its lane, where that is an UPDATE pending at the same boundary. With another event of the
lane between them they do not merge (R280; log 33, DEDUCED). -/
def mergeWm (f : WmFlight) : List WmFlight → Option (List WmFlight)
  | [] => none
  | g :: rest =>
    match mergeWm f rest with
    | some l => some (g :: l)
    | none =>
      if evLane g.ev = evLane f.ev && g.ev.kind = .update && g.pend.head? = f.pend.head? && rest.all (fun x => evLane x.ev ≠ evLane f.ev)
      then some ({ g with ev := f.ev } :: rest) else none

/-- Offer a counted event to the next boundary on its way (R271, R273, R275), between the flights before and after it: discarded where the boundary passes
nothing; merged; dropped with OVERRUN at PEND 255; else pending there. With no boundary left it travels to its receiver. -/
def offerWm (s : State) (pre : List WmFlight) (f : WmFlight) (post : List WmFlight) : State :=
  match f.pend with
  | [] => putFlight s (pre ++ f :: post)
  | b :: _ =>
    if !boundaryOpen s b then putFlight s (pre ++ post)
    else match (if f.ev.kind = .update then mergeWm f pre else none) with
    | some pre => putFlight s (pre ++ post)
    | none =>
      if rd s (pendFld b).1 b.2.1 = 255 then
        bumpSat (setFlag (putFlight s (pre ++ post)) (pendFld b).2.1 b.2.1 true) (pendFld b).2.2 b.2.1
      else bump (putFlight s (pre ++ f :: post)) (pendFld b).1 b.2.1

/-- Send a counted event (R276, R277). -/
def sendWm (s : State) (e : WmEvent) : State := offerWm s s.wm.flight { ev := e, pend := evRoute e } []

/-- A boundary's direction counts one pending event less. -/
def pendLess (s : State) (b : Nat × Nat × Nat) : State :=
  if rd s (pendFld b).1 b.2.1 = 0 then s else wr s (pendFld b).1 b.2.1 (rd s (pendFld b).1 b.2.1 - 1)

/-- The flight of an event that may cross its next boundary: those before it in its lane are further on (R280). -/
def splitWm (e : WmEvent) : List WmFlight → List WmFlight → Option (List WmFlight × WmFlight × List WmFlight)
  | _, [] => none
  | pre, f :: post =>
    if f.ev = e && !f.pend.isEmpty && pre.all (fun g => evLane g.ev ≠ evLane e || g.pend.length < f.pend.length) then some (pre, f, post)
    else splitWm e (pre ++ [f]) post

/-- An event crosses the boundary where it is pending, and is offered to the next (R271, R279). -/
def crossWm (s : State) (e : WmEvent) : State :=
  match splitWm e [] s.wm.flight with
  | none => s
  | some (pre, f, post) =>
    match f.pend with
    | [] => s
    | b :: rest => offerWm (pendLess s b) pre { f with pend := rest } post

/-- Take an event as delivered, if it has crossed every boundary and nothing goes before it. -/
def takeWm (s : State) (e : WmEvent) : Option State :=
  match s.wm.flight.find? (fun f => evLane f.ev = evLane e) with
  | some f => if f.ev ≠ e || !f.pend.isEmpty then none else some (putFlight s (s.wm.flight.erase f))
  | none => none

/-- A waymark. -/
def getWm (s : State) (w : Nat) : Waymark := s.wm.marks.getD w {}

def setWm (s : State) (w : Nat) (x : Waymark) : State := { s with wm := { s.wm with marks := s.wm.marks.set w {} x } }

/-! ### Link egress -/

def getPort (s : State) (p : Nat) : Port := s.link.ports.getD p {}

def setPort (s : State) (p : Nat) (x : Port) : State := { s with link := { s.link with ports := s.link.ports.set p {} x } }

/-- LK_STATUS.STATE is UP. -/
def portUp (s : State) (p : Nat) : Bool := rd s .LK_STATUS_STATE p = 2

/-! ### Credits (R292; log 145, DEDUCED: which credits a return refills first, and which a message uses first) -/

/-- Slots of an ingress port reserved for each virtual channel, and shared by all: 10 × 64 + 3,456 = 4,096. -/
def vcReserved : Nat := 64
def vcShared : Nat := 3456

/-- Virtual channel of a message: 2 × CLASS + SUB. -/
def vcOf (op sub : Nat) : Nat := 2 * opClass op + sub % 2

/-- Credits that the sender holds for a channel: those of its reserved slots, and the shared ones. -/
def Port.credit (x : Port) (v : Nat) : Nat := x.cred.getD v 0 + x.shared

/-- A message takes a credit for each of its slots, those of reserved slots first. -/
def Port.spend (x : Port) (v n : Nat) : Port :=
  let own := min n (x.cred.getD v 0)
  { x with cred := x.cred.set v (x.cred.getD v 0 - own), shared := x.shared - (n - own) }

/-- Credits return to a channel: its reserved slots first, the others shared. -/
def Port.refund (x : Port) (v n : Nat) : Port :=
  let own := min n (vcReserved - x.cred.getD v 0)
  { x with cred := x.cred.set v (x.cred.getD v 0 + own), shared := min vcShared (x.shared + (n - own)) }

/-- Slots of a channel go free in this port's ingress buffer: their credits are to be returned. -/
def Port.owe (x : Port) (v n : Nat) : Port := { x with owed := x.owed.set v (x.owed.getD v 0 + n) }

/-- The two credit returns that a flit carries (R288): of the two lowest channels that have some. -/
def Port.returns (x : Port) : List (Nat × Nat) :=
  (((List.range 10).filter (fun v => x.owed.getD v 0 ≠ 0)).take 2).map (fun v => (v, min 4095 (x.owed.getD v 0)))

/-- A flit leaves, with its credit returns. -/
def Port.giveBack (x : Port) : Port :=
  x.returns.foldl (fun x r => { x with owed := x.owed.set r.1 (x.owed.getD r.1 0 - r.2) }) x

/-- The messages that may leave: of each virtual channel the first, if the sender holds a credit for each of its slots (R292, R293). -/
def Port.heads (x : Port) : List LMsg :=
  (x.egress.foldl (fun (a : List LMsg × List Nat) m =>
    let v := vcOf m.op m.sub
    if a.2.contains v then a else (if m.slots ≤ x.credit v then a.1 ++ [m] else a.1, v :: a.2)) ([], [])).1

/-- The message that leaves next (R293): SYNC; MGMT, once 15 flits of other classes have left since its last, or when nothing else can; RSP and DATA; REQ. -/
def Port.next (x : Port) : Option LMsg :=
  let h := x.heads
  let of := fun (c : Nat → Bool) => h.find? (fun m => c (opClass m.op))
  let mgmt := of (· = 4)
  (of (· = 3)).or ((if 15 ≤ x.sinceMgmt then mgmt else none).or ((of (fun c => c = 1 || c = 2)).or ((of (· = 0)).or mgmt)))

/-- ACK as it stands: the last MSG sequence number received good and in order (R288). -/
def Port.ackNow (x : Port) : Option Nat := if x.got then some ((x.expect + 4095) % 4096) else none

/-- A flit leaves: it carries ACK and credit returns (R288, R290). -/
def Port.emit (x : Port) (now kind seq : Nat) (m : Option LMsg) : Port :=
  { x.giveBack with wire := x.wire ++ [{ kind := kind, seq := seq, ack := x.ackNow, cr := x.returns, msg := m }], lastAckSent := now }

/-- Messages waiting at an UP port leave in the order of R293, within their credits (R292), while the replay buffer has room (R290). -/
def pump : Nat → State → Nat → State
  | 0, s, _ => s
  | n + 1, s, p =>
    let x := getPort s p
    if !portUp s p || x.replay.length ≥ 1024 then s else
      match x.next with
      | none => s
      | some m =>
        let at_ := if x.replay.isEmpty then s.now else x.ackAt
        let x := (x.spend (vcOf m.op m.sub) m.slots).emit s.now 1 x.nextSeq (some m)
        pump n (setPort s p { x with egress := x.egress.erase m, replay := x.replay ++ [(x.nextSeq, m)], nextSeq := (x.nextSeq + 1) % 4096, ackAt := at_,
                                     sinceMgmt := if opClass m.op = 4 then 0 else x.sinceMgmt + 1 }) p

/-- The slots of a message that arrived at a port go free (R292). -/
def freeSlots (s : State) (p : Nat) (m : LMsg) : State :=
  if p < 8 then setPort s p ((getPort s p).owe (vcOf m.op m.sub) m.slots) else s

/-- Whether a port discards what arrives (R304): not UP for 100 µs. -/
def portDiscards (s : State) (p : Nat) : Bool :=
  !portUp s p && (match (getPort s p).notUp with | some t => t + 100000 ≤ s.now | none => false)

/-- Put a message on a port: it moves to sub-channel 1 where DATELINE is 1 (R295). False when the port discards it. -/
def portPut (s : State) (p : Nat) (m : LMsg) : Bool × State :=
  if portDiscards s p then (false, s) else
    let m := if flag s .LK_CTRL_DATELINE p then { m with sub := 1 } else m
    let x := getPort s p
    (true, pump 1 (setPort s p { x with egress := x.egress ++ [m] }) p)

/-- Offer a message to the port that its route names (R294): false when the entry is not valid or the port discards it. -/
def linkSend (s : State) (m : LMsg) : Bool × State :=
  if !flag s .LK_ROUTE_DATA_VALID m.dest then (false, s) else portPut s (rd s .LK_ROUTE_DATA_PORT m.dest) m

/-! ### Messages received (R289, R293) -/

/-- The first message of each virtual channel that a port has received and not handled. -/
def Port.firsts (x : Port) : List LMsg :=
  (x.inbox.foldl (fun (a : List LMsg × List Nat) m =>
    if a.2.contains (vcOf m.op m.sub) then a else (a.1 ++ [m], vcOf m.op m.sub :: a.2)) ([], [])).1

/-- Take the first message of a channel that a test names off a port. -/
def takeIn (s : State) (p : Nat) (f : LMsg → Bool) : Option (LMsg × State) :=
  if p ≥ 8 then none else
    match (getPort s p).firsts.find? f with
    | none => none
    | some m => some (m, setPort s p { getPort s p with inbox := (getPort s p).inbox.erase m })

end Sys2Proof.Machine
end

