-- ==== Sys2Proof/Machine/Pq.lean ====
section
/-! DEFINITION. The power-quality log (R385, R386) and what follows MAINS_STATUS.LOCK (R384); quotients that the spec does not say how to round
(log 77, DESIGN CHOICE). -/

namespace Sys2Proof.Machine

/-- A quotient whose rounding the spec leaves open (log 77, DESIGN CHOICE): exact, or one of its two neighbours. -/
def divOpen (a b : Nat) : Nat := a / b + (if a % b ≠ 0 && Config.roundUp a b then 1 else 0)

/-- FR_ACTIVE and SHED_ACTIVE as they stand (R386). -/
def pqFlags (s : State) : Nat := (if rd s .FR_STATUS_CAP_PM < 1000 then 2 else 0) + (if flag s .KB_STATUS_SHED then 4 else 0)

/-- Write entry number `j` to its slot, unless a newer entry has taken it. -/
def pqPut (s : State) (j : Nat) (e : PqEntry) : State :=
  if j + 4096 < rd s .PQ_HEAD_COUNT then s else { s with sup := { s.sup with log := s.sup.log.put (j % 4096) e } }

/-- Open an event of a kind (R385). -/
def pqOpen (s : State) (kind : Nat) (extreme : Int) : State :=
  if (s.sup.open_.get kind).isSome then s else
    let j := rd s .PQ_HEAD_COUNT
    let e : PqEntry := { start := mstNow s, kind := kind, flags := 1 + pqFlags s, extreme := extreme }
    let n := s.sup.sum.counts.getD (kind - 1) 0
    let s := { s with sup := { s.sup with
      open_ := s.sup.open_.put kind (j, e)
      log := s.sup.log.put (j % 4096) e
      sum := { s.sup.sum with counts := s.sup.sum.counts.set (kind - 1) (min (n + 1) (2 ^ 32 - 1)) } } }
    let s := bump s .PQ_HEAD_COUNT
    if j + 1 > 4096 then wr0 s .PQ_HEAD_WRAPPED 1 else s

/-- Change the open event of a kind. -/
def pqChange (s : State) (kind : Nat) (f : PqEntry → PqEntry) : State :=
  match s.sup.open_.get kind with
  | none => s
  | some (j, e) => pqPut { s with sup := { s.sup with open_ := s.sup.open_.put kind (j, f e) } } j (f e)

/-- EXTREME takes the lowest, or the highest, value seen. -/
def pqLow (s : State) (kind : Nat) (v : Int) : State := pqChange s kind (fun e => { e with extreme := min e.extreme v })
def pqHigh (s : State) (kind : Nat) (v : Int) : State := pqChange s kind (fun e => { e with extreme := max e.extreme v })

/-- Close the open event of a kind: DURATION in µs, ONGOING clear. -/
def pqClose (s : State) (kind : Nat) : State :=
  match s.sup.open_.get kind with
  | none => s
  | some _ =>
    let s := pqChange s kind (fun e => { e with dur := min (divOpen (mstNow s - e.start) 1000) (2 ^ 32 - 1), flags := e.flags - 1 })
    { s with sup := { s.sup with open_ := s.sup.open_.del kind } }

/-- A cap or a shed came into force: the open events note it. -/
def pqTouch (s : State) : State :=
  each s.sup.open_.keys (fun s k => pqChange s k (fun e => { e with flags := e.flags ||| pqFlags s })) s

/-- LOCK changes, and MAINS_MEAS.VALID with it (R384); LOCK_LOST opens and closes (R385). -/
def setLock (s : State) (b : Bool) : State :=
  let was := flag s .MAINS_STATUS_LOCK
  let s := setFlag (setFlag s .MAINS_STATUS_LOCK 0 b) .MAINS_MEAS_VALID 0 b
  if was && !b then pqOpen s 7 0 else if b then pqClose s 7 else s

/-- VALID clears: a device on its own curve aims at full power and NO_MAINS sets (R401). -/
def frNoMains (s : State) : State :=
  let m := rd s .FR_CTRL_MODE
  if m = 1 || m = 2 then wr0 { s with sup := { s.sup with target := 1000 } } .FR_STATUS_NO_MAINS 1 else s

/-- A group of a context with CONVOY_EN is blocked at a WAIT on a waymark (R423). -/
def convoyBlocked (s : State) : Bool :=
  s.cores.any (fun e => (match e.2.ctx.bind (getCtx s) with | some x => x.convoyEn | none => false) &&
    e.2.groups.any (fun g => (g.2.run.toList ++ g.2.others).any (fun p => match p.stat with | .waiting w => w.kind = 0 | _ => false)))

/-- A nanosecond of the time lost to the slowest member (R423). -/
def tickWait (s : State) : State :=
  if flag s .PW_CONVOY_STATUS_SLOW_VALID && rd s .PW_CONVOY_STATUS_SLOW_DEV ≠ rd s .LK_DEVNUM_DEV && convoyBlocked s then
    bump s .PW_CONVOY_WAIT_NS else s

end Sys2Proof.Machine
end

