-- ==== Sys2Proof/Machine/Time.lean ====
section
/-! DEFINITION. Milestone Time, the mains angle and the falling due of milestone entries (R31-R38, R42-R44), and the tick of a nanosecond
(log 1, DESIGN CHOICE). A command of the table dispatches what has fallen due (MT_FIRE, Machine/Milestone.lean). Log 27, DEDUCED: the phase of REF_PPS edges; log 28, DEDUCED: when the angle locks. -/

namespace Sys2Proof.Machine

/-! ### Entries falling due -/

/-- Entry `n` falls due (R38, R40, R44). -/
def markDue (s : State) (n : Nat) (late noMains : Bool) (at_ : Nat) : State :=
  if (s.time.due.get n).isSome then s else
    { s with time := { s.time with
        due := s.time.due.put n { at_ := at_, late := late, noMains := noMains, fly := flag s .MT_CTRL_KIND n && flag s .MAINS_STATUS_FLYWHEEL }
        skip := s.time.skip.put n 0 } }

/-- KIND 0 entries that MST has reached in moving to its present value from `old` (R38, R34): a step makes them late. -/
def dueByTime (s : State) (late : Bool) : State :=
  each (s.time.basis.filter (fun e => rd s .MT_CTRL_KIND e.1 = 0 && e.2 ≤ s.time.mst)) (fun s e =>
    markDue s e.1 late false (if late then s.time.mst else e.2)) s

/-- The angle scale: one mains cycle. -/
def cyclePh : Nat := 10 ^ 12

/-- Whether the angle crosses ANGLE (2^32 is a cycle) in moving on by `inc` from `ph`. -/
def crosses (ph inc ang : Nat) : Bool :=
  let a := ph * 2 ^ 32
  let b := (ph + inc) * 2 ^ 32
  let t := ang * cyclePh
  (a < t && t ≤ b) || (a < t + cyclePh * 2 ^ 32 && t + cyclePh * 2 ^ 32 ≤ b)

/-- KIND 1 entries whose angle the move of the angle by `inc` crosses (R38, R42). -/
def dueByAngle (s : State) (ph inc : Nat) : State :=
  if inc = 0 then s else
    each (s.time.basis.filter (fun e => rd s .MT_CTRL_KIND e.1 = 1 && crosses ph inc (rd s .MT_ANGLE_ANGLE e.1))) (fun s e =>
      let k := s.time.skip.getD e.1 0
      if (s.time.due.get e.1).isSome then { s with time := { s.time with skip := s.time.skip.put e.1 (k + 1) } }
      else if k > 0 then { s with time := { s.time with skip := s.time.skip.put e.1 (k - 1) } }
      else if e.2 ≤ s.time.mst then markDue s e.1 false false s.time.mst else s) s

/-- VALID has gone: waiting KIND 1 entries fire at once with LATE and NO_MAINS (R44). -/
def dueNoMains (s : State) : State :=
  each (s.time.basis.filter (fun e => rd s .MT_CTRL_KIND e.1 = 1)) (fun s e => markDue s e.1 true true s.time.mst) s

/-- VALID has returned: repeating KIND 1 entries that waited for it have a next basis (R42). -/
def mainsReturned (s : State) : State :=
  each ((List.range 256).filter (fun n => flag s .MT_CTRL_ARMED n && flag s .MT_CTRL_KIND n && (s.time.basis.get n).isNone)) (fun s n =>
    { s with time := { s.time with basis := s.time.basis.put n (max (rd s .MT_TIME_TIME n) (s.time.mst + 2000))
                                   skip := s.time.skip.put n 0 } }) s

/-! ### MST -/

/-- MST has been moved by `d` ns against its course: the offsets that the ports have averaged stand against the new MST (R301, R34; log 169, DEDUCED). -/
def ttRebase (s : State) (d : Int) : State :=
  { s with link := { s.link with ports := s.link.ports.mapV (fun _ x => { x with tt := x.tt.map (fun e => (e.1, e.2 - 2 * d)) }) } }

/-- After a step an exchange of stamps under way no longer counts (log 169, DEDUCED). -/
def ttCancel (s : State) : State :=
  each (s.link.ports.keys.filter (fun p => ((s.link.ports.get p).map (fun x => x.ttSent.isSome || x.ttOrigin.isSome)).getD false)) (fun s p =>
    { s with link := { s.link with ports := s.link.ports.set p {} { (s.link.ports.getD p {}) with ttSent := none, ttOrigin := none } } }) s

/-- Give MST a value as a step (R33, R34): a forward step sets STEPPED and the entries that it passes fall due late. -/
def mstLoad (s : State) (v : Nat) : State :=
  let fwd := v > s.time.mst
  let s := ttCancel (ttRebase s ((v : Int) - s.time.mst))
  let s := { s with time := { s.time with mst := v, slew := 0, slewPh := 0, isSet := true } }
  let s := wr0 s .MST_STATUS_SLEWING 0
  if fwd then dueByTime (wr0 s .MST_STATUS_STEPPED 1) true else s

/-- Correct an offset from the source (R34): a step where STEP_OK allows one forward by more than 1 ms, else a slew. -/
def mstCorrect (s : State) (off : Int) : State :=
  if flag s .MST_CTRL_STEP_OK && off > 1000000 then mstLoad s (s.time.mst + off.toNat)
  else wr0 { s with time := { s.time with slew := off } } .MST_STATUS_SLEWING (if off = 0 then 0 else 1)

/-- A source is in use from now (R31, R32): 1 REF, whose error is 2 ns, 2 link. -/
def mstSource (s : State) (src uncert : Nat) : State :=
  let s := { s with time := { s.time with holdSince := none } }
  wr0 (wr0 (wr0 s .MST_STATUS_SOURCE src) .MST_STATUS_HOLDOVER_S 0) .MST_STATUS_UNCERT (min uncert 65535)

/-- The parent port gives valid time (R31). -/
def linkTimeOk (s : State) : Bool := flag s .MST_CTRL_LINK_EN && flag s .LK_TT_VALID (rd s .MST_CTRL_LINK_PORT)

/-- The error of time taken from the parent link (R32): ±5 ns of its hop beside what the parent reported last. -/
def linkUnc (s : State) : Nat := (s.link.ports.getD (rd s .MST_CTRL_LINK_PORT) {}).ttUnc + 5

/-- The source in use has gone: the next enabled one, without a break in the count (R31), with its error (R32): that of the parent link's last
exchange; in holdover 500 ns more for each second begun. An MST that has never been set counts on the TCXO with SOURCE 0. -/
def mstFall (s : State) : State :=
  if !s.time.isSet then s
  else if linkTimeOk s then wr0 (wr0 { s with time := { s.time with holdSince := none } } .MST_STATUS_SOURCE 2) .MST_STATUS_UNCERT (min (linkUnc s) 65535)
  else bumpSat (wr0 { s with time := { s.time with holdSince := some s.now } } .MST_STATUS_SOURCE 3) .MST_STATUS_UNCERT 0 500

/-- The REF inputs are no longer usable (R31). -/
def refLost (s : State) : State := if rd s .MST_STATUS_SOURCE = 1 then mstFall s else s

/-- A write of MST_NEXT_PPS, of any value, arms it (R33). -/
def execMstNextPpsWrite (v : W64) (s : State) : Out := .next (wr0 (wr0 s .MST_NEXT_PPS_NEXT v.toNat) .MST_STATUS_NEXT_ARMED 1)

/-- A REF_PPS edge (R31, R33): it makes REF_PPS present; it counts when REF_EN and REF10_OK are 1. The first one, unarmed, on an MST that a link has set
already corrects it under R34 (log 160, DEDUCED). -/
def execRefPpsEdge (s : State) : Out :=
  .next (
    let s := wr0 { s with time := { s.time with ppsAt := some s.now } } .MST_STATUS_PPS_OK 1
    if !(flag s .MST_CTRL_REF_EN && flag s .MST_STATUS_REF10_OK) then s else
      let v := rd s .MST_NEXT_PPS_NEXT
      let armed := flag s .MST_STATUS_NEXT_ARMED
      let s := wr0 s .MST_STATUS_NEXT_ARMED 0
      if armed && !(s.time.isSet && v < s.time.mst) then
        let s := wr0 (mstLoad s v) .MST_STATUS_EPOCH 1
        mstSource { s with time := { s.time with ppsBase := some v } } 1 2
      else
        let s := if armed then wr0 s .MST_STATUS_EPOCH_ERR 1 else s
        if !s.time.isSet then
          let v := (s.time.mst + 999999999) / 1000000000 * 1000000000
          mstSource { mstLoad s v with time := { (mstLoad s v).time with ppsBase := some v } } 1 2
        else
          -- the edge stands for the second nearest to MST among those that lie whole seconds after the last (log 27, DEDUCED)
          let b := s.time.ppsBase.getD 0 % 1000000000
          let at_ := (s.time.mst + 1500000000 - b) / 1000000000 * 1000000000 + b - 1000000000
          let s := mstCorrect s ((at_ : Int) - s.time.mst)
          mstSource { s with time := { s.time with ppsBase := some at_ } } 1 2)

/-- REF_PPS has shown no edge for 1.1 s (R31). -/
def execRefPpsLoss (s : State) : Out :=
  .next (match s.time.ppsAt with
    | some t => if t + 1100000000 ≤ s.now && flag s .MST_STATUS_PPS_OK then refLost (wr0 s .MST_STATUS_PPS_OK 0) else s
    | none => s)

/-- REF_10M has shown no edge for 10 µs (R31). -/
def execRef10mLoss (s : State) : Out := .next (if flag s .MST_STATUS_REF10_OK then refLost (wr0 s .MST_STATUS_REF10_OK 0) else s)

/-- REF_10M has shown clean edges for 1 ms (R31). -/
def execRef10mQualified (s : State) : Out := .next (wr0 s .MST_STATUS_REF10_OK 1)

/-! ### The mains angle (R36) -/

/-- Lock is lost: the accumulator freewheels at the last measured frequency. -/
def lockLost (s : State) : State :=
  if !flag s .MAINS_STATUS_LOCK then s else
    let s := { s with time := { s.time with lossAt := some s.now, phaseErr := 0, goodHalves := 0 } }
    wr0 (setLock s false) .MAINS_STATUS_FLYWHEEL 1

/-- ±0.1° of the angle scale. -/
def lockBand : Int := 10 ^ 12 / 3600

/-- LOCK sets once a good signal's phase lies within ±0.1° of the freewheeling angle. -/
def tryLock (s : State) : State :=
  if flag s .MAINS_STATUS_FLYWHEEL && 2 ≤ s.time.goodHalves && -lockBand ≤ s.time.phaseErr && s.time.phaseErr ≤ lockBand then
    let s := { s with time := { s.time with lossAt := none } }
    wr0 (setLock s true) .MAINS_STATUS_FLYWHEEL 0
  else s

/-- A zero crossing at phase `ph` of the signal, with the half-cycle's frequency in mHz (R36; log 28, DEDUCED: a signal is acquired at the second
good half-cycle in a row). A half-cycle that has failed already, with no crossing within 1.5 intervals, fails once, whatever it measures. -/
def angleCross (s : State) (ph mhz : Nat) : State :=
  let good := 40000 ≤ mhz && mhz ≤ 70000
  let failed : Bool := s.time.missAt ≠ s.time.lastCross
  let s := { s with time := { s.time with lastCross := s.now, missAt := s.now } }
  if !good then
    let s := { s with time := { s.time with badHalves := s.time.badHalves + (if failed then 0 else 1), goodHalves := 0 } }
    if 2 ≤ s.time.badHalves then lockLost s else s
  else
    let s := { s with time := { s.time with badHalves := if failed then s.time.badHalves else 0, goodHalves := if failed then 0 else s.time.goodHalves + 1, mhz := mhz } }
    let d : Int := ((ph : Int) - s.time.phase) % cyclePh
    let err : Int := if d ≥ cyclePh / 2 then d - cyclePh else d
    if flag s .MAINS_STATUS_VALID then
      if flag s .MAINS_STATUS_LOCK || 2 ≤ s.time.goodHalves then tryLock { s with time := { s.time with phaseErr := err } } else s
    else if 2 ≤ s.time.goodHalves then
      let s := { s with time := { s.time with phase := ph, phaseErr := 0, lossAt := none } }
      mainsReturned (wr0 (wr0 (wr0 (setLock s true) .MAINS_STATUS_FLYWHEEL 0) .MAINS_STATUS_VALID 1) .FR_STATUS_NO_MAINS 0)
    else s

/-- Lock has not returned within 2 s of its loss: VALID clears (R36), and waiting angle entries fire (R44). -/
def execFlywheelExpiry (s : State) : Out :=
  .next (match s.time.lossAt with
    | some t =>
      if flag s .MAINS_STATUS_FLYWHEEL && t + 2000000000 ≤ s.now then
        let s := { s with time := { s.time with lossAt := none, phaseErr := 0 } }
        dueNoMains (frNoMains (wr0 (wr0 s .MAINS_STATUS_FLYWHEEL 0) .MAINS_STATUS_VALID 0))
      else s
    | none => s)

/-! ### The tick -/

/-- Whether a half's clock runs (R21, R22): in Run and Trim, its die not in reset, the half not isolated. -/
def clockOn (s : State) (h : Nat) : Bool :=
  let st := rd s .PS_STATUS_STATE
  (st = 1 || st = 2) && !s.die.down.contains (h / 2) && !s.die.dead.contains (h / 2) && (s.die.isolated.get h).isNone

/-- What a half's clock adds in a nanosecond: the die's frequency over n, four fifths of it in a stretch (R47, R272, R414). -/
def clockInc (s : State) (h : Nat) : Nat :=
  let f := codeMhz (rd s .PW_DIE_STATUS_CODE (h / 2)) * (3603600 / (rd s .PW_HALF_STATUS_RATIO h + 1))
  if (s.pow.stretch.get h).isSome then f * 4 / 5 else f

/-- A nanosecond of MST: a slew changes one nanosecond in 10,000 (R34). -/
def tickMst (s : State) : State :=
  let t := s.time
  let due := t.slew ≠ 0 && 9999 ≤ t.slewPh
  let s :=
    if !due then { s with time := { t with mst := t.mst + 1, slewPh := if t.slew = 0 then 0 else t.slewPh + 1 } }
    else if t.slew > 0 then ttRebase { s with time := { t with mst := t.mst + 2, slew := t.slew - 1, slewPh := 0 } } 1
    else ttRebase { s with time := { t with slew := t.slew + 1, slewPh := 0 } } (-1)
  let s := if due && s.time.slew = 0 then wr0 s .MST_STATUS_SLEWING 0 else s
  let s := match s.time.holdSince with
    | some h => if s.now ≠ h && (s.now - h) % 1000000000 = 0 then
        bumpSat (bump s .MST_STATUS_HOLDOVER_S) .MST_STATUS_UNCERT 0 500 else s
    | none => s
  dueByTime s false

/-- A nanosecond of the mains angle (R36): while VALID it runs at the measured frequency, or up to 5% off it toward the signal; while VALID is 0 it
stands still (log 161, DESIGN CHOICE). -/
def tickAngle (s : State) : State :=
  if !flag s .MAINS_STATUS_VALID then s else
    let t := s.time
    let lim : Int := t.mhz / 20
    let d : Int := if t.phaseErr > lim then lim else if t.phaseErr < -lim then -lim else t.phaseErr
    let inc := ((t.mhz : Int) + d).toNat
    let s := { s with time := { t with phase := (t.phase + inc) % cyclePh, phaseErr := t.phaseErr - d } }
    tryLock (dueByAngle s t.phase inc)

/-- What left a link port in the nanosecond that ends is gone from it (log 34, DESIGN CHOICE). -/
def clearWires (s : State) : State :=
  each (s.link.ports.keys.filter (fun p => ((s.link.ports.get p).map (fun x => !x.wire.isEmpty)).getD false)) (fun s p =>
    { s with link := { s.link with ports := s.link.ports.set p {} { (s.link.ports.getD p {}) with wire := [] } } }) s

/-- The handshakes of the ridges and bridges count the slower of their two clocks, each at its ratio in force (R273, R275, R281). An I/O die's clock, of which
no frequency is stated, is not the slower one (log 176, DEDUCED). -/
def tickResync (s : State) : State :=
  if s.die.resync.isEmpty then s else
    let inc := fun (h : Nat) => if clockOn s h then clockInc s h else 0
    { s with die := { s.die with resync := SMap.mapV s.die.resync (fun k n =>
      let (a, b) := if k < 8 then (2 * k, 2 * k + 1) else bridgeEnds (k - 8)
      n + (if 8 ≤ b then inc a else min (inc a) (inc b))) } }

/-- A nanosecond passes: MST, the angle, the half clocks (log 1, DESIGN CHOICE). In Off, where no boot step has been reached, nothing runs (R435). -/
def tick (s : State) : State :=
  let s := clearWires { s with now := s.now + 1 }
  if rd s .PS_BOOT_LAST_STEP = 0 then s else
    let s := { s with cyc := ((List.range 8).filter (clockOn s)).foldl (fun m h => m.set h 0 (m.getD h 0 + clockInc s h)) s.cyc }
    let s := tickResync s
    let st := rd s .PS_STATUS_STATE
    let s := { s with boot := { s.boot with stbyNs := s.boot.stbyNs + 1, runNs := s.boot.runNs + (if st = 1 || st = 2 then 1 else 0) } }
    tickAngle (tickMst (tickWait s))

end Sys2Proof.Machine
end

