-- ==== Sys2Proof/Machine/Control.lean ====
section
/-! DEFINITION. Control instructions (R113, R114), special registers (R121), waypoints and their budget (R90, R91), the rotation of paths
(R81, R83), and the opening of a collective region (R142). -/

namespace Sys2Proof.Machine

/-! ### Waypoints -/

/-- The group is at a waypoint (R90): its counter clears, and it stops if the core has received PREEMPT. -/
def atWaypoint (s : State) (g : Grp) : State :=
  match getGroup s g with
  | none => s
  | some x =>
    setGroup s g { x with wpCyc := cycles s (coreHalf g.core), stopped := x.stopped || (getCore s g.core).preempting }

/-- A context's waypoint budget in cycles (R10, R337). -/
def budgetOf (s : State) (x : Ctx) : Nat :=
  let b := x.budget.getD (rd s .TP_CFG_DEF_BUDGET)
  if b = 0 then 2 ^ 24 else b

/-- Whether any path of a group is blocked at a WAIT. -/
def anyWaiting (x : Group) : Bool := (allPaths x).any (fun p => match p.stat with | .waiting _ => true | _ => false)

/-! ### Branches -/

/-- The fault of a branch target (R114): alignment, then the right to fetch. -/
def targetFault (s : State) (ctx : Nat) (t : W64) : Option (Nat × Nat) :=
  if t.toNat % 8 ≠ 0 then some (0x0203, 8) else
    match getCtx s ctx with
    | none => none
    | some x =>
      if t.toNat / 2 ^ 48 ≠ 0 then some (0x0201, 0) else
        match walkVa s x t.toNat .fetch with
        | .fault c d => some (c, d)
        | .fenced at_ => some (0x0206, at_)
        | .uncorrectable loc => some (0x0207, loc)
        | _ => none

/-- A branch target faults: an uncorrectable table entry (`f.2` is its line) is counted and recorded first, and DETAIL is the record's index (R98, R237);
for a table on a die in reset the record names that table (`f.2`, R97). -/
def targetStop (s : State) (g : Grp) (f : Nat × Nat) (insn : Nat) (t : W64) : State :=
  let (s, detail) := if f.1 = 0x0207 then (let s := tableRead s f.2; (s, errIndex s f.2)) else (s, f.2)
  if f.1 = 0x0206 then groupFault s g f.1 0 none (some (myDev s * 2 ^ 40 + f.2)) else groupFault s g f.1 detail (some insn) (some t.toNat)

/-- Threads of each distinct target, in order of lowest thread. -/
def groupTargets (m : W32) (t : Nat → W64) : List (W64 × W32) :=
  (threads m).foldl (fun l k =>
    if l.any (fun e => e.1 = t k) then l.map (fun e => if e.1 = t k then (e.1, e.2 ||| bit 32 k) else e) else l ++ [(t k, bit 32 k)]) []

/-- The threads of ways that leave an open region by a taken branch (R143). -/
def leavingWays (x : Group) (p : Path) (ways : List (W64 × W32 × Bool)) (taken : W32) : W32 :=
  match x.region with
  | none => 0
  | some r => ways.foldl (fun a w =>
      if w.1 = r.stop || (w.2.1 &&& taken ≠ 0 && p.depth = 0 && !r.inside w.1) then a ||| w.2.1 else a) 0

/-- Executing threads branch to `tgt`, the others fall through (R101, R113). `len` bytes; `rpc` absolute; a taken backward branch is a
waypoint (R90). -/
def branch (s : State) (e : Env) (len : Nat) (tgt : Nat → W64) (rpc : W64) (insn : Nat) : State :=
  let fall := e.p.pc + BitVec.ofNat 64 len
  let rest := e.p.mask &&& ~~~e.ex
  let tg := groupTargets e.ex tgt
  match tg.findSome? (fun t => (targetFault s e.ctx t.1).map (fun f => (f, t.1))) with
  | some (f, t) => targetStop s e.g f insn t
  | none =>
    let s0 := if tg.any (fun t => t.1 ≤ e.p.pc) then atWaypoint s e.g else s
    let x := countIssue ((getGroup s0 e.g).getD e.x)
    let cyc := cycles s (coreHalf e.g.core)
    let ways := (if rest = 0 then tg else if tg.any (fun t => t.1 = fall) then tg.map (fun t => if t.1 = fall then (t.1, t.2 ||| rest) else t)
      else (fall, rest) :: tg)
    match ways with
    | [] => advance s0 e.g x len
    | [w] => finish s0 e.g (moveTo x w.1 (e.ex ≠ 0) cyc)
    | _ =>
      -- which way runs on is open (log 11, DESIGN CHOICE)
      let (n, s0) := free s0
      let ways := (ways.rotateLeft (n % ways.length)).map (fun w => (w.1, w.2, false))
      let (x, f) := leaveRegion x (leavingWays x e.p ways e.ex)
      match diverge x rpc ways with
      | none => groupFault s e.g 0x0104 (entriesNeeded x e.p rpc ways) (some insn) none
      | some x => finish s0 e.g (afterDiverge x cyc, f)

/-- Signed offset in 8-byte units (R106). -/
def off8 {w : Nat} (v : BitVec w) : W64 := (v.signExtend 64) <<< 3

/-- The first 32 bits of a B-layout word (R106). -/
def insnB (pr : BitVec 3) (pn : Bool) (op : Nat) (rpc : BitVec 24) : Nat := insnWord pr pn 1 op (rpc.extractLsb' 0 8) (rpc.extractLsb' 8 8)

/-- BRA (R113, R114): a guarded BRA must name an RPC. -/
def execBra (g : Grp) (i : BForm) (s : State) : Out :=
  .next (issue s g i.pr i.pn false 1 0x180 (i.rpc.extractLsb' 0 8) (i.rpc.extractLsb' 8 8) (fun _ => true) (fun _ => [])
    (fun _ => [(16, (i.pr = 0 && !i.pn) || i.rpc ≠ 0)])
    (fun e => branch s e 8 (fun _ => e.p.pc + off8 i.target) (e.p.pc + off8 i.rpc) (insnB i.pr i.pn 0x180 i.rpc)))

/-- BRI (R113, R114): per-thread targets; the RPC in the second word must not be 0. -/
def execBri (g : Grp) (i : LForm) (s : State) : Out :=
  let r := i.r
  .next (issue s g r.pr r.pn false 3 0x181 r.d r.a (fun _ => true)
    (fun _ => [⟨16, r.d, .z⟩, ⟨24, r.a, .wr⟩, ⟨32, r.b, .z⟩, ⟨40, r.c, .z⟩])
    (fun _ => (48, r.ty = 0) :: (64, i.w2.extractLsb' 0 24 ≠ 0) :: (88, i.w2.toNat / 2 ^ 24 = 0) :: plainTail r)
    (fun e => branch s e 16 (fun t => BitVec.ofNat 64 (e.x.opnd e.sc 64 r.a t)) (e.p.pc + off8 (i.w2.extractLsb' 0 24))
      (insnWord r.pr r.pn 3 0x181 r.d r.a)))

/-- U63, which CALL writes and RET reads (R113): interlocked as any operand (R110). -/
def linkReg : OField := ⟨16, 0xBF, .r⟩

/-- CALL (R113): U63 := PC + 8; the path goes to PC + 8 × TARGET; the call depth rises while a region is open (R143). An S-core thread has
no uniform registers; its link is held in the place of U63 (log 22, DEDUCED). -/
def execCall (g : Grp) (i : BForm) (s : State) : Out :=
  .next (issue s g i.pr i.pn true 1 0x182 (i.rpc.extractLsb' 0 8) (i.rpc.extractLsb' 8 8) (fun _ => true) (fun _ => [])
    (fun _ => [(16, i.rpc = 0)])
    (fun e =>
      let t := e.p.pc + off8 i.target
      if !regsReady s e [linkReg] then s else
      match targetFault s e.ctx t with
      | some f => targetStop s g f (insnB i.pr i.pn 0x182 i.rpc) t
      | none =>
        let s := if t ≤ e.p.pc then atWaypoint s g else s
        let x := countIssue (((getGroup s g).getD e.x).setU 63 (e.p.pc + 8).toNat)
        let x := { x with run := some { e.p with depth := if x.region.isSome then e.p.depth + 1 else e.p.depth } }
        -- a CALL is not among the ways to leave a region, but reaching its end is (R143)
        finish s g (moveTo x t false (cycles s (coreHalf g.core)))))

/-- RET (R113, R114): the path goes to U63. -/
def execRet (g : Grp) (i : RForm) (s : State) : Out :=
  .next (issue s g i.pr i.pn true 0 0x183 i.d i.a (fun _ => true)
    (fun _ => [⟨16, i.d, .z⟩, ⟨24, i.a, .z⟩, ⟨32, i.b, .z⟩, ⟨40, i.c, .z⟩]) (fun _ => (48, i.ty = 0) :: plainTail i)
    (fun e =>
      let t := BitVec.ofNat 64 (e.x.ureg 63)
      if !regsReady s e [linkReg] then s else
      match targetFault s e.ctx t with
      | some f => targetStop s g f (insnWord i.pr i.pn 0 0x183 i.d i.a) t
      | none =>
        let s := if t ≤ e.p.pc then atWaypoint s g else s
        let x := countIssue ((getGroup s g).getD e.x)
        let inner := x.region.isSome && e.p.depth ≠ 0
        let x := { x with run := some { e.p with depth := if inner then e.p.depth - 1 else e.p.depth } }
        finish s g (moveTo x t (!inner) (cycles s (coreHalf g.core)))))

/-- An instruction with no operands at all. -/
def bareOp (g : Grp) (i : RForm) (op : Nat) (body : Env → State) (s : State) : Out :=
  .next (issue s g i.pr i.pn false 0 op i.d i.a (fun _ => true)
    (fun _ => [⟨16, i.d, .z⟩, ⟨24, i.a, .z⟩, ⟨32, i.b, .z⟩, ⟨40, i.c, .z⟩]) (fun _ => (48, i.ty = 0) :: plainTail i) body)

/-- EXIT (R80, R113): executing threads end; any others of the path go on. -/
def execExit (g : Grp) (i : RForm) (s : State) : Out :=
  bareOp g i 0x184 (fun e =>
    let cyc := cycles s (coreHalf g.core)
    let x := countIssue e.x
    if e.p.mask &&& ~~~e.ex = 0 then finish s g (exitThreads x e.ex cyc)
    else
      let (x, f) := exitThreads x e.ex cyc
      match f with
      | some _ => finish s g (x, f)
      | none => advance s g x 8) s

/-- TRAP (R113): raises TRAP with IMM32 as DETAIL, if any thread executes it. -/
def execTrap (g : Grp) (i : IForm) (s : State) : Out :=
  .next (issue s g i.pr i.pn false 1 0x185 i.d i.a (fun _ => true) (fun _ => [⟨16, i.d, .z⟩, ⟨24, i.a, .z⟩]) (fun _ => [])
    (fun e => if e.ex = 0 then advance s g e.x 8 else groupFault s g 0x0107 i.imm.toNat (some (insnWord i.pr i.pn 1 0x185 i.d i.a)) none))

/-- YIELD (R83): the running path is marked yielding and gives up the pipe; nothing when no other path is runnable. -/
def execYield (g : Grp) (i : RForm) (s : State) : Out :=
  bareOp g i 0x186 (fun e =>
    if e.ex = 0 || !(e.x.others.any Path.runnable) then advance s g e.x 8 else
      let cyc := cycles s (coreHalf g.core)
      let (x, f) := regionCheck { countIssue e.x with run := some { e.p with pc := e.p.pc + 8 } } false
      -- a path that the YIELD brings to its RPC parks there instead
      let x' := parkRun x cyc
      finish s g (if x'.run = x.run then giveUp x cyc true else x', f)) s

/-- WAYPOINT (R90). -/
def execWaypoint (g : Grp) (i : RForm) (s : State) : Out :=
  bareOp g i 0x187 (fun e => advance (atWaypoint s g) g ((getGroup (atWaypoint s g) g).getD e.x) 8) s

def execNop (g : Grp) (i : RForm) (s : State) : Out := bareOp g i 0x189 (fun e => advance s g e.x 8) s

/-! ### Special registers (R121) -/

/-- GSTAT of a group (R76). -/
def gstat (e : Env) : Nat :=
  let dep := if e.sc then 0 else e.x.depth
  e.g.slot + e.g.pipe * 16 + e.g.core * 256 + dep * 2 ^ 18 + ((allPaths e.x).any (·.yielding)).toNat * 2 ^ 23 + e.p.mask.toNat * 2 ^ 32

/-- The ramp lane of an M-core (R152): its field in MX_RAMP_MAP modulo the lane count. -/
def rampLane (s : State) (c : Nat) : Nat :=
  let m := coreLocal c
  (rd s .MX_RAMP_MAP_LANES (coreHalf c * 4 + m / 16) / 2 ^ (4 * (m % 16)) % 16) % (rd s .MX_RAMP_CTRL_LANES (coreHalf c) + 1)

/-- Width of a special register in bits; 0: no such number. -/
def specW (n : Nat) : Nat := if n ≤ 2 then 64 else if n ≤ 8 then 32 else 0

/-- Content of a special register for a thread. -/
def specVal (s : State) (e : Env) (n t : Nat) : Nat :=
  match n with
  | 0 => gstat e
  | 1 => e.x.arith.toWord
  | 2 => mstNow s
  | 3 => mainsAngle s
  | 4 => if e.sc then 0 else t
  | 5 => ((s.sched.blocks.get e.x.block).map (·.number)).getD 0
  | 6 => e.ctx
  | 7 => if e.ct = 1 then rampLane s e.g.core else 0
  | _ => if e.sc then e.x.signal.toNat else 0

/-- SRD (R121). -/
def execSrd (g : Grp) (i : IForm) (s : State) : Out :=
  let n := i.imm.toNat
  let w := specW n
  .next (issue s g i.pr i.pn false 1 0x1C0 i.d i.a (fun _ => true)
    (fun _ => [⟨16, i.d, if w = 64 then .wr else .r⟩, ⟨24, i.a, .z⟩]) (fun _ => [(32, w ≠ 0)])
    (fun e => putAdvance s e w true i.d (fun t => specVal s e n t) 0 8))

/-- SWR (R121): the value of the lowest executing thread; ARITH by R4, SIGNAL on an S-core. -/
def execSwr (g : Grp) (i : IForm) (s : State) : Out :=
  let n := i.imm.toNat
  .next (issue s g i.pr i.pn false 1 0x1C1 i.d i.a (fun _ => true)
    (fun _ => [⟨16, i.d, .z⟩, ⟨24, i.a, if specW n = 64 then .w else .r⟩]) (fun ct => [(32, n = 1 || (n = 8 && ct = 3))])
    (fun e =>
      if e.ex = 0 then advance s g e.x 8 else
        let v := e.x.opnd e.sc (specW n) i.a (lowest e.ex)
        if n = 1 then advance s g { e.x with arith := e.x.arith.write v } 8
        else advance s g { e.x with signal := BitVec.ofNat 32 v } 8))

/-! ### What happens inside a core -/

/-- A path that has issued 64 instructions since it took the pipe, while another is marked yielding, gives up the pipe (R81). -/
def execPathRotate (g : Grp) (s : State) : Out :=
  .next (match getGroup s g with
    | none => s
    | some x => if x.run.any (fun p => p.stat = .ready) && 64 ≤ x.issued && x.others.any (·.yielding) then setGroup s g (giveUp x (cycles s (coreHalf g.core)) false) else s)

/-- A path marked yielding that is its group's only runnable path takes the pipe again after 64 cycles (R83). -/
def execYieldRetake (g : Grp) (s : State) : Out :=
  .next (match getGroup s g with
    | none => s
    | some x =>
      match x.run, x.others.filter Path.runnable with
      | none, [p] =>
        if x.yieldCyc + 64 ≤ cycles s (coreHalf g.core) then setGroup s g (takePipe { x with others := x.others.erase p } p) else s
      | _, _ => s)

/-- The waypoint counter reaches the context's budget (R91): NO_WAYPOINT, DETAIL the budget minus 1. -/
def execNoWaypoint (g : Grp) (s : State) : Out :=
  .next (match getGroup s g, (getCore s g.core).ctx with
    | some x, some c =>
      match getCtx s c with
      | some cx =>
        let b := budgetOf s cx
        if !(getCore s g.core).halted && !anyWaiting x && !x.done && x.wpCyc + b ≤ cycles s (coreHalf g.core) then
          groupFault s g 0x0106 (b - 1) none none
        else s
      | none => s
    | _, _ => s)

/-- CRGN (R142): opens a collective region of the running path's threads; COLLECTIVE_MISMATCH when one is open. -/
def execCrgn (g : Grp) (i : IForm) (s : State) : Out :=
  .next (issue s g i.pr i.pn true 1 0x364 i.d i.a (fun ct => ct = 1) (fun _ => [⟨16, i.d, .z⟩, ⟨24, i.a, .z⟩])
    (fun _ => [(32, 0 < i.imm.toInt)])
    (fun e =>
      if e.x.region.isSome then groupFault s g 0x0105 0 none none else
        let clear := fun (p : Path) => { p with depth := 0 }
        let x := { e.x with
          region := some { entry := e.p.mask, start := e.p.pc + 8, stop := e.p.pc + off8 i.imm }
          run := e.x.run.map clear, others := e.x.others.map clear }
        advance s g x 8))

end Sys2Proof.Machine
end

