-- ==== Sys2Proof/Machine/LoadStore.lean ====
section
/-! DEFINITION. Memory instructions (R87-R89, R115-R118), locks (R82, R86, R117), fences (R160-R162) and how the answers reach a core's
registers. A load, store or atomic of cacheable memory sends messages to the slice of the core's own die (R184); the rows of the Thatch
answer them. Loft bytes, loft windows and uncached lines are performed at issue (log 23, DESIGN CHOICE). Log 24, DESIGN CHOICE: fences; log 25, DEDUCED: which operand and type
codes an atomic takes. -/

namespace Sys2Proof.Machine

/-! ### Access lists and the scoreboard (R147, R148) -/

/-- Ranges that a core's queued commands and descriptors hold, with their place in program order. -/
def heldRanges (s : State) (c : Nat) : List (Nat × Rng) :=
  let k := getCore s c
  let eng := k.engines.flatMap (fun e => e.2.queue.flatMap (fun m => m.ranges.map (fun r => (m.seq, r))))
  let desc := if coreType c = 1 then (List.range 4).flatMap (fun j =>
      ((getChan s (nearChan c + j)).queue.filter (fun d => d.core = c && !d.turnpike)).flatMap (fun d => d.ranges.map (fun r => (d.seq, r))))
    else []
  eng ++ desc

/-- Whether two ranges overlap. -/
def Rng.meets (a b : Rng) : Bool := a.loft = b.loft && a.lo < b.hi && b.lo < a.hi

/-- Whether an access waits on the scoreboard (R148): a read on a write range, a write on any. -/
def sbBlocked (s : State) (c : Nat) (acc : List Rng) : Bool :=
  (heldRanges s c).any (fun h => acc.any (fun a => a.meets h.2 && (a.write || h.2.write)))

/-! ### Addresses -/

/-- A thread's access: thread, virtual address or loft offset. -/
abbrev Acc1 := Nat × Nat

/-- The per-thread addresses of an M-form instruction (R115): SPACE 0, 64-bit base plus offset; SPACE 1, 32 bits. -/
def addrs (e : Env) (space1 : Bool) (a c : BitVec 8) : List Acc1 :=
  (threads e.ex).map (fun t =>
    let off := sext 32 (e.x.opnd e.sc 32 c t)
    if space1 then (t, wrap 32 ((e.x.opnd e.sc 32 a t : Int) + off)) else (t, wrap 64 ((e.x.opnd e.sc 64 a t : Int) + off)))

/-- The address and alignment faults of R87 and R115: code, DETAIL, the address. -/
def addrFault (e : Env) (space1 : Bool) (align : Nat) (l : List Acc1) : Option (Nat × Nat × Nat) :=
  let rng := l.findSome? (fun q =>
    if space1 then (if q.2 ≥ loftSize e.g.core then some (0x0204, q.2, q.2) else none)
    else if q.2 / 2 ^ 48 ≠ 0 then some (0x0201, 0, q.2) else none)
  rng.orElse (fun _ => l.findSome? (fun q => if q.2 % align ≠ 0 then some (0x0203, align, q.2) else none))

/-- How one translated access goes on (R485, R486): a system address with the leaf's uncached bit. -/
inductive Trans where
  | ok (sa : Nat) (uc : Bool)
  | miss
  | fault (code detail : Nat)
  deriving DecidableEq, Repr, Inhabited

/-- Translate an address through the core's cache (R492, R493). -/
def transl (s : State) (e : Env) (va : Nat) (acc : Access) : Trans :=
  match tlbFind e.k.tlb e.ctx va with
  | none => .miss
  | some t =>
    if !rightsOk t.leaf.toNat acc then .fault 0x0202 (accDetail acc) else
      let sa := leafAddr t.leaf t.log2 va
      if isLoft s sa then
        let c := (locOf sa - loftBase) / loftStride
        let off := (locOf sa - loftBase) % loftStride
        if !coreLive s c then .fault 0x0206 0 else if off ≥ loftSize c then .fault 0x0204 off else .ok sa true
      else if isDeck s sa && !dieUp s (homeDie (sa / 64)) then .fault 0x0206 0
      else .ok sa (tb t.leaf.toNat 5)

/-- Ask the half's walker for a translation (R491): one request for a page at a time. -/
def askWalk (s : State) (e : Env) (va : Nat) (acc : Access) : State :=
  let w : WalkReq := { half := coreHalf e.g.core, ctx := e.ctx, va := va, acc := acc, agent := .core e.g.core, pipe := e.g.pipe, slot := e.g.slot, insn := e.insn,
                       path := e.p.mask, pc := e.p.pc }
  if s.deck.walks.any (fun v => v.ctx = w.ctx && v.va / 65536 = va / 65536 && v.agent = w.agent) then s
  else { s with deck := { s.deck with walks := s.deck.walks ++ [w] } }

/-- The address that a fault of a translated access names (R97): for FENCED the system address. -/
def faultAddr (e : Env) (va code : Nat) : Nat :=
  match if code = 0x0206 then tlbFind e.k.tlb e.ctx va else none with
  | some t => leafAddr t.leaf t.log2 va
  | none => va

/-- Translate every access of an instruction: a fault of the lowest thread that has one; else a walk for the first that misses; else the
translated accesses. -/
def translAll (s : State) (e : Env) (acc : Access) (l : List Acc1) : Except (Option (Nat × Nat × Nat) × Option Nat) (List (Nat × Nat × Nat × Bool)) :=
  let r := l.map (fun q => (q, transl s e q.2 acc))
  match r.findSome? (fun v => match v.2 with | .fault c d => some (c, d, faultAddr e v.1.2 c) | _ => none) with
  | some f => .error (some f, none)
  | none =>
    match r.findSome? (fun v => match v.2 with | .miss => some v.1.2 | _ => none) with
    | some va => .error (none, some va)
    | none => .ok (r.filterMap (fun v => match v.2 with | .ok sa uc => some (v.1.1, v.1.2, sa, uc) | _ => none))

/-! ### Register results -/

/-- Write a loaded value into a thread's destination, 4 bytes zero-extended in a 64-bit register (log 153, DEDUCED): 16 bytes fill four X registers (two on an S-core); a U register takes the lowest
executing thread's (R103, R107, R116). -/
def loadPut (x : Group) (sc : Bool) (size : Nat) (sx : Bool) (d : BitVec 8) (t low v : Nat) : Group :=
  let k := d.toNat
  if size = 16 then
    if k ≥ 0x80 then x
    else if sc then (x.setX 64 k t v).setX 64 (k + 1) t (v / 2 ^ 64)
    else (List.range 4).foldl (fun x j => x.setX 32 (k + j) t (v / 2 ^ (32 * j))) x
  else
    let w := if size = 8 then 64 else 32
    let v := if sx && size < 4 then wrap w (sext (8 * size) v) else v
    if 0x80 ≤ k && t ≠ low then x else x.putRes sc w (sx && size < 4) d (bit 32 t) (fun _ => v)

/-- Operand codes of the registers a load of `size` bytes writes. -/
def destRegs (sc : Bool) (size : Nat) (d : BitVec 8) : List Nat :=
  (OField.mk 16 d (if size = 16 then .q else if size = 8 then .w else .r)).regs sc

/-! ### Messages of a core -/

/-- An outstanding operation of the path that issues. -/
def opOf (e : Env) (kind : OpKind) (parts : List Part) : OutOp :=
  { id := 0, pipe := e.g.pipe, slot := e.g.slot, pathLow := lowest e.p.mask, path := e.p.mask, pc := e.p.pc, insn := e.insn, kind := kind,
    parts := parts, lowEx := lowest e.ex }

/-- A fault of an access that was outstanding: the path that issued it (R97). -/
def opFault (s : State) (c : Nat) (o : OutOp) (code detail : Nat) (addr : Option Nat) : State :=
  pathFault s { core := c, pipe := o.pipe, slot := o.slot } code detail (if o.insn = 0 then none else some o.insn) addr o.path o.pc

/-- Put a request on the network. -/
def send (s : State) (m : Msg) : State := { s with coh := { s.coh with net := s.coh.net ++ [m] } }

/-- A message from a core to the slice of its own die that the hash names (R184). -/
def coreMsg (c id line : Nat) (kind : MsgKind) : Msg :=
  { kind := kind, req := .core c, die := coreDie c, slice := sliceOf line, line := line, id := id }

/-- Record an outstanding operation of a core under its next number. -/
def addOut (s : State) (c : Nat) (o : OutOp) : State :=
  let k := getCore s c
  setCore s c { k with outs := k.outs ++ [{ o with id := k.nextOp }], nextOp := k.nextOp + 1 }

/-- Distinct values in order. -/
def distinct (l : List Nat) : List Nat := l.foldl (fun a v => if a.contains v then a else a ++ [v]) []

/-- Remote reads and atomics outstanding at a core (R349: at most 256). -/
def farCount (k : Core) : Nat :=
  (k.outs.filter (fun o => o.far && (match o.kind with | .load .. => true | .atom .. => true | .lock .. => true | _ => false))).foldl
    (fun a o => a + o.parts.length) 0

/-- Read uncached lines at their channels for a core (R199, R237, R238): the counts and records, and the first line that faults, with its code. -/
def uncachedRead (s : State) (ctx : Nat) (lines : List Nat) : Option (Nat × Nat) × State :=
  lines.foldl (fun (st : Option (Nat × Nat) × State) line =>
    let mine : Bool := match getMark st.2 (locLine line) with | some (.strip n) => n = ctx | _ => false
    let (bad, s) := arrayRead st.2 (locLine line) .ok
    (st.1.orElse (fun _ => if bad then some (0x0207, line) else if mine then some (0x0205, line) else none), s)) (none, s)

/-- The fault of a read performed at issue (R98); `l`: the accesses, thread, virtual address and system address. -/
def readFault (s : State) (e : Env) (l : List (Nat × Nat × Nat × Bool)) (f : Nat × Nat) : State :=
  groupFault s e.g f.1 (if f.1 = 0x0207 then errIndex s f.2 else 0) none ((l.find? (fun q => locLine (q.2.2.1 / 64) = f.2)).map (·.2.1))

/-- Uncached lines of this device that accesses read at their channels. -/
def uncLines (s : State) (l : List (Nat × Nat × Nat × Bool)) : List Nat :=
  distinct ((l.filter (fun q => q.2.2.2 && isLocal s (q.2.2.1 / 64) && !isLoft s q.2.2.1)).map (fun q => locLine (q.2.2.1 / 64)))

/-- An uncached access waits while its channel does not serve its class (R226, R227, R232). -/
def uncHeld (s : State) (l : List (Nat × Nat × Nat × Bool)) (hint : Nat) : Bool := (uncLines s l).any (fun n => !serves s (chanOf (n * 64)) (hintClass hint))

/-- The channel time of uncached reads, in the class of their hint (R226, R253). -/
def uncSlots (s : State) (l : List (Nat × Nat × Nat × Bool)) (hint half : Nat) : State :=
  each (uncLines s l) (fun s n => useSlot s (chanOf (n * 64)) (hintClass hint) half) s

/-- The core's own copy of a line turns stale: it is dropped, and fills under way are not installed (R157, R215). -/
def l1Stale (s : State) (c line : Nat) : State :=
  let k := getCore s c
  setCore s c (staleFills { k with l1 := k.l1.del line } line)

/-- A fault at issue with an address. -/
def memFault (s : State) (e : Env) (insn : Nat) (f : Nat × Nat × Nat) : State :=
  -- FENCED and window range faults of a translated access are not precise for FENCED_ACCESS (R98)
  groupFault s e.g f.1 f.2.1 (if f.1 = 0x0206 then none else some insn) (some f.2.2)

/-! ### On-chip memories (R463, R465) -/

/-- A core becomes a test candidate (R465). -/
def testCandidate (s : State) (c : Nat) : State :=
  if s.rel.cands.contains c then s else { s with rel := { s.rel with cands := s.rel.cands ++ [c] } }

/-- A corrected error in a core's memories: recorded, and counted toward CE_TEST within an hour of Run (R465, R466). -/
def sramCount (s : State) (c strct : Nat) : State :=
  let s := logCorrected s (unitCore c) { mst := 0, code := 0x0201, sev := 1, strct := strct, loc := c }
  let l := (s.boot.runNs :: s.rel.ce.getD c []).filter (fun t => s.boot.runNs < t + 3600000000000)
  let s := { s with rel := { s.rel with ce := s.rel.ce.put c l } }
  if l.length ≥ rd s .RL_CFG_CE_TEST then testCandidate s c else s

/-- An uncorrectable error in a core's memories: SRAM_UNCORRECTABLE kills the context (R463); a second within 24 hours forces a fence (R465). -/
def sramKill (s : State) (g : Grp) (strct : Nat) : State :=
  let c := g.core
  let ctx := (getCore s c).ctx
  let inst := ((ctx.bind (getCtx s)).map (·.inst)).getD 0
  let s := logErr s { mst := 0, code := 0x0202, sev := 2, strct := strct, loc := c, ctx := ctx.getD 0, inst := inst, gen := rd s .IN_STATUS_GEN inst }
  let s := groupFault s g 0x0402 (lastErr s) none none
  let again := match s.rel.ue.get c with | some t => s.now < t + 86400000000000 | none => false
  let s := testCandidate { s with rel := { s.rel with ue := s.rel.ue.put c s.now } } c
  if again && !s.rel.mustFence.contains c then { s with rel := { s.rel with mustFence := s.rel.mustFence ++ [c] } } else s

/-- What an instruction does, given how the memories that it reads behave (R463): a bad line of L1 is fetched again and counts as corrected. -/
def sramThen (s : State) (g : Grp) (e : Sram) (go : State → State) : State :=
  match e with
  | .ok => go s
  | .corrected k => go (sramCount s g.core k)
  | .uncorrectable k => if k = 2 || k = 3 then go (sramCount s g.core k) else sramKill s g k

/-- Whether fences of the path hold an operation: an acquire fence holds everything, a release fence all but loads (R161). -/
def fenceHolds (p : Path) (isLoad : Bool) : Bool := p.fences.any (fun f => f.acquire || !isLoad)

/-- The checks shared by M-form instructions. -/
def mChecks (i : MForm) (sizes : List Nat) (aops : List Nat) (tyOk : Bool) : List (Nat × Bool) :=
  [(48, sizes.contains i.size.toNat), (51, i.space.toNat ≤ 1), (53, i.hint.toNat ≤ 4), (56, aops.contains i.aop.toNat), (60, tyOk)]

/-- Data operand kind by access size. -/
def dataKind (sz : Nat) : OKind := match sz with | 4 => .q | 3 => .w | _ => .r

/-- Address operand kind by SPACE (R107). -/
def baseKind (space : BitVec 2) : OKind := if space = 1 then .rn else .wr

/-! ### LD and GATHER -/

/-- Perform loads of the accesses listed: those of loft windows, uncached lines and L1 hits at once, the others by GETS (R183, R184). An uncached
line of another device is read past every slice, as under HINT BYPASS (R199). -/
def doLoads (s : State) (e : Env) (l : List (Nat × Nat × Nat × Bool)) (size hint : Nat) (d : BitVec 8) (sx gather : Bool) : State :=
  let c := e.g.core
  let low := lowest e.ex
  let s0 := s
  -- values that need no message
  let now := fun (q : Nat × Nat × Nat × Bool) =>
    if isLoft s0 q.2.2.1 then some (readNat s0.mem (locOf q.2.2.1) size)
    else if isLocal s0 (q.2.2.1 / 64) && q.2.2.2 then some (lineNat (deckLine s0 (locLine (q.2.2.1 / 64))) (q.2.2.1 % 64) size)
    else if hint = 2 || gather then none
    else (e.k.l1.get (q.2.2.1 / 64)).map (fun ln => lineNat ln (q.2.2.1 % 64) size)
  let x := l.foldl (fun x q => match now q with | some v => loadPut x e.sc size sx d q.1 low v | none => x) e.x
  let rest := l.filter (fun q => (now q).isNone)
  let uc := distinct ((l.filter (fun q => isLocal s0 (q.2.2.1 / 64) && q.2.2.2 && !isLoft s0 q.2.2.1)).map (fun q => q.2.2.1 / 64))
  -- a line held in L1 keeps its strip mark (R212)
  let held := (l.filter (fun q => (now q).isSome && !q.2.2.2 && !isLoft s0 q.2.2.1)).findSome? (fun q =>
    match getMark s0 (locLine (q.2.2.1 / 64)) with
    | some (.strip n) => if isLocal s0 (q.2.2.1 / 64) && n = e.ctx then some (0x0205, q.2.2.1 / 64) else none
    | _ => none)
  let (bad, s) := uncachedRead (uncSlots s l hint (if gather then 1 else 2)) e.ctx uc
  match bad.orElse (fun _ => held) with
  | some f => readFault s e l f
  | none =>
    let s := setGroup s e.g x
    let s := if rest.isEmpty then s else
      let far := rest.any (fun q => !isLocal s0 (q.2.2.1 / 64))
      let id := (getCore s c).nextOp
      let s := addOut s c { opOf e (.load d sx gather) (rest.map (fun q => ⟨q.1, q.2.2.1, size, q.2.1⟩)) with
        regs := destRegs e.sc size d, far := far, install := !(hint = 2 || hint = 4 || gather) }
      -- a granule of another device is read by itself (R297)
      let gran := fun (q : Nat × Nat × Nat × Bool) => if gather && !isLocal s (q.2.2.1 / 64) then q.2.2.1 / 16 else q.2.2.1 / 64 * 4
      each (distinct (rest.map gran)) (fun s a =>
        let h := if rest.any (fun q => gran q = a && q.2.2.2) then 2 else hint
        send s { coreMsg c id (a / 4) .gets with flags := h + (if gather then 8 else 0), thread := a % 4 }) s
    advance s e.g x 8

/-- LD (R115). -/
def execLd (g : Grp) (i : MForm) (err : Sram) (s : State) : Out :=
  let size := 2 ^ i.size.toNat
  let sp1 := i.space = 1
  let insn := insnWord i.pr i.pn 2 0x200 i.d i.a
  .next (issue s g i.pr i.pn false 2 0x200 i.d i.a (fun _ => true)
    (fun _ => [⟨16, i.d, dataKind i.size.toNat⟩, ⟨24, i.a, baseKind i.space⟩, ⟨32, i.b, .z⟩, ⟨40, i.c, .r⟩])
    (fun _ => mChecks i [0, 1, 2, 3, 4] [0, 1] (i.ty = 0))
    (fun e => sramThen s g err fun s =>
      if fenceHolds e.p true then s else
        let l := addrs e sp1 i.a i.c
        match addrFault e sp1 size l with
        | some f => memFault s e insn f
        | none =>
          let acc := l.map (fun q => Rng.mk sp1 q.2 (q.2 + size) false)
          if sbBlocked s g.core acc then s
          else if sp1 then
            let x := l.foldl (fun x q => loadPut x e.sc size (i.aop = 1) i.d q.1 (lowest e.ex) (readNat s.mem (loftAt g.core + q.2) size)) e.x
            advance s g x 8
          else
            match translAll s e .read l with
            | .error (some f, _) => memFault s e insn f
            | .error (none, some va) => askWalk s e va .read
            | .error _ => s
            | .ok r =>
              if uncHeld s r i.hint.toNat || farCount e.k + (r.filter (fun q => !isLocal s (q.2.2.1 / 64))).length > 256 then s
              else doLoads s e r size i.hint.toNat i.d (i.aop = 1) false))

/-- GATHER (R116): granules at A + 16 × zext(C). -/
def execGather (g : Grp) (i : MForm) (s : State) : Out :=
  let insn := insnWord i.pr i.pn 2 0x202 i.d i.a
  .next (issue s g i.pr i.pn false 2 0x202 i.d i.a (fun _ => true)
    (fun _ => [⟨16, i.d, .q⟩, ⟨24, i.a, .wr⟩, ⟨32, i.b, .z⟩, ⟨40, i.c, .r⟩])
    (fun _ => (51, i.space = 0) :: mChecks i [4] [0] (i.ty = 0))
    (fun e =>
      if fenceHolds e.p true then s else
        let base := (threads e.ex).map (fun t => (t, e.x.opnd e.sc 64 i.a t))
        let l := base.map (fun q => (q.1, (q.2 + 16 * e.x.opnd e.sc 32 i.c q.1) % 2 ^ 64))
        match addrFault e false 1 l with
        | some f => memFault s e insn f
        | none =>
          match addrFault e false 16 (base.map (fun q => (q.1, q.2 % 2 ^ 48))) with
          | some f => memFault s e insn f
          | none =>
            if sbBlocked s g.core (l.map (fun q => Rng.mk false q.2 (q.2 + 16) false)) then s
            else
              match translAll s e .read l with
              | .error (some f, _) => memFault s e insn f
              | .error (none, some va) => askWalk s e va .read
              | .error _ => s
              | .ok r =>
                if uncHeld s r i.hint.toNat || farCount e.k + (r.filter (fun q => !isLocal s (q.2.2.1 / 64))).length > 256 then s
                else doLoads s e r 16 i.hint.toNat i.d false true))

/-! ### ST -/

/-- The bytes that threads store to a line: line-wide data and mask, later threads over earlier ones (R89). -/
def storeLine (l : List (Nat × Nat × Nat)) (line size : Nat) : Line × BitVec 64 :=
  (l.filter (fun q => q.2.1 / 64 = line)).foldl (fun (acc : Line × BitVec 64) q =>
    (lineSet acc.1 (q.2.1 % 64) size q.2.2, acc.2 ||| BitVec.ofNat 64 ((2 ^ size - 1) * 2 ^ (q.2.1 % 64)))) (0, 0)

/-- Perform stores: (thread, virtual address, system address, uncached) with values by thread. -/
def doStores (s : State) (e : Env) (l : List (Nat × Nat × Nat × Bool)) (size hint : Nat) (val : Nat → Nat) : State :=
  let c := e.g.core
  let loft := l.filter (fun q => isLoft s q.2.2.1)
  let s0 := s
  let s := each loft (fun s q => winMark { s with mem := writeNat s.mem (locOf q.2.2.1) size (val q.1) } (locOf q.2.2.1) size) s
  let mem := l.filter (fun q => !isLoft s0 q.2.2.1)
  let uc := mem.filter (fun q => q.2.2.2 && isLocal s0 (q.2.2.1 / 64))
  let s := each (distinct (uc.map (fun q => q.2.2.1 / 64))) (fun s line =>
    let (d, m) := storeLine (uc.map (fun q => (q.1, q.2.2.1, val q.1))) line size
    combine s (locLine line) d m c) s
  let ca := mem.filter (fun q => !(q.2.2.2 && isLocal s0 (q.2.2.1 / 64)))
  if ca.isEmpty then s else
    let lines := distinct (ca.map (fun q => q.2.2.1 / 64))
    let id := (getCore s c).nextOp
    -- fills of these lines that are under way would miss the stored bytes (R157)
    let s := each lines (fun s line => setCore s c (staleFills (getCore s c) line)) s
    let s := addOut s c { opOf e .write (lines.map (fun ln => ⟨0, ln * 64, 64, (((ca.find? (fun q => q.2.2.1 / 64 = ln)).map (·.2.1)).getD 0) / 64 * 64⟩)) with
      far := ca.any (fun q => !isLocal s0 (q.2.2.1 / 64)) }
    each lines (fun s line =>
      let (d, m) := storeLine (ca.map (fun q => (q.1, q.2.2.1, val q.1))) line size
      let k := getCore s c
      -- a hit updates the L1 copy (R184)
      let s := match k.l1.get line with
        | some old => setCore s c { k with l1 := k.l1.put line (mergeLine old d m) }
        | none => s
      let h := if ca.any (fun q => q.2.2.1 / 64 = line && q.2.2.2) then 2 else hint
      send s { coreMsg c id line .wr with data := d, mask := m, flags := h }) s

/-- ST (R115). -/
def execSt (g : Grp) (i : MForm) (s : State) : Out :=
  let size := 2 ^ i.size.toNat
  let sp1 := i.space = 1
  let insn := insnWord i.pr i.pn 2 0x201 i.d i.a
  .next (issue s g i.pr i.pn false 2 0x201 i.d i.a (fun _ => true)
    (fun _ => [⟨16, i.d, .z⟩, ⟨24, i.a, baseKind i.space⟩, ⟨32, i.b, dataKind i.size.toNat⟩, ⟨40, i.c, .r⟩])
    (fun _ => mChecks i [0, 1, 2, 3, 4] [0, 1] (i.ty = 0))
    (fun e =>
      if fenceHolds e.p false then s else
        let l := addrs e sp1 i.a i.c
        let val := fun t =>
          if size = 16 then
            (if e.sc then e.x.xreg i.b.toNat t + 2 ^ 64 * e.x.xreg (i.b.toNat + 1) t
             else (List.range 4).foldl (fun a j => a + e.x.xreg (i.b.toNat + j) t * 2 ^ (32 * j)) 0)
          else e.x.opnd e.sc (8 * size) i.b t
        match addrFault e sp1 size l with
        | some f => memFault s e insn f
        | none =>
          if sbBlocked s g.core (l.map (fun q => Rng.mk sp1 q.2 (q.2 + size) true)) then s
          else if sp1 then
            let s := each l (fun s q => { s with mem := writeNat s.mem (loftAt g.core + q.2) size (val q.1) }) s
            advance s g e.x 8
          else
            match translAll s e .write l with
            | .error (some f, _) => memFault s e insn f
            | .error (none, some va) => askWalk s e va .write
            | .error _ => s
            | .ok r => advance (doStores s e r size i.hint.toNat val) g e.x 8))

/-! ### Atomics -/

/-- One element of an atomic or reduction (R117): AOP, TYPE, old value, operand B, new value C for CAS, in a word of `w` bits. -/
def aopElem (aop ty w old b c : Nat) : Nat :=
  let sg := ty = 12 || ty = 14
  match aop with
  | 0 => (old + b) % 2 ^ w
  | 1 => if intLt w sg b old then b else old
  | 2 => if intLt w sg old b then b else old
  | 3 => Nat.land old b
  | 4 => Nat.lor old b
  | 5 => Nat.xor old b
  | 6 => b
  | 7 => if old = b then c else old
  | k =>
    match fmtOf ty with
    | some f => (fElem f (match k with | 8 => 0 | 9 => 3 | _ => 4) .rne false 0 old b 0).1
    | none => old

/-- A word of 4 or 8 bytes: packed 16-bit types act element by element (R117); floating results round RNE with no flags (R67). -/
def aopWord (aop ty size old b c : Nat) : Nat :=
  if aop ≥ 8 && (ty = 2 || ty = 3) then
    aopElem aop ty 16 (old % 65536) (b % 65536) 0 + 65536 * aopElem aop ty 16 (old / 65536 % 65536) (b / 65536 % 65536) 0
  else aopElem aop ty (8 * size) old b c

/-- TYPE and AOP of an atomic of a size (R57, R117; log 25, DEDUCED). -/
def atomTy (aop ty size : Nat) : Bool :=
  let f4 := ty = 1 || ty = 2 || ty = 3
  let width := if size = 4 then f4 || ty = 12 || ty = 13 else ty = 0 || ty = 14 || ty = 15
  let isI := 12 ≤ ty
  width && (if aop ≤ 4 then isI else if aop ≤ 7 then true else !isI)

/-- Apply an atomic at a local byte address of a loft: the old value and the new memory. -/
def atomAt (m : List Host.Cell) (a aop ty size b c : Nat) : Nat × List Host.Cell :=
  let old := readNat m a size
  (old, writeNat m a size (aopWord aop ty size old b c))

/-- Apply an atomic to an uncached line at its channel's engine (R199): the old value and the state. -/
def atomUncached (s : State) (sa aop ty size b c core : Nat) : Nat × State :=
  let ln := deckLine s (locLine (sa / 64))
  let old := lineNat ln (sa % 64) size
  let new := lineSet 0 (sa % 64) size (aopWord aop ty size old b c)
  (old, combine s (locLine (sa / 64)) new (BitVec.ofNat 64 ((2 ^ size - 1) * 2 ^ (sa % 64))) core)

/-- The common course of ATOM, RED and RELEASE: threads' accesses, performed at once in lofts and uncached lines, else by messages in ascending
thread order (R89, R184); then the path goes on. -/
def doAtoms (s : State) (e : Env) (l : List (Nat × Nat × Nat × Bool)) (size aop ty hint : Nat) (kind : OpKind) (mk : MsgKind)
    (opB opC : Nat → Nat) (put : Group → Nat → Nat → Group) (regs : List Nat) : State :=
  let c := e.g.core
  let imm := fun (q : Nat × Nat × Nat × Bool) => isLoft s q.2.2.1 || (q.2.2.2 && isLocal s (q.2.2.1 / 64))
  -- an atomic returns what it reads, so it faults on a bad line (R237)
  let reads := match kind with
    | .atom _ => distinct ((l.filter (fun q => imm q && !isLoft s q.2.2.1)).map (fun q => q.2.2.1 / 64))
    | _ => []
  match uncachedRead (uncSlots s l hint 2) e.ctx reads with
  | (some f, s) => readFault s e l f
  | (none, s) =>
    let (s1, x) := (l.filter imm).foldl (fun (st : State × Group) q =>
      if isLoft s q.2.2.1 then
        let (old, m) := atomAt st.1.mem (locOf q.2.2.1) aop ty size (opB q.1) (opC q.1)
        (winMark { st.1 with mem := m } (locOf q.2.2.1) size, put st.2 q.1 old)
      else
        let (old, s') := atomUncached st.1 q.2.2.1 aop ty size (opB q.1) (opC q.1) c
        (s', put st.2 q.1 old)) (s, e.x)
    let s1 := setGroup s1 e.g x
    let rest := l.filter (fun q => !imm q)
    let s1 := if rest.isEmpty then s1 else
      let id := (getCore s1 c).nextOp
      let s1 := each (distinct (rest.map (fun q => q.2.2.1 / 64))) (fun s line => l1Stale s c line) s1
      let s1 := addOut s1 c { opOf e kind (rest.map (fun q => ⟨q.1, q.2.2.1, size, q.2.1⟩)) with
        regs := regs, far := rest.any (fun q => !isLocal s (q.2.2.1 / 64)) }
      each rest (fun s q =>
        send s { coreMsg c id (q.2.2.1 / 64) mk with
          data := BitVec.ofNat 512 (opB q.1 + 2 ^ 64 * opC q.1), mask := BitVec.ofNat 64 ((2 ^ size - 1) * 2 ^ (q.2.2.1 % 64)),
          op := aop, ty := ty, flags := if q.2.2.2 then 2 else hint, thread := q.1 }) s1
    advance s1 e.g x 8

/-- ATOM and RED as instructions. -/
def atomOp (g : Grp) (i : MForm) (op : Nat) (red : Bool) (s : State) : Out :=
  let size := 2 ^ i.size.toNat
  let w := 8 * size
  let sp1 := i.space = 1
  let insn := insnWord i.pr i.pn 2 op i.d i.a
  let aops := if red then [0, 1, 2, 3, 4, 8, 9, 10] else [0, 1, 2, 3, 4, 5, 6, 7, 8, 9, 10]
  let cas := !red && i.aop = 7
  .next (issue s g i.pr i.pn false 2 op i.d i.a (fun _ => true)
    (fun _ => [⟨16, i.d, if red then .z else wk w⟩, ⟨24, i.a, baseKind i.space⟩, ⟨32, i.b, wk w⟩, ⟨40, i.c, if cas then wk w else .r⟩])
    (fun _ => mChecks i [2, 3] aops (atomTy i.aop.toNat i.ty.toNat size))
    (fun e =>
      if fenceHolds e.p false then s else
        let l := if cas then addrs e sp1 i.a 0xC8 else addrs e sp1 i.a i.c
        let opB := fun t => e.x.opnd e.sc w i.b t
        let opC := fun t => if cas then e.x.opnd e.sc w i.c t else 0
        let put := fun (x : Group) t v => if red then x else loadPut x e.sc size false i.d t (lowest e.ex) v
        match addrFault e sp1 size l with
        | some f => memFault s e insn f
        | none =>
          if sbBlocked s g.core (l.map (fun q => Rng.mk sp1 q.2 (q.2 + size) true)) then s
          else if sp1 then
            let (m, x) := l.foldl (fun (st : List Host.Cell × Group) q =>
              let (old, m) := atomAt st.1 (loftAt g.core + q.2) i.aop.toNat i.ty.toNat size (opB q.1) (opC q.1)
              (m, put st.2 q.1 old)) (s.mem, e.x)
            advance { s with mem := m } g x 8
          else
            match translAll s e .atomic l with
            | .error (some f, _) => memFault s e insn f
            | .error (none, some va) => askWalk s e va .atomic
            | .error _ => s
            | .ok r =>
              if uncHeld s r i.hint.toNat then s else if !red && farCount e.k + (r.filter (fun q => !isLocal s (q.2.2.1 / 64))).length > 256 then s else
                doAtoms s e r size i.aop.toNat i.ty.toNat i.hint.toNat (if red then .red else .atom i.d)
                  (if red then .red else .atom) opB opC put (if red then [] else destRegs e.sc size i.d)))

def execAtom (g : Grp) (i : MForm) (s : State) : Out := atomOp g i 0x280 false s
def execRed (g : Grp) (i : MForm) (s : State) : Out := atomOp g i 0x281 true s

/-! ### Fences -/

/-- Push a PARTIAL line of a die (R202): REDW to the home; the line waits for the acknowledgement. TH_PUSH counts it. -/
def pushPartial (s : State) (die line : Nat) (waiting : List Msg) : State :=
  match getLine s die line with
  | some e =>
    if e.st = .part && (s.coh.busy.get (lkey die line)).isNone then
      let m : Msg := { kind := .redw, req := .guest die (sliceOf line), die := homeDie line, slice := sliceOf line, line := line, id := e.age,
                       data := e.data, mask := e.emask, op := e.op, ty := e.ty }
      let s := bump s .TH_PUSH_COUNT die
      let s := send s m
      { s with coh := { s.coh with busy := s.coh.busy.put (lkey die line) { msg := m, acks := 1, needData := false, waiting := waiting } } }
    else s
  | none => s

/-- PARTIAL lines of a core's die that hold a contribution of the core (R201). -/
def contributed (s : State) (c : Nat) : List Nat :=
  (s.coh.lines.filter (fun e => e.1 / 2 ^ 46 = coreDie c && e.2.st = .part && has e.2.sharers (c % 208))).map (fun e => e.1 % 2 ^ 46)

/-- Whether an outstanding operation holds a release fence of a scope (R160): any load; from DEVICE on what is still to be performed in this
device's memory; at SYSTEM everything. -/
def relHolds (s : State) (scope : Nat) (o : OutOp) : Bool :=
  match o.kind with
  | .load .. => true
  | .prefetch => false
  | .flag _ => false
  | .move .. => false
  | _ => scope = 3 || (scope = 2 && o.parts.any (fun p => isLocal s (p.addr / 64)))

/-- Operations of the core that a release fence of a scope waits for (R160). -/
def relOps (s : State) (k : Core) (scope : Nat) : List Nat := (k.outs.filter (relHolds s scope)).map (·.id)

/-- Loads and atomics of the issuing path (R160): those that any of its threads issued, before a divergence as well. -/
def acqOps (k : Core) (g : Grp) (p : Path) : List Nat :=
  (k.outs.filter (fun o => o.pipe = g.pipe && o.slot = g.slot && o.path &&& p.mask ≠ 0 && (match o.kind with
    | .load .. => true | .atom .. => true | .lock .. => true | _ => false))).map (·.id)

/-- Flush the write-combining entries that a core wrote to (R229). -/
def flushCore (s : State) (c : Nat) : State :=
  each (s.deck.chans.flatMap (fun e => (e.2.wcb.filter (fun w => w.writers.contains c)).map (·.line))) flushWcb s

/-- Start what a release fence of DEVICE or SYSTEM scope sets off: pushes of PARTIAL lines (R202), flushes of write-combining entries that the
core wrote to (R229). Answers the lines pushed. -/
def relStart (s : State) (c scope : Nat) : State × List Nat :=
  if scope < 2 then (s, []) else
    let ls := contributed s c
    let s := each ls (fun s l => pushPartial s (coreDie c) l []) s
    (flushCore s c, ls)

/-- Start a far-epoch advance for a context (R206): overlapping advances of one context are one. Answers whether there is one to wait for. -/
def startAdvance (s : State) (ctx : Nat) : State × Bool :=
  match (getCtx s ctx).bind (·.farTag) with
  | none => (s, false)
  | some t =>
    if s.coh.advances.any (fun a => a.1 = t) then (s, true)
    else ({ s with coh := { s.coh with advances := s.coh.advances ++ [(t, List.range 384)] } }, true)

/-- A fence instruction (R118, R160): it becomes pending on its path, which goes on. -/
def fenceOp (g : Grp) (i : RForm) (op scope : Nat) (acq : Bool) (s : State) : Out :=
  bareOp g i op (fun e =>
    if e.ex = 0 then advance s g e.x 8 else
      let (s, ls) := if acq then (s, []) else relStart s g.core scope
      let (s, adv) := if acq && scope = 3 then startAdvance s e.ctx else (s, false)
      let f : FenceRec := { acquire := acq, scope := scope, ops := if acq then acqOps e.k g e.p else relOps s e.k scope, lines := ls, advance := adv }
      advance s g { e.x with run := some { e.p with fences := e.p.fences ++ [f] } } 8) s

def execFenceCoreRel (g : Grp) (i : RForm) (s : State) : Out := fenceOp g i 0x2C0 1 false s
def execFenceCoreAcq (g : Grp) (i : RForm) (s : State) : Out := fenceOp g i 0x2C1 1 true s
def execFenceDeviceRel (g : Grp) (i : RForm) (s : State) : Out := fenceOp g i 0x2C2 2 false s
def execFenceDeviceAcq (g : Grp) (i : RForm) (s : State) : Out := fenceOp g i 0x2C3 2 true s
def execFenceSystemRel (g : Grp) (i : RForm) (s : State) : Out := fenceOp g i 0x2C4 3 false s
def execFenceSystemAcq (g : Grp) (i : RForm) (s : State) : Out := fenceOp g i 0x2C5 3 true s

/-- Whether what a pending fence waits for at the core has been answered (R160). -/
def fenceQuiet (s : State) (c : Nat) (f : FenceRec) : Bool :=
  (getCore s c).outs.all (fun o => !f.ops.contains o.id || (!f.acquire && !relHolds s f.scope o))

/-- Whether a pending fence of a core retires (R160): nothing it waits for is outstanding, its pushes are acknowledged, its epoch advance is
complete. -/
def fenceDone (s : State) (c : Nat) (f : FenceRec) : Bool :=
  fenceQuiet s c f && !f.advance &&
    f.lines.all (fun l => match s.coh.busy.get (lkey (coreDie c) l) with | some t => t.msg.kind ≠ .redw | none => true)

/-- Whether a release fence must still push lines: REDs that it waited for have gathered since it issued (R160, R202). -/
def fenceLate (s : State) (c : Nat) (f : FenceRec) : Bool :=
  !f.acquire && 2 ≤ f.scope && !f.late && fenceQuiet s c f && !(contributed s c).isEmpty

/-- A group's fences that wait for nothing more retire (R160), those of threads that stand at a reconvergence point too; a release fence first pushes the lines that have gathered a contribution
since. No fence of a context that has faulted retires (R163). -/
def execFenceRetire (g : Grp) (s : State) : Out :=
  .next (match getGroup s g with
    | none => s
    | some x =>
      let fs := (allPaths x).flatMap (·.fences) ++ x.entries.flatMap (·.fences)
      if (getCore s g.core).halted then s else
        let push := fs.any (fenceLate s g.core)
        let (s1, ls) := if push then relStart s g.core 2 else (s, [])
        -- entries that a write which the fence covers has filled since it issued are flushed with it (R229)
        let s1 := if fs.any (fun f => !f.acquire && 2 ≤ f.scope && fenceDone s1 g.core f) then flushCore s1 g.core else s1
        let left := fun (l : List FenceRec) => (l.map (fun r =>
          if fenceLate s g.core r then { r with lines := r.lines ++ ls, late := true } else r)).filter (fun r => !fenceDone s1 g.core r)
        let f := fun (p : Path) => { p with fences := left p.fences }
        setGroup s1 g { x with run := x.run.map f, others := x.others.map f, entries := x.entries.map (fun r => { r with fences := left r.fences }) })

/-! ### Locks -/

/-- Settle a lock attempt whose results are all in (R82, R86): winners go on past the two-word instruction with the threads that did not
execute it; losers retry at it, marked yielding. A winner's SCOPE acts as an acquire (R117). -/
def lockDone (s : State) (g : Grp) (o : OutOp) (rpc : W64) (scope : Nat) (pdest : BitVec 8) : State :=
  match getGroup s g with
  | none => s
  | some x =>
    match (allPaths x).find? (fun p => p.stat = .locking o.id) with
    | none => s
    | some p =>
      let cyc := cycles s (coreHalf g.core)
      let p' := { p with stat := .ready }
      let x := if x.run = some p then { x with run := some p' } else { x with others := x.others.map (fun q => if q = p then p' else q) }
      let (s, adv) := if o.won ≠ 0 && scope = 3 then startAdvance s ((getCore s g.core).ctx.getD 0) else (s, false)
      let fs := if o.won ≠ 0 && scope ≠ 0 then [({ acquire := true, scope := scope, ops := acqOps { getCore s g.core with outs := (getCore s g.core).outs.filter (fun q => q.id ≠ o.id) } g p, advance := adv } : FenceRec)] else []
      if coreType g.core = 3 then
        let x := x.setP (pdest.toNat - 0xC0) 1 o.won
        let x := { x with run := x.run.map (fun q => { q with fences := q.fences ++ fs }) }
        advance s g x 16
      else
        let lost := o.lost &&& p.mask
        let won := p.mask &&& ~~~lost
        if x.run ≠ some p' then setGroup s g x
        else if lost = 0 then advance s g { x with run := some { p' with fences := p'.fences ++ fs } } 16
        else if won = 0 then setGroup s g (giveUp (countIssue x) cyc true)
        else
          let x := { countIssue x with run := some { p' with fences := p'.fences ++ fs } }
          match diverge x rpc [(p.pc, lost, true), (p.pc + 16, won, false)] with
          | none => groupFault (setGroup s g x) g 0x0104 (entriesNeeded x p rpc [(p.pc, lost, true), (p.pc + 16, won, false)]) (some o.insn) none
          | some y =>
            -- the losers' path carries none of the winners' new fences
            let y := { y with others := y.others.map (fun q => if q.yielding && q.mask = lost then { q with fences := p.fences } else q) }
            let (y, f) := regionCheck y false
            finish s g (afterDiverge y cyc, f)

/-- ACQUIRE.Y (R82, R117): compare 0, new value B, at each executing thread's address. -/
def execAcquireY (g : Grp) (i : LForm) (s : State) : Out :=
  let r := i.r
  let size := if r.ty = 12 || r.ty = 13 then 4 else 8
  let w := 8 * size
  let rpcf : BitVec 32 := i.w2.extractLsb' 0 32
  let scope := bits i.w2.toNat 32 2
  let insn := insnWord r.pr r.pn 3 0x282 r.d r.a
  .next (issue s g r.pr r.pn false 3 0x282 r.d r.a (fun _ => true)
    (fun ct => [⟨16, r.d, if ct = 3 then .p1 else .z⟩, ⟨24, r.a, .wr⟩, ⟨32, r.b, if w = 64 then .wr else .rn⟩, ⟨40, r.c, .r⟩])
    (fun ct => (48, isInt r.ty) :: (64, ct = 3 || rpcf ≠ 0) :: (98, i.w2.toNat / 2 ^ 34 = 0) :: plainTail r)
    (fun e =>
      if fenceHolds e.p false then s else
        let l := addrs e false r.a r.c
        match addrFault e false size l with
        | some f => memFault s e insn f
        | none =>
          if sbBlocked s g.core (l.map (fun q => Rng.mk false q.2 (q.2 + size) true)) then s
          else if e.ex = 0 then advance s g e.x 16
          else
            match translAll s e .atomic l with
            | .error (some f, _) => memFault s e insn f
            | .error (none, some va) => askWalk s e va .atomic
            | .error _ => s
            | .ok q =>
              if uncHeld s q 0 || farCount e.k + (q.filter (fun v => !isLocal s (v.2.2.1 / 64))).length > 256 then s else
                let id := e.k.nextOp
                let rpc := e.p.pc + off8 rpcf
                -- of the threads that name one lock word the lowest attempts it; the others fail
                let second := fun (v : Nat × Nat × Nat × Bool) => q.any (fun u => u.2.2.1 = v.2.2.1 && u.1 < v.1)
                let dups := maskOf ((q.filter second).map (·.1))
                let q := q.filter (fun v => !second v)
                -- lofts and uncached words answer at once
                let imm := fun (v : Nat × Nat × Nat × Bool) => isLoft s v.2.2.1 || (v.2.2.2 && isLocal s (v.2.2.1 / 64))
                let opC := fun t => e.x.opnd e.sc w r.b t
                match uncachedRead s e.ctx (distinct ((q.filter (fun v => imm v && !isLoft s v.2.2.1)).map (fun v => v.2.2.1 / 64))) with
                | (some f, s) => readFault s e q f
                | (none, s) =>
                let (s1, won) := (q.filter imm).foldl (fun (st : State × W32) v =>
                  let (old, s') := if isLoft s v.2.2.1 then
                      let (old, m) := atomAt st.1.mem (locOf v.2.2.1) 7 r.ty.toNat size 0 (opC v.1)
                      (old, winMark { st.1 with mem := m } (locOf v.2.2.1) size)
                    else atomUncached st.1 v.2.2.1 7 r.ty.toNat size 0 (opC v.1) g.core
                  (s', if old = 0 then st.2 ||| bit 32 v.1 else st.2)) (s, (0 : W32))
                let immMask := maskOf ((q.filter imm).map (·.1))
                let rest := q.filter (fun v => !imm v)
                let o : OutOp := { opOf e (.lock rpc scope size r.d) (rest.map (fun v => ⟨v.1, v.2.2.1, size, v.2.1⟩)) with
                  id := id, far := rest.any (fun v => !isLocal s (v.2.2.1 / 64)), won := won, lost := (immMask &&& ~~~won) ||| dups }
                let s1 := each (distinct (rest.map (fun v => v.2.2.1 / 64))) (fun s line => l1Stale s g.core line) s1
                let s1 := setGroup s1 g { e.x with run := some { e.p with stat := .locking id } }
                if rest.isEmpty then lockDone s1 g o rpc scope r.d else
                  let s1 := addOut s1 g.core o
                  each rest (fun s v => send s { coreMsg g.core id (v.2.2.1 / 64) .atom with
                    data := BitVec.ofNat 512 (2 ^ 64 * opC v.1), mask := BitVec.ofNat 64 ((2 ^ size - 1) * 2 ^ (v.2.2.1 % 64)),
                    op := 7, ty := r.ty.toNat, thread := v.1 }) s1))

/-- RELEASE (R117): acts as FENCE.scope.REL before its write of 0; it waits at issue until that fence could retire (log 24, DESIGN CHOICE). The write is
performed at the home's atomic unit (R199). -/
def execRelease (g : Grp) (i : MForm) (s : State) : Out :=
  let size := 2 ^ i.size.toNat
  let sp1 := i.space = 1
  let scope := i.aop.toNat % 4
  let insn := insnWord i.pr i.pn 2 0x283 i.d i.a
  .next (issue s g i.pr i.pn false 2 0x283 i.d i.a (fun _ => true)
    (fun _ => [⟨16, i.d, .z⟩, ⟨24, i.a, baseKind i.space⟩, ⟨32, i.b, .z⟩, ⟨40, i.c, .r⟩])
    (fun _ => mChecks i [2, 3] [0, 1, 2, 3] (i.ty = 0))
    (fun e =>
      if fenceHolds e.p false then s else
        let l := addrs e sp1 i.a i.c
        match addrFault e sp1 size l with
        | some f => memFault s e insn f
        | none =>
          if sbBlocked s g.core (l.map (fun q => Rng.mk sp1 q.2 (q.2 + size) true)) then s
          else
            let (s, ls) := if scope = 0 || e.ex = 0 then (s, []) else relStart s g.core scope
            let f : FenceRec := { acquire := false, scope := scope, ops := if scope = 0 then [] else relOps s e.k scope, lines := ls }
            if !fenceDone s g.core f then s
            else if sp1 then
              advance (each l (fun s q => { s with mem := writeNat s.mem (loftAt g.core + q.2) size 0 }) s) g e.x 8
            else
              match translAll s e .atomic l with
              | .error (some f, _) => memFault s e insn f
              | .error (none, some va) => askWalk s e va .atomic
              | .error _ => s
              | .ok r =>
                doAtoms s e r size 6 (if size = 4 then 13 else 15) i.hint.toNat .write .atom (fun _ => 0) (fun _ => 0) (fun x _ _ => x) []))

/-! ### STRIP and PREFETCH -/

/-- Line addresses of [a, a + n). -/
def lineRange (a n : Nat) : List Nat := (List.range (n / 64)).map (fun j => a + 64 * j)

/-- STRIP (R118, R210; SIZE has no use in it, log 151, DEDUCED): one STRIP message per line of each executing thread's range, in ascending order; a zero length does nothing
(R8, R9). A range of the loft (SPACE 1) has no cached lines (log 25, DEDUCED). -/
def execStrip (g : Grp) (i : MForm) (s : State) : Out :=
  let sp1 := i.space = 1
  let insn := insnWord i.pr i.pn 2 0x2E0 i.d i.a
  .next (issue s g i.pr i.pn false 2 0x2E0 i.d i.a (fun _ => true)
    (fun _ => [⟨16, i.d, .z⟩, ⟨24, i.a, baseKind i.space⟩, ⟨32, i.b, .r⟩, ⟨40, i.c, .z⟩])
    (fun _ => mChecks i [0, 1, 2, 3, 4] [0] (i.ty = 0))
    (fun e =>
      if fenceHolds e.p false then s else
        -- a 64-bit register gives a 64-bit length
        let bw := if e.sc || 0x80 ≤ i.b.toNat then 64 else 32
        let l := (threads e.ex).map (fun t => (t, e.x.opnd e.sc (if sp1 then 32 else 64) i.a t, e.x.opnd e.sc bw i.b t))
        let vas := l.flatMap (fun q => (lineRange q.2.1 q.2.2).map (fun a => (q.1, a)))
        let out := if sp1 then none else addrFault e false 1 ((l.filter (fun q => q.2.2 ≠ 0)).map (fun q => (q.1, q.2.1)) ++ vas)
        match out.orElse (fun _ => l.findSome? (fun q => if q.2.2 ≠ 0 && (q.2.1 % 64 ≠ 0 || q.2.2 % 64 ≠ 0) then some (0x0203, 64, q.2.1) else none)) with
        | some f => memFault s e insn f
        | none =>
          if sp1 then advance s g e.x 8 else
            -- a zero length is ordered as its first line would be (R8)
            let held := vas.map (·.2) ++ (l.filter (fun q => q.2.2 = 0)).map (·.2.1)
            if sbBlocked s g.core (held.map (fun a => Rng.mk false a (a + 64) true)) then s else
              match translAll s e .atomic vas with
              | .error (some f, _) => memFault s e insn f
              | .error (none, some va) => askWalk s e va .atomic
              | .error _ => s
              | .ok r =>
                let lines := r.filter (fun q => !isLoft s q.2.2.1 && !(q.2.2.2 && isLocal s (q.2.2.1 / 64)))
                if lines.isEmpty then advance s g e.x 8 else
                  let id := e.k.nextOp
                  let s := each (lines.map (fun q => q.2.2.1 / 64)) (fun s line => l1Stale s g.core line) s
                  let s := addOut s g.core { opOf e .strip (lines.map (fun q => ⟨0, q.2.2.1, 64, q.2.1⟩)) with
                    far := lines.any (fun q => !isLocal s (q.2.2.1 / 64)) }
                  let s := each lines (fun s q => send s { coreMsg g.core id (q.2.2.1 / 64) .strip with op := e.ctx }) s
                  advance s g e.x 8))

/-- PREFETCH (R118): fetches the line of each executing thread's address; it never faults, and a translation that fails drops it. A length
of zero in B fetches nothing (R8); any other fetches the one line (log 151, DEDUCED). -/
def execPrefetch (g : Grp) (i : MForm) (s : State) : Out :=
  let sp1 := i.space = 1
  .next (issue s g i.pr i.pn false 2 0x2E1 i.d i.a (fun _ => true)
    (fun _ => [⟨16, i.d, .z⟩, ⟨24, i.a, baseKind i.space⟩, ⟨32, i.b, .r⟩, ⟨40, i.c, .r⟩])
    (fun _ => mChecks i [0, 1, 2, 3, 4] [0] (i.ty = 0))
    (fun e =>
      if fenceHolds e.p true then s
      else if sp1 then advance s g e.x 8 else
        match getCtx s e.ctx with
        | none => advance s g e.x 8
        | some cx =>
          let bw := if e.sc || 0x80 ≤ i.b.toNat then 64 else 32
          let sas := ((addrs e false i.a i.c).filter (fun q => q.2 / 2 ^ 48 = 0 && e.x.opnd e.sc bw i.b q.1 ≠ 0)).filterMap (fun q =>
            match tlbFind e.k.tlb e.ctx q.2 with
            | some t => if rightsOk t.leaf.toNat .read && !tb t.leaf.toNat 5 then some (leafAddr t.leaf t.log2 q.2) else none
            | none => match walkVa s cx q.2 .read with
              | .leaf v n => if tb v.toNat 5 then none else some (leafAddr v n q.2)
              | _ => none)
          let lines := (distinct (sas.map (· / 64))).filter (fun l => !isLoft s (l * 64) && (e.k.l1.get l).isNone &&
            (!isLocal s l || dieUp s (homeDie l)))
          if lines.isEmpty then advance s g e.x 8 else
            let id := e.k.nextOp
            let s := addOut s g.core { opOf e .prefetch (lines.map (fun l => ⟨0, l * 64, 64, 0⟩)) with install := i.hint ≠ 2 && i.hint ≠ 4 }
            let s := each lines (fun s l => send s { coreMsg g.core id l .gets with flags := if i.hint = 2 then 0 else i.hint.toNat }) s
            advance s g e.x 8))

end Sys2Proof.Machine
end

