-- ==== Sys2Proof/Machine/Waits.lean ====
section
/-! DEFINITION. WAIT and how it ends (R119, R278), the waymark instructions (R120) and the events of the Waymark network at banks and stops
(R277, R278, R339), ramp gates set by a release (R152). A thread's condition, once seen to hold, is not tested again (log 35, DEDUCED). -/

namespace Sys2Proof.Machine

/-! ### Conditions -/

/-- COND of R119, unsigned. -/
def condHolds (cond v b : Nat) : Bool :=
  match cond with | 0 => v = b | 1 => v ≠ b | 2 => v ≥ b | 3 => v > b | 4 => v ≤ b | _ => v < b

/-- Commands of a group on matrix engines that are not complete (R133). -/
def groupCmds (k : Core) (g : Grp) : Nat :=
  (k.engines.map (fun e => (e.2.queue.filter (fun m => m.pipe = g.pipe && m.slot = g.slot)).length)).sum

/-- Set a core's ramp gate: an earlier time never replaces a later one (R152). -/
def setGate (s : State) (c at_ : Nat) : State :=
  let k := getCore s c
  if coreType c ≠ 1 || at_ ≤ k.gate then s else setCore s c { k with gate := at_ }

/-- Replace one of a group's paths. -/
def swapPath (x : Group) (p p' : Path) : Group :=
  if x.run = some p then { x with run := some p' } else { x with others := x.others.map (fun q => if q = p then p' else q) }

/-- The WAIT of a path ends (R119): it goes on past the instruction, with the acquire that ACQ asks for; the waypoint counter runs again. A free pipe goes
to the first runnable path after the one that gave it up (R81). -/
def endWait (s : State) (g : Grp) (x : Group) (p : Path) (w : WaitRec) : State :=
  let cyc := cycles s (coreHalf g.core)
  let (s, adv) := if w.acq = 3 then startAdvance s ((getCore s g.core).ctx.getD 0) else (s, false)
  let fs : List FenceRec := if w.acq = 0 then [] else
    [{ acquire := true, scope := w.acq, ops := acqOps (getCore s g.core) g p, advance := adv }]
  let p' := { p with stat := .ready, pc := p.pc + 8, fences := p.fences ++ fs }
  let x := { swapPath x p p' with wpCyc := cyc }
  let (x, f) := match x.region with
    | some r => if p'.pc = r.stop then leaveRegion x p'.mask else (x, none)
    | none => (x, none)
  let x := parkRun (settle 17 (parkOthers x)) cyc
  finish s g (choose x x.lastLow none, f)

/-- Threads of a wait that a test satisfies leave `left`; when none is left and the release time has come, the WAIT ends. -/
def waitHit (s : State) (g : Grp) (p : Path) (w : WaitRec) (hit : W32) (rel : Nat) : State :=
  match getGroup s g with
  | none => s
  | some x =>
    if hit &&& w.left = 0 then s else
      let w := { w with left := w.left &&& ~~~hit, notBefore := max w.notBefore rel }
      let p' := { p with stat := .waiting w }
      let x := swapPath x p p'
      if w.left ≠ 0 then setGroup s g x else
        -- a waymark release sets the core's ramp gate where AUTO is 1 (R152)
        let h := coreHalf g.core
        let s := if w.kind = 0 && w.notBefore ≠ 0 && coreType g.core = 1 && flag s .MX_RAMP_CTRL_AUTO h then
            setGate s g.core (w.notBefore + rampLane s g.core * rd s .MX_RAMP_CTRL_SPACING h * 10) else s
        if w.notBefore ≤ s.time.mst then endWait s g x p' w else setGroup s g x

/-- The waiting paths of a group. -/
def waiting (x : Group) : List (Path × WaitRec) := (allPaths x).filterMap (fun p => match p.stat with | .waiting w => some (p, w) | _ => none)

/-- Apply a test to each waiting path of a group: the threads whose condition it satisfies, and the release time. -/
def testWaits (s : State) (g : Grp) (f : State → WaitRec → W32 × Nat) : State :=
  match getGroup s g with
  | none => s
  | some x => each (waiting x) (fun s pw => let (m, r) := f s pw.2; waitHit s g pw.1 pw.2 m r) s

/-- Threads of a wait's targets that satisfy a test of (target, comparand). -/
def hits (w : WaitRec) (f : Nat → Nat → Bool) : W32 := maskOf ((w.target.filter (fun t => f t.2.1.toNat t.2.2.toNat)).map (·.1))

/-- Test the waits on a group's own state: the signal word, the commands outstanding, MST (R119). -/
def retest (s : State) (g : Grp) : State :=
  testWaits s g (fun s w =>
    match w.kind with
    | 3 => (hits w (fun _ b => condHolds w.cond (((getGroup s g).map (fun x => x.signal.toNat)).getD 0) b), 0)
    | 4 => (hits w (fun _ b => condHolds w.cond (groupCmds (getCore s g.core) g) b), 0)
    | 5 => (hits w (fun _ b => condHolds w.cond s.time.mst b), 0)
    | _ => (0, 0))

/-- The groups of a core. -/
def coreGroups (s : State) (c : Nat) : List Grp := (getCore s c).groups.keys.map (fun k => { core := c, pipe := k / 16, slot := k % 16 })

/-- The state of a waymark reaches a stop: it is tested against every WAIT there, also one that found the wait unit full (R278; log 177, DESIGN CHOICE). -/
def wmAtStop (s : State) (c wm : Nat) (count : W32) (rel : W64) : State :=
  each (coreGroups s c) (fun s g => testWaits s g (fun _ w =>
    if w.kind = 0 then (hits w (fun t b => t = wm && condHolds w.cond count.toNat b), rel.toNat) else (0, 0))) s

/-! ### WAIT -/

/-- The waymark that an index names in a context's window (R120). -/
def wmIndex (x : Ctx) (i : Nat) : Nat := (x.wmBase + i % 2 ^ x.wmLog2) % 4096

/-- Entries of a stop's wait unit in use (R278). -/
def waitUnits (k : Core) : Nat :=
  (k.groups.map (fun e => ((waiting e.2).filter (fun w => w.2.kind = 0 && w.2.inUnit)).length)).sum

/-- Send READ for the waymarks that a wait still looks at (R278). -/
def sendReads (s : State) (c : Nat) (w : WaitRec) : State :=
  let wms := distinct ((w.target.filter (fun t => has w.left t.1)).map (fun t => t.2.1.toNat))
  each wms (fun s m => sendWm s { kind := .read, wm := m, half := coreHalf c, core := c }) s

/-- The value of a flag in this device's memory as a core reads it (R119): from its L1, else at its home's order. -/
def flagVal (s : State) (c sa size : Nat) : Nat :=
  if isLoft s sa then readNat s.mem (locOf sa) size else
    match (getCore s c).l1.get (sa / 64) with
    | some l => lineNat l (sa % 64) size
    | none => orderNat s sa size

/-- Whether the core's own accesses let it read a flag now (R157): none of its writes, atomics or REDs of the line is outstanding, but where its L1 has
taken the write; nor does a PARTIAL line of its die hold contributions, which a read pushes first (R202). -/
def flagReady (s : State) (c sa : Nat) : Bool :=
  isLoft s sa || ((getCore s c).l1.get (sa / 64)).isSome ||
    ((getCore s c).outs.all (fun o => match o.kind with
      | .load .. => true | .prefetch => true | .flag _ => true
      | _ => o.parts.all (fun p => p.addr / 64 ≠ sa / 64)) &&
     ((getLine s (coreDie c) (sa / 64)).map (fun e => decide (e.st ≠ .part))).getD true)

/-- What reading a flag meets (R98, R212, R237, R267), with the counts and records: a window of a core that is not live, an uncorrectable line, one under the
reader's own strip mark; the fault's code and DETAIL, and the address it names. -/
def flagStop (s : State) (c ctx sa : Nat) : Option (Nat × Nat × Nat) × State :=
  let line := sa / 64
  if isLoft s sa then (if coreLive s ((locOf sa - loftBase) / loftStride) then none else some (0x0206, 0, sa), s)
  else
    let r := if ((getCore s c).l1.get line).isSome then (false, s) else orderRead s line
    let mine : Bool := getMark s (locLine line) = some (.strip ctx)
    (if r.1 then some (0x0207, errIndex r.2 (locLine line), sa) else if mine then some (0x0205, 0, sa) else none, r.2)

/-- The first of several flags that stops a wait. -/
def flagTrouble (s : State) (c ctx : Nat) (sas : List Nat) : Option (Nat × Nat × Nat) × State :=
  sas.foldl (fun (st : Option (Nat × Nat × Nat) × State) sa => ((st.1.orElse (fun _ => (flagStop st.2 c ctx sa).1)), (flagStop st.2 c ctx sa).2)) (none, s)

/-- Read the flags of a wait (R119): those of this device are tested at once; for those of another an uncached remote read is sent. -/
def readFlags (s : State) (g : Grp) (low : Nat) (w : WaitRec) : State :=
  let size := if w.kind = 1 then 4 else 8
  let look := w.target.filter (fun t => has w.left t.1)
  let here := look.filter (fun t => devOf t.2.1.toNat = myDev s)
  -- a PARTIAL line is pushed first, and read another time
  let s := each (here.map (fun t => t.2.1.toNat / 64)) (fun s n => if flagReady s g.core (n * 64) then s else pushPartial s (coreDie g.core) n []) s
  let loc := here.filter (fun t => flagReady s g.core t.2.1.toNat)
  let owner := (getGroup s g).bind (fun x => (waiting x).find? (fun pw => lowest pw.1.mask = low))
  let (stop, s) := flagTrouble s g.core ((getCore s g.core).ctx.getD 0) (loc.map (·.2.1.toNat))
  match stop, owner with
  | some (code, det, a), some (p, _) => pathFault s g code det none (some a) p.mask p.pc
  | _, _ =>
  let rem := look.filter (fun t => devOf t.2.1.toNat ≠ myDev s)
  let m := maskOf ((loc.filter (fun t => condHolds w.cond (flagVal s g.core t.2.1.toNat size) t.2.2.toNat)).map (·.1))
  -- a fill of such a line that is under way may be older than what has been read (R158)
  let s := each (loc.map (fun t => t.2.1.toNat / 64)) (fun s line => setCore s g.core (staleFills (getCore s g.core) line)) s
  let k := getCore s g.core
  let (path, pc) := match owner with | some (p, _) => (p.mask, p.pc) | none => (0, 0)
  let asked := k.outs.any (fun o => o.pipe = g.pipe && o.slot = g.slot && o.pathLow = low && (match o.kind with | .flag _ => true | _ => false))
  let s := if rem.isEmpty || asked then s else
    let id := k.nextOp
    let s := addOut s g.core { id := id, pipe := g.pipe, slot := g.slot, pathLow := low, path := path, pc := pc, kind := .flag size,
                               parts := rem.map (fun t => ⟨t.1, t.2.1.toNat, size, 0⟩), far := true, install := false }
    each (distinct (rem.map (fun t => t.2.1.toNat / 64))) (fun s line => send s { coreMsg g.core id line .gets with flags := 2 }) s
  match getGroup s g with
  | some x =>
    match (waiting x).find? (fun pw => lowest pw.1.mask = low) with
    | some (p, w) => waitHit s g p w m 0
    | none => s
  | none => s

/-- A running path that is blocked gives up the pipe (R81). -/
def blockRun (s : State) (g : Grp) : State :=
  match getGroup s g with
  | none => s
  | some x => if x.run.any (fun p => !p.runnable) then setGroup s g (giveUp x (cycles s (coreHalf g.core)) false) else s

/-- WAIT (R119): it is a waypoint; it blocks the path until its condition has held for every executing thread. -/
def execWait (g : Grp) (i : RForm) (s : State) : Out :=
  let kind := i.d.toNat % 16
  let cond := i.d.toNat / 16
  let acq := i.c.toNat % 4
  let isFlag := kind = 1 || kind = 2
  let bw := if kind = 2 || kind = 5 then 64 else 32
  .next (issue s g i.pr i.pn false 0 0x188 i.d i.a (fun _ => true)
    (fun _ => [⟨24, i.a, if kind = 0 then .r else if isFlag then .wr else .z⟩, ⟨32, i.b, if bw = 64 then .w else .r⟩])
    (fun ct => [(16, kind ≤ 5 && (kind ≠ 3 || ct = 3) && (kind ≠ 4 || ct = 1)), (20, cond ≤ 5 && (kind ≠ 4 || cond = 4) && (kind ≠ 5 || cond = 2)),
      (42, i.c.toNat < 4 && i.ty = 0 && i.rm = 0 && !i.sat && i.sub = 0)])
    (fun e =>
      if isFlag && fenceHolds e.p true then s else
        let s := atWaypoint s g
        let x := (getGroup s g).getD e.x
        let size := if kind = 1 then 4 else 8
        let insn := insnWord i.pr i.pn 0 0x188 i.d i.a
        let l := (threads e.ex).map (fun t => (t, e.x.opnd e.sc (if isFlag then 64 else 32) i.a t))
        let cx := (getCtx s e.ctx).getD {}
        let fault := if isFlag then addrFault e false size l else none
        match fault with
        | some f => memFault s e insn f
        | none =>
          match (if isFlag then translAll s e .read l else .ok (l.map (fun q => (q.1, q.2, wmIndex cx q.2, false)))) with
          | .error (some f, _) => memFault s e insn f
          | .error (none, some va) => askWalk s e va .read
          | .error _ => s
          | .ok r =>
            if e.ex = 0 then advance s g x 8 else
              let w : WaitRec := { kind := kind, cond := cond, acq := acq, left := e.ex, lastRead := s.now, inUnit := waitUnits e.k < 64,
                                   target := r.map (fun q => (q.1, BitVec.ofNat 64 q.2.2.1, BitVec.ofNat 64 (e.x.opnd e.sc bw i.b q.1))) }
              let s := setGroup s g { countIssue x with run := some { e.p with stat := .waiting w } }
              -- what this core and device can tell at once is tested first; a path still blocked gives up the pipe (R81)
              let s := if kind = 0 then sendReads s g.core w else if isFlag then readFlags s g (lowest e.p.mask) w else retest s g
              blockRun s g))

/-- A pending WAIT of the path of a thread. -/
def waitOf (s : State) (g : Grp) (thread : Nat) : Option (Path × WaitRec) :=
  (getGroup s g).bind (fun x => (waiting x).find? (fun pw => has pw.1.mask thread))

/-- Note the time of a read. -/
def stampWait (s : State) (g : Grp) (p : Path) (w : WaitRec) : State :=
  match getGroup s g with
  | some x => setGroup s g (swapPath x p { p with stat := .waiting { w with lastRead := s.now } })
  | none => s

/-- The re-read of a waiting flag (R119): a local flag when its line leaves L1 and at least every 64 cycles, so at any instant here; one of
another device every 1 µs. -/
def execFlagReread (g : Grp) (thread : Nat) (s : State) : Out :=
  .next (match waitOf s g thread with
    | some (p, w) =>
      if (w.kind = 1 || w.kind = 2) && w.left ≠ 0 then
        let anyLocal := w.target.any (fun t => has w.left t.1 && devOf t.2.1.toNat = myDev s)
        if anyLocal || w.lastRead + 1000 ≤ s.now then readFlags (stampWait s g p w) g (lowest p.mask) w else s
      else s
    | none => s)

/-- The wait unit sends READ again, every 16 µs, or every 1 µs for a WAIT that found the unit full (R278). -/
def execWaitReread (g : Grp) (thread : Nat) (s : State) : Out :=
  .next (match waitOf s g thread with
    | some (p, w) =>
      if w.kind = 0 && w.left ≠ 0 && w.lastRead + (if w.inUnit then 16000 else 1000) ≤ s.now then
        sendReads (stampWait s g p w) g.core w
      else s
    | none => s)

/-- MST reaches what a WAIT waits for: the comparand of KIND MST, or the RELEASE_MST of a satisfied waymark (R119). -/
def execWaitMstReached (g : Grp) (thread : Nat) (s : State) : Out :=
  .next (match waitOf s g thread with
    | some (p, w) =>
      if w.left = 0 then
        if w.notBefore ≤ s.time.mst then (match getGroup s g with | some x => endWait s g x p w | none => s) else s
      else if w.kind = 5 then retest s g else s
    | none => s)

/-! ### Waymark instructions (R120) -/

/-- The payload slot of a WM_ADD (log 168, DESIGN CHOICE): index, increment, lead in ns. -/
def wmAddBody (index inc lead : Nat) : Nat := index % 2 ^ 32 + inc % 2 ^ 32 * 2 ^ 32 + lead % 2 ^ 32 * 2 ^ 64

/-- A REMOTE add as a message (R302, R339): convoy, waymark index, increment and lead. -/
def wmAddMsg (s : State) (dev convoy index inc lead : Nat) : LMsg :=
  { op := 0x60, dest := dev, src := myDev s, param := convoy, data := BitVec.ofNat 512 (wmAddBody index inc lead) }

/-- WM.ADD (R120): the operands of the lowest executing thread. An increment of zero changes nothing (R8). A REMOTE add of a context without
CONVOY_EN is a reserved encoding (R339); one whose route is not valid is lost (log 36, DEDUCED). -/
def execWmAdd (g : Grp) (i : RForm) (s : State) : Out :=
  let remote := has i.sub 0
  .next (issue s g i.pr i.pn false 0 0x300 i.d i.a (fun _ => true)
    (fun _ => [⟨16, i.d, if remote then .r else .z⟩, ⟨24, i.a, .r⟩, ⟨32, i.b, .r⟩, ⟨40, i.c, .r⟩])
    -- a REMOTE one needs a context with CONVOY_EN (R339)
    (fun _ => [(48, i.ty = 0), (52, i.rm = 0), (55, !i.sat),
               (56, !remote || (((getCore s g.core).ctx.bind (getCtx s)).map (·.convoyEn)).getD false), (57, i.sub.toNat ≤ 1)])
    (fun e =>
      if fenceHolds e.p false then s
      else if e.ex = 0 then advance s g e.x 8
      else
        let t := lowest e.ex
        let v := fun c => e.x.opnd e.sc 32 c t
        let cx := (getCtx s e.ctx).getD {}
        let inc := v i.b
        let s := if inc = 0 then s
          else if remote then (linkSend s (wmAddMsg s (v i.d % 4096) cx.convoy (v i.a) inc (v i.c))).2
          else sendWm s { kind := .add, wm := wmIndex cx (v i.a), half := coreHalf g.core, core := g.core, count := BitVec.ofNat 32 inc, lead := v i.c }
        advance s g e.x 8))

/-- WM.SET (R120). -/
def execWmSet (g : Grp) (i : RForm) (s : State) : Out :=
  .next (issue s g i.pr i.pn false 0 0x301 i.d i.a (fun _ => true)
    (fun _ => [⟨16, i.d, .z⟩, ⟨24, i.a, .r⟩, ⟨32, i.b, .r⟩, ⟨40, i.c, .z⟩]) (fun _ => (48, i.ty = 0) :: plainTail i)
    (fun e =>
      if fenceHolds e.p false then s
      else if e.ex = 0 then advance s g e.x 8
      else
        let t := lowest e.ex
        let cx := (getCtx s e.ctx).getD {}
        let s := sendWm s { kind := .set, wm := wmIndex cx (e.x.opnd e.sc 32 i.a t), half := coreHalf g.core, core := g.core,
                            count := BitVec.ofNat 32 (e.x.opnd e.sc 32 i.b t) }
        advance s g e.x 8))

/-- WM.READ (R120, R278): one READ; its VALUE writes D for every executing thread. -/
def execWmRead (g : Grp) (i : RForm) (s : State) : Out :=
  .next (issue s g i.pr i.pn false 0 0x302 i.d i.a (fun _ => true)
    (fun _ => [⟨16, i.d, .r⟩, ⟨24, i.a, .r⟩, ⟨32, i.b, .z⟩, ⟨40, i.c, .z⟩]) (fun _ => (48, i.ty = 0) :: plainTail i)
    (fun e =>
      if fenceHolds e.p false then s
      else if e.ex = 0 then advance s g e.x 8
      else
        let cx := (getCtx s e.ctx).getD {}
        let wm := wmIndex cx (e.x.opnd e.sc 32 i.a (lowest e.ex))
        let id := e.k.nextOp + 1
        let s := setCore s g.core { getCore s g.core with nextOp := id }
        let s := { s with wm := { s.wm with reads := s.wm.reads ++ [{ id := id, core := g.core, key := gkey g, d := i.d, mask := e.ex, wm := wm }] } }
        advance (sendWm s { kind := .read, wm := wm, half := coreHalf g.core, core := g.core, lead := id }) g e.x 8))

/-! ### Banks and stops -/

/-- A waymark changed: UPDATE to each half in its watch mask (R278). -/
def notifyWm (s : State) (w : Nat) : State :=
  let x := getWm s w
  each ((List.range 8).filter (fun h => has x.watch h)) (fun s h =>
    sendWm s { kind := .update, wm := w, half := h, count := x.count, rel := x.rel }) s

/-- An ADD as the bank applies it (R278): the lead counts from the bank's MST; an absolute time comes from the MC. -/
def wmApplyAdd (s : State) (e : WmEvent) : State :=
  let x := getWm s e.wm
  let t := match e.abs with
    | some a => a.toNat
    | none => if e.lead ≠ 0 then mstNow s + e.lead else 0
  notifyWm (setWm s e.wm { x with count := x.count + e.count, rel := if t > x.rel.toNat then BitVec.ofNat 64 t else x.rel }) e.wm

/-- ADD crosses a boundary, or reaches its bank (R278). -/
def execAdd (e : WmEvent) (s : State) : Out :=
  .next (if e.kind ≠ .add then s else match takeWm s e with | none => crossWm s e | some s => wmApplyAdd s e)

/-- SET crosses a boundary, or reaches its bank: the UPDATE for it goes out before the watch mask clears (R278). -/
def execSet (e : WmEvent) (s : State) : Out :=
  .next (if e.kind ≠ .set then s else
    match takeWm s e with
    | none => crossWm s e
    | some s =>
      let x := getWm s e.wm
      let s := notifyWm (setWm s e.wm { x with count := e.count, rel := 0 }) e.wm
      setWm s e.wm { getWm s e.wm with watch := 0 })

/-- READ crosses a boundary, or reaches its bank: VALUE goes back and the half is watched (R278). -/
def execRead (e : WmEvent) (s : State) : Out :=
  .next (if e.kind ≠ .read then s else
    match takeWm s e with
    | none => crossWm s e
    | some s =>
      let x := getWm s e.wm
      let s := setWm s e.wm { x with watch := x.watch ||| bit 8 e.half }
      sendWm s { kind := .value, wm := e.wm, half := e.half, core := e.core, count := x.count, rel := x.rel, lead := e.lead })

/-- A stop whose core is fenced discards VALUE and UPDATE (R267). -/
def stopListens (s : State) (c : Nat) : Bool := coreLive s c && !(getCore s c).gated

/-- VALUE crosses a boundary, or reaches the stop that asked: a WM.READ takes COUNT, a WAIT tests it (R278). -/
def execValue (e : WmEvent) (s : State) : Out :=
  .next (if e.kind ≠ .value then s else
    match takeWm s e with
    | none => crossWm s e
    | some s =>
      if !stopListens s e.core then s else
        match s.wm.reads.find? (fun r => r.id = e.lead && r.core = e.core && r.wm = e.wm) with
        | some r =>
          let s := { s with wm := { s.wm with reads := s.wm.reads.erase r } }
          let g : Grp := { core := r.core, pipe := r.key / 16, slot := r.key % 16 }
          (match getGroup s g with
           | some x => setGroup s g (x.putRes (coreType r.core = 3) 32 false r.d r.mask (fun _ => e.count.toNat))
           | none => s)
        | none => wmAtStop s e.core e.wm e.count e.rel)

/-- UPDATE crosses a boundary, or reaches its half: every stop of it tests the waymark's state (R278). -/
def execUpdate (e : WmEvent) (s : State) : Out :=
  .next (if e.kind ≠ .update then s else
    match takeWm s e with
    | none => crossWm s e
    | some s =>
      each ((s.cores.keys.filter (fun c => coreHalf c = e.half && stopListens s c))) (fun s c => wmAtStop s c e.wm e.count e.rel) s)

/-- The gates that a GATE event sets (R47, R152): the lane is taken modulo the action's lane count. -/
def applyGate (s : State) (v : GateEv) : State :=
  each ((List.range 832).filter (fun c => coreType c = 1 && has v.halves (coreHalf c) && coreLive s c && (v.owner = 0 || inCores s v.owner c))) (fun s c =>
    let m := coreLocal c
    let lane := (rd s .MX_RAMP_MAP_LANES (coreHalf c * 4 + m / 16) / 2 ^ (4 * (m % 16)) % 16) % v.lanes
    setGate s c (v.mst + lane * v.spacing)) s

/-- GATE reaches the M-core stops of the named halves (R277): gate MST, spacing in ns, lane count. -/
def execGate (halves : BitVec 8) (mst spacing lanes : Nat) (s : State) : Out :=
  .next (match s.wm.gates.find? (fun v => v.halves = halves && v.mst = mst && v.spacing = spacing && v.lanes = lanes) with
    | some v => applyGate { s with wm := { s.wm with gates := s.wm.gates.erase v } } v
    | none => s)

/-- A WM_ADD of another device arrives at a port (R302, R339): the convoy's table entry says where it applies. -/
def execLinkWmAdd (port convoy index : Nat) (count : W32) (lead : Nat) (s : State) : Out :=
  .next (
    let c := convoy % 256
    match takeIn s port (fun m => m.op = 0x60 && m.param = convoy && m.data.toNat = wmAddBody index count.toNat lead) with
    | none => s
    | some (m, s) =>
    let s := freeSlots s port m
    if flag s .TP_CONVOY_DATA_VALID c then
      let wm := (rd s .TP_CONVOY_DATA_BASE c + index % 2 ^ rd s .TP_CONVOY_DATA_LOG2 c) % 4096
      if count = 0 then s else sendWm s { kind := .add, wm := wm, half := 8, core := port + 1, count := count, lead := lead }
    else bumpSat s .TP_CONVOY_DATA_DISCARDS c)

end Sys2Proof.Machine
end

