-- ==== Sys2Proof/Machine/PowerCtl.lean ====
section
/-! DEFINITION. Power control's shared operations (R405-R413, R416, R417, R420): bounds and transitions of a die's code, ratios, budgets, peak
windows, what a shed does to clocks and gates. Log 77, DESIGN CHOICE (open roundings), 78 (averages over the samples there are), 79 (CAP or CURRENT, and how long
a cause stands), 80 (the current bound after a shed). -/

namespace Sys2Proof.Machine

/-! ### Limits (R409, R410) -/

/-- A shed holds, or an entry to Hold holds the load at the shed level (R437 step 1). -/
def shedding (s : State) : Bool := flag s .KB_STATUS_SHED || s.boot.hold = .entering

/-- P_LIM in W (R397, R409). -/
def pLimit (s : State) : Nat :=
  let cap := rd s .FR_STATUS_CAP_PM * 9
  if shedding s then min cap (rd s .KB_CTRL_LEVEL * 90) else cap

/-- B of a half before the MC scales it: I_CONT, or 1,600 A in a peak window (R410, R416). -/
def baseB (s : State) (h : Nat) : Nat := if flag s .PW_HALF_STATUS_PEAK h then 1600 else rd s .PW_LIMIT_I_CONT

/-- The budget in force for a half. -/
def powBudget (s : State) (h : Nat) : Nat := s.pow.budget.getD h (baseB s h)

/-- Sum and number of the newest `n` current samples of a half (log 78, DEDUCED). -/
def currentSum (s : State) (h n : Nat) : Nat × Nat :=
  let l := (s.pow.samples.getD h []).take n
  (l.sum, l.length)

/-- I_1MS above `num/den` of B, exactly. -/
def i1msAbove (s : State) (h num den : Nat) : Bool :=
  let (a, n) := currentSum s h 1000
  a * den > powBudget s h * n * num

/-! ### The code of a die (R405-R408) -/

/-- Whether the device is in Trim. -/
def inTrim (s : State) : Bool := rd s .PS_STATUS_STATE = 2

/-- The least of a die's own ceilings: thermal, ageing, current, Trim (R407). -/
def ownCeil (s : State) (d : Nat) : Nat :=
  let l := [rd s .PW_DIE_STATUS_THERM_CEIL d, rd s .PW_DIE_STATUS_AGE_CEIL d, ((s.pow.cur.get d).map (·.1)).getD 56] ++
    (if inTrim s then [rd s .PW_DIE_CTRL_TRIM_CEIL d] else [])
  l.foldl min 56

/-- The least of a die's bounds other than the requested code and the grant rule (R407). -/
def ceilOf (s : State) (d : Nat) : Nat := min (ownCeil s d) (rd s .PW_DIE_STATUS_PACE_CEIL d)

/-- The least of all bounds (R407). -/
def boundOf (s : State) (d : Nat) : Nat := min (rd s .PW_DIE_CTRL_REQ_CODE d) (ceilOf s d)

/-- The least of the bounds with the grant rule: a code above 42 only as far as it has been granted (R408). -/
def allowedOf (s : State) (d : Nat) : Nat :=
  let b := boundOf s d
  if b > 42 then min b (max 42 (s.pow.target.getD d (rd s .PW_DIE_STATUS_CODE d))) else b

/-- Give a die its applied code; GRANT_HI follows (R408). -/
def putCode (s : State) (d c : Nat) : State := setFlag (wr s .PW_DIE_STATUS_CODE d c) .PW_DIE_STATUS_GRANT_HI d (c > 42)

/-- A lowering transition: the clock moves at once (R406). -/
def lowerTo (s : State) (d c : Nat) : State :=
  let s := wr (putCode s d c) .PW_DIE_STATUS_TRANSITION d 1
  { s with pow := { s.pow with target := s.pow.target.put d c } }

/-- A raising transition: the voltage first; during another transition it waits (R406). -/
def raiseTo (s : State) (d c : Nat) : State :=
  if flag s .PW_DIE_STATUS_TRANSITION d then
    if s.pow.wantReq.contains d then s else { s with pow := { s.pow with wantReq := s.pow.wantReq ++ [d] } }
  else
    let s := wr s .PW_DIE_STATUS_TRANSITION d 1
    { s with pow := { s.pow with target := s.pow.target.put d c } }

/-- Keep a die at or below its bounds: a lower code at once, a raise in progress retargeted (R406, R407). -/
def settleDie (s : State) (d : Nat) : State :=
  let b := allowedOf s d
  let c := rd s .PW_DIE_STATUS_CODE d
  if c > b then lowerTo s d b
  else if s.pow.target.getD d c > b then { s with pow := { s.pow with target := s.pow.target.put d b } }
  else s

/-- A change of REQ_CODE by the manager or an APPLY_VF, and the wake: one transition to what the bounds allow (R406, R417). -/
def requestCode (s : State) (d : Nat) : State :=
  let s := settleDie s d
  let b := allowedOf s d
  if b > s.pow.target.getD d (rd s .PW_DIE_STATUS_CODE d) then raiseTo s d b else s

/-! ### Causes (R420) -/

/-- The clock of a half, as a fraction of MHz. -/
def halfSlow (s : State) (h : Nat) : Bool :=
  let d := h / 2
  codeMhz (rd s .PW_DIE_STATUS_CODE d) * (rd s .PW_HALF_CTRL_REQ_RATIO h + 1) < codeMhz (rd s .PW_DIE_CTRL_REQ_CODE d) * (rd s .PW_HALF_STATUS_RATIO h + 1)

/-- The CAUSE bit of a limit on current or input power (log 79, DEDUCED): CAP under a cap below 1,000, else CURRENT. -/
def limitBit (s : State) : Nat := if rd s .FR_STATUS_CAP_PM < 1000 then 2 else 1

/-- The causes that hold a die now. -/
def activeCauses (s : State) (d : Nat) : Nat :=
  let req := rd s .PW_DIE_CTRL_REQ_CODE d
  let code := rd s .PW_DIE_STATUS_CODE d
  let hs := [2 * d, 2 * d + 1]
  (if hs.any (fun h => s.pow.raised.get h = some .limit) then limitBit s else 0) |||
  (match s.pow.cur.get d with | some (b, bit) => if b < req then bit else 0 | none => 0) |||
  (if 42 ≤ code && code < req && code < ceilOf s d then 1 else 0) |||
  (if shedding s || hs.any (fun h => s.pow.raised.get h = some .shed) then 4 else 0) |||
  (if rd s .PW_DIE_STATUS_THERM_CEIL d < req then 8 else 0) |||
  (if rd s .PW_DIE_STATUS_AGE_CEIL d < req then 16 else 0) |||
  (if inTrim s && rd s .PW_DIE_CTRL_TRIM_CEIL d < req then 32 else 0)

/-- CAUSE of a die: what holds some half below what was requested; on the way back the cause stands until the bounds are reached (log 79, DEDUCED). -/
def causeOf (s : State) (d : Nat) : Nat :=
  if !(halfSlow s (2 * d) || halfSlow s (2 * d + 1)) then 0 else
    let a := activeCauses s d
    let back := rd s .PW_DIE_STATUS_CODE d < boundOf s d || [2 * d, 2 * d + 1].any (fun h => s.pow.raised.get h = some .back)
    if back then a ||| rd s .PW_DIE_STATUS_CAUSE d else a

/-- Status that follows from the rest: CAUSE, THROTTLED, PACED, PEAK_OPEN. -/
def syncPow (s : State) : State :=
  let s := each (List.range 4) (fun s d => wr s .PW_DIE_STATUS_CAUSE d (causeOf s d)) s
  let s := setFlag s .PW_CONVOY_STATUS_THROTTLED 0 ((List.range 4).any (fun d => rd s .PW_DIE_STATUS_CAUSE d ≠ 0))
  let s := setFlag s .PW_CONVOY_STATUS_PACED 0 ((List.range 4).any (fun d => rd s .PW_DIE_STATUS_PACE_CEIL d < 56 || s.pow.paceN.getD d 0 ≠ 0))
  setFlag s .PW_INPUT_PEAK_OPEN 0 ((List.range 8).any (fun h => flag s .PW_HALF_STATUS_PEAK h))

/-! ### Ratios (R411, R272) -/

/-- The n − 1 that a half is to return to: the requested one, or what pacing asks for (R422). -/
def wantedN (s : State) (h : Nat) : Nat := max (rd s .PW_HALF_CTRL_REQ_RATIO h) (s.pow.paceN.getD (h / 2) 0)

/-- Give a half a ratio; the ridge shows it. -/
def setRatio (s : State) (h n1 : Nat) (why : Option Raised) : State :=
  let s := wr s .PW_HALF_STATUS_RATIO h n1
  let s := wr s (if h % 2 = 0 then .NET_RIDGE_RATIO_W else .NET_RIDGE_RATIO_E) (h / 2) n1
  let raised := match why with | some r => s.pow.raised.put h r | none => s.pow.raised.del h
  { s with pow := { s.pow with ratioAt := s.pow.ratioAt.put h s.now, raised := raised } }

/-- One fast step (R411): n rises by one, at most once per 10 µs, to 16 at most. -/
def fastStep (s : State) (h : Nat) : State :=
  let n1 := rd s .PW_HALF_STATUS_RATIO h
  let soon := match s.pow.upAt.get h with | some t => s.now < t + 10000 | none => false
  if soon || n1 ≥ 15 then s else
    let s := setRatio s h (n1 + 1) (some (if shedding s then .shed else .limit))
    { s with pow := { s.pow with upAt := s.pow.upAt.put h s.now } }

/-! ### Peak windows (R416) -/

/-- Close a half's window; with the last one the device enters peak recovery, and every B is I_CONT. -/
def closePeak (s : State) (h : Nat) : State :=
  if !flag s .PW_HALF_STATUS_PEAK h then s else
    let s := wr s .PW_HALF_STATUS_PEAK h 0
    let s := { s with pow := { s.pow with budget := s.pow.budget.del h } }
    if (List.range 8).any (fun g => flag s .PW_HALF_STATUS_PEAK g) then s
    else wr0 { s with pow := { s.pow with peakSince := none, recovery := some s.now, budget := [] } } .PW_INPUT_RECOVERY 1

/-- Bring P_LIM up to date: a fall closes the windows and lowers every B by the same ratio (R410, R416, R427). -/
def syncLimit (s : State) : State :=
  let new := pLimit s
  let old := rd s .PW_INPUT_P_LIM
  let s := wr0 s .PW_INPUT_P_LIM new
  if new < old then
    let s := each (List.range 8) closePeak s
    { s with pow := { s.pow with budget := (List.range 8).foldl (fun m h => m.put h (divOpen (powBudget s h * new) old)) s.pow.budget } }
  else s

/-! ### Sheds (R390, R392, R413, R417) -/

/-- Every engine of a die's cores is cold (R151). -/
def coldDie (s : State) (die : Nat) : State :=
  { s with cores := s.cores.map (fun e => if coreDie e.1 = die then (e.1, { e.2 with engines := e.2.engines.mapV (fun _ x => { x with warm := false }) }) else e) }

/-- A shed begins: every n is 16, every code goes to 0, the windows close, matrix issue stops (R413, R154). -/
def powShedBegin (s : State) : State :=
  let s := each (List.range 8) (fun s h => setRatio s h 15 (some .shed)) s
  let s := { s with pow := { s.pow with upAt := (List.range 8).foldl (fun m h => m.put h s.now) s.pow.upAt } }
  let s := each (List.range 4) (fun s d => settleDie { s with pow := { s.pow with cur := s.pow.cur.put d (0, 4) } } d) s
  syncPow (syncLimit (each (List.range 4) coldDie (each (List.range 8) closePeak s)))

/-- Set the gate of every M-core of some halves to a time plus lane × SPACING (R415, R417). -/
def gateHalves (s : State) (halves : List Nat) (at_ : Nat) : State :=
  each ((List.range 832).filter (fun c => coreType c = 1 && halves.contains (coreHalf c))) (fun s c =>
    setGate s c (at_ + rampLane s c * rd s .MX_RAMP_CTRL_SPACING (coreHalf c) * 10)) s

/-- A shed ends: gates at its end + 2 µs + lane × SPACING; ratios and codes go back step by step (R413, R417). -/
def powShedEnd (s : State) : State :=
  let s := gateHalves s (List.range 8) (s.time.mst + 2000)
  let s := { s with pow := { s.pow with raised := (List.range 8).foldl (fun m h =>
    if rd s .PW_HALF_STATUS_RATIO h > wantedN s h then m.put h .back else m.del h) s.pow.raised } }
  syncPow (syncLimit (each (List.range 4) coldDie s))

/-! ### The thermal ceiling (R407) -/

/-- CEIL90 sets: the ceiling is the applied code less 2. -/
def thermalOn (s : State) (d : Nat) : State :=
  let s := wr s .PW_DIE_STATUS_THERM_CEIL d (rd s .PW_DIE_STATUS_CODE d - 2)
  syncPow (settleDie { s with pow := { s.pow with thermAt := s.pow.thermAt.put d s.now } } d)

/-- CEIL90 ends: the rise counts from here. -/
def thermalOff (s : State) (d : Nat) : State := { s with pow := { s.pow with thermAt := s.pow.thermAt.put d s.now } }

end Sys2Proof.Machine
end

