-- ==== Sys2Proof/Machine/Thatch.lean ====
section
/-! DEFINITION. The Thatch (chapter 08): what a home, guest or far slice does with each coherence message, how the answers reach cores, refusals
and tickets, reductions, far lines and epochs, the gutter. Messages stand in `coh.net`; a command offers one, and does nothing when it is not
there (log 3, DEDUCED). In a message of kind ack or data, `op` 1 says that it goes to the slice, else it goes to the requester; bit 0 of `flags` of
data is 'uncorrectable', bit 2 'do not install'. Log 37, DESIGN CHOICE: a guest slice's choice between GETM and passing a write on; log 38, DESIGN CHOICE: victims. -/

namespace Sys2Proof.Machine

/-! ### Messages -/

/-- The classes of message, each with a virtual channel of its own (R193), so that none holds up another. -/
inductive VClass where
  | req | fwd | inv | rsp | data
  deriving DecidableEq, Repr, Inhabited

/-- The class of a message (R193). -/
def msgClass (k : MsgKind) : VClass :=
  match k with
  | .gets | .getm | .wr | .atom | .red | .redw | .putm | .strip | .clean | .claim | .deckRead | .writeBack | .residencyNote => .req
  | .fwdShare | .fwdOwn | .fwdRecall | .fwdDrop => .fwd
  | .inv => .inv
  | .data => .data
  | .ack | .nack | .ticket | .go | .putack | .fenced | .error | .atomResult => .rsp

/-- Requests that a slice may refuse (R193, R194): the REQ class, but for those of a slice to its channel controller. -/
def isReq (k : MsgKind) : Bool := msgClass k = .req && k ≠ .deckRead && k ≠ .writeBack && k ≠ .residencyNote

/-- Whether request `n` of the same requester must go before `m`: to the same line (R171, R184), or a write, atomic or RED, as `m` is, to the same
other device (R172). -/
def goesBefore (s : State) (n m : Msg) : Bool :=
  n.req = m.req && n.die = m.die && (n.line = m.line ||
    (!isLocal s m.line && n.line / 2 ^ 34 = m.line / 2 ^ 34 && n.kind = m.kind && (m.kind = .wr || m.kind = .atom || m.kind = .red)))

/-- A requester's requests are taken in order: no older one that goes before is on its way, refused or held. PUTM and REDW go by themselves. -/
def isFirst (s : State) (m : Msg) : Bool :=
  m.kind = .putm || m.kind = .redw ||
  (s.coh.net ++ s.coh.refused.map (·.msg) ++ s.coh.busy.flatMap (fun t => t.2.waiting) ++ s.coh.pendInv.flatMap (·.out)).all (fun n =>
    !(isReq n.kind && n.kind ≠ .putm && n.kind ≠ .redw && goesBefore s n m) ||
      m.id < n.id || (m.id = n.id && (n.line ≠ m.line || m.thread ≤ n.thread)))

/-- Whether a message travels on the Footpath, else the Carriageway (R193). -/
def onFootpath (k : MsgKind) : Bool :=
  match k with
  | .wr | .red | .redw | .putm | .deckRead | .writeBack | .residencyNote | .data => false
  | _ => true

/-- A path through the networks (R261): network, class, source and destination stop. -/
structure Route where
  foot : Bool
  cls : VClass
  src : Nat
  dst : Nat
  deriving DecidableEq, Repr

/-- The stop of a slice (R15), numbered as the stop's core is. -/
def sliceStop (die slice : Nat) : Nat := die * 208 + (if slice < 48 then slice else 104 + slice)

/-- The stop of an agent (R14-R16). A walker, and what is on an I/O die, has a place of its own. -/
def agentStop (a : Agent) : Nat :=
  match a with
  | .core c => c
  | .guest d t => sliceStop d t
  | .engine ch => chanCore ch
  | .walker h => 1000 + h
  | .port p => 1010 + p
  | .host n => 1020 + n
  | .turnpike => 1030
  | .mc => 1031

/-- The path of a message. None for those from a slice to a channel controller: what stands in `net` waits at the controller too, where its class rules
(R227). -/
def msgRoute (m : Msg) : Option Route :=
  let sl := sliceStop m.die m.slice
  let ag := agentStop m.req
  let r : Route := { foot := onFootpath m.kind, cls := msgClass m.kind, src := sl, dst := ag }
  match m.kind with
  | .deckRead | .writeBack | .residencyNote => none
  | .data | .ack =>
    if m.op ≠ 1 then some r
    -- to the slice: from an owner, from the controller (R195, R230), or the answer to an INV
    else some { r with src := if m.src ≠ 0 then sliceStop (m.src - 1) m.slice else if m.kind = .data then chanCore (chanOf (locLine m.line * 64)) else ag, dst := sl }
  | .fwdShare | .fwdOwn | .fwdRecall | .fwdDrop => some { r with src := sliceStop (homeDie m.line) (sliceOf m.line), dst := sl }
  | k => if isReq k then some { r with src := ag, dst := sl } else some r

/-- Messages of one class between the same two stops arrive in the order they were sent (R261): `n` is on the path of `m`, and has been sent: a request that an
older one of its own requester holds back has not. -/
def aheadOf (s : State) (m n : Msg) : Bool := n = m || ((msgRoute m).isSome && msgRoute n = msgRoute m && (!isReq n.kind || isFirst s n))

/-- Take a message out of the networks, if it is there and none is ahead of it. -/
def takeMsg (s : State) (m : Msg) : Option State :=
  if s.coh.net.find? (aheadOf s m) = some m then some { s with coh := { s.coh with net := s.coh.net.erase m } } else none

/-- An answer to the requester of a message; `err`: with uncorrectable data, the index of its error record. -/
def reply (s : State) (m : Msg) (kind : MsgKind) (data : Line) (flags : Nat) (err : Nat := 0) : State :=
  send s { kind := kind, req := m.req, die := m.die, slice := m.slice, line := m.line, id := m.id, thread := m.thread, data := data,
           mask := m.mask, flags := flags, tries := m.tries, err := if flags % 2 = 1 then err else 0 }

/-- The guest slice of a die as a requester at the home. -/
def asGuest (m : Msg) (kind : MsgKind) : Msg :=
  { m with kind := kind, req := .guest m.die m.slice, die := homeDie m.line, tries := 0 }

/-- The half of a slice. -/
def sliceHalf (die slice : Nat) : Nat := 2 * die + slice / 48

def setBusy (s : State) (die line : Nat) (t : Txn) : State :=
  { s with coh := { s.coh with busy := s.coh.busy.put (lkey die line) t } }

def getBusy (s : State) (die line : Nat) : Option Txn := s.coh.busy.get (lkey die line)

/-! ### Refusals and tickets (R196, R197) -/

/-- GO to the oldest ticket of a line, when none has been answered (R197). -/
def grantGo (s : State) (die line : Nat) : State :=
  let k := lkey die line
  let tix := s.coh.tickets.getD k []
  if tix.any (·.go) then s else
    match tix with
    | [] => s
    | t :: rest =>
      let wait := cycles s (sliceHalf die (sliceOf line)) - t.at_
      let s := if wait > rd s .TH_TICKET_WAIT_MAX_COUNT die then wr s .TH_TICKET_WAIT_MAX_COUNT die wait else s
      let s := { s with coh := { s.coh with tickets := s.coh.tickets.put k ({ t with go := true } :: rest) } }
      send s { kind := .go, req := t.agent, die := die, slice := sliceOf line, line := line, id := t.id }

/-- INVs of an eviction or of an answer to a FWD that L1s of the die have still to acknowledge (R185). -/
def invOut (s : State) (die line : Nat) : Bool := s.coh.pendInv.any (fun p => p.die = die && p.line = line)

/-- GO for a line that can be taken (R197). -/
def kick (s : State) (die line : Nat) : State :=
  if (s.coh.busy.get (lkey die line)).isSome || (s.coh.victims.get (lkey die line)).isSome || invOut s die line then s else grantGo s die line

/-- Whether an agent holds a ticket at a slice. -/
def holdsTicket (s : State) (die slice : Nat) (a : Agent) : Bool :=
  s.coh.tickets.any (fun e => e.1 / 2 ^ 46 = die && sliceOf (e.1 % 2 ^ 46) = slice && e.2.any (fun t => t.agent = a))

/-- Add a ticket for a request. -/
def addTicket (s : State) (m : Msg) : State :=
  let k := lkey m.die m.line
  let t : Ticket := { agent := m.req, kind := m.kind, id := m.id, at_ := cycles s (sliceHalf m.die m.slice) }
  { s with coh := { s.coh with tickets := s.coh.tickets.put k (s.coh.tickets.getD k [] ++ [t]) } }

/-- Whether GO has called a request: the slice takes it without NACK (R197). -/
def called (s : State) (m : Msg) : Bool := (s.coh.tickets.getD (lkey m.die m.line) []).any (fun t => t.go && t.agent = m.req && t.id = m.id)

/-- Refuse a request: NACK, or TICKET at the eighth refusal. An agent holds one ticket at a slice: a later request that reaches a ticket waits
behind it (R197). One that GO has called, turned back by a crossing (R273), keeps its ticket and comes again. -/
def refuse (s : State) (m : Msg) : State :=
  let m := { m with tries := m.tries + 1 }
  if m.tries ≥ 8 && !called s m then
    let s := bump s .TH_TICKET_COUNT m.die
    let s := { s with coh := { s.coh with refused := s.coh.refused ++ [{ msg := m, ready := 0, ticket := true }] } }
    let s := if holdsTicket s m.die m.slice m.req then s else addTicket s m
    kick (reply s m .ticket 0 0) m.die m.line
  else
    let s := bump s .TH_NACK_COUNT m.die
    let s := { s with coh := { s.coh with refused := s.coh.refused ++ [{ msg := m, ready := 0 }] } }
    reply s m .nack 0 0

/-- A ticket has been used: the agent's oldest request that waited behind it at the slice takes a ticket. -/
def nextTicket (s : State) (m : Msg) : State :=
  match s.coh.refused.find? (fun r => r.ticket && r.msg.req = m.req && r.msg.die = m.die && r.msg.slice = m.slice) with
  | some r => kick (addTicket s r.msg) r.msg.die r.msg.line
  | none => s

/-- Whether the slice's request queue is full (R196; its depth is open): not for the slot kept for management and telemetry (R29). -/
def queueFull (s : State) (m : Msg) : Bool :=
  let n := (s.coh.net.filter (fun q => isReq q.kind && q.die = m.die && q.slice = m.slice)).length
  if n = 0 || m.req = .mc then false else decide (Config.reqDepth < n)

/-- A request's ticket that has been answered GO is used up. -/
def useTicket (s : State) (m : Msg) : State :=
  let k := lkey m.die m.line
  let tix := s.coh.tickets.getD k []
  match tix.find? (fun t => t.go && t.agent = m.req && t.id = m.id) with
  | some t =>
    let l := tix.erase t
    nextTicket { s with coh := { s.coh with tickets := if l.isEmpty then s.coh.tickets.del k else s.coh.tickets.put k l } } m
  | none => s

/-- Whether a slice takes a request now: the line is not BUSY, and its tickets let it (R196, R197). Answers the state with the ticket used. -/
def accept (s : State) (m : Msg) : Option State :=
  let k := lkey m.die m.line
  let tix := s.coh.tickets.getD k []
  if (s.coh.busy.get k).isSome || (s.coh.victims.get k).isSome || invOut s m.die m.line then none
  else if called s m then some (useTicket s m)
  else if (tix.isEmpty || m.kind = .putm || m.kind = .redw) && !queueFull s m then some s else none

/-- A request that GO has called meets a line that a PUTM or REDW has made BUSY first, or that an eviction has: it is not refused, and is taken as the
line comes free (R197). -/
def hold (s : State) (m : Msg) : State :=
  match getBusy s m.die m.line with
  | some t => setBusy s m.die m.line { t with waiting := t.waiting ++ [m] }
  | none => { s with coh := { s.coh with net := s.coh.net ++ [m] } }

/-- A line leaves BUSY: requests held for the transaction are offered again, a ticket gets GO. -/
def leaveBusy (s : State) (die line : Nat) : State :=
  let w := ((s.coh.busy.get (lkey die line)).map (·.waiting)).getD []
  let s := { s with coh := { s.coh with busy := s.coh.busy.del (lkey die line), net := w ++ s.coh.net } }
  grantGo s die line

/-! ### L1s (R183-R185) -/

/-- Drop a line from a core's L1; fills under way are not installed (R215). -/
def l1Drop (s : State) (c line : Nat) : State :=
  if (getCore s c).l1.get line = none && (getCore s c).outs.all (fun o => o.parts.all (fun p => p.addr / 64 ≠ line)) then s else l1Stale s c line

/-- Global cores named by a sharer vector of a die. -/
def sharersOf (die : Nat) (v : BitVec 208) : List Nat := ((List.range 208).filter (fun i => has v i)).map (· + die * 208)

def bit208 (c : Nat) : BitVec 208 := bit 208 (c % 208)

/-- INV to L1s of a die from its slice. -/
def invL1s (s : State) (die line : Nat) (cs : List Nat) : State :=
  each cs (fun s c => send s { kind := .inv, req := .core c, die := die, slice := sliceOf line, line := line, id := 0 }) s

/-- INV to guest slices from the home. -/
def invGuests (s : State) (line : Nat) (ds : List Nat) : State :=
  each ds (fun s d => send s { kind := .inv, req := .guest d (sliceOf line), die := homeDie line, slice := sliceOf line, line := line, id := 0 }) s

/-- Guest dies of a mask. -/
def guestList (g : BitVec 4) : List Nat := (List.range 4).filter (fun d => has g d)

/-! ### Applying requests (R117, R199-R202) -/

/-- Apply an operation to the elements of a line that a byte mask covers (R202). -/
def redElems (aop ty : Nat) (mask : BitVec 64) (old new : Line) : Line :=
  let n := max 1 (elemBytes ty)
  (List.range (64 / n)).foldl (fun (l : Line) j =>
    if has mask (j * n) then lineSet l (j * n) n (aopElem aop ty (8 * n) (lineNat old (j * n) n) (lineNat new (j * n) n) 0) else l) old

/-- Place and size of an atomic's word. -/
def wordAt (mask : BitVec 64) : Nat × Nat :=
  let l := (List.range 64).filter (fun k => has mask k)
  (l.headD 0, l.length)

/-- A request that writes, applied to a line: the new line and, for an atomic, the old word. -/
def applyReq (l : Line) (m : Msg) : Line × Nat :=
  match m.kind with
  | .wr => (mergeLine l m.data m.mask, 0)
  | .redw => (redElems m.op m.ty m.mask l m.data, 0)
  | _ =>
    -- a RED of a deck engine or a link holds a line of elements (R247, R289)
    let whole : Bool := match m.req with | .engine _ => true | .port _ => m.kind = .red | _ => false
    if whole then (redElems m.op m.ty m.mask l m.data, 0) else
    let (at_, n) := wordAt m.mask
    let old := lineNat l at_ n
    let b := bits m.data.toNat 0 (8 * n)
    let c := bits m.data.toNat 64 (8 * n)
    (lineSet l at_ n (aopWord m.op m.ty n old b c), old)

/-- The answer to a request that writes: ACK, or the old word for an atomic. -/
def answerWrite (s : State) (m : Msg) (old : Nat) (bad : Bool) (err : Nat) : State :=
  if m.kind = .atom then reply s m .atomResult (BitVec.ofNat 512 old) bad.toNat err else reply s m .ack 0 0

/-- A write clears a strip mark (R212). -/
def clearStrip (s : State) (line : Nat) : State :=
  match getMark s (locLine line) with
  | some (.strip _) => setMark s (locLine line) none
  | _ => s

/-! ### Allocation (R209, R366) and eviction (R185, R203) -/

/-- The instance of a core's context. -/
def coreInst (s : State) (c : Nat) : Nat := (((getCore s c).ctx.bind (getCtx s)).map (·.inst)).getD 0

/-- The instance on whose behalf a request is made (R209): a guest slice's request is that of the core that it serves, or of a core that
contributed to the PARTIAL line; a deck engine's that of its descriptor's context; a walker's that of the walk's; the Turnpike's that of the
command; the host's that of the unit's owner, through whose window it comes. -/
def agentInst (s : State) (a : Agent) (line : Nat) : Nat :=
  match a with
  | .core c => coreInst s c
  | .guest d _ =>
    (match s.coh.busy.get (lkey d line) with
     | some t => (match t.msg.req with
       | .core c => coreInst s c
       | _ => (match getLine s d line with | some e => coreInst s ((sharersOf d e.sharers).headD 0) | none => 0))
     | none => 0)
  | .engine ch => ((getChan s ch).queue.head?.bind (fun d => (getCtx s d.ctx).map (·.inst))).getD 0
  | .walker h => ((s.deck.walks.find? (fun w => w.half = h)).bind (fun w => (getCtx s w.ctx).map (·.inst))).getD 0
  | .turnpike => ((s.host.cmds.find? (fun k => k.far.any (fun f => f.2.1 = line))).bind (fun k => (getCtx s (bits k.raw.toNat 16 16)).map (·.inst))).getD 0
  | .host _ => rd s .IN_UNIT_DATA_OWNER (locLine line * 64 / 2 ^ 30)
  | _ => 0

/-- INV to each holder of a home line but the L1s of `keep` and a guest that is to own it: how many answers are awaited. -/
def invHolders (s : State) (die line : Nat) (e : SEntry) (keep : BitVec 208) (keepGuest : Option Nat) : State × Nat :=
  let cs := sharersOf die (e.sharers &&& ~~~keep)
  let gs := (guestList e.guests).filter (fun d => some d ≠ keepGuest)
  (invGuests (invL1s s die line cs) line gs, cs.length + gs.length)

/-- Send messages when the L1s of the die, `cs` and those that have an INV of the line already, have acknowledged. -/
def afterInv (s : State) (die line : Nat) (cs : List Nat) (out : List Msg) : State :=
  let s := invL1s s die line cs
  match s.coh.pendInv.find? (fun p => p.die = die && p.line = line) with
  | some p => { s with coh := { s.coh with pendInv := s.coh.pendInv.map (fun q => if q = p then { p with cores := p.cores ++ cs, out := p.out ++ out } else q) } }
  | none =>
    if cs.isEmpty then each out (fun s m => send s m) s
    else { s with coh := { s.coh with pendInv := s.coh.pendInv ++ [{ die := die, line := line, cores := cs, out := out }] } }

/-- The INVs of a home line's eviction are acknowledged (R185): a dirty line is written back and stays BUSY until the controller has it (R203); for a
clean one a residency note is sent. -/
def evictGo (s : State) (t : Txn) : State :=
  let m := t.msg
  let note : Msg := { kind := .residencyNote, req := m.req, die := m.die, slice := m.slice, line := m.line, id := 0 }
  if m.op = 1 then
    send (setBusy s m.die m.line { t with acks := 1, needData := false, data := none, step := 3 }) { note with kind := .writeBack, data := t.data.getD 0, flags := 4 + m.flags }
  else leaveBusy (send s note) m.die m.line

/-- Evict a line from a slice, its L1 sharers and guests first (R185, R203): a home line is BUSY until the eviction is complete. Lines of other dies
owned here go to the victim buffer with PUTM (R214); a PARTIAL line is pushed (R202). -/
def evict (s : State) (die line : Nat) : State :=
  match getLine s die line with
  | none => s
  | some e =>
    let sl := sliceOf line
    match e.st with
    | .part => pushPartial s die line []
    | .far => delLine s die line
    | .gs => afterInv (delLine s die line) die line (sharersOf die e.sharers) []
    | .gm =>
      let s := delLine s die line
      let s := { s with coh := { s.coh with victims := s.coh.victims.put (lkey die line) e.data } }
      afterInv s die line (sharersOf die e.sharers)
        [{ kind := .putm, req := .guest die sl, die := homeDie line, slice := sl, line := line, id := e.age, data := e.data, flags := e.bad.toNat }]
    | .hg => s
    | _ =>
      let (s, n) := invHolders s die line e 0 none
      let dirty := e.st = .hd
      let m : Msg := { kind := .writeBack, req := .guest die sl, die := die, slice := sl, line := line, id := 0, op := if dirty then 1 else 0, flags := e.bad.toNat }
      let t : Txn := { msg := m, acks := n, needData := false, data := if dirty then some e.data else none, step := 4 }
      let s := setBusy (delLine s die line) die line t
      if n = 0 then evictGo s t else s

/-- The lines of a line's set in a slice (R209). -/
def setMates (s : State) (die line : Nat) : List (Nat × SEntry) :=
  s.coh.lines.filter (fun x => x.1 / 2 ^ 46 = die && sliceOf (x.1 % 2 ^ 46) = sliceOf line &&
    Config.thatchSet (x.1 % 2 ^ 46) % 2048 = Config.thatchSet line % 2048)

/-- The ways of an instance (R209, R366). -/
def waysOf (s : State) (inst : Nat) : List Nat := (List.range 16).filter (fun w => (rd s .IN_RES_WAYS inst).testBit w)

/-- Recall a home line that another die owns, to evict it (log 171, DESIGN CHOICE): the owner gives it up, and it is written back. -/
def evictHeld (s : State) (die line : Nat) (w : List Msg) : State :=
  match getLine s die line with
  | some e =>
    let m : Msg := { kind := .writeBack, req := .guest die (sliceOf line), die := die, slice := sliceOf line, line := line, id := 0, op := 1 }
    send (setBusy s die line { msg := m, acks := 0, needData := true, waiting := w, step := 5 }) { m with kind := .fwdRecall, die := (guestList e.guests).headD 0 }
  | none => s

/-- What a line that is to enter a slice finds in its set: a way, with the state that an eviction leaves; or a line that it waits for, with what that
starts. -/
inductive Room where
  | way (w : Nat) (s : State)
  | wait (s : State)

/-- A request waits for a line of its set. -/
def waitOn (s : State) (die line : Nat) (m : Msg) : State :=
  match getBusy s die line with
  | some t => setBusy s die line { t with waiting := t.waiting ++ [m] }
  | none => pushPartial s die line [m]

/-- Find a way for a request's line (R209): one that the instance holds and its set has free, else in place of a victim, never the one used last (log 38, DESIGN CHOICE,
DESIGN CHOICE); a line that a stream brought in stands at the LRU position, so it goes first (R208). With PARTIAL lines alone in the ways one of them is
pushed, and with lines in HG one is recalled, and the request waits (R202; log 171, DESIGN CHOICE); so it does where every way is set aside. -/
def room (s : State) (die line inst : Nat) (m : Msg) : Room :=
  let ways := waysOf s inst
  let mates := setMates s die line
  let aside := s.coh.busy.filter (fun x => x.1 / 2 ^ 46 = die && sliceOf (x.1 % 2 ^ 46) = sliceOf line && x.1 % 2 ^ 46 ≠ line &&
    Config.thatchSet (x.1 % 2 ^ 46) % 2048 = Config.thatchSet line % 2048 && x.2.way.isSome)
  match ways.find? (fun w => mates.all (fun x => x.2.way ≠ w) && aside.all (fun x => x.2.way ≠ some w)) with
  | some w => .way w s
  | none =>
    let cand := mates.filter (fun x => ways.contains x.2.way && (s.coh.busy.get x.1).isNone)
    let whole := cand.filter (fun x => x.2.st ≠ .part && x.2.st ≠ .hg)
    let gut := whole.filter (fun x => x.2.strm.isSome)
    let pool := if gut.isEmpty then whole else gut
    let last := pool.foldl (fun a x => max a x.2.use) 0
    let pool := if pool.length < 2 then pool else pool.filter (fun x => x.2.use ≠ last)
    let (v, s1) := free s
    match pool[v % max 1 pool.length]? with
    | some x => .way x.2.way (evict s1 die (x.1 % 2 ^ 46))
    | none =>
      match cand.find? (fun x => x.2.st = .part), cand.head? with
      | some x, _ => .wait (waitOn s die (x.1 % 2 ^ 46) m)
      | none, some x => .wait (evictHeld s die (x.1 % 2 ^ 46) [m])
      | none, none =>
        match aside.head?.orElse (fun _ => s.coh.busy.find? (fun x => mates.any (fun y => y.1 = x.1))) with
        | some x => .wait (waitOn s die (x.1 % 2 ^ 46) m)
        | none => .way (ways.headD 0) s

/-- A request whose line is to enter the slice goes on with a way set aside for it, or waits for one (R209). -/
def withRoom (s : State) (m : Msg) (inst : Nat) (go : State → State) : State :=
  match getLine s m.die m.line with
  | some _ => go s
  | none =>
    match room s m.die m.line inst m with
    | .wait s => s
    | .way w s =>
      let s := go s
      match getBusy s m.die m.line with
      | some t => if t.msg = m then setBusy s m.die m.line { t with way := some w } else s
      | none => s

/-- Put a line into a slice (R209): in its own way, else in the one set aside for it, else in one that its set has free. -/
def install (s : State) (die line : Nat) (inst : Nat) (e : SEntry) : State :=
  let s := { s with coh := { s.coh with age := s.coh.age + 1 } }
  let age := s.coh.age
  match getLine s die line with
  | some o => setLine s die line { e with way := o.way, age := o.age, use := age }
  | none =>
    let ways := waysOf s inst
    let mates := setMates s die line
    let way := ((getBusy s die line).bind (·.way)).getD ((ways.find? (fun w => mates.all (fun x => x.2.way ≠ w))).getD (ways.headD 0))
    setLine s die line { e with way := way, age := age, use := age }

/-! ### The gutter (R208) -/

/-- A miss in a slice is counted (R208): whether it is one of a stream's further misses, or has HINT STREAM. The miss that takes the count past 8 makes the
stream; each further one is of it. -/
def noteMiss (s : State) (die line : Nat) (a : Agent) (hint : Nat) : State × Bool :=
  let sl := sliceOf line
  let key := die * 96 + sl
  let rng_ := locLine line * 64 % dieBytes / 2 ^ 20
  let now := cycles s (sliceHalf die sl)
  let l := s.coh.streams.getD key []
  let put := fun (l : List Strm) => { s with coh := { s.coh with streams := s.coh.streams.put key l } }
  if hint = 1 then (s, true) else
    match l.find? (fun t => t.agent = a && t.range = rng_) with
    | some t =>
      if line > t.last then (put (l.filter (fun u => u ≠ t) ++ [{ t with last := line, count := t.count + 1, stamp := now }]), t.count > 8)
      else (s, false)
    | none =>
      let l := if l.length ≥ 32 then l.drop 1 else l
      (put (l ++ [{ agent := a, range := rng_, last := line, count := 1, stamp := now }]), false)

/-- A request misses in a slice: whether the line that it brings in, if any (`alloc`), is gutter-allocated; TH_GUTTER counts such a miss, and one under
HINT BYPASS (R208, R218). -/
def countMiss (s : State) (m : Msg) (alloc : Bool) : State × Bool :=
  let (s, strm) := noteMiss s m.die m.line m.req (m.flags % 8)
  let gut := strm && alloc
  (if gut || m.flags % 8 = 2 then bump s .TH_GUTTER_COUNT m.die else s, gut)

/-- A hit on a line: it is the last used of its set (R209); one that a stream brought in is promoted and the stream ends, whoever hits (R208). -/
def noteHit (s : State) (die line : Nat) (e : SEntry) : State :=
  let s := { s with coh := { s.coh with age := s.coh.age + 1 } }
  match e.strm with
  | none => setLine s die line { e with use := s.coh.age }
  | some a =>
    let key := die * 96 + sliceOf line
    let rng_ := locLine line * 64 % dieBytes / 2 ^ 20
    let s := setLine s die line { e with strm := none, use := s.coh.age }
    { s with coh := { s.coh with streams := s.coh.streams.put key ((s.coh.streams.getD key []).filter (fun t => !(t.agent = a && t.range = rng_))) } }

/-- Who brought a gutter-allocated line in. -/
def gutBy (gut : Bool) (a : Agent) : Option Agent := if gut then some a else none

/-! ### Answers at a core -/

/-- Parts of an operation are answered: the operation ends with its last part (R110, R160); a lock attempt is then settled. -/
def opDone (s : State) (c id : Nat) (f : Part → Bool) : State :=
  let k := getCore s c
  match k.outs.find? (fun o => o.id = id) with
  | none => s
  | some o =>
    let o' := { o with parts := o.parts.filter (fun p => !f p) }
    if !o'.parts.isEmpty then setCore s c { k with outs := k.outs.map (fun q => if q.id = id then o' else q) } else
      let s := setCore s c { k with outs := k.outs.filter (fun q => q.id ≠ id) }
      match o.kind with
      | .lock rpc scope _ pdest => lockDone s { core := c, pipe := o.pipe, slot := o.slot } o' rpc scope pdest
      | _ => s

/-- An access of a core fails (R26, R98, R163): its context faults; a prefetch is dropped. -/
def coreFail (s : State) (c id line code detail : Nat) : State :=
  let k := getCore s c
  match k.outs.find? (fun o => o.id = id) with
  | none => s
  | some o =>
    -- REMOTE and FENCED faults name the system address (R97)
    let va := ((o.parts.find? (fun p => p.addr / 64 = line)).map (fun p => if code = 0x0206 || code = 0x0208 then p.addr else p.va)).getD 0
    let s := opDone s c id (fun p => p.addr / 64 = line)
    match o.kind with
    | .prefetch => s
    -- a failure on the far side of a tile move (R141); a stripped line is STRIP_POISON (R212)
    | .move eng _ => if code = 0x0205 then opFault s c o code detail (some va) else opFault s c o 0x0301 eng (some va)
    | _ => opFault s c o code detail (some va)

/-- A line reaches the tile move that asked for it (R140). -/
def moveGot (s : State) (c eng id line : Nat) (data : Line) : State :=
  let k := getCore s c
  let x := k.engines.getD eng {}
  setCore s c { k with engines := k.engines.set eng {} { x with queue := x.queue.map (fun q => if q.id = id then { q with got := q.got ++ [(line, data)] } else q) } }

/-- Put a line into a core's L1 of 8 ways (R183): a full set gives one up, which is open. -/
def l1Put (s : State) (c line : Nat) (data : Line) : State :=
  let k := getCore s c
  let mates := k.l1.filter (fun e => e.1 ≠ line && Config.l1Set e.1 % 256 = Config.l1Set line % 256)
  let (n, s) := if mates.length < 8 then (0, s) else free s
  let l1 := if mates.length < 8 then k.l1 else match mates[n % mates.length]? with | some e => k.l1.del e.1 | none => k.l1
  setCore s c { k with l1 := l1.put line data }

/-- A line reaches a core (R183, R212, R215): loads take their words, waits test their flags; L1 takes the line unless told not to. Bit 6 of
`flags`: the line was read under the reader's own strip mark. -/
def coreData (s : State) (c id line : Nat) (data : Line) (flags err : Nat) : State :=
  let k := getCore s c
  match k.outs.find? (fun o => o.id = id) with
  | none => s
  | some o =>
    let g : Grp := { core := c, pipe := o.pipe, slot := o.slot }
    let stripped := flags / 64 % 2 = 1
    if flags % 2 = 1 then coreFail s c id line 0x0207 err
    else if stripped && (match o.kind with | .load .. => true | .move .. => true | .flag _ => true | _ => false) then coreFail s c id line 0x0205 0
    else
      -- bit 3 of `flags`: a granule alone, its index in bits [5:4]
      let sel := fun (p : Part) => p.addr / 64 = line && (flags / 8 % 2 = 0 || p.addr % 64 / 16 = flags / 16 % 4)
      let mine := o.parts.filter sel
      let inst := o.install && flags / 4 % 2 = 0 && !stripped && !o.noFill.contains line && isLocal s line
      let s := if inst && (match o.kind with | .load .. => true | .prefetch => true | _ => false) then l1Put s c line data else s
      let s := match o.kind with
        | .load d sx _ =>
          (match getGroup s g with
           | some x => setGroup s g (mine.foldl (fun x p => loadPut x (coreType c = 3) p.size sx d p.thread o.lowEx (lineNat data (p.addr % 64) p.size)) x)
           | none => s)
        | .move eng cmd => moveGot s c eng cmd line data
        | .flag size =>
          testWaits s g (fun _ w => if w.kind = 1 || w.kind = 2 then
            (maskOf ((w.target.filter (fun t => mine.any (fun p => p.thread = t.1 && p.addr = t.2.1.toNat) &&
              condHolds w.cond (lineNat data (t.2.1.toNat % 64) size) t.2.2.toNat)).map (·.1)), 0) else (0, 0))
        | _ => s
      opDone s c id sel

/-- The result of an atomic reaches its thread (R199, R82); bit 0 of `flags` says that the line is uncorrectable, bit 6 that it stands under the reader's
own strip mark. -/
def coreResult (s : State) (c id line thread : Nat) (v flags err : Nat) : State :=
  let k := getCore s c
  match k.outs.find? (fun o => o.id = id) with
  | none => s
  | some o =>
    if flags % 2 = 1 then coreFail s c id line 0x0207 err else if flags / 64 % 2 = 1 then coreFail s c id line 0x0205 0 else
      let g : Grp := { core := c, pipe := o.pipe, slot := o.slot }
      let size := ((o.parts.find? (fun p => p.thread = thread)).map (·.size)).getD 4
      let s := match o.kind with
        | .atom d =>
          (match getGroup s g with
           | some x => setGroup s g (loadPut x (coreType c = 3) size false d thread o.lowEx v)
           | none => s)
        | .lock .. =>
          let o' := if v = 0 then { o with won := o.won ||| bit 32 thread } else { o with lost := o.lost ||| bit 32 thread }
          setCore s c { k with outs := k.outs.map (fun q => if q.id = id then o' else q) }
        | _ => s
      opDone s c id (fun p => p.thread = thread && p.addr / 64 = line)

/-! ### Requests to other devices (R205, R207, R297) -/

/-- The far tag of the context a core runs. -/
def farTagOf (s : State) (a : Agent) : Option Nat :=
  match a with
  | .core c => ((getCore s c).ctx.bind (getCtx s)).bind (·.farTag)
  | _ => none

/-- Context, instance and generation of an agent's request (R369). -/
def agentGen (s : State) (a : Agent) (id : Nat) : Nat × Nat × Nat :=
  match a with
  | .core c =>
    let n := (getCore s c).ctx.getD 0
    let i := ((getCtx s n).map (·.inst)).getD 0
    (n, i, rd s .IN_STATUS_GEN i)
  | .turnpike =>
    (match s.host.cmds.find? (fun c => c.far.any (fun f => f.1 = id)) with
     | some c =>
       let n := bits c.raw.toNat 16 16
       let i := ((getCtx s n).map (·.inst)).getD 0
       (n, i, rd s .IN_STATUS_GEN i)
     | none => (0, 0, 0))
  | _ => (0, 0, 0)

/-- A pushed PARTIAL line is refused or lost: the context of each core that contributed faults (R163). -/
def partFail (s : State) (d line code detail : Nat) : State :=
  match getLine s d line with
  | some e =>
    if e.st ≠ .part then s else
      each (sharersOf d e.sharers) (fun s c => match (getCore s c).ctx with
        | some n => raiseFault s { ctx := n, code := code, detail := detail, core := c, score := coreType c = 3 }
        | none => s) s
  | none => s

/-! ### The Turnpike's requests (R169, R171) -/

/-- Field of a command entry: `n` bytes at byte `at_`. -/
def Cmd.fld (c : Cmd) (at_ n : Nat) : Nat := bits c.raw.toNat (8 * at_) (8 * n)
def Cmd.op (c : Cmd) : Nat := c.fld 0 1
def Cmd.flags (c : Cmd) : Nat := c.fld 1 1
def Cmd.ctx (c : Cmd) : Nat := c.fld 2 2

/-- Commands in flight. -/
def getCmd (s : State) (r : CmdRef) : Option Cmd := s.host.cmds.find? (fun c => c.ref = r)

def setCmd (s : State) (c : Cmd) : State :=
  { s with host := { s.host with cmds := s.host.cmds.map (fun d => if d.ref = c.ref then c else d) } }

/-- A command's work is done; R325 is to come. -/
def finCmd (s : State) (r : CmdRef) (status detail : Nat) : State :=
  match getCmd s r with
  | some c => if c.fin.isSome then s else setCmd s { c with started := true, fin := some (status, detail) }
  | none => s

/-- The command that a request of the Turnpike serves. -/
def tpOwner (s : State) (id : Nat) : Option Cmd := s.host.cmds.find? (fun c => c.far.any (fun f => f.1 = id))

/-- A request of the Turnpike is answered, with a line when it read one. -/
def tpGot (s : State) (id : Nat) (data : Option (Nat × Line)) : State :=
  match tpOwner s id with
  | some c => setCmd s { c with far := c.far.filter (fun f => f.1 ≠ id), got := c.got ++ data.toList }
  | none => s

/-- A request of the Turnpike for a line fails: its command ends FENCED with the home die's number, or its context faults and ends it (R98, R328). A write that fails
undoes an end that only waited for its writes (R325). -/
def tpFail (s : State) (id line code detail : Nat) : State :=
  match tpOwner s id with
  | none => s
  | some c =>
    let va := ((c.far.find? (fun f => f.1 = id)).map (·.2.2)).getD 0
    let s := tpGot s id none
    let put := fun (f : Option (Nat × Nat)) => match getCmd s c.ref with
      | some c => if c.fin = some (0, 0) || c.fin.isNone then setCmd s { c with started := true, fin := f } else s
      | none => s
    if code = 0x0206 then put (some (2, homeDie line))
    else raiseFault (put none) { ctx := c.ctx, code := code, detail := detail, core := 1024, addr := some (if code = 0x0208 then line * 64 else va) }

/-! ### The host's window accesses (R173, R313, R315) -/

/-- Set the answer given to the outside. -/
def answer (s : State) (r : Reply) : State := { s with host := { s.host with reply := r } }

/-- The deck takes the value of a dirty line of this device (R173): a home line is clean then, one that a guest owns keeps its state; of a line on its way
out of its slice the deck has the value before the write-back comes. -/
def hostFlush (s : State) (line : Nat) : State :=
  let loc := locLine line
  let put := fun (bad : Bool) => let s1 := putDeck s loc (orderLine s line)
                                 if bad then setMark s1 loc (some .poison) else s1
  match getLine s (homeDie line) line with
  | some e =>
    if e.st = .hd then
      let s1 := put e.bad
      if (getBusy s (homeDie line) line).isNone then setLine s1 (homeDie line) line { e with st := .hc } else s1
    else if e.st = .hg then put false
    else s
  | none =>
    match s.coh.net.find? (fun m => m.line = line && m.kind = .writeBack) with
    | some m => put (m.flags % 2 = 1)
    | none =>
      match s.coh.busy.get (lkey (homeDie line) line) with
      | some t => if t.step = 4 && t.data.isSome then put t.bad else s
      | none => s

/-- What a read of HDM_FLUSH brings into the deck: dirty lines of the Thatch (all, as no record tells which hold a window write; log 158, DESIGN CHOICE),
and entries of write-combining buffers that hold one. -/
def flushWindow (s : State) : State :=
  let home : List Nat → List Nat := fun keys => (keys.filter (fun k => k / 2 ^ 46 = homeDie (k % 2 ^ 46) && isLocal s (k % 2 ^ 46))).map (fun k => k % 2 ^ 46)
  let s := each (distinct (home s.coh.lines.keys ++ home s.coh.busy.keys ++ (s.coh.net.filter (fun m => m.kind = .writeBack)).map (·.line))) hostFlush s
  each (s.deck.chans.flatMap (fun e => (e.2.wcb.filter (fun w => w.writers.contains hostWriter)).map (·.line))) flushWcb s

/-- Send the pieces of window accesses that wait for no earlier access to their line (R192, R193): a piece goes to its line's home slice. -/
def hdmPump (s : State) : State :=
  (s.host.window.foldl (fun (st : State × List Nat) w =>
    let go := w.wait.filter (fun p => !st.2.contains p.1)
    let s := each go (fun s p =>
      let id := s.link.nextTag
      let s := { s with
        link := { s.link with nextTag := id + 1 }
        host := { s.host with window := s.host.window.map (fun v => if v.no = w.no then
          { v with wait := v.wait.filter (fun q => q.1 ≠ p.1), sent := v.sent ++ [(id, p.1)] } else v) } }
      send s { kind := if p.2.1.toNat = 0 then .gets else .wr, req := .host w.att, die := homeDie p.1, slice := sliceOf p.1, line := p.1, id := id, data := p.2.2,
               mask := p.2.1 }) st.1
    (s, st.2 ++ w.wait.map (·.1) ++ w.sent.map (·.2))) (s, [])).1

/-- A window access is over: its answer goes to the host (R313, R315). -/
def hdmAnswer (s : State) (w : HdmAcc) : State :=
  match w.kind with
  | .write completes => if completes then answer s .done else s
  | .read a n => answer s (if w.bad then .poison else .data ((List.range n).map (fun j =>
      BitVec.ofNat 8 (lineNat (((w.got.find? (fun g => g.1 = (a + j) / 64)).map (·.2)).getD 0) ((a + j) % 64) 1))))
  | .flush fid _ => answer (flushWindow s) (.data (natLe 8 (rd s .HA_ATTACH_ATTACH_GEN (fid / 128 * 128))))

/-- Window accesses that are over leave: first those that have every answer, then the reads of HDM_FLUSH that waited for them. -/
def hdmSettle (s : State) : State :=
  let waits := fun (w : HdmAcc) => match w.kind with | .flush _ _ => true | _ => !(w.wait.isEmpty && w.sent.isEmpty)
  let s1 := each (s.host.window.filter (fun w => !waits w)) hdmAnswer { s with host := { s.host with window := s.host.window.filter waits } }
  let open_ := fun (w : HdmAcc) => match w.kind with | .flush _ l => l.any (fun n => s1.host.window.any (fun v => v.no = n)) | _ => true
  hdmPump (each (s1.host.window.filter (fun w => !open_ w)) hdmAnswer { s1 with host := { s1.host with window := s1.host.window.filter open_ } })

/-- A window access begins. -/
def hdmAdd (s : State) (w : HdmAcc) : State :=
  hdmSettle (hdmPump { s with
    link := { s.link with nextTag := s.link.nextTag + 1 }
    host := { s.host with window := s.host.window ++ [{ w with no := s.link.nextTag }] } })

/-- A request of a window access is answered: with its line, where it read one that is good (`some`). -/
def hdmGot (s : State) (id : Nat) (data : Option (Nat × Line)) : State :=
  if s.host.window.all (fun w => w.sent.all (fun p => p.1 ≠ id)) then s else
    hdmSettle { s with host := { s.host with window := s.host.window.map (fun w => if w.sent.any (fun p => p.1 = id) then
      { w with sent := w.sent.filter (fun p => p.1 ≠ id), got := w.got ++ data.toList, bad := w.bad || data.isNone } else w) } }

/-- An answer that a request has failed at another device or on the way (REMOTE), or met a home in reset (FENCED), as its requester takes it. -/
def failReq (s : State) (m : Msg) (fenced : Bool) : State :=
  let code := if fenced then 0x0206 else 0x0208
  let detail := if fenced then 0 else m.line / 2 ^ 34
  match m.req with
  | .core c => coreFail s c m.id m.line code detail
  | .guest d _ => if m.kind = .redw then partFail s d m.line code detail else s
  | .turnpike => tpFail s m.id m.line code detail
  | .host _ => hdmGot s m.id none
  | _ => s

/-- What one of this device's requests holds goes free: the line of a far fill or of a pushed PARTIAL line at its own slice; what a command of the
Turnpike awaits. -/
def farFree (s : State) (m : Msg) : State :=
  match m.kind, m.req with
  | _, .turnpike => tpGot s m.id none
  | .gets, _ => (match getBusy s m.die m.line with
      | some t => if t.msg = m then leaveBusy s m.die m.line else s
      | none => s)
  | .redw, .guest d _ => (match getBusy s d m.line with
      | some t => if t.msg.kind = .redw then leaveBusy (delLine s d m.line) d m.line else s
      | none => s)
  | _, _ => s

/-- A request of this device fails: FENCED, or REMOTE; the cores whose contributions a pushed PARTIAL line held fault before it goes. -/
def farFail (s : State) (m : Msg) (fenced : Bool) : State := farFree (failReq s m fenced) m

/-- The tags of a port that are in use (R298). -/
def tagsOf (s : State) (p : Nat) : List Nat := (s.link.far.filter (fun f => f.port = p)).map (·.tag)

/-- Halves on the way of one of this device's requests from the slice that sends it, or from the Turnpike on IOD0, to a port (R262, R283). -/
def portHalves (m : Msg) (p : Nat) : List Nat :=
  let iod := 8 + p / 4
  match m.req with
  | .turnpike => if iod = 8 then [] else [1, 0, 4, 5]
  | .guest d t => if m.kind = .redw then halvesTo iod (sliceHalf d t) else halvesTo iod (sliceHalf m.die m.slice)
  | _ => halvesTo iod (sliceHalf m.die m.slice)

/-- A way through halves, to or from an I/O die or not, passes a crossing that is in the handshake of R273. -/
def wayResync (s : State) (hs : List Nat) (iod : Bool) : Bool :=
  s.die.resync.any (fun e =>
    if e.1 < 8 then hs.contains (2 * e.1) && hs.contains (2 * e.1 + 1)
    else
      let (a, b) := bridgeEnds (e.1 - 8)
      hs.contains a && (if 8 ≤ b then iod else hs.contains b))

/-- Send a request for a line of another device (R296-R298): one that has no route, or may not leave, fails at once; it waits for a tag while all 8,192 of its port
are in use, behind those that wait already. -/
def farSend (s : State) (m : Msg) (op : Nat) : State :=
  let dev := m.line / 2 ^ 34
  let p := rd s .LK_ROUTE_DATA_PORT dev
  let (ctx, inst, gen) := agentGen s m.req m.id
  let wait := { s with link := { s.link with waits := s.link.waits ++ [{ port := p, msg := m, op := op, ctx := ctx }] } }
  if !flag s .LK_ROUTE_DATA_VALID dev || portDiscards s p || (inst ≠ 0 && rd s .IN_RES_LINK_WEIGHT inst = 0) then farFail s m false
  -- the way to the port crosses to an isolated half or a die in reset; a handshake turns the request away until it ends (R273, R275; log 176, DEDUCED)
  else if !(portHalves m p).all (halfUp s) then farFail s m true
  else if wayResync s (portHalves m p) true then wait
  else
    let used := tagsOf s p
    match (List.range 8192).find? (fun t => !used.contains t) with
    | none => wait
    | some tag =>
      if s.link.waits.any (fun w => w.port = p && !wayResync s (portHalves w.msg p) true) then wait else
        let (at_, n) := wordAt m.mask
        let off := match op with | 0x04 => at_ | 0x02 => 16 * m.thread | _ => 0
        -- the data slots of a RED hold the line's bytes in place
        let data : Line := if op = 0x05 then BitVec.ofNat 512 (bits m.data.toNat 0 (8 * n) * 2 ^ (8 * at_)) else m.data
        let l : LMsg := { op := op, dest := dev, src := myDev s, tag := tag, gen := gen, addr := m.line * 64 + off,
                          param := if 4 ≤ op && op ≤ 6 then m.op + 16 * m.ty else 0, mask := m.mask, data := data }
        let s' := toll (linkSend s l).2 ctx 5 l.bytes
        { s' with link := { s'.link with far := s'.link.far ++ [{ tag := tag, port := p, msg := m, ctx := ctx, inst := inst, gen := gen }] } }

/-- Tags of a port have come free, or a handshake is over: the requests that wait for one go, oldest first (R298). -/
def wakeTags (p : Nat) (s : State) : State :=
  let w := s.link.waits.filter (fun e => e.port = p)
  if w.isEmpty then s else
    each w (fun s e => farSend s e.msg e.op) { s with link := { s.link with waits := s.link.waits.filter (fun e => e.port ≠ p) } }

/-! ### Transactions at the home (R195) -/

/-- The context on whose behalf a request is made: for a guest slice's, that of the core that it serves. -/
def msgCtx (s : State) (m : Msg) : Option Nat :=
  match m.req with
  | .core c => (getCore s c).ctx
  | .guest d _ =>
    (match getBusy s d m.line with
     | some t => (match t.msg.req with | .core c => (getCore s c).ctx | _ => none)
     | none => none)
  | _ => none

/-- Bit 6 of DATA: the line stands under the reader's own strip mark as it is read (R212). -/
def stripFlag (s : State) (m : Msg) : Nat :=
  match getMark s (locLine m.line), msgCtx s m with
  | some (.strip n), some c => if n = c then 64 else 0
  | _, _ => 0

/-- The writer that a write-combining entry names for a request (R229). -/
def msgWriter (s : State) (m : Msg) : Nat :=
  match m.req with
  | .core c => c
  | .guest d _ => (match getBusy s d m.line with | some t => (match t.msg.req with | .core c => c | _ => 1002) | none => 1002)
  | .turnpike => turnpikeWriter
  | .host _ => hostWriter
  | _ => 1002

/-- Ask the deck controller for a line (R230): `alloc` when the line enters the slice. -/
def askDeck (s : State) (m : Msg) (alloc : Bool) : State :=
  send s { kind := .deckRead, req := .guest m.die m.slice, die := m.die, slice := m.slice, line := m.line, id := 0, flags := alloc.toNat,
           op := if m.flags % 8 = 3 then 1 else 0 }

/-- Whether a GETS leaves the line in the slice: not under BYPASS, nor a gather (R116, R208). -/
def getsAlloc (m : Msg) : Bool := m.flags % 8 ≠ 2 && m.flags < 8

/-- The directory bit that a GETS sets: the sharer bit of a core that may install, or the guest die's. -/
def setHolder (e : SEntry) (m : Msg) : SEntry :=
  match m.req with
  | .core c => if getsAlloc m && m.flags % 8 ≠ 4 then { e with sharers := e.sharers ||| bit208 c } else e
  | .guest d _ => { e with guests := e.guests ||| bit 4 d }
  | _ => e

/-- The writing core's own L1 keeps its copy (R195). -/
def writerBit (e : SEntry) (m : Msg) : BitVec 208 :=
  match m.req with | .core c => if m.kind = .wr then e.sharers &&& bit208 c else 0 | _ => 0

/-- A line of 64 bytes written whole. -/
def wholeWrite (m : Msg) : Bool := m.kind = .wr && m.mask = BitVec.allOnes 64

/-- Apply a writing request at the home to a base line, and answer it (R192). A whole write replaces an uncorrectable line (R237). -/
def homeApply (s : State) (m : Msg) (e : SEntry) (base : Line) (bad gut : Bool) (err : Nat) : State :=
  let (l, old) := applyReq base m
  let bad := (bad || e.bad) && !wholeWrite m
  let e := { e with st := .hd, data := l, guests := 0, sharers := writerBit e m, bad := bad, strm := if gut then some m.req else e.strm }
  let s := clearStrip (install s m.die m.line (agentInst s m.req m.line) e) m.line
  answerWrite s m old bad err

/-- A slice tells the controller that it holds a clean line no more, or never took it (R230). -/
def sendNote (s : State) (m : Msg) : State :=
  send s { kind := .residencyNote, req := .guest m.die m.slice, die := m.die, slice := m.slice, line := m.line, id := 0 }

/-- Drop a home line without writing it back (R195, R210). -/
def homeDrop (s : State) (m : Msg) : State :=
  let had := (getLine s m.die m.line).isSome
  let s := delLine s m.die m.line
  if had then sendNote s m else s

/-- The strip mark of a context that asks for one (R212). -/
def stripMark (s : State) (m : Msg) : State :=
  match getCtx s m.op with
  | some x => if x.stripPoison && isLocal s m.line then setMark s (locLine m.line) (some (.strip m.op)) else s
  | none => s

/-- Write a dirty home line back and keep it (CLEAN, CLAIM): the deck controller acknowledges. -/
def writeKeep (s : State) (m : Msg) (e : SEntry) : State :=
  send s { kind := .writeBack, req := .guest m.die m.slice, die := m.die, slice := m.slice, line := m.line, id := 0, data := e.data, flags := 2 + e.bad.toNat }

/-- The line as a transaction finds it: with the data that its owner has given up. -/
def recalled (t : Txn) (e : SEntry) : SEntry :=
  match t.data with | some l => { e with st := .hd, data := l, guests := 0, bad := t.bad } | none => e

/-- A transaction at the home has every answer it named: its effect, and the line leaves BUSY (R195). -/
def homeFinish (s : State) (t : Txn) : State :=
  let m := t.msg
  let d := m.die
  let line := m.line
  let e? := getLine s d line
  match m.kind with
  | .gets =>
    let s := match e? with
      | some e => -- was HG: the owner has answered the requester; one that evicted the line holds nothing further (R214)
        setLine s d line (setHolder { e with st := .hd, data := t.data.getD e.data, bad := t.bad, guests := if t.gone then 0 else e.guests } m)
      | none =>
        let l := t.data.getD 0
        if t.bad then reply (if getsAlloc m then sendNote s m else s) m .data l 1 t.err
        else
          let s := if getsAlloc m then install s d line (agentInst s m.req line) (setHolder { st := .hc, data := l, strm := gutBy t.gut m.req } m) else s
          reply s m .data l ((if getsAlloc m then 0 else 4) + stripFlag s m)
    leaveBusy s d line
  | .getm =>
    let gd := match m.req with | .guest x _ => x | _ => 0
    let s := match e? with
      | some e =>
        if e.st = .hg then setLine s d line { e with guests := bit 4 gd }
        else
          let s := setLine s d line { e with st := .hg, guests := bit 4 gd, sharers := 0 }
          if m.flags / 8 % 2 = 1 && has e.guests gd then reply s m .ack 0 0 else reply s m .data e.data 0
      | none =>
        let l := t.data.getD 0
        -- an uncorrectable line is not handed over: the write itself is to come here (R237)
        if t.bad then reply (sendNote s m) m .data l 3 t.err
        else reply (install s d line (agentInst s m.req line) { st := .hg, data := l, guests := bit 4 gd, strm := gutBy t.gut m.req }) m .data l 0
    leaveBusy s d line
  | .strip =>
    let s := reply (stripMark (homeDrop s m) m) m .ack 0 0
    leaveBusy s d line
  | .clean =>
    (match e?.map (recalled t) with
     | some e =>
       -- a line written while its write-back was under way is written again
       if e.st = .hd && (t.step ≠ 1 || deckLine s (locLine line) ≠ e.data) then
         setBusy (writeKeep (setLine s d line e) m e) d line { t with acks := 1, needData := false, data := none, step := 1 }
       else leaveBusy (reply (setLine s d line { e with st := .hc }) m .ack 0 0) d line
     | none => leaveBusy (reply s m .ack 0 0) d line)
  | .claim =>
    (match e?.map (recalled t) with
     | some e =>
       if e.st = .hd && (t.step = 0 || deckLine s (locLine line) ≠ e.data) then
         setBusy (writeKeep (setLine s d line e) m e) d line { t with acks := 1, needData := false, data := none, step := 1 }
       else
         let (s1, n) := invHolders s d line e 0 none
         if n ≠ 0 then setBusy (setLine s1 d line { e with sharers := 0, guests := 0 }) d line { t with acks := n, needData := false, data := none, step := 6 }
         else leaveBusy (reply (homeDrop s m) m .ack 0 0) d line
     | none => leaveBusy (reply s m .ack 0 0) d line)
  | k =>
    let e := (e?.map (recalled t)).getD { st := .hd }
    -- an atomic of the context that stripped the line reads it, and is not performed (R212)
    if k = .atom && stripFlag s m ≠ 0 then
      leaveBusy (reply (if e?.isSome then setLine s d line { e with sharers := writerBit e m, guests := 0 } else sendNote s m) m .atomResult 0 64) d line
    else leaveBusy (homeApply s m e (t.data.getD e.data) t.bad t.gut t.err) d line

/-- Start a transaction at the home (R195). -/
def homeStart (s : State) (m : Msg) : State :=
  let d := m.die
  let line := m.line
  let begin_ := fun (s : State) acks need gut =>
    let t : Txn := { msg := m, acks := acks, needData := need, gut := gut }
    let s := setBusy s d line t
    if acks = 0 && !need then homeFinish s t else s
  match getLine s d line with
  | none =>
    match m.kind with
    | .putm => reply s m .putack 0 1
    | .strip => reply (stripMark s m) m .ack 0 0
    | .clean => reply s m .ack 0 0
    | .claim => reply s m .ack 0 0
    | k =>
      let alloc := if k = .gets then getsAlloc m else !(k = .wr && m.flags % 8 = 2)
      let go := fun (s : State) =>
        let (s, gut) := countMiss s m alloc
        -- a BYPASS write to a line in HI goes to the write-combining buffer (R228)
        if k = .wr && m.flags % 8 = 2 then reply (combine s (locLine line) m.data m.mask (msgWriter s m)) m .ack 0 0
        else if wholeWrite m then
          -- the line enters the slice without a deck read; its residency is counted as if read (log 39, DEDUCED)
          begin_ (setRes s (pageOf (locLine line * 64)) (resOf s (pageOf (locLine line * 64)) + 1)) 0 false gut
        else begin_ (askDeck s m alloc) 0 true gut
      if alloc then withRoom s m (agentInst s m.req line) go else go s
  | some e =>
    if e.st = .hg then
      let own := (guestList e.guests).headD 0
      let fwd := fun (s : State) k => send s { m with kind := k, die := own, tries := 0 }
      match m.kind with
      | .putm =>
        (match m.req with
         | .guest x _ =>
           if x = own then reply (setLine s d line { e with st := .hd, data := m.data, guests := 0, bad := m.flags % 2 = 1 }) m .putack 0 0
           else reply s m .putack 0 1
         | _ => reply s m .putack 0 1)
      | .gets => begin_ (fwd s .fwdShare) 0 true false
      | .getm => begin_ (fwd s .fwdOwn) 1 false false
      | .strip => begin_ (fwd s .fwdDrop) 1 false false
      | _ => begin_ (fwd s .fwdRecall) 0 true false
    else
      match m.kind with
      | .putm => reply s m .putack 0 1
      | .gets =>
        let s := noteHit s d line e
        let e := (getLine s d line).getD e
        let s := if getsAlloc m then setLine s d line (setHolder e m) else s
        reply s m .data e.data (e.bad.toNat + (if getsAlloc m then 0 else 4) + stripFlag s m) (errIndex s (locLine m.line))
      | .getm =>
        if e.bad then reply s m .data e.data 3 (errIndex s (locLine m.line)) else
          let gd := match m.req with | .guest x _ => some x | _ => none
          let (s, n) := invHolders (noteHit s d line e) d line e 0 gd
          begin_ s n false false
      | .clean => begin_ s 0 false false
      | .claim => begin_ s 0 false false
      | .strip =>
        let (s, n) := invHolders s d line e 0 none
        begin_ s n false false
      | _ =>
        let (s, n) := invHolders (noteHit s d line e) d line e (writerBit e m) none
        begin_ s n false false

/-! ### Requests at guest and far slices (R189, R190, R200-R202, R205, R207) -/

/-- Pass a request on to the home, the line BUSY here until the answer. -/
def passOn (s : State) (m : Msg) (kind : MsgKind) (need : Bool) (flags : Nat) (gut : Bool := false) : State :=
  let s := setBusy s m.die m.line { msg := m, acks := if need then 0 else 1, needData := need, gut := gut }
  send s { asGuest m kind with flags := flags }

/-- A GM line takes a write or RED that no other L1 of the die has to give way to (R190, R192). -/
def ownDone (s : State) (m : Msg) : State :=
  match getLine s m.die m.line with
  | some e =>
    reply (clearStrip (setLine s m.die m.line
      { e with data := (applyReq e.data m).1, sharers := writerBit e m, bad := e.bad && !wholeWrite m }) m.line) m .ack 0 0
  | none => reply s m .ack 0 0

/-- A write or RED to a GM line (R190): other L1s of the die are invalidated; it is applied, and answered, when they have acknowledged. -/
def ownApply (s : State) (m : Msg) (e : SEntry) : State :=
  let cs := sharersOf m.die (e.sharers &&& ~~~(writerBit e m))
  if cs.isEmpty then ownDone s m
  else setBusy (invL1s s m.die m.line cs) m.die m.line { msg := m, acks := cs.length, needData := false, step := 2 }

/-- Push a PARTIAL line; a request waits until the home acknowledges (R202). -/
def pushWait (s : State) (die line : Nat) (m : Msg) : State :=
  match getBusy s die line with
  | some t => setBusy s die line { t with waiting := t.waiting ++ [m] }
  | none => pushPartial s die line [m]

/-- Gather a RED in a PARTIAL line (R200, R201): the first contribution to an element is stored as it is. A GS or FAR copy is dropped first, with
its copies in L1s. -/
def gather (s : State) (m : Msg) (gut : Bool := false) : State :=
  let c := match m.req with | .core c => bit208 c | _ => 0
  let (at_, n) := wordAt m.mask
  let word : Line := BitVec.ofNat 512 (bits m.data.toNat 0 (8 * n) * 2 ^ (8 * at_))
  let fresh := fun (s : State) =>
    reply (install s m.die m.line (agentInst s m.req m.line) { st := .part, data := word, emask := m.mask, op := m.op, ty := m.ty, sharers := c, strm := gutBy gut m.req }) m .ack 0 0
  match getLine s m.die m.line with
  | some e =>
    if e.st = .part then
      let eb := max 1 (elemBytes m.ty)
      let l := (List.range (64 / eb)).foldl (fun (l : Line) j =>
        if !has m.mask (j * eb) then l
        else if has e.emask (j * eb) then lineSet l (j * eb) eb (aopElem e.op e.ty (8 * eb) (lineNat l (j * eb) eb) (lineNat word (j * eb) eb) 0)
        else lineSet l (j * eb) eb (lineNat word (j * eb) eb)) e.data
      reply (setLine s m.die m.line { e with data := l, emask := e.emask ||| m.mask, sharers := e.sharers ||| c }) m .ack 0 0
    else
      let cs := sharersOf m.die e.sharers
      if cs.isEmpty then fresh (delLine s m.die m.line) else afterInv (delLine s m.die m.line) m.die m.line cs [m]
  | none => fresh s

/-- A RED that starts a PARTIAL line (R201): where it would be the 65th, the oldest is pushed and the RED waits for that. A miss may be
gutter-allocated (R208). -/
def startPart (s : State) (m : Msg) : State :=
  let begin_ := fun (s : State) =>
    if (getLine s m.die m.line).isSome then gather s m
    else withRoom s m (agentInst s m.req m.line) (fun s => let (s, gut) := countMiss s m true; gather s m gut)
  let ps := s.coh.lines.filter (fun x => x.1 / 2 ^ 46 = m.die && x.2.st = .part && sliceOf (x.1 % 2 ^ 46) = sliceOf m.line)
  if ps.length < 64 then begin_ s else
    match ps.foldl (fun (a : Option (Nat × SEntry)) x => match a with | none => some x | some y => if x.2.age < y.2.age then some x else some y) none with
    | some x => pushWait s m.die (x.1 % 2 ^ 46) m
    | none => begin_ s

/-- A read that a copy in a guest slice serves. -/
def guestHit (s : State) (m : Msg) (e : SEntry) : State :=
  let s := noteHit s m.die m.line e
  let e := (getLine s m.die m.line).getD e
  reply (if getsAlloc m then setLine s m.die m.line (setHolder e m) else s) m .data e.data
    (e.bad.toNat + (if getsAlloc m then 0 else 4) + stripFlag s m) (errIndex s (locLine m.line))

/-- A slice's epoch of a far tag (R205). -/
def farEpoch (s : State) (die line tag : Nat) : Nat := s.coh.epochs.getD ((die * 96 + sliceOf line) * 256 + tag) 0

/-- Remove every line of a far tag from slices (R206). -/
def sweepTag (s : State) (tag : Nat) (ls : List Nat) : State :=
  { s with coh := { s.coh with lines := s.coh.lines.filter (fun e =>
      !(e.2.st = .far && e.2.tag = tag && ls.contains (e.1 / 2 ^ 46 * 96 + sliceOf (e.1 % 2 ^ 46)))) } }

/-- A remote read (R205): the request and the epoch at which it is made. -/
def farGets (s : State) (m : Msg) : State :=
  let go := fun (s : State) =>
    let (s, gut) := countMiss s m (getsAlloc m)
    let t : Txn := { msg := m, acks := 0, needData := true, gut := gut, step := farEpoch s m.die m.line ((farTagOf s m.req).getD 0) }
    farSend (setBusy s m.die m.line t) m (if m.flags ≥ 8 then 0x02 else 0x01)
  if getsAlloc m then withRoom s m (agentInst s m.req m.line) go else go s

/-- A core's write at a slice that does not own the line: passed on as it is or, by choice (log 37, DESIGN CHOICE), after GETM; under BYPASS never
the latter (R228). -/
def guestWrite (s : State) (m : Msg) (holds : Bool) : State :=
  let (n, s) := free s
  let miss := fun (s : State) (alloc : Bool) => if holds then (s, false) else countMiss s m alloc
  if m.flags % 8 = 2 || n % 2 = 0 then passOn (miss s false).1 m .wr false m.flags
  else withRoom s m (agentInst s m.req m.line) (fun s =>
    let (s, gut) := miss s true
    passOn s m .getm true (m.flags % 8 + 8 * holds.toNat) gut)

/-- A line of another device's loft windows, which no slice holds (R158). -/
def farWindow (line : Nat) : Bool := loftBase ≤ locLine line * 64

/-- A request for a line of another device (R171, R200, R207, R210); `old`: the FAR copy that the slice holds. What reads the home past the copy, or
performs an atomic there, drops it, so that no later read goes backward (R170). -/
def farStart (s : State) (m : Msg) (old : Option SEntry) : State :=
  let tag := farTagOf s m.req
  let cur := fun (e : SEntry) => e.valid && tag = some e.tag && e.epoch = farEpoch s m.die m.line e.tag
  let count := fun (s : State) => if old.isSome then s else (countMiss s m false).1
  let past := m.flags % 8 = 2 || farWindow m.line
  let drop := delLine s m.die m.line
  match m.kind with
  | .gets =>
    if past then farGets drop { m with flags := m.flags / 8 * 8 + 2 } else
      (match old with
       | some e => if cur e then reply (noteHit s m.die m.line e) m .data e.data 4 else farGets s m
       | none => farGets s m)
  | .wr => farSend (match old with
      | some e => if cur e then noteHit s m.die m.line { e with data := mergeLine e.data m.data m.mask } else s
      | none => count s) m 0x03
  | .atom => farSend (count drop) m 0x04
  | .red => if past then farSend (count drop) m 0x05 else startPart s m
  | .strip => farSend drop m 0x07
  | _ => s

/-- A core's request at a slice that is not the home (R184, R195). -/
def guestStart (s : State) (m : Msg) : State :=
  match getLine s m.die m.line with
  | some e =>
    if e.st = .part then (if m.kind = .red && m.flags % 8 ≠ 2 && m.op = e.op && m.ty = e.ty then gather s m else pushWait s m.die m.line m)
    else if !isLocal s m.line then farStart s m (some e)
    else if e.st = .gm then
      match m.kind with
      | .gets => guestHit s m e
      | .atom => passOn s m .atom false m.flags
      | .strip => passOn s m .strip false m.flags
      | _ => ownApply (noteHit s m.die m.line e) m e
    else
      match m.kind with
      | .gets => guestHit s m e
      | .red => let s := noteHit s m.die m.line e
                if m.flags % 8 = 2 then passOn s m .red false m.flags else startPart s m
      | .wr => guestWrite (noteHit s m.die m.line e) m true
      | .strip => passOn s m .strip false m.flags
      | k => passOn (noteHit s m.die m.line e) m k false m.flags
  | none =>
    if !isLocal s m.line then farStart s m none
    else
      match m.kind with
      | .gets =>
        let go := fun (s : State) => let (s, gut) := countMiss s m (getsAlloc m); passOn s m .gets true m.flags gut
        if getsAlloc m then withRoom s m (agentInst s m.req m.line) go else go s
      | .red => if m.flags % 8 = 2 then passOn (countMiss s m false).1 m .red false m.flags else startPart s m
      | .wr => guestWrite s m false
      | .strip => passOn s m .strip false m.flags
      | k => passOn (countMiss s m false).1 m k false m.flags

/-- The answer to a request that a guest slice passed on: its requester is answered, the line leaves BUSY (R195). -/
def guestFinish (s : State) (die line : Nat) (t : Txn) (ans : MsgKind) (data : Line) (flags : Nat) (err : Nat := 0) : State :=
  let m := t.msg
  let bad : Bool := flags % 2 = 1
  match m.kind with
  | .gets =>
    let inst := !t.stale && !bad && getsAlloc m && flags / 4 % 2 = 0
    let s := if inst then install s die line (agentInst s m.req line) (setHolder { st := .gs, data := data, strm := gutBy t.gut m.req } m) else s
    leaveBusy (reply s m .data data (bad.toNat + (if inst then 0 else 4) + flags / 64 % 2 * 64) err) die line
  | .wr =>
    if t.needData then
      -- GETM not granted: the write itself goes to the home
      if flags / 2 % 2 = 1 then send (setBusy s die line { t with acks := 1, needData := false }) { asGuest m .wr with flags := m.flags }
      else
        -- the slice owns the line, and takes the write again
        let old := getLine s die line
        let base := if ans = .ack then (old.map (·.data)).getD data else data
        let e : SEntry := match old with | some o => { o with st := .gm, data := base, bad := bad } | none => { st := .gm, data := base, bad := bad }
        let s := install s die line (agentInst s m.req line) e
        leaveBusy { s with coh := { s.coh with net := m :: s.coh.net } } die line
    else leaveBusy (reply s m .ack 0 0) die line
  | .atom => leaveBusy (reply s m .atomResult data flags err) die line
  | _ => leaveBusy (reply s m .ack 0 0) die line

/-- Halves on the way of a request to its slice. -/
def reqHalves (m : Msg) : List Nat :=
  halvesTo (match m.req with
    | .core c => coreHalf c | .engine ch => chanHalf ch | .walker w => w | .guest d t => sliceHalf d t | .port p => 8 + p / 4 | _ => 8) (sliceHalf m.die m.slice)

/-- A crossing on the way of a request is still in the handshake of R273, so it is answered NACK. -/
def resyncing (s : State) (m : Msg) : Bool :=
  wayResync s (reqHalves m) (match m.req with | .core _ | .guest _ _ | .engine _ | .walker _ => false | _ => true)

/-- A request reaches a slice: refused, or taken (R195, R196). A home die in reset or with an isolated half answers FENCED (R26, R27), and so
does a crossing to an isolated half or to a die in reset on its way (R273, R275). -/
def sliceReq (m : Msg) (kind : MsgKind) (s : State) : State :=
  if m.kind ≠ kind || !isFirst s m then s else
    match takeMsg s m with
    | none => s
    | some s1 =>
      let home := isLocal s m.line && m.die = homeDie m.line
      if !((reqHalves m).all (halfUp s1) && (!home || dieUp s1 m.die)) then kick (useTicket (reply s1 m .fenced 0 0) m) m.die m.line
      else if resyncing s1 m then refuse s1 m
      else match accept s1 m with
        | none => if called s1 m then hold s1 m else refuse s1 m
        | some s2 => kick (if home then homeStart s2 m else guestStart s2 m) m.die m.line

/-- A slice reads an entry's data (R463): a correctable error is corrected; an uncorrectable one drops a clean line, which is read again, or
leaves a dirty line marked uncorrectable. -/
def thatchRead (s : State) (die slice line : Nat) (out : EccOut) : State :=
  let r : ErrRec := { mst := 0, code := 0x0201, sev := 1, strct := 6, loc := die * 96 + slice, addr := locLine line * 64 }
  match getLine s die line with
  | some e =>
    if slice ≠ sliceOf line then s else
      match out with
      | .ok => s
      | .corrected _ => logCorrected s (unitSlice die slice) r
      | .uncorrectable =>
        if e.st = .hd || e.st = .gm || e.st = .part then
          logErr (setLine s die line { e with bad := true }) { r with code := 0x0202, sev := 2 }
        else logCorrected s (unitSlice die slice) r
  | none => s

/-- A shared read; `e`: how the slice's data array behaves where it holds the line (R463). -/
def execGets (m : Msg) (e : Sram) (s : State) : Out :=
  .next (
    let out := match e with | .ok => EccOut.ok | .corrected _ => .corrected 0 | .uncorrectable _ => .uncorrectable
    sliceReq m .gets (if isFirst s m && m.kind = .gets then thatchRead s m.die m.slice m.line out else s))
def execGetm (m : Msg) (s : State) : Out := .next (sliceReq m .getm s)
def execWr (m : Msg) (s : State) : Out := .next (sliceReq m .wr s)
def execAtomMsg (m : Msg) (s : State) : Out := .next (sliceReq m .atom s)
def execRedMsg (m : Msg) (s : State) : Out := .next (sliceReq m .red s)
/-- REDW reaches the home, or leaves for the home device (R202, R297). -/
def execRedw (m : Msg) (s : State) : Out :=
  .next (if isLocal s m.line then sliceReq m .redw s
         else if m.kind ≠ .redw then s else
           match takeMsg s m with
           | none => s
           | some s1 => farSend s1 m 0x06)
def execPutm (m : Msg) (s : State) : Out := .next (sliceReq m .putm s)
def execStripMsg (m : Msg) (s : State) : Out := .next (sliceReq m .strip s)
def execClean (m : Msg) (s : State) : Out := .next (sliceReq m .clean s)
def execClaim (m : Msg) (s : State) : Out := .next (sliceReq m .claim s)

/-! ### FWD at the owner (R195, R214) -/

/-- Whether the line in a victim buffer is uncorrectable: its PUTM says so. -/
def victimBad (s : State) (d line : Nat) : Bool :=
  (s.coh.net ++ s.coh.refused.map (·.msg) ++ s.coh.pendInv.flatMap (·.out)).any (fun m =>
    m.kind = .putm && m.line = line && m.flags % 2 = 1 && (match m.req with | .guest x _ => x = d | _ => false))

/-- An owner's answers to a FWD: `toReq` sends DATA to the requester, `toHome` DATA or else an acknowledgement to the home; `keep`: it stays as
GS. A FWD that overtakes the fill, or meets a write under way in the line, waits for it; an owner that has evicted the line answers from its
victim buffer and says that it holds nothing further (bit 1 of `flags`). -/
def fwdAt (m : Msg) (kind : MsgKind) (toReq homeData keep : Bool) (s : State) : State :=
  if m.kind ≠ kind then s else
    match takeMsg s m with
    | none => s
    | some s1 =>
      let d := m.die
      let home : Msg := { kind := if homeData then .data else .ack, req := m.req, die := homeDie m.line, slice := m.slice, line := m.line, id := m.id, op := 1, src := d + 1 }
      let ix := errIndex s1 (locLine m.line)
      let out := fun (l : Line) (bad gone : Bool) =>
        (if toReq then [{ home with kind := MsgKind.data, die := d, op := 0, src := 0, thread := m.thread, data := l, flags := bad.toNat + stripFlag s1 m, err := ix }] else []) ++
        [{ home with data := if homeData then l else 0, flags := bad.toNat + 2 * gone.toNat, err := ix }]
      let wait := fun (t : Txn) => setBusy s1 d m.line { t with waiting := t.waiting ++ [m] }
      match getLine s1 d m.line, getBusy s1 d m.line with
      | some e, t? =>
        if e.st = .gm then
          match t?.filter (fun t => t.step = 2) with
          | some t => wait t
          | none =>
            if keep then each (out e.data e.bad false) (fun s m => send s m) (setLine s1 d m.line { e with st := .gs })
            else afterInv (delLine s1 d m.line) d m.line (sharersOf d e.sharers) (out e.data e.bad false)
        else match t? with
          | some t => wait t
          | none => each (out e.data e.bad true) (fun s m => send s m) s1
      | none, t? =>
        match s1.coh.victims.get (lkey d m.line), t? with
        | some l, _ => afterInv s1 d m.line [] (out l (victimBad s1 d m.line) true)
        | none, some t => wait t
        | none, none => each (out 0 true true) (fun s m => send s m) s1

/-- SHARE: DATA to the requester and to the home; the owner goes to GS. -/
def execFwdShare (m : Msg) (s : State) : Out := .next (fwdAt m .fwdShare true true true s)
/-- OWN: DATA to the requester; the owner goes to GI. -/
def execFwdOwn (m : Msg) (s : State) : Out := .next (fwdAt m .fwdOwn true false false s)
/-- RECALL: DATA to the home; the owner goes to GI. -/
def execFwdRecall (m : Msg) (s : State) : Out := .next (fwdAt m .fwdRecall false true false s)
/-- DROP: the owner goes to GI without sending data. -/
def execFwdDrop (m : Msg) (s : State) : Out := .next (fwdAt m .fwdDrop false false false s)

/-! ### INV and the answers -/

/-- INV (R185, R215): an L1 drops the line and acknowledges; the stop of a fenced core acknowledges for it; a guest slice invalidates the L1s of
its die, drops its copy, and a GETS it has under way is not installed. -/
def execInv (m : Msg) (s : State) : Out :=
  .next (if m.kind ≠ .inv then s else
    match takeMsg s m with
    | none => s
    | some s1 =>
      let ack : Msg := { m with kind := .ack, op := 1 }
      match m.req with
      | .core c => send (l1Drop s1 c m.line) ack
      | .guest d _ =>
        let s1 := match getBusy s1 d m.line with
          | some t => setBusy s1 d m.line (if t.msg.kind = .gets then { t with stale := true } else t)
          | none => s1
        (match (getLine s1 d m.line).filter (fun e => e.st = .gs) with
         | some e => afterInv (delLine s1 d m.line) d m.line (sharersOf d e.sharers) [ack]
         | none => afterInv s1 d m.line [] [ack])
      | _ => send s1 ack)

/-- An answer reaches the slice that awaits it. -/
def sliceAnswer (s : State) (m : Msg) : State :=
  let c? := match m.req with | .core c => some c | _ => none
  match s.coh.pendInv.find? (fun p => p.die = m.die && p.line = m.line && m.kind = .ack && (c?.map (fun c => p.cores.contains c)).getD false) with
  | some p =>
    let p' := { p with cores := match c? with | some c => p.cores.erase c | none => p.cores }
    if p'.cores.isEmpty then
      kick (each p.out (fun s m => send s m) { s with coh := { s.coh with pendInv := s.coh.pendInv.erase p } }) m.die m.line
    else { s with coh := { s.coh with pendInv := s.coh.pendInv.map (fun q => if q = p then p' else q) } }
  | none =>
    match getBusy s m.die m.line with
    | none => s
    | some t =>
      let t := if m.kind = .data then { t with data := some m.data, bad := m.flags % 2 = 1, gone := m.flags / 2 % 2 = 1, err := m.err }
               else { t with acks := t.acks - 1 }
      let s := setBusy s m.die m.line t
      if t.acks = 0 && (!t.needData || t.data.isSome) then
        match t.step with
        | 2 => leaveBusy (ownDone s t.msg) m.die m.line
        | 3 => leaveBusy s m.die m.line
        | 4 => evictGo s t
        | 5 => evictGo (delLine s m.die m.line) { t with msg := { t.msg with flags := t.bad.toNat } }
        | _ => homeFinish s t
      else s

/-- One answer about a line goes to the first descriptor that awaits one: of a CLEAN or CLAIM, or, when `red`, of a RED. -/
def ackFirst (red : Bool) (line : Nat) : List DDesc → List DDesc
  | [] => []
  | d :: t =>
    if (if red then d.reds else d.awaiting).contains line then
      (if red then { d with reds := d.reds.erase line } else { d with awaiting := d.awaiting.erase line }) :: t
    else d :: ackFirst red line t

/-- A deck engine's CLEAN or CLAIM (id 0) or RED (id 1) is acknowledged (R247, R250). -/
def engineAck (s : State) (ch line id : Nat) : State :=
  let c := getChan s ch
  setChan s ch { c with queue := ackFirst (id = 1) line c.queue }

/-- A deck engine's request is answered FENCED: its descriptor's context faults, and the descriptor, whose line has not been given up or written, does not complete
(R168, R246). One of the Turnpike's asks again (R225). -/
def engineFenced (s : State) (ch line id : Nat) : State :=
  match (getChan s ch).queue.find? (fun d => (if id = 1 then d.reds else d.awaiting).contains line) with
  | some d =>
    if d.turnpike then
      let c := getChan s ch
      setChan s ch { c with queue := c.queue.map (fun q => if q.id = d.id then { q with awaiting := [], asked := [] } else q) }
    else raiseFault s { ctx := d.ctx, code := 0x0206, core := chanCore ch, pipe := d.pipe, slot := d.slot, group := true, addr := some (line * 64) }
  | none => s

/-- The operation code of a request (R289). -/
def reqOp (kind : MsgKind) (r : LinkReq) : Nat :=
  match kind with
  | .gets => if r.size = 16 then 0x02 else 0x01
  | .wr => 0x03 | .atom => 0x04 | .red => if r.merge then 0x06 else 0x05 | .redw => 0x06 | _ => 0x07

/-- The message that a request of another device is (R289). -/
def reqMsg (kind : MsgKind) (r : LinkReq) (dest : Nat) : LMsg :=
  let op := reqOp kind r
  { op := op, dest := dest, src := r.src, tag := r.tag, gen := r.gen, addr := r.addr, param := if 4 ≤ op && op ≤ 6 then r.op + 16 * r.ty else 0,
    mask := r.mask, data := r.data, sub := r.sub }

/-- The answer of a request that came from a link port, as the link sends it back (R297, R299); its slots in the ingress buffer go free (R292). -/
def portAnswer (s : State) (p id : Nat) (op : Nat) (data : Line) (param : Nat) : State :=
  match s.link.inReqs.find? (fun q => q.port = p && q.id = id) with
  | none => s
  | some q =>
    let s := freeSlots { s with link := { s.link with inReqs := s.link.inReqs.erase q } } q.port (reqMsg q.kind q.r 0)
    (linkSend s { op := op, dest := q.r.src, src := myDev s, tag := q.r.tag, gen := q.r.gen, param := param, data := data }).2

/-- ACK reaches the slice that awaits it, or the requester (R192, R195). -/
def execAck (m : Msg) (s : State) : Out :=
  .next (if m.kind ≠ .ack then s else
    match takeMsg s m with
    | none => s
    | some s1 =>
      if m.op = 1 then sliceAnswer s1 m else
        match m.req with
        | .core c => opDone s1 c m.id (fun p => p.addr / 64 = m.line && (m.mask = 0 || m.thread = p.thread || p.size = 64))
        | .guest d _ =>
          (match getBusy s1 d m.line with
           | some t =>
             if t.msg.kind = .redw then leaveBusy (delLine s1 d m.line) d m.line
             else guestFinish s1 d m.line t .ack 0 m.flags
           | none => s1)
        | .engine ch => engineAck s1 ch m.line m.id
        | .turnpike => tpGot s1 m.id none
        | .host _ => hdmGot s1 m.id none
        | .port p => portAnswer s1 p m.id 0x20 0 0
        | _ => s1)

/-- The answer of a port's read (R289, R299): a line, or the granule asked for. -/
def portData (s : State) (p id : Nat) (data : Line) (bad : Bool) : State :=
  match s.link.inReqs.find? (fun q => q.port = p && q.id = id) with
  | none => s
  | some q =>
    let l : Line := if q.r.size = 16 then BitVec.ofNat 512 (lineNat data (q.r.addr % 64) 16) else data
    portAnswer s p id (if q.r.size = 16 then 0x41 else 0x40) l bad.toNat

/-- DATA reaches the slice that awaits it, or the requester (R195, R205, R215). -/
def execData (m : Msg) (s : State) : Out :=
  .next (if m.kind ≠ .data then s else
    match takeMsg s m with
    | none => s
    | some s1 =>
      if m.op = 1 then sliceAnswer s1 m else
        match m.req with
        | .core c => coreData s1 c m.id m.line m.data m.flags m.err
        | .guest d _ =>
          (match getBusy s1 d m.line with
           | some t => guestFinish s1 d m.line t .data m.data m.flags m.err
           | none => s1)
        | .port p => portData s1 p m.id m.data (m.flags % 2 = 1)
        -- an uncorrectable line of another device (R237)
        | .turnpike => if m.flags % 2 = 1 then tpFail s1 m.id m.line 0x0207 m.err
            else if m.flags / 64 % 2 = 1 then tpFail s1 m.id m.line 0x0205 0
            else tpGot s1 m.id (some (m.line, m.data))
        | .host _ => hdmGot s1 m.id (if m.flags % 2 = 1 then none else some (m.line, m.data))
        | _ => s1)

/-- The result of an atomic reaches its requester (R199). -/
def execAtomicResult (m : Msg) (s : State) : Out :=
  .next (if m.kind ≠ .atomResult then s else
    match takeMsg s m with
    | none => s
    | some s1 =>
      match m.req with
      | .core c =>
        -- a RELEASE is a write performed by the atomic unit
        coreResult s1 c m.id m.line m.thread m.data.toNat m.flags m.err
      | .guest d _ =>
        (match getBusy s1 d m.line with
         | some t => guestFinish s1 d m.line t .atomResult m.data m.flags m.err
         | none => s1)
      | .port p => portAnswer s1 p m.id 0x21 m.data (m.flags % 2)
      | _ => s1)

/-- FENCED reaches its requester (R26, R163): the context faults with FENCED_ACCESS; a guest slice passes it on; a link request is answered
FENCED. -/
def execFencedRsp (m : Msg) (s : State) : Out :=
  .next (if m.kind ≠ .fenced then s else
    match takeMsg s m with
    | none => s
    | some s1 =>
      match m.req with
      | .core c => coreFail s1 c m.id m.line 0x0206 0
      | .guest d _ =>
        (match getBusy s1 d m.line with
         | some t =>
           if t.msg.kind = .redw then leaveBusy (delLine (partFail s1 d m.line 0x0206 0) d m.line) d m.line
           else leaveBusy (reply s1 t.msg .fenced 0 0) d m.line
         | none => kick { s1 with coh := { s1.coh with victims := s1.coh.victims.del (lkey d m.line) } } d m.line)
      | .engine ch => engineFenced s1 ch m.line m.id
      | .turnpike => tpFail s1 m.id m.line 0x0206 0
      | .host _ => hdmGot s1 m.id none
      | .port p => portAnswer s1 p m.id 0x22 0 0
      | _ => s1)

/-- PUTACK: the victim buffer is freed (R214). -/
def execPutack (m : Msg) (s : State) : Out :=
  .next (if m.kind ≠ .putack then s else
    match takeMsg s m with
    | none => s
    | some s1 =>
      match m.req with
      | .guest d _ => kick { s1 with coh := { s1.coh with victims := s1.coh.victims.del (lkey d m.line) } } d m.line
      | _ => s1)

/-! ### Refusals at the requester -/

/-- The refused request that an answer is about. -/
def refusedOf (s : State) (m : Msg) : Option Refused :=
  s.coh.refused.find? (fun r => r.msg.req = m.req && r.msg.line = m.line && r.msg.id = m.id && r.msg.thread = m.thread && r.msg.die = m.die)

/-- NACK (R196): the requester waits min(16 × 2^(n−1), 1,024) cycles of its own clock and 0 to 15 drawn at random. -/
def execNack (m : Msg) (s : State) : Out :=
  .next (if m.kind ≠ .nack then s else
    match takeMsg s m with
    | none => s
    | some s1 =>
      match refusedOf s1 m with
      | some r =>
        let (j, s1) := free s1
        let w := min (16 * 2 ^ (r.msg.tries - 1)) 1024 + j % 16
        let r' := { r with armed := true, ready := cycles s1 (agentHalf r.msg.req) + w }
        { s1 with coh := { s1.coh with refused := s1.coh.refused.map (fun q => if q = r then r' else q) } }
      | none => s1)

/-- The wait after a NACK is over: the request is sent again (R196). -/
def execNackRetry (m : Msg) (s : State) : Out :=
  .next (match s.coh.refused.find? (fun r => r.msg = m && r.armed && !r.ticket) with
    | some r =>
      if r.ready ≤ cycles s (agentHalf m.req) then
        { s with coh := { s.coh with refused := s.coh.refused.erase r, net := s.coh.net ++ [m] } }
      else s
    | none => s)

/-- TICKET reaches its holder, which sends nothing further until GO (R197). -/
def execTicket (m : Msg) (s : State) : Out :=
  .next (if m.kind ≠ .ticket then s else
    match takeMsg s m with
    | none => s
    | some s1 =>
      match refusedOf s1 m with
      | some r => { s1 with coh := { s1.coh with refused := s1.coh.refused.map (fun q => if q = r then { r with ticket := true, armed := true } else q) } }
      | none => s1)

/-- GO: the holder sends its request again (R197). -/
def execGo (m : Msg) (s : State) : Out :=
  .next (if m.kind ≠ .go then s else
    match takeMsg s m with
    | none => s
    | some s1 =>
      match s1.coh.refused.find? (fun r => r.ticket && r.msg.req = m.req && r.msg.line = m.line && r.msg.id = m.id && r.msg.die = m.die) with
      | some r => { s1 with coh := { s1.coh with refused := s1.coh.refused.erase r, net := s1.coh.net ++ [r.msg] } }
      | none => s1)

/-! ### Epochs (R205, R206) -/

/-- The fences of a tag's contexts no longer wait for an advance. -/
def advanceDone (s : State) (tag : Nat) : State :=
  let s := { s with coh := { s.coh with advances := s.coh.advances.filter (fun a => a.1 ≠ tag) } }
  { s with cores := s.cores.map (fun e =>
      if ((e.2.ctx.bind (getCtx s)).bind (·.farTag)) = some tag then
        let l := fun (fs : List FenceRec) => fs.map (fun r => { r with advance := false })
        let f := fun (p : Path) => { p with fences := l p.fences }
        (e.1, { e.2 with groups := e.2.groups.mapV (fun _ x =>
          { x with run := x.run.map f, others := x.others.map f, entries := x.entries.map (fun r => { r with fences := l r.fences }) }) })
      else e) }

/-- Slices have advanced a tag's epoch: the advance is complete once every slice has (R206). -/
def advanced (s : State) (tag : Nat) (ls : List Nat) : State :=
  match s.coh.advances.find? (fun a => a.1 = tag) with
  | none => s
  | some a =>
    let left := a.2.filter (fun k => !ls.contains k)
    if left.isEmpty then advanceDone s tag
    else { s with coh := { s.coh with advances := s.coh.advances.map (fun b => if b.1 = tag then (tag, left) else b) } }

/-- EPOCH reaches slices (R206): in each the tag's epoch advances; past 0xFFFF the tag's lines are removed there first. -/
def execEpoch (e : EpochAt) (s : State) : Out :=
  .next (
    let left := ((s.coh.advances.find? (fun a => a.1 = e.tag)).map (·.2)).getD []
    let now := e.slices.filter (fun k => left.contains k && !s.coh.sweeps.contains (k, e.tag))
    let full := now.filter (fun k => s.coh.epochs.getD (k * 256 + e.tag) 0 ≥ 0xFFFF)
    let go := now.filter (fun k => !full.contains k)
    if now.isEmpty then s else
      let s := { s with coh := { s.coh with
        sweeps := s.coh.sweeps ++ full.map (fun k => (k, e.tag))
        epochs := go.foldl (fun m k => m.set (k * 256 + e.tag) 0 (m.getD (k * 256 + e.tag) 0 + 1)) s.coh.epochs } }
      advanced s e.tag go)

/-- Slices have removed a tag's lines (R206): the epoch restarts at 0. TH_EPOCH_SWEEP counts the removal in each slice (log 172, DESIGN CHOICE). -/
def execEpochSweepDone (e : EpochAt) (s : State) : Out :=
  .next (
    let now := e.slices.filter (fun k => s.coh.sweeps.contains (k, e.tag))
    if now.isEmpty then s else
      let s := each now (fun s k => bump s .TH_EPOCH_SWEEP_COUNT (k / 96)) (sweepTag s e.tag now)
      let s := { s with coh := { s.coh with
        sweeps := s.coh.sweeps.filter (fun w => !(w.2 = e.tag && now.contains w.1))
        epochs := now.foldl (fun m k => m.del (k * 256 + e.tag)) s.coh.epochs } }
      advanced s e.tag now)

/-- A far tag that is given to a new context is removed in every slice (R206). -/
def freshTag (s : State) (tag : Nat) : State :=
  let all := List.range 384
  let s := each (List.range 4) (fun s d => wr s .TH_EPOCH_SWEEP_COUNT d (rd s .TH_EPOCH_SWEEP_COUNT d + 96)) (sweepTag s tag all)
  { s with coh := { s.coh with epochs := all.foldl (fun m k => m.del (k * 256 + tag)) s.coh.epochs } }

/-- A stream with no miss for 4,096 cycles ends (R208). -/
def execStreamTimeout (die slice : Nat) (req : Agent) (range : Nat) (s : State) : Out :=
  .next (
    let key := die * 96 + slice
    let l := s.coh.streams.getD key []
    let now := cycles s (sliceHalf die slice)
    { s with coh := { s.coh with streams := s.coh.streams.set key [] (l.filter (fun t => !(t.agent = req && t.range = range && t.stamp + 4096 ≤ now))) } })

end Sys2Proof.Machine
end

