-- ==== Sys2Proof/Machine/Deck.lean ====
section
/-! DEFINITION. The deck (chapter 09 without its engines): walks and first touches (R223-R225, R489-R493), the channel controllers' reads, write-backs
and residency (R226-R230), refresh (R232, R233), temperature (R234), errors, patrol scrub and page retirement (R237-R241), and the slices'
scrub (R463, R464). Log 41, DEDUCED: which pages the allocator takes for free; log 42, DESIGN CHOICE: which page of a channel; log 43, DEDUCED: whose DECK_BYTES; log 44, DEDUCED: the
severities of page records. -/

namespace Sys2Proof.Machine

/-- DK_RETIRE_REQ retires a page by hand (R241). -/
def execDkRetireReq (page : Nat) (s : State) : Out := .next (pageCandidate s page 4)

/-! ### The channel controller (R226-R230) -/

/-- A channel controller serves a read of a slice (R229, R230, R237): residency rises with an allocating read. A read waits behind a write-back
of its line. -/
def execDeckRead (m : Msg) (out : EccOut) (s : State) : Out :=
  let loc := locLine m.line
  let ch := chanOf (loc * 64)
  let gran : Bool := match getBusy s m.die m.line with | some t => t.msg.kind = .gets && t.msg.flags ≥ 8 | none => false
  .next (if m.kind ≠ .deckRead || wbQueued s m.line || !serves s ch (readClass m) (if gran then 1 else 2) then s else
    match takeMsg s m with
    | none => s
    | some s1 =>
      let s1 := useSlot s1 ch (readClass m) (if gran then 1 else 2)
      let s1 := if readClass m = .crit then setChan s1 ch { getChan s1 ch with critTurn := false } else s1
      let s1 := if m.flags % 2 = 1 then setRes s1 (pageOf (loc * 64)) (resOf s1 (pageOf (loc * 64)) + 1) else s1
      let s1 := match (getBusy s m.die m.line).bind (fun t => msgCtx s t.msg) with
        | some n => toll s1 n 4 (if gran then 16 else 64)
        | none => s1
      let (bad, s1) := arrayRead s1 loc out
      send s1 { kind := .data, req := m.req, die := m.die, slice := m.slice, line := m.line, id := m.id, data := deckLine s1 loc,
                op := 1, flags := bad.toNat, err := if bad then errIndex s1 loc else 0 })

/-- A write-back reaches the controller (R230, R237): the line is written with fresh check, or with the data-poison mark (bit 0 of `flags`). It is
acknowledged where the line is BUSY for it: kept in the slice (bit 1), or evicted (bit 2), when the residency falls, as it does for one that
nobody awaits. It is a NORM request (R226). -/
def execWriteBack (m : Msg) (s : State) : Out :=
  .next (if m.kind ≠ .writeBack || !serves s (chanOf (locLine m.line * 64)) .norm then s else
    match takeMsg s m with
    | none => s
    | some s1 =>
      let s1 := useSlot s1 (chanOf (locLine m.line * 64)) .norm 2
      let loc := locLine m.line
      let page := pageOf (loc * 64)
      let s1 := putDeck s1 loc m.data
      let s1 := if m.flags % 2 = 1 then setMark s1 loc (some .poison) else s1
      let s1 := if m.flags / 2 % 2 = 1 then s1 else setRes s1 page (resOf s1 page - 1)
      if m.flags / 2 ≠ 0 then
        send s1 { kind := .ack, req := m.req, die := m.die, slice := m.slice, line := m.line, id := m.id, op := 1 }
      else s1)

/-- A residency note (R230). -/
def execResidencyNote (m : Msg) (s : State) : Out :=
  .next (if m.kind ≠ .residencyNote then s else
    match takeMsg s m with
    | none => s
    | some s1 =>
      let page := pageOf (locLine m.line * 64)
      setRes s1 page (resOf s1 page - 1))

/-- A new 1 µs begins: CRIT's share of the last is shown and its cap restored (R227, R255). -/
def execCritWindow (chan : Nat) (s : State) : Out :=
  .next (
    let c := getChan s chan
    if s.now < c.critStart + 1000 then s else
      let start := s.now / 1000 * 1000
      -- what a hold in progress takes of the new 1 µs
      let held := match c.refBusy with | some t => t + 280 - start | none => 0
      wr (setChan s chan { c with critHalf := 0, critStart := start, refNs := held }) .DK_CHAN_STATUS_CRIT_PCT chan (c.critHalf / 20))

/-- A write-combining entry has stood 2 µs (R229): it is flushed as a NORM request, whose read meets what the check finds (R226, R254). -/
def execWcbTimeout (chan : Nat) (at_ : LineRead) (s : State) : Out :=
  .next (match (getChan s chan).wcb.find? (fun w => w.line = at_.line) with
    | some w => if chanOf (at_.line * 64) = chan && w.since + 2000 ≤ s.now && serves s chan .norm (if w.mask = BitVec.allOnes 64 then 2 else 4) then
        flushAs s at_.line at_.out else s
    | none => s)

/-! ### Refresh (R232, R233) -/

/-- Interval of a channel's refreshes, ns. -/
def refInterval (s : State) (ch : Nat) : Nat := if flag s .DK_CHAN_STATUS_HOT ch then 3900 else 7800

/-- A die's deck is under its channel controllers, not in self-refresh (R235). -/
def refreshed (s : State) (d : Nat) : Bool := (rd s .PS_STATUS_STATE = 1 || rd s .PS_STATUS_STATE = 2) && !s.die.down.contains d && !s.die.dead.contains d

/-- A refresh hold begins (R232): `kind` 0 forced, 1 owed, 2 ahead. Its time is none of CRIT's (R227). -/
def beginRefresh (s : State) (chan kind : Nat) : State :=
  let c := getChan s chan
  setChan s chan { c with refBusy := some s.now, refKind := kind, forced := c.forced && kind ≠ 0, refNs := c.refNs + min 280 (c.critStart + 1000 - s.now) }

/-- A refresh falls due: AHEAD falls, else OWED rises; a ninth is forced, and takes the channel at once (R227, R232). -/
def execRefreshDue (chan : Nat) (s : State) : Out :=
  .next (
    let c := getChan s chan
    if !refreshed s (chan / 512) || s.now < c.refDue + refInterval s chan then s else
      -- after a gap (self-refresh, a start) the interval runs from here
      let s := setChan s chan { c with refDue := if s.now < c.refDue + 2 * refInterval s chan then c.refDue + refInterval s chan else s.now }
      let ahead := rd s .DK_CHAN_STATUS_AHEAD chan
      let owed := rd s .DK_CHAN_STATUS_OWED chan
      if ahead ≠ 0 then wr s .DK_CHAN_STATUS_AHEAD chan (ahead - 1)
      else if owed < 8 then wr s .DK_CHAN_STATUS_OWED chan (owed + 1)
      -- behind a hold in progress, whose refresh is still to be counted
      else if (getChan s chan).refBusy.isSome then setChan s chan { getChan s chan with forced := true }
      else beginRefresh s chan 0)

/-- Both counts of every channel of a half are done. -/
def windowDone (s : State) (half : Nat) : Bool :=
  (List.range 256).all (fun j => rd s .DK_CHAN_STATUS_OWED (half * 256 + j) = 0 && rd s .DK_CHAN_STATUS_AHEAD (half * 256 + j) = 8)

/-- Close a half's refresh window: progress is kept (R233). -/
def closeWindow (s : State) (half : Nat) : State := { s with deck := { s.deck with wins := s.deck.wins.del half } }

/-- The hold in progress ends (R232): its refresh is counted, and inside a window one queued CRIT request is to go first (R233). -/
def endRefresh (s : State) (chan : Nat) : State :=
  let c := getChan s chan
  let win := (s.deck.wins.get (chanHalf chan)).isSome
  let s := setChan s chan { c with refBusy := none, refKind := 0, critTurn := win }
  let s := match c.refKind with
    | 1 => wr s .DK_CHAN_STATUS_OWED chan (rd s .DK_CHAN_STATUS_OWED chan - 1)
    | 2 => wr s .DK_CHAN_STATUS_AHEAD chan (min 8 (rd s .DK_CHAN_STATUS_AHEAD chan + 1))
    | _ => s
  if win && windowDone s (chanHalf chan) then closeWindow s (chanHalf chan) else s

/-- The refresh engine of a channel (R232, R233; log 155, DESIGN CHOICE): a hold that has stood 280 ns ends; where none stands the next begins: a
forced one, an owed one as a BACK request or, inside a window, an owed one and then one ahead, after a queued CRIT request that is to go between two holds. -/
def execRefreshDone (chan : Nat) (s : State) : Out :=
  .next (
    if !refreshed s (chan / 512) then s else
      let c := getChan s chan
      let win := (s.deck.wins.get (chanHalf chan)).isSome
      match c.refBusy with
      | some t => if t + 280 ≤ s.now then endRefresh s chan else s
      | none =>
        if c.forced then beginRefresh s chan 0
        else if win && c.critTurn && critQueued s chan then s
        else if rd s .DK_CHAN_STATUS_OWED chan ≠ 0 then
          (if win then beginRefresh s chan 1 else if serves s chan .back then beginRefresh (useSlot s chan .back 2) chan 1 else s)
        else if win && rd s .DK_CHAN_STATUS_AHEAD chan < 8 then beginRefresh s chan 2
        else if win && windowDone s (chanHalf chan) then closeWindow s (chanHalf chan) else s)

/-- A window's DURATION ends (R233). -/
def execRefreshWindowExpiry (half : Nat) (s : State) : Out :=
  .next (match s.deck.wins.get half with
    | some w => if w.until_ ≤ s.now then closeWindow s half else s
    | none => s)

/-! ### Temperature (R234) -/

/-- Key of a die's quadrant, 0-15: half × 8 + VQ. -/
def quadKey (die quad : Nat) : Nat := die * 16 + quad

/-- The hottest sensor of a quadrant. -/
def quadTemp (s : State) (die quad : Nat) : Nat :=
  (List.range 4).foldl (fun a l => max a (s.deck.temps.getD (quadKey die quad * 4 + l) 0)) 0

/-- Channels beneath a quadrant: those of the M-cores in it (R16, R24). -/
def quadChans (die quad : Nat) : List Nat :=
  ((List.range 64).filter (fun i => quadOf i = quad % 8)).flatMap (fun i => (List.range 4).map (fun j => die * 512 + quad / 8 * 256 + 4 * i + j))

/-- A threshold with its end: the bit goes on at `hi` and off at `lo`. -/
def hyst (was : Bool) (t hi lo : Nat) : Bool := if was then t > lo else t ≥ hi

/-- A deck sensor of a quadrant reads a new value (R234): the refresh interval, the ceiling request, the stop of matrix issue, and the time at
98 °C follow the quadrant's hottest sensor. -/
def execDeckTempChange (die quad layer temp : Nat) (s : State) : Out :=
  .next (
    let s := { s with deck := { s.deck with temps := s.deck.temps.set (quadKey die quad * 4 + layer % 4) 0 temp } }
    let k := quadKey die quad
    let q := s.deck.quads.getD k 0
    let t := quadTemp s die quad
    let h85 := hyst (tb q 0) t 86 83
    let c90 := hyst (tb q 1) t 90 87
    let s95 := hyst (tb q 2) t 95 92
    let s := { s with deck := { s.deck with
      quads := s.deck.quads.set k 0 (h85.toNat + 2 * c90.toNat + 4 * s95.toNat)
      hotSince := if t ≥ 98 then (if (s.deck.hotSince.get k).isSome then s.deck.hotSince else s.deck.hotSince.put k s.now) else s.deck.hotSince.del k } }
    let s := each (quadChans die quad) (fun s c => setFlag s .DK_CHAN_STATUS_HOT c h85) s
    let any := fun b => (List.range 16).any (fun j => tb (s.deck.quads.getD (quadKey die j) 0) b)
    let was := flag s .DK_TEMP_STOP95 die
    let was90 := flag s .DK_TEMP_CEIL90 die
    let lay := (List.range 4).map (fun l => (List.range 16).foldl (fun a j => max a (s.deck.temps.getD (quadKey die j * 4 + l) 0)) 0)
    let s1 := wr (wr s .DK_TEMP_LAYER die (leNat (lay.map (BitVec.ofNat 8)))) .DK_TEMP_MAX die (lay.foldl max 0)
    let s1 := setFlag (setFlag (setFlag s1 .DK_TEMP_HOT85 die (any 0)) .DK_TEMP_CEIL90 die (any 1)) .DK_TEMP_STOP95 die (any 2)
    let s1 := if any 1 && !was90 then thermalOn s1 die else if !any 1 && was90 then thermalOff s1 die else s1
    if any 2 && !was then coldDie s1 die else s1)

/-! ### Scrubs (R239, R463, R464) -/

/-- Patrol scrub reads the next line, as a BACK request (R226, R239). -/
def execPatrolScrubRead (out : EccOut) (s : State) : Out :=
  .next (
    let st := rd s .PS_STATUS_STATE
    let page := rd s .DK_SCRUB_STATUS_PAGE
    if !flag s .DK_SCRUB_CTRL_EN || !(st = 1 || st = 2) || s.boot.runNs < scrubDue s || !serves s (chanOf (page * 65536)) .back then s else
      let loc := page * 1024 + s.deck.scrubbed
      let (_, s1) := arrayRead (useSlot s (chanOf (page * 65536)) .back 2) loc out
      if s.deck.scrubbed + 1 < 1024 then { s1 with deck := { s1.deck with scrubbed := s.deck.scrubbed + 1 } } else
        let s1 := { s1 with deck := { s1.deck with scrubbed := 0 } }
        if page + 1 < pages then wr0 s1 .DK_SCRUB_STATUS_PAGE (page + 1)
        else
          let s1 := { s1 with deck := { s1.deck with scrubStart := s.deck.scrubStart + rd s .DK_SCRUB_CTRL_PERIOD_H * hourNs } }
          bump (wr0 s1 .DK_SCRUB_STATUS_PAGE 0) .DK_SCRUB_STATUS_PASSES)

/-- A slice scrubs an entry (R463, R464). -/
def execThatchScrub (die slice line : Nat) (out : EccOut) (s : State) : Out := .next (thatchRead s die slice line out)

/-! ### Walks and first touches (R223-R225, R491-R493) -/

/-- Whether the allocator may give a page out (log 41, DEDUCED). -/
def pageFree (s : State) (page : Nat) : Bool :=
  (s.deck.owner.get page).isNone && !s.deck.retired.contains page && !s.deck.zeroing.contains page

/-- Pages of a channel in the OWNED units of an instance. -/
def chanPages (s : State) (inst ch : Nat) : List Nat :=
  let d := ch / 512
  ((List.range 96).filter (fun u => rd s .IN_UNIT_DATA_OWNER (d * 96 + u) = inst && rd s .IN_UNIT_DATA_STATE (d * 96 + u) = 1)).flatMap
    (fun u => (List.range 32).map (fun k => d * 1572864 + u * 16384 + k * 512 + ch % 512))

/-- The free pages of a channel in an instance. -/
def freePages (s : State) (inst ch : Nat) : List Nat := (chanPages s inst ch).filter (pageFree s)

/-- The channel of a list with the most free pages, the first on a tie; none when no page is free. -/
def mostFree (s : State) (inst : Nat) (l : List Nat) : Option Nat :=
  (l.foldl (fun (a : Option (Nat × Nat)) ch =>
    let n := (freePages s inst ch).length
    match a with
    | none => if n = 0 then none else some (ch, n)
    | some (_, m) => if n > m then some (ch, n) else a) none).map (·.1)

/-- Rows of the cost table judged from a core (R221): near, same half, across the ridge, other die. -/
def rowChans (c row : Nat) : List Nat :=
  let near := if coreType c = 1 then (List.range 4).map (· + nearChan c) else []
  match row with
  | 0 => near
  | 1 => ((List.range 256).map (· + coreHalf c * 256)).filter (fun ch => !near.contains ch)
  | 2 => (List.range 256).map (· + (2 * coreDie c + (1 - coreHalf c % 2)) * 256)
  | _ => (List.range 2048).filter (fun ch => ch / 512 ≠ coreDie c)

/-- The row of a channel judged from a core. -/
def chanRow (c ch : Nat) : Nat :=
  if coreType c = 1 && nearChan c ≤ ch && ch < nearChan c + 4 then 0
  else if chanHalf ch = coreHalf c then 1 else if ch / 512 = coreDie c then 2 else 3

/-- The channel for a first touch (R223, R224): `core` is the touching core, `eng` when a deck engine of it touches. The rows other than the chosen channel's are
searched first, its own row last (log 182, DESIGN CHOICE). -/
def touchChan (s : State) (x : Ctx) (v : Nat) (core : Option Nat) (eng : Bool) : Option Nat :=
  match core with
  | none =>
    let ch := v % 2048
    if (freePages s x.inst ch).isEmpty then mostFree s x.inst (List.range 2048) else some ch
  | some c =>
    let half := (List.range 256).map (· + coreHalf c * 256)
    let first := match x.policy with
      | 0 => if coreType c = 1 && !eng then mostFree s x.inst (rowChans c 0) else mostFree s x.inst half
      | 1 => some (coreHalf c * 256 + v % 256)
      | 2 => some (coreDie c * 512 + v % 512)
      | _ => some (v % 2048)
    let ok := match first with | some ch => !(freePages s x.inst ch).isEmpty | none => false
    if ok then first else
      let row := match first with | some ch => chanRow c ch | none => if x.policy = 0 && coreType c = 1 && !eng then 0 else 1
      let order := (List.range 4).filter (fun r => r > row) ++ (List.range 4).filter (fun r => r < row) ++ [row]
      order.findSome? (fun r => mostFree s x.inst (rowChans c r))

/-- One of a list that the spec does not single out; `k` says which (log 42, DESIGN CHOICE, 67). -/
def pick {α : Type} (k : Nat) (l : List α) : Option α := match l with | [] => none | [a] => some a | l => l[k % l.length]?

/-- Allocate and map a page for a deferred entry (R223, R490): the entry keeps its SW bits; which free page of the channel is open (log 42, DESIGN CHOICE).
None when the instance has no free page. -/
def touchPage (s : State) (ctx : Nat) (x : Ctx) (va entryAt : Nat) (core : Option Nat) (eng : Bool) : Option State :=
  match touchChan s x (va / 65536) core eng with
  | none => none
  | some ch =>
    let (k, s) := free s
    match pick k (freePages s x.inst ch) with
    | none => none
    | some p =>
      let a := myDev s * 2 ^ 40 + entryAt
      let e := orderNat s a 8
      let leaf := 0xF + (myDev s * 2 ^ 40 + p * 65536) % 2 ^ 52 + e / 2 ^ 56 * 2 ^ 56
      let s := { s with deck := { s.deck with owner := s.deck.owner.put p ctx } }
      some (orderWriteBytes s a (natLe 8 leaf) turnpikeWriter)

/-- The touching core of a walk's agent (R223), and whether a deck engine touches. -/
def touchCore : Agent → Option Nat × Bool
  | .core c => (some c, false)
  | .engine ch => (some (chanCore ch), true)
  | _ => (none, false)

/-- A fault of a walk, in the name of the path that asked for it, or of the engine (R97, R493). -/
def walkFault (s : State) (w : WalkReq) (code detail : Nat) : State :=
  match w.agent with
  | .core c => pathFault s { core := c, pipe := w.pipe, slot := w.slot } code detail (some w.insn) (some w.va) w.path w.pc
  | .engine ch =>
    -- a translation or permission that fails an engine is a fault of its descriptor (R246)
    let own : Bool := code = 0x0206 || code = 0x0207
    raiseFault s { ctx := w.ctx, code := if own then code else 0x0302, detail := if own then detail else ch, core := chanCore ch,
                   pipe := w.pipe, slot := w.slot, group := true, addr := some w.va }
  | _ => raiseFault s { ctx := w.ctx, code := code, detail := detail, core := 1024, addr := some w.va }

/-- Whether a half's Turnpike agent serves: not while it restarts (R336). -/
def agentUp (s : State) (half : Nat) : Bool := match s.sched.agents.get half with | some (_, some _) => false | _ => true

/-- The agent maps the page of a deferred entry, once for all who wait (R223, R224); a touch of a fenced core ends FENCED (R254). -/
def execFirstTouch (half ctx va : Nat) (s : State) : Out :=
  .next (match s.deck.walks.find? (fun w => w.deferred && w.half = half && w.ctx = ctx && w.va / 65536 = va / 65536) with
    | none => s
    | some w =>
      if !agentUp s half then s else
      let same := fun (v : WalkReq) => v.deferred && v.ctx = ctx && v.va / 65536 = va / 65536
      let drop := { s with deck := { s.deck with walks := s.deck.walks.filter (fun v => !same v) } }
      let (core, eng) := touchCore w.agent
      match getCtx s ctx with
      | none => drop
      | some x =>
        if (match core with | some c => !coreLive s c | none => false) then
          walkFault { s with deck := { s.deck with walks := s.deck.walks.erase w } } w (if eng then 0x0302 else 0x0206) 0
        else
          let retry := { s with deck := { s.deck with
            walks := (s.deck.walks.filter (fun v => !(same v && v.once))).map (fun v => if same v then { v with deferred := false } else v) } }
          match walkVa s x va w.acc with
          | .defer at_ =>
            (match touchPage retry ctx x va at_ core eng with
             | some s1 => s1
             | none => each (s.deck.walks.filter same) (fun s v => walkFault s v 0x0201 3) drop)
          | _ => retry)

/-- The descriptor that an engine works on: the first whose last line is not done (R249). -/
def current (s : State) (ch : Nat) : Option DDesc := (getChan s ch).queue.find? (fun d => d.phase ≠ 2)

/-- Change that descriptor. -/
def setCurrent (s : State) (ch : Nat) (f : DDesc → DDesc) : State :=
  match current s ch with
  | none => s
  | some d => let c := getChan s ch
              setChan s ch { c with queue := c.queue.map (fun q => if q.id = d.id then f q else q) }

/-- A translation reaches the descriptor that waits for it. -/
def headTrans (s : State) (ch : Nat) (t : TlbEntry) : State := setCurrent s ch (fun d => { d with trans := d.trans ++ [t] })

/-- A half's walker ends a walk of a context's address (R491-R493): the outcome, and the state in which it keeps the entries that it met. -/
def walkerEnd (s : State) (half ctx : Nat) (x : Ctx) (va : Nat) (acc : Access) : WalkEnd × State :=
  let old := s.deck.walkTlb.getD half []
  let (f, s) := if old.isEmpty then (0, s) else free s
  let kept := walkKept s half ctx va f
  let seen := walkSeen s kept ctx va 4 x.ptRoot 0
  let rest := old.filter (fun t => !seen.any (fun u => u.ctx = t.ctx && u.va = t.va && u.log2 = t.log2))
  (walkFrom s kept x va acc 4 x.ptRoot 0,
   if seen.isEmpty then s else { s with deck := { s.deck with walkTlb := s.deck.walkTlb.put half (rest ++ seen) } })

/-- A walk ends (R489-R493): the leaf enters the requester's cache, a deferred entry waits for its first touch, or the requester faults. -/
def execWalk (half ctx va : Nat) (acc : Access) (s : State) : Out :=
  .next (match s.deck.walks.find? (fun w => !w.deferred && w.half = half && w.ctx = ctx && w.va = va && w.acc = acc) with
    | none => s
    | some w =>
      let done := fun (s : State) => { s with deck := { s.deck with walks := s.deck.walks.erase w } }
      match getCtx s ctx with
      | none => done s
      | some x =>
        let (e, s) := walkerEnd s half ctx x va acc
        let s1 := done s
        match e with
        | .leaf e n =>
          let t : TlbEntry := { ctx := ctx, va := va / 2 ^ n * 2 ^ n, log2 := n, leaf := e }
          (match w.agent with
           | .core c => let k := getCore s1 c
                        let (j, s1) := free s1
                        if k.ctx = some ctx then setCore s1 c { k with tlb := tlbPut k.tlb 256 j t } else s1
           | .engine ch =>
             let (j, s1) := free s1
             let s1 := { s1 with deck := { s1.deck with engTlb := s1.deck.engTlb.put (ch / 4) (tlbPut (s1.deck.engTlb.getD (ch / 4) []) 64 j t) } }
             headTrans s1 ch t
           | _ => s1)
        | .defer _ => { s with deck := { s.deck with walks := s.deck.walks.map (fun v => if v = w then { v with deferred := true } else v) } }
        | .fault code detail => walkFault s1 w code detail
        | .fenced at_ => walkFault s1 { w with va := myDev s * 2 ^ 40 + at_ } 0x0206 0
        | .uncorrectable loc => let s1 := tableRead s1 loc
                               walkFault s1 w 0x0207 (errIndex s1 loc))

end Sys2Proof.Machine
end

