-- ==== Sys2Proof/Machine/Engines.lean ====
section
/-! DEFINITION. Matrix engines (chapter 06): issue of MMA, TLOAD, TSTORE and TCOLLECT, the scoreboard, completion of a command, ramp gates.
A command reads and writes in the events that MATRIX_CMD_COMPLETE brings (log 29, DESIGN CHOICE). Log 30, DEDUCED: block-scaled MMA forms and integer inputs with scales; log 31, DESIGN CHOICE: the
bank type that a TSTORE to INT8 reads; log 32, DESIGN CHOICE: how a tile move reaches memory. -/

namespace Sys2Proof.Machine

/-! ### Tiles (R54, R139) -/

/-- Bytes of a packed row of `n` elements (R54). -/
def rowBytes (ty n : Nat) : Nat :=
  match tyBits ty with
  | 6 => (n + 3) / 4 * 3
  | 4 => (n + 1) / 2
  | w => n * w / 8

/-- Row pitch of a tile in the loft (R139): E8M0 tiles have none added. -/
def pitch (ty n : Nat) : Nat := if ty = 11 then rowBytes ty n else (rowBytes ty n + 63) / 64 * 64

/-- Bytes from the base of a tile to its end. -/
def tileLen (ty rows cols : Nat) : Nat := (rows - 1) * pitch ty cols + rowBytes ty cols

/-- Element `j` of a packed row held as a number (R54). -/
def rowElem (ty v j : Nat) : Nat := bits v (j * tyBits ty) (tyBits ty)

/-- A packed row as a number. -/
def packRow (ty : Nat) (l : List Nat) : Nat := ((l.zipIdx).map (fun e => e.1 % 2 ^ tyBits ty * 2 ^ (e.2 * tyBits ty))).sum

/-- Row `r` of a tile in a core's loft. -/
def loftRow (s : State) (c base ty cols r : Nat) : Nat := readNat s.mem (loftAt c + base + r * pitch ty cols) (rowBytes ty cols)

/-- Scales of a K-blocked operand (R137): rows of ceil(K / 32) bytes. -/
def scaleAt (s : State) (c base k row kk : Nat) : Nat := (readByte s.mem (loftAt c + base + row * ((k + 31) / 32) + kk / 32)).toNat

/-! ### Issue -/

/-- A range, rounded out to 64 bytes (R147). -/
def rng (loft write : Bool) (a n : Nat) : Rng := { loft := loft, lo := a / 64 * 64, hi := (a + n + 63) / 64 * 64, write := write }

/-- An accumulator bank of an engine as a range of the scoreboard (R147), beyond every loft. -/
def bankRng (eng bank : Nat) (write : Bool) : Rng := rng true write (2 ^ 40 + (eng * 4 + bank) * 64) 64

/-- The engine's state. -/
def getEng (k : Core) (e : Nat) : Engine := k.engines.getD e {}

def setEng (s : State) (c e : Nat) (x : Engine) : State :=
  let k := getCore s c
  setCore s c { k with engines := k.engines.set e {} x }

/-- Whether a queue of 8 has room (R132). -/
def engRoom (k : Core) (e : Nat) : Bool := (getEng k e).queue.length < 8

/-- Open values that the conversions of a command may use: one for each element, and one for the type of the bank (log 31, DESIGN CHOICE). -/
def MOp.draws : MOp → Nat
  | .mma _ _ _ _ _ _ _ _ m n .. => m * n + 1
  | .tstore _ _ _ _ _ rows cols _ useBank .. => if useBank then rows * cols + 1 else 0
  | _ => 0

/-- Put a command on an engine's queue, with the next place in the core's program order (R132, R148). -/
def enqueue (s : State) (g : Grp) (eng : Nat) (op : MOp) (rm : Nat) (sat : Bool) (ranges : List Rng) : State :=
  let k := getCore s g.core
  let x := getEng k eng
  let m : MCmd := { id := k.nextOp, pipe := g.pipe, slot := g.slot, op := op, rm := rm, sat := sat, ranges := ranges, seq := k.nextOp, key := s.freeCtr }
  setCore { s with freeCtr := s.freeCtr + op.draws } g.core { k with nextOp := k.nextOp + 1, engines := k.engines.set eng {} { x with queue := x.queue ++ [m] } }

/-- Checks of loft tiles (R125, R139): ends within the loft, then bases on 64 bytes. Each tile: base, bytes. -/
def loftFault (c : Nat) (l : List (Nat × Nat)) : Option (Nat × Nat × Nat) :=
  (l.findSome? (fun q => if q.1 + q.2 > loftSize c then some (0x0204, q.1, q.1) else none)).orElse (fun _ =>
    l.findSome? (fun q => if q.1 % 64 ≠ 0 then some (0x0203, 64, q.1) else none))

/-- A matrix input TYPE (R57), its class (R58). -/
def matIn (ty : Nat) : Bool := 1 ≤ ty && ty ≤ 10
def matInt (ty : Nat) : Bool := ty = 9 || ty = 10

/-- OUT_TYPE of an MMA or of a TSTORE from a bank (R138). -/
def outOk (intIn scaled : Bool) (ty : Nat) : Bool :=
  if intIn then ty = 12 || ty = 9
  else [1, 2, 3, 4, 5, 9].contains ty || (scaled && [6, 7, 8].contains ty)

/-- The operand fields of an MMA (R134, R136). -/
def mmaOps (i : LForm) : List OField :=
  let w2 := i.w2.toNat
  [⟨16, i.r.d, if tb w2 27 then .r else .z⟩, ⟨24, i.r.a, .r⟩, ⟨32, i.r.b, .r⟩, ⟨40, i.r.c, if tb w2 34 || tb w2 35 then .wr else .z⟩]

/-- The other fields of an MMA: lowest bit, and whether the value is allowed (R134-R138). -/
def mmaFields (i : LForm) : List (Nat × Bool) :=
  let r := i.r
  let w2 := i.w2.toNat
  let tyA := r.ty.toNat
  let tyB := r.sub.toNat % 16
  let out := tb w2 27
  let outTy := bits w2 28 4
  let thin := fun ty => tyBits ty < 8
  [(48, matIn tyA), (52, r.rm ≠ 7 && (out || r.rm = 0)), (55, !r.sat || (out && r.rm ≠ 6)),
    (56, matIn tyB && matInt tyA = matInt tyB && !(tyA = 1 && tyB ≠ 1) && !(tyB = 1 && tyA ≠ 1)), (63, r.sub.toNat < 128),
    (92, if out then outOk (matInt tyA) (tb w2 36) outTy else outTy = 0), (96, !(tb w2 32 && thin tyA)), (97, !(tb w2 33 && thin tyB)),
    (98, !tb w2 34 || 4 ≤ tyA), (99, !tb w2 35 || 4 ≤ tyB), (100, !tb w2 36 || (out && 4 ≤ outTy && outTy ≤ 8)), (101, w2 / 2 ^ 37 = 0)]

/-- Operands of an L-form command of an engine, of the lowest executing thread. -/
def lowVal (e : Env) (w : Nat) (c : BitVec 8) : Nat := e.x.opnd e.sc w c (lowest e.ex)

/-- The command that an MMA puts on the queue. -/
def mmaOp (i : LForm) (e : Env) : MOp :=
  let w2 := i.w2.toNat
  let c64 := lowVal e 64 i.r.c
  .mma (lowVal e 32 i.r.d) (lowVal e 32 i.r.a) (lowVal e 32 i.r.b) (c64 % 2 ^ 32) (c64 / 2 ^ 32) i.r.ty.toNat (i.r.sub.toNat % 16) (bits w2 28 4)
    (bits w2 0 6 + 1) (bits w2 6 6 + 1) (bits w2 12 12 + 1) (bits w2 24 2) (tb w2 26) (tb w2 27) (tb w2 32) (tb w2 33) (tb w2 34) (tb w2 35) (tb w2 36)

/-- The loft tiles of an MMA, base and bytes, with whether it writes them (R139): D, A, B, scales. -/
def mmaTiles (i : LForm) (e : Env) : List (Nat × Nat × Bool) :=
  let w2 := i.w2.toNat
  let tyA := i.r.ty.toNat
  let tyB := i.r.sub.toNat % 16
  let m := bits w2 0 6 + 1
  let n := bits w2 6 6 + 1
  let k := bits w2 12 12 + 1
  let outTy := bits w2 28 4
  let c64 := lowVal e 64 i.r.c
  let kb := (k + 31) / 32
  let dTile := tileLen outTy m n
  let dLen := if tb w2 36 then (dTile + 63) / 64 * 64 + m * ((n + 31) / 32) else dTile
  (if tb w2 27 then [(lowVal e 32 i.r.d, dLen, true)] else []) ++
    [(lowVal e 32 i.r.a, if tb w2 32 then tileLen tyA k m else tileLen tyA m k, false),
     (lowVal e 32 i.r.b, if tb w2 33 then tileLen tyB k n else tileLen tyB n k, false)] ++
    (if tb w2 34 then [(c64 % 2 ^ 32, m * kb, false)] else []) ++ (if tb w2 35 then [(c64 / 2 ^ 32, n * kb, false)] else [])

/-- The engine that an L-form command names. -/
def engOf (i : LForm) : Nat := i.r.sub.toNat / 16 % 8

/-- MMA (R134-R139). -/
def execMma (g : Grp) (i : LForm) (err : Sram) (s : State) : Out :=
  let r := i.r
  .next (issue s g r.pr r.pn false 3 0x360 r.d r.a (fun ct => ct = 1) (fun _ => mmaOps i) (fun _ => mmaFields i)
    (fun e => sramThen s g err fun s =>
      if e.ex = 0 then advance s g e.x 16
      else if fenceHolds e.p false || !engRoom e.k (engOf i) then s else
        let tiles := mmaTiles i e
        match loftFault g.core (tiles.map (fun q => (q.1, q.2.1))) with
        | some f => memFault s e (insnWord r.pr r.pn 3 0x360 r.d r.a) f
        | none =>
          let (rm, sat) := resolveRm e.x.arith r.rm.toNat r.sat
          advance (enqueue s g (engOf i) (mmaOp i e) rm sat (bankRng (engOf i) (bits i.w2.toNat 24 2) true :: tiles.map (fun q => rng true q.2.2 q.1 q.2.1))) g e.x 16))

/-- The fields of a tile move's second word (R140). -/
structure TileW where
  rows : Nat
  cols : Nat
  bank : Nat
  useBank : Bool
  far : Bool
  hint : Nat
  scaled : Bool
  rest : Nat
  deriving DecidableEq, Repr, Inhabited

def tileW (w : Nat) : TileW :=
  { rows := bits w 0 8 + 1, cols := bits w 8 16 + 1, bank := bits w 24 2, useBank := tb w 26, far := tb w 27, hint := bits w 28 3,
    scaled := tb w 31, rest := w / 2 ^ 32 }

/-- The far side's checks (R140): memory address and stride on 16 bytes; a loft base as R139. -/
def farFault (c : Nat) (t : TileW) (ty a stride : Nat) : Option (Nat × Nat × Nat) :=
  let len := (t.rows - 1) * stride + rowBytes ty t.cols
  if !t.far && a % 16 ≠ 0 then some (0x0203, 16, a)
  else if t.far && a % 64 ≠ 0 then some (0x0203, 64, a)
  else if stride % 16 ≠ 0 then some (0x0203, 16, stride)
  else if t.far && a + len > loftSize c then some (0x0204, a, a)
  -- bits [63:48] of a memory address (R87), first and last byte
  else if !t.far && a / 2 ^ 48 ≠ 0 then some (0x0201, 0, a)
  else if !t.far && (a + len - 1) / 2 ^ 48 ≠ 0 then some (0x0201, 0, a + len - 1)
  else none

/-- The operand fields of a TLOAD (R140). -/
def tloadOps (i : LForm) : List OField :=
  let t := tileW i.w2.toNat
  [⟨16, i.r.d, if t.useBank then .z else .r⟩, ⟨24, i.r.a, if t.far then .r else .wr⟩, ⟨32, i.r.b, .r⟩, ⟨40, i.r.c, .z⟩]

/-- The other fields of a TLOAD. -/
def tloadFields (i : LForm) : List (Nat × Bool) :=
  let r := i.r
  let t := tileW i.w2.toNat
  let ty := r.ty.toNat
  [(48, !t.useBank || ty = 1 || ty = 12), (52, r.rm = 0), (55, !r.sat), (56, r.sub.toNat % 16 = 0), (63, r.sub.toNat < 128),
    (64, !t.useBank || t.rows ≤ 64), (72, !t.useBank || t.cols ≤ 64), (91, !(t.useBank && t.far)), (92, t.hint ≤ 4), (95, !t.scaled),
    (96, t.rest = 0)]

/-- The command that a TLOAD puts on the queue. -/
def tloadOp (i : LForm) (e : Env) : MOp :=
  let t := tileW i.w2.toNat
  .tload (lowVal e 32 i.r.d) (lowVal e (if t.far then 32 else 64) i.r.a) (lowVal e 32 i.r.b) i.r.ty.toNat t.rows t.cols t.bank t.useBank t.far t.hint

/-- The fault of a TLOAD's addresses at issue (R139, R140). -/
def tloadFault (i : LForm) (e : Env) : Option (Nat × Nat × Nat) :=
  let t := tileW i.w2.toNat
  let ty := i.r.ty.toNat
  (if t.useBank then none else loftFault e.g.core [(lowVal e 32 i.r.d, tileLen ty t.rows t.cols)]).orElse (fun _ =>
    farFault e.g.core t ty (lowVal e (if t.far then 32 else 64) i.r.a) (lowVal e 32 i.r.b))

/-- TLOAD (R140). -/
def execTload (g : Grp) (i : LForm) (s : State) : Out :=
  let r := i.r
  let t := tileW i.w2.toNat
  let ty := r.ty.toNat
  .next (issue s g r.pr r.pn false 3 0x361 r.d r.a (fun ct => ct = 1) (fun _ => tloadOps i) (fun _ => tloadFields i)
    (fun e =>
      if e.ex = 0 then advance s g e.x 16
      else if fenceHolds e.p false || !engRoom e.k (engOf i) then s else
        match tloadFault i e with
        | some f => memFault s e (insnWord r.pr r.pn 3 0x361 r.d r.a) f
        | none =>
          let src := lowVal e (if t.far then 32 else 64) r.a
          let rs := (if t.useBank then [bankRng (engOf i) t.bank true] else [rng true true (lowVal e 32 r.d) (tileLen ty t.rows t.cols)]) ++
            [rng t.far false src ((t.rows - 1) * lowVal e 32 r.b + rowBytes ty t.cols)]
          advance (enqueue s g (engOf i) (tloadOp i e) 0 false rs) g e.x 16))

/-- The operand fields of a TSTORE (R140). -/
def tstoreOps (i : LForm) : List OField :=
  let t := tileW i.w2.toNat
  [⟨16, i.r.d, if t.far then .r else .wr⟩, ⟨24, i.r.a, if t.useBank then .z else .r⟩, ⟨32, i.r.b, .r⟩,
    ⟨40, i.r.c, if t.scaled then (if t.far then .rn else .wr) else .z⟩]

/-- The other fields of a TSTORE. -/
def tstoreFields (i : LForm) : List (Nat × Bool) :=
  let r := i.r
  let t := tileW i.w2.toNat
  let ty := r.ty.toNat
  [(48, !t.useBank || outOk false t.scaled ty || outOk true false ty), (52, r.rm ≠ 7 && (t.useBank || r.rm = 0)),
    (55, !r.sat || (t.useBank && r.rm ≠ 6)), (56, r.sub.toNat % 16 = 0), (63, r.sub.toNat < 128),
    (64, !t.useBank || t.rows ≤ 64), (72, !t.useBank || t.cols ≤ 64), (92, t.hint ≤ 4), (95, !t.scaled || (t.useBank && 4 ≤ ty && ty ≤ 8)),
    (96, t.rest = 0)]

/-- The command that a TSTORE puts on the queue. -/
def tstoreOp (i : LForm) (e : Env) : MOp :=
  let t := tileW i.w2.toNat
  let w := if t.far then 32 else 64
  .tstore (lowVal e w i.r.d) (lowVal e 32 i.r.a) (lowVal e 32 i.r.b) (lowVal e w i.r.c) i.r.ty.toNat t.rows t.cols t.bank t.useBank t.far t.scaled t.hint

/-- The fault of a TSTORE's addresses at issue (R139, R140). -/
def tstoreFault (i : LForm) (e : Env) : Option (Nat × Nat × Nat) :=
  let t := tileW i.w2.toNat
  let ty := i.r.ty.toNat
  let w := if t.far then 32 else 64
  let sc := lowVal e w i.r.c
  (farFault e.g.core t ty (lowVal e w i.r.d) (lowVal e 32 i.r.b)).orElse (fun _ =>
    (if t.useBank then none else loftFault e.g.core [(lowVal e 32 i.r.a, tileLen ty t.rows t.cols)]).orElse (fun _ =>
      if !t.scaled then none
      else if t.far then loftFault e.g.core [(sc, t.rows * ((t.cols + 31) / 32))]
      else if sc % 16 ≠ 0 then some (0x0203, 16, sc)
      else if (sc + t.rows * ((t.cols + 31) / 32) - 1) / 2 ^ 48 ≠ 0 then some (0x0201, 0, sc) else none))

/-- TSTORE (R140). -/
def execTstore (g : Grp) (i : LForm) (s : State) : Out :=
  let r := i.r
  let t := tileW i.w2.toNat
  let ty := r.ty.toNat
  .next (issue s g r.pr r.pn false 3 0x362 r.d r.a (fun ct => ct = 1) (fun _ => tstoreOps i) (fun _ => tstoreFields i)
    (fun e =>
      if e.ex = 0 then advance s g e.x 16
      else if fenceHolds e.p false || !engRoom e.k (engOf i) then s else
        match tstoreFault i e with
        | some f => memFault s e (insnWord r.pr r.pn 3 0x362 r.d r.a) f
        | none =>
          let w := if t.far then 32 else 64
          let (rm, sat) := resolveRm e.x.arith r.rm.toNat r.sat
          let rs := (if t.useBank then [bankRng (engOf i) t.bank false] else [rng true false (lowVal e 32 r.a) (tileLen ty t.rows t.cols)]) ++
            [rng t.far true (lowVal e w r.d) ((t.rows - 1) * lowVal e 32 r.b + rowBytes ty t.cols)] ++
            (if t.scaled then [rng t.far true (lowVal e w r.c) (t.rows * ((t.cols + 31) / 32))] else [])
          advance (enqueue s g (engOf i) (tstoreOp i e) rm sat rs) g e.x 16))

/-! ### TCOLLECT (R144-R146) -/

/-- A blocked path goes on past its 16-byte collective: it may reach the region's end. -/
def unblock (x : Group) (m : W32) : Group × Option (Nat × Nat) :=
  let ps := x.others.filter (fun p => p.stat = .collective && p.mask &&& m ≠ 0)
  ps.foldl (fun (st : Group × Option (Nat × Nat)) p =>
    let p' := { p with stat := .ready, pc := p.pc + 16 }
    let x := { st.1 with others := st.1.others.map (fun q => if q = p then p' else q) }
    match x.region with
    | some rg => if p'.pc = rg.stop then let (x, f) := leaveRegion x p.mask; (x, st.2.orElse (fun _ => f)) else (x, st.2)
    | none => (x, st.2)) (x, none)

/-- The command of a collective whose arrivals are complete: D and the second word of the lowest thread of the entry mask. -/
def collect (s : State) (g : Grp) (arr : List Arrival) : Except (Nat × Nat × Nat) State :=
  let low := arr.foldl (fun (a : Option Arrival) b => match a with | none => some b | some c => if b.thread < c.thread then some b else a) none
  match low with
  | none => .ok s
  | some a =>
    let w := a.w2.toNat
    let rows := bits w 0 5 + 1
    let cols := bits w 5 16 + 1
    let len := tileLen a.ty rows cols
    let addrs := (arr.filter (fun b => b.thread < rows)).map (fun b => (b.thread, b.row.toNat))
    match loftFault g.core [(a.d.toNat, len)] with
    | some f => .error f
    | none =>
      -- one range for the side in memory, from the first to the last byte (R147)
      let far := (addrs.filter (fun q => q.2 ≠ 0)).map (·.2)
      let rs := rng true true a.d.toNat len :: (match far with
        | [] => []
        | v :: t => let lo := t.foldl min v; [rng false false lo (t.foldl max v + rowBytes a.ty cols - lo)])
      .ok (enqueue s g a.eng (.tcollect a.d.toNat a.ty rows cols (bits w 21 3) addrs) 0 false rs)

/-- TCOLLECT (R144): the threads of the path arrive; the last arrival queues the command and every arriving path goes on. -/
def execTcollect (g : Grp) (i : LForm) (s : State) : Out :=
  let r := i.r
  let eng := r.sub.toNat / 16 % 8
  let rows := bits i.w2.toNat 0 5 + 1
  .next (issue s g r.pr r.pn true 3 0x363 r.d r.a (fun ct => ct = 1)
    (fun _ => [⟨16, r.d, .r⟩, ⟨24, r.a, .xp⟩, ⟨32, r.b, .z⟩, ⟨40, r.c, .z⟩])
    (fun _ => [(52, r.rm = 0), (55, !r.sat), (56, r.sub.toNat % 16 = 0), (63, r.sub.toNat < 128), (85, bits i.w2.toNat 21 3 ≤ 4),
      (88, i.w2.toNat / 2 ^ 24 = 0)])
    (fun e =>
      if fenceHolds e.p false then s else
        let insn := insnWord r.pr r.pn 3 0x363 r.d r.a
        let mk := fun (cnt : Nat) => (threads e.p.mask).map (fun t => ({
          thread := t, count := cnt, d := BitVec.ofNat 32 (e.x.opnd e.sc 32 r.d t),
          row := BitVec.ofNat 64 (e.x.opnd e.sc 64 r.a t), w2 := i.w2, ty := r.ty.toNat, eng := eng } : Arrival))
        let used := (mk 0).filter (fun a => a.thread < rows && a.row ≠ 0)
        let badRow := (used.findSome? (fun a => if a.row.toNat % 16 ≠ 0 then some (0x0203, 16, a.row.toNat) else none)).orElse (fun _ =>
          used.findSome? (fun a => if (a.row.toNat + rowBytes r.ty.toNat (bits i.w2.toNat 5 16 + 1) - 1) / 2 ^ 48 ≠ 0 then some (0x0201, 0, a.row.toNat) else none))
        match badRow with
        | some f => memFault s e insn f
        | none =>
          let inRegion := match e.x.region with | some rg => decide (e.p.mask &&& rg.entry &&& ~~~rg.gone ≠ 0) | none => false
          match (if inRegion then e.x.region else none) with
          | none =>
            if !engRoom e.k eng then s else
              match collect s g (mk 0) with
              | .error f => memFault s e insn f
              | .ok s => advance s g e.x 16
          | some rg =>
            let cnt := rg.count (lowest e.p.mask)
            let left := maskOf ((threads (rg.gone)).filter (fun t => rg.count t ≤ cnt))
            let new := mk cnt
            if left ≠ 0 then groupFault s g 0x0105 left.toNat none none
            else if rg.arrivals.any (fun a => a.count = cnt && (a.w2 ≠ i.w2 || a.ty ≠ r.ty.toNat || a.eng ≠ eng)) then
              groupFault s g 0x0105 e.p.mask.toNat none none
            else
              let arr := rg.arrivals ++ new
              let here := arr.filter (fun a => a.count = cnt)
              let all := (threads rg.entry).all (fun t => here.any (fun a => a.thread = t))
              if !all then
                let x := { countIssue e.x with region := some { rg with arrivals := arr }, run := some { e.p with stat := .collective } }
                setGroup s g (giveUp x (cycles s (coreHalf g.core)) false)
              else if !engRoom e.k eng then s
              else
                match collect s g here with
                | .error f => memFault s e insn f
                | .ok s =>
                  let counts := (threads rg.entry).map (fun t => (t, rg.count t + 1))
                  let rg := { rg with arrivals := arr.filter (fun a => a.count ≠ cnt), counts := counts }
                  let (x, f) := unblock { e.x with region := some rg } rg.entry
                  match f with
                  | some (c, d) => groupFault s g c d none none
                  | none => advance s g (settle 17 (parkOthers x)) 16))

/-! ### Completion -/

/-- Whether a command goes to the array (R129). -/
def MOp.array : MOp → Bool
  | .mma .. => true
  | _ => false

/-- The first command of a unit of an engine. -/
def unitHead (x : Engine) (mover : Bool) : Option MCmd := x.queue.find? (fun m => m.op.array != mover)

/-- The scoreboard lets a command run (R148): no earlier command or descriptor of the core conflicts, no store or atomic that overlaps is
outstanding, nor for what it writes a load (R157). -/
def sbReady (s : State) (c : Nat) (m : MCmd) : Bool :=
  let k := getCore s c
  (heldRanges s c).all (fun h => m.seq ≤ h.1 || m.ranges.all (fun r => !(r.meets h.2 && (r.write || h.2.write)))) &&
  k.outs.all (fun o => match o.kind with
    | .load .. => o.parts.all (fun p => m.ranges.all (fun r => r.loft || !r.write || p.va + p.size ≤ r.lo || r.hi ≤ p.va))
    | .prefetch => true | .flag _ => true | .move .. => true
    | _ => o.parts.all (fun p => m.ranges.all (fun r => r.loft || p.va + p.size ≤ r.lo || r.hi ≤ p.va)))

/-- Open values set aside for one element of an MMA: 4,096 for the aligned adder, two for each accumulate. -/
def mmaDraws : Nat := 8192

/-- One float of a bank after an MMA (R59): the products of each group of up to 32 along K through the aligned adder, then the groups and the
bank's element `c` added in binary32 RNE in an order that the engine chooses (R68). `ps`: exact products along K; `key`: the first of the
element's open values. -/
def mmaFloat (key : Nat) (c : Nat) (ps : List (Val × Flg)) : Nat × Flg :=
  let f32 : Fmt := ⟨8, 23, 127, .ieee⟩
  let gs := (List.range ((ps.length + 31) / 32)).map (fun j => alignedSum (key + 32 * j) (((ps.drop (32 * j)).take 32).map (·.1)))
  let (r, f) := sumAnyOrder f32 (key + 4096) gs.length (c :: gs.map (·.1))
  (r, f ||| gs.foldl (fun a p => a ||| p.2) (ps.foldl (fun a p => a ||| p.2) (fIf (f32.dec c).2 fInvalid)))

/-- One integer element: exact, saturated to INT32 (R59). -/
def mmaInt (c : Nat) (ps : List (Val × Flg)) : Nat × Flg :=
  let (sum, g) := ps.foldl (fun (a : Val × Flg) p => let (v, h) := vAdd .rne a.1 p.1; (v, a.2 ||| h)) ((decTy 12 c).1, 0)
  let (b, g2) := roundInt 32 true .rne sum
  (b, g ||| g2)

/-- Convert a run of 32-bit values into a format, plain or block-scaled (R56, R64): element codes, scale bytes, flags. `key` is the first of
its open values. -/
def convRow (srcTy dstTy rm : Nat) (sat scaled_ : Bool) (key : Nat) (vs : List Nat) : List Nat × List Nat × Flg :=
  let md := fun j => rmodeOf rm (Config.freeNat (key + j) % 65536)
  if !scaled_ then
    let r := vs.zipIdx.map (fun e => cvtElem srcTy dstTy (md e.2) sat e.1)
    (r.map (·.1), [], r.foldl (fun a p => a ||| p.2) 0)
  else
    (List.range ((vs.length + 31) / 32)).foldl (fun (st : List Nat × List Nat × Flg) b =>
      let blk := (vs.drop (32 * b)).take 32
      let vals := blk.map (fun v => decTy srcTy v)
      let sn := fIf (vals.any (·.2)) fInvalid
      match blockScale dstTy (vals.map (·.1)) with
      | none => (st.1 ++ blk.map (fun _ => 0), st.2.1 ++ [255], st.2.2 ||| fInvalid)
      | some sc =>
        let r := vals.zipIdx.map (fun e =>
          encTy dstTy (md (32 * b + e.2)) sat (match e.1.1 with | .fin n m x => .fin n m (x - sc + 127) | v => v))
        (st.1 ++ r.map (·.1), st.2.1 ++ [sc], st.2.2 ||| sn ||| r.foldl (fun a p => a ||| p.2) 0)) ([], [], 0)

/-- A bank element's place. -/
def bankKey (bank row col : Nat) : Nat := bank * 4096 + row * 64 + col

/-- The array runs from step `m.prog` of 32 along K to step `upto` (R137, R154): the bank takes D. Answers flags. -/
def doMma (s : State) (c eng : Nat) (prog upto : Nat) (aO bO sa sb tyA tyB m n k bank : Nat) (accum layA layB scA scB : Bool) : State × Flg :=
  let x := getEng (getCore s c) eng
  let isInt := matInt tyA
  let aAt := fun i kk => if layA then rowElem tyA (loftRow s c aO tyA m kk) i else rowElem tyA (loftRow s c aO tyA k i) kk
  let bAt := fun j kk => if layB then rowElem tyB (loftRow s c bO tyB n kk) j else rowElem tyB (loftRow s c bO tyB k j) kk
  let prod := fun i j kk =>
    let (va, na) := decTy tyA (aAt i kk)
    let (vb, nb) := decTy tyB (bAt j kk)
    let va := if scA then scaled va (scaleAt s c sa k i kk) else va
    let vb := if scB then scaled vb (scaleAt s c sb k j kk) else vb
    let (p, f) := vMul va vb
    (p, f ||| fIf (na || nb) fInvalid)
  let elem := fun i j =>
    let c0 := if accum || prog ≠ 0 then x.banks.getD (bankKey bank i j) 0 else 0
    let ps := (List.range' (32 * prog) (min k (32 * upto) - 32 * prog)).map (prod i j)
    if isInt then mmaInt c0 ps else mmaFloat (s.freeCtr + mmaDraws * (i * n + j)) c0 ps
  let rows := (List.range m).map (fun i => (List.range n).map (elem i))
  let fl := rows.foldl (fun (a : Flg) r => r.foldl (fun a p => a ||| p.2) a) 0
  let banks := (rows.zipIdx).foldl (fun b r => (r.1.zipIdx).foldl (fun b p => b.set (bankKey bank r.2 p.2) 0 p.1.1) b) x.banks
  let s1 := setEng s c eng { x with banks := banks, warm := true, lastCyc := cycles s (coreHalf c) }
  ({ s1 with freeCtr := s1.freeCtr + mmaDraws * (m * n) }, fl)

/-- Rows of bytes with their places: in the core's loft, or in the context's memory. -/
abbrev Rows64 := List (Nat × List Byte)

/-- Rows of a bank, converted (R138, R140): the elements, then the scales, with the flags. `a`, `stride`, `sc`, `scStride` place them. -/
def bankRows (x : Engine) (bank srcTy ty rm : Nat) (sat scl : Bool) (key rows cols a stride sc scStride : Nat) : Rows64 × Flg :=
  (List.range rows).foldl (fun (st : Rows64 × Flg) r =>
    let (es, ss, f) := convRow srcTy ty rm sat scl (key + r * cols) ((List.range cols).map (fun j => x.banks.getD (bankKey bank r j) 0))
    (st.1 ++ (a + r * stride, natLe (rowBytes ty cols) (packRow ty es)) :: (if scl then [(sc + r * scStride, ss.map (BitVec.ofNat 8))] else []), st.2 ||| f))
    ([], 0)

/-- The system address of a context's virtual address for an access, walked at the time of use (R140, R491): an address, with true where no slice
may hold it, as of a loft window or an uncached page of this device (R158, R199); or the trouble's address, with the fault's code, or none for a page
that waits for its first touch. -/
def farAddr (s : State) (ctx va : Nat) (acc : Access) : Except (Nat × Option Nat) (Nat × Bool) :=
  match getCtx s ctx with
  | none => .error (va, some 0x0301)
  | some x =>
    if va / 2 ^ 48 ≠ 0 then .error (va, some 0x0301) else
      match walkVa s x va acc with
      | .leaf e n =>
        let a := leafAddr e n va
        let c := (locOf a - loftBase) / loftStride
        if isDeck s a && !dieUp s (homeDie (a / 64)) then .error (va, some 0x0301)
        else if isLoft s a && (!dieUp s (coreDie c) || !coreLive s c || (locOf a - loftBase) % loftStride ≥ loftSize c) then .error (va, some 0x0301)
        else .ok (a, isLoft s a || (devOf a = myDev s && tb e.toNat 5))
      | .defer _ => .error (va, none)
      | _ => .error (va, some 0x0301)

/-- The pieces of a virtual run, cut at 64-byte lines. -/
def vaPieces (va n : Nat) : List (Nat × Nat) :=
  if n = 0 then [] else
    (List.range ((va + n - 1) / 64 - va / 64 + 1)).map (fun j =>
      let lo := max va ((va / 64 + j) * 64)
      (lo, min (va + n) ((va / 64 + j + 1) * 64) - lo))

/-- The first trouble of a set of virtual runs (address, bytes): its address, with the fault's code or none for a first touch. What a line of the
slices or of another device brings is found as it comes; an uncached line of this device is looked at here (R237, R238). -/
def farTrouble (s : State) (ctx : Nat) (acc : Access) (runs : List (Nat × Nat)) : Option (Nat × Option Nat) :=
  (runs.flatMap (fun q => vaPieces q.1 q.2)).findSome? (fun p =>
    match farAddr s ctx p.1 acc with
    | .error e => some e
    | .ok (a, direct) =>
      if acc = .read && direct && isDeck s a then
        match getMark s (locLine (a / 64)) with
        | some .bad => some (p.1, some 0x0301)
        | some .poison => some (p.1, some 0x0301)
        | some (.strip n) => if n = ctx then some (p.1, some 0x0205) else none
        | none => none
      else none)

/-- Bytes of a virtual run: as the move has got their lines, or where no slice holds them from their place (R140, R158, R199). -/
def farBytes (s : State) (ctx : Nat) (got : List (Nat × Line)) (va n : Nat) : List Byte :=
  (vaPieces va n).flatMap (fun p =>
    match farAddr s ctx p.1 .read with
    | .ok (a, direct) =>
      if direct then orderBytes s a p.2
      else natLe p.2 (lineNat (((got.find? (fun g => g.1 = a / 64)).map (·.2)).getD 0) (a % 64) p.2)
    | .error _ => List.replicate p.2 0)

/-- Write bytes to a virtual run of this device (log 20, DESIGN CHOICE): what a kill leaves of an aborted command's output (R95). -/
def farWrite (s : State) (ctx va : Nat) (bs : List Byte) (writer : Nat) : State :=
  each (vaPieces va bs.length) (fun s p =>
    match farAddr s ctx p.1 .write with
    | .ok (a, _) => if devOf a = myDev s then orderWriteBytes s a ((bs.drop (p.1 - va)).take p.2) writer else s
    | .error _ => s) s

/-- The far runs of a tile move: rows at base + r × stride. -/
def farRuns (base stride ty rows cols : Nat) : List (Nat × Nat) := (List.range rows).map (fun r => (base + r * stride, rowBytes ty cols))

/-- The runs of context memory that a command reads or writes. -/
def MOp.runs : MOp → Option (Access × List (Nat × Nat))
  | .mma .. => none
  | .tload _ src stride ty rows cols _ _ far _ => if far then none else some (.read, farRuns src stride ty rows cols)
  | .tstore dst _ stride sc ty rows cols _ _ far scl _ =>
    if far then none else some (.write, farRuns dst stride ty rows cols ++ (if scl then [(sc, rows * ((cols + 31) / 32))] else []))
  | .tcollect _ ty _ cols _ addrs => some (.read, (addrs.filter (fun q => q.2 ≠ 0)).map (fun q => (q.2, rowBytes ty cols)))

/-- HINT of a command's accesses to memory (R140, R144). -/
def MOp.hint : MOp → Nat
  | .mma .. => 0
  | .tload _ _ _ _ _ _ _ _ _ h => h
  | .tstore _ _ _ _ _ _ _ _ _ _ _ h => h
  | .tcollect _ _ _ _ h _ => h

/-- What stops a command: an address, with the fault's code or none for a page that waits for its first touch. -/
def cmdTrouble (s : State) (ctx : Nat) (op : MOp) : Option (Nat × Option Nat) :=
  match op.runs with | none => none | some (acc, l) => farTrouble s ctx acc l

/-- A request for the page of a deferred entry, made by an agent that walks at the time of use (R223): it waits for the page alone. -/
def awaitTouch (s : State) (half ctx va : Nat) (acc : Access) (a : Agent) : State :=
  if s.deck.walks.any (fun v => v.ctx = ctx && v.va / 65536 = va / 65536 && v.agent = a) then s
  else
    let w : WalkReq := { half := half, ctx := ctx, va := va, acc := acc, agent := a, pipe := 0, slot := 0, deferred := true, once := true }
    { s with deck := { s.deck with walks := s.deck.walks ++ [w] } }

/-- Lines that a command reads, but for those that no slice may hold (R140). -/
def moveLines (s : State) (ctx : Nat) (op : MOp) : List Nat :=
  match op.runs with
  | some (.read, l) => distinct ((l.flatMap (fun q => vaPieces q.1 q.2)).filterMap (fun p =>
      match farAddr s ctx p.1 .read with | .ok (a, direct) => if direct then none else some (a / 64) | .error _ => none))
  | _ => []

/-- Change the command of an engine by its number. -/
def setCmdM (s : State) (c eng : Nat) (m : MCmd) : State :=
  let x := getEng (getCore s c) eng
  setEng s c eng { x with queue := x.queue.map (fun q => if q.id = m.id then m else q) }

/-- A request of a tile move for a line, with its HINT, through the slice of the core's die (R140, R184). -/
def moveSend (s : State) (c eng : Nat) (m : MCmd) (kind : MsgKind) (va line : Nat) (data : Line) (mask : BitVec 64) : State :=
  let id := (getCore s c).nextOp
  let s := addOut s c { id := id, pipe := m.pipe, slot := m.slot, pathLow := 0, kind := .move eng m.id, far := !isLocal s line, install := false,
                        parts := [{ thread := 0, addr := line * 64, size := 64, va := va }] }
  send s { coreMsg c id line kind with flags := m.op.hint, data := data, mask := mask }

/-- Ask for the lines that a move reads and has not asked for. -/
def moveAsk (s : State) (c eng ctx : Nat) (m : MCmd) : State × MCmd :=
  let l := (moveLines s ctx m.op).filter (fun n => !m.asked.contains n)
  if l.isEmpty then (s, m) else
    let m' := { m with asked := m.asked ++ l }
    (each l (fun s n => moveSend s c eng m .gets 0 n 0 0) (setCmdM s c eng m'), m')

/-- What a command writes, row by row (R140, R144, R137): to the loft, or to memory as `mem` says; with the flags. -/
structure Written where
  mem : Bool
  rows : Rows64
  fl : Flg := 0
  deriving Inhabited

/-- The rows that a command writes. A TLOAD into a bank writes none; the row of a thread outside the entry mask of a TCOLLECT is left as the loft
has it (log 170, DESIGN CHOICE). -/
def cmdRows (s : State) (c eng ctx : Nat) (m : MCmd) : Written :=
  let x := getEng (getCore s c) eng
  let base := loftAt c
  match m.op with
  | .mma dO _ _ _ _ tyA _ outTy mm n _ bank _ out _ _ _ _ scD =>
    if !out then { mem := false, rows := [] } else
      let (l, f) := bankRows x bank (if matInt tyA then 12 else 1) outTy m.rm m.sat scD m.key mm n dO (pitch outTy n)
        ((dO + tileLen outTy mm n + 63) / 64 * 64) ((n + 31) / 32)
      { mem := false, rows := l, fl := f }
  | .tload dst src stride ty rows cols _ useBank far _ =>
    if useBank then { mem := false, rows := [] } else
      { mem := false, rows := (List.range rows).map (fun r => (dst + r * pitch ty cols,
          if far then readBytes s.mem (base + src + r * stride) (rowBytes ty cols) else farBytes s ctx m.got (src + r * stride) (rowBytes ty cols))) }
  | .tcollect dst ty rows cols _ addrs =>
    let row := fun r => match addrs.find? (fun q => q.1 = r) with
      | some (_, a) => if a = 0 then List.replicate (rowBytes ty cols) 0 else farBytes s ctx m.got a (rowBytes ty cols)
      | none => []
    { mem := false, rows := (List.range rows).map (fun r => (dst + r * pitch ty cols, row r)) }
  | .tstore dst src stride sc ty rows cols bank useBank far scl _ =>
    if !useBank then
      { mem := !far, rows := (List.range rows).map (fun r => (dst + r * stride, readBytes s.mem (base + src + r * pitch ty cols) (rowBytes ty cols))) }
    else
      -- INT8 reads the bank as floating or integer (log 31, DESIGN CHOICE)
      let srcTy := if ty = 12 || (ty = 9 && Config.freeNat (m.key + rows * cols) % 2 = 1) then 12 else 1
      let (l, f) := bankRows x bank srcTy ty m.rm m.sat scl m.key rows cols dst stride sc ((cols + 31) / 32)
      { mem := !far, rows := l, fl := f }

/-- A TLOAD into a bank (R140). -/
def bankLoad (s : State) (c eng ctx : Nat) (m : MCmd) : State :=
  match m.op with
  | .tload _ src stride ty rows cols bank true _ _ =>
    let x := getEng (getCore s c) eng
    let data := (List.range rows).map (fun r => leNat (farBytes s ctx m.got (src + r * stride) (rowBytes ty cols)))
    setEng s c eng { x with banks := data.zipIdx.foldl (fun b r => (List.range cols).foldl (fun b j => b.set (bankKey bank r.2 j) 0 (rowElem ty r.1 j)) b) x.banks }
  | _ => s

/-- The granules of what a command writes (R150): all its bytes of one aligned 64-byte granule together, of whatever rows. -/
def granules (l : Rows64) : List Rows64 :=
  (l.flatMap (fun q => (vaPieces q.1 q.2.length).map (fun p => (p.1, (q.2.drop (p.1 - q.1)).take p.2)))).foldl (fun (a : List Rows64) p =>
    if a.any (fun g => (g.headD default).1 / 64 = p.1 / 64) then a.map (fun g => if (g.headD default).1 / 64 = p.1 / 64 then g ++ [p] else g) else a ++ [[p]]) []

/-- Write one granule, whole (R150): in the core's loft, or by a write to its home (R140, R148) or straight to its place where no slice holds it. -/
def putGranule (c eng ctx : Nat) (m : MCmd) (mem : Bool) (s : State) (g : Rows64) : State :=
  if !mem then each g (fun s q => { s with mem := writeBytes s.mem (loftAt c + q.1) q.2 }) s else
    let va := (g.headD default).1
    match farAddr s ctx va .write with
    | .ok (a, true) => each g (fun s q => orderWriteBytes s (a - va % 64 + q.1 % 64) q.2 c) s
    | .ok (a, false) =>
      let w := g.foldl (fun (w : Line × BitVec 64) q =>
        (lineSet w.1 (q.1 % 64) q.2.length (leNat q.2), w.2 ||| BitVec.ofNat 64 ((2 ^ q.2.length - 1) * 2 ^ (q.1 % 64)))) (0, 0)
      moveSend s c eng m .wr va (a / 64) w.1 w.2
    | .error _ => s

/-- Whether a shed holds array issue (R28, R30). -/
def shedOn (s : State) : Bool := flag s .KB_STATUS_SHED

/-- Whether matrix issue of a core is stopped: by a shed, or by the deck's temperature (R234). -/
def stopOn (s : State) (c : Nat) : Bool := shedOn s || flag s .DK_TEMP_STOP95 (coreDie c)

/-- Whether an engine may start an MMA (R151, R152): warm, or its core's gate passed; never in a shed. -/
def arrayGo (s : State) (c eng : Nat) : Bool :=
  let k := getCore s c
  !stopOn s c && ((getEng k eng).warm || k.gate ≤ s.time.mst)

/-- Cycles that an MMA occupies the array (R130): mixed formats at the rate of the wider. -/
def arrayCycles (tyA tyB m n k : Nat) : Nat :=
  let w := max (tyBits tyA) (tyBits tyB)
  let kc := if w = 32 then 8 * k else if w = 16 then k else if w = 4 then (k + 3) / 4 else (k + 1) / 2
  max 32 ((m + 31) / 32 * ((n + 31) / 32) * kc)

/-- Steps of 32 along K of an MMA (R154); a tile move has none. -/
def MOp.steps : MOp → Nat
  | .mma _ _ _ _ _ _ _ _ _ _ k .. => (k + 31) / 32
  | _ => 0

/-- The array runs an MMA on to step `upto`. -/
def arrayRun (s : State) (c eng : Nat) (m : MCmd) (upto : Nat) : State × MCmd :=
  match m.op with
  | .mma _ aO bO sa sb tyA tyB _ mm n k bank accum _ layA layB scA scB _ =>
    -- an integer sum is exact and saturates once (R59): it enters the bank at the last step
    if m.prog ≥ upto then (s, m) else if matInt tyA && upto < m.op.steps then
      (setEng s c eng { getEng (getCore s c) eng with warm := true, lastCyc := cycles s (coreHalf c) }, { m with prog := upto }) else
      let (s, fl) := doMma s c eng (if matInt tyA then 0 else m.prog) upto aO bO sa sb tyA tyB mm n k bank accum layA layB scA scB
      (s, { m with prog := upto, fl := m.fl ||| fl })
  | _ => (s, m)

/-- A command leaves its engine: its flags go into the group's ARITH (R67, R133), array cycles count toward MX_CYCLES (R344). -/
def cmdDone (s : State) (c eng ctx : Nat) (m : MCmd) : State :=
  let k := getCore s c
  let x := getEng k eng
  let k := { k with engines := k.engines.set eng {} { x with queue := x.queue.filter (fun q => q.id ≠ m.id) } }
  let k := match k.groups.get (m.pipe * 16 + m.slot) with
    | some y => { k with groups := k.groups.put (m.pipe * 16 + m.slot) { y with arith := y.arith.raise m.fl } }
    | none => k
  let s := toll (setCore s c k) ctx 3 (match m.op with | .mma _ _ _ _ _ tyA tyB _ mm n kk .. => arrayCycles tyA tyB mm n kk | _ => 0)
  retest s { core := c, pipe := m.pipe, slot := m.slot }

/-- The command at the head of an engine's array or mover goes on (R132, R133, R150, R154): to its end, or with `part` past one step of 32 along K
or one granule, whichever that event names. It completes when its writes are performed. Held by the scoreboard, a shed, the ramp gate, or trouble
on its far side, it does nothing; a move that reads another device waits for the lines. -/
def execMatrixCmdComplete (core eng : Nat) (mover : UnitRun) (s : State) : Out :=
  .next (
    let ⟨mover, part⟩ := mover
    let k := getCore s core
    match k.ctx, unitHead (getEng k eng) mover with
    | some ctx, some m =>
      if k.halted || k.gated || k.preempting || !sbReady s core m || (!mover && !arrayGo s core eng) then s else
        match cmdTrouble s ctx m.op with
        | some (va, none) => awaitTouch s (coreHalf core) ctx va (match m.op with | .tstore .. => .write | _ => .read) (.core core)
        | some (_, some _) => s
        | none =>
          let (s, m) := moveAsk s core eng ctx m
          if m.asked.any (fun n => m.got.all (fun g => g.1 ≠ n)) then s
          else if part.isSome && m.prog < m.op.steps then
            let (s, m) := arrayRun s core eng m (m.prog + 1)
            setCmdM s core eng m
          else
            let (s, m) := arrayRun s core eng m m.op.steps
            let w := cmdRows s core eng ctx m
            let left := ((granules w.rows).zipIdx).filter (fun q => !m.wrote.contains q.2)
            match part with
            | some j =>
              (match left[j % max 1 left.length]? with
               | some q => setCmdM (putGranule core eng ctx m w.mem s q.1) core eng { m with wrote := m.wrote ++ [q.2], fl := m.fl ||| w.fl }
               | none => setCmdM s core eng m)
            | none =>
              let s := bankLoad (each (left.map (·.1)) (putGranule core eng ctx m w.mem) s) core eng ctx m
              let m := { m with wrote := m.wrote ++ left.map (·.2), fl := m.fl ||| w.fl }
              if (getCore s core).outs.any (fun o => o.kind = .move eng m.id) then setCmdM s core eng m else cmdDone s core eng ctx m
    | _, _ => s)

/-- A fault met by a command after issue (R141): the head command of the unit has a fault on its far side. `addr`: an uncached line that it reads is
found uncorrectable there (R237). What comes with a line of a slice or of another device is taken as the line comes; a stripped line raises
STRIP_POISON (R212). -/
def execMatrixCmd (core eng : Nat) (mover : Bool) (addr : Option Nat) (s : State) : Out :=
  .next (
    let k := getCore s core
    match k.ctx, unitHead (getEng k eng) mover with
    | some ctx, some m =>
      if k.halted then s else
        let reads := fun (v : Nat) => match m.op.runs with
          | some (.read, l) => (l.flatMap (fun q => vaPieces q.1 q.2)).any (fun p => p.1 / 64 = v / 64)
          | _ => false
        -- an uncorrectable line is counted and recorded as it is read (R237)
        let bad := fun (s : State) (v : Nat) (out : EccOut) => match farAddr s ctx v .read with
          | .ok (x, true) => if isDeck s x then arrayRead s (locLine (x / 64)) out else (false, s)
          | _ => (false, s)
        let fault := fun (s : State) (code a : Nat) => raiseFault s
          { ctx := ctx, code := code, detail := if code = 0x0301 then eng else 0, core := core, pipe := m.pipe, slot := m.slot, group := true, addr := some a }
        match cmdTrouble s ctx m.op, addr with
        | some (a, some code), _ => fault (bad s a .ok).2 code a
        | some (_, none), _ => s
        | none, some v => if reads v && (bad s v .uncorrectable).1 then fault (bad s v .uncorrectable).2 0x0301 v else s
        | none, none => s
    | _, _ => s)

/-! ### Ramp (R151, R152) -/

/-- An engine that has issued no array cycle for 512 cycles is cold (R151). -/
def execEngineCold (core eng : Nat) (s : State) : Out :=
  .next (
    let k := getCore s core
    let x := getEng k eng
    if x.warm && x.lastCyc + 512 ≤ cycles s (coreHalf core) then setEng s core eng { x with warm := false } else s)

/-- The gate's time has come, and no shed holds it: it is open (R152). -/
def execRampGateOpen (core : Nat) (s : State) : Out :=
  .next (let k := getCore s core
         if k.gate ≠ 0 && k.gate ≤ s.time.mst && !stopOn s core then setCore s core { k with gate := 0 } else s)

end Sys2Proof.Machine
end

