-- ==== Sys2Proof/Machine/DeckEngine.lean ====
section
/-! DEFINITION. Deck engines (R242-R252): DESC, the operations, completion. A row of an operation runs one portion of the descriptor that a channel's
engine works on, or of one that leads it (log 45, DESIGN CHOICE): the descriptor is checked when it starts; each portion's lines are CLEANed or CLAIMed,
then it has its effect; DESC_COMPLETE ends the descriptor. Log 46, DEDUCED: fields a descriptor does not use; log 47, DEDUCED: DST_RED; log 48, DEDUCED: integer MEAN;
log 49, DEDUCED: the bag size under SKIP_FOREIGN; log 50, DESIGN CHOICE: overlapping operands; log 150, DEDUCED: SCATTER_ADD's rounding. -/

namespace Sys2Proof.Machine

/-! ### The descriptor (R243) -/

/-- The fields of a descriptor. -/
structure Dv where
  op : Nat
  flags : Nat
  st : Nat
  dt : Nat
  rm : Nat
  sat : Bool
  sub : Nat
  done : Nat
  src : Nat
  dst : Nat
  aux0 : Nat
  aux1 : Nat
  len : Nat
  cnt : Nat
  ss : Nat
  ds : Nat
  param : Nat
  deriving DecidableEq, Repr, Inhabited

def dview (l : Line) : Dv :=
  let b := lineNat l
  { op := b 0 1, flags := b 1 1, st := b 2 1 % 16, dt := b 2 1 / 16, rm := b 3 1 % 8, sat := tb (b 3 1) 3, sub := b 3 1 / 16, done := b 4 4, src := b 8 8,
    dst := b 16 8, aux0 := b 24 8, aux1 := b 32 8, len := b 40 4, cnt := b 44 4, ss := b 48 4, ds := b 52 4, param := b 56 8 }

def Dv.srcLoft (v : Dv) : Bool := tb v.flags 0
def Dv.dstLoft (v : Dv) : Bool := tb v.flags 1
def Dv.auxLoft (v : Dv) : Bool := tb v.flags 2
def Dv.skip (v : Dv) : Bool := tb v.flags 3
def Dv.red (v : Dv) : Bool := tb v.flags 4
def Dv.stEn (v : Dv) : Bool := tb v.flags 5
def Dv.bulk (v : Dv) : Bool := tb v.flags 6
def Dv.phys (v : Dv) : Bool := tb v.flags 7
/-- The class of a descriptor's requests (R226). -/
def Dv.cls (v : Dv) : QClass := if v.bulk then .bulk else .norm
/-- Loft offset of the status record. -/
def Dv.stOff (v : Dv) : Nat := v.done / 65536 * 32
/-- K of TOPK, results it writes. -/
def Dv.k (v : Dv) : Nat := v.param % 512
def Dv.kOut (v : Dv) : Nat := min v.k v.len

/-- A zero length, count or size (R8). -/
def Dv.zeroOp (v : Dv) : Bool :=
  v.len = 0 || (match v.op with
    | 5 => v.cnt = 0 | 6 => v.cnt = 0 || v.param % 2 ^ 32 = 0 | 7 => v.cnt = 0 || v.param % 2 ^ 32 = 0 | 8 => v.k = 0 | _ => false)

/-- Deck-engine reduce inputs (R57). -/
def reduceIn (ty : Nat) : Bool := ty ≤ 5 || ty = 9 || ty = 12
/-- DTYPEs of REDUCE and GATHER_REDUCE. -/
def reduceOut (st dt : Nat) : Bool := if st = 9 || st = 12 then dt = 12 else dt ≤ 8
/-- Formats of Thatch reduction (R57). -/
def redFmt (ty : Nat) : Bool := ty ≤ 3 || 12 ≤ ty

/-- The checks of R246 that the descriptor alone decides. TYPES of FILL, ZERO and CRC32C, whose table rows name none, are to be 0 (log 46, DEDUCED). -/
def Dv.ok (v : Dv) (turnpike : Bool) : Bool :=
  let plain := v.st = 0 && v.dt = 0 && v.sub = 0
  let hi := fun (l : Bool) (a : Nat) => !l || a < 2 ^ 21
  let usesSrc := v.op ≠ 2 && v.op ≠ 3
  let aux0 := (v.op = 4 && tb v.sub 0) || v.op = 6 || v.op = 7 || v.op = 8
  let aux1 := (v.op = 4 && tb v.sub 1) || v.op = 6
  let dst := v.op ≠ 9
  let op := match v.op with
    | 1 => plain && v.param = 0
    | 2 => plain
    | 3 => plain && v.param = 0 && (!v.phys || v.zeroOp || (v.dst % 65536 = 0 && v.len % 65536 = 0))
    | 4 => v.sub ≤ 3 && v.param = 0 && (!tb v.sub 0 || (4 ≤ v.st && v.st ≤ 10)) && (!tb v.sub 1 || (4 ≤ v.dt && v.dt ≤ 10))
    | 5 => v.sub ≤ 1 && v.param = 0 && reduceIn v.st && reduceOut v.st v.dt
    | 6 => v.sub ≤ 2 && v.param < 2 ^ 32 && reduceIn v.st && reduceOut v.st v.dt
    | 7 => v.sub = 0 && v.param < 2 ^ 32 && (v.dt ≤ 3 || v.dt = 12) && reduceIn v.st &&
           (v.st = v.dt || (if v.dt = 12 then v.st = 9 else v.st ≤ 5 && tyBits v.st < tyBits v.dt))
    | 8 => v.sub ≤ 1 && v.k ≤ 256 && v.param < 512 && reduceIn v.st && v.dt = v.st
    | 9 => plain && v.param < 2 ^ 32
    | _ => false
  op && v.rm ≠ 7 && !(v.rm = 6 && v.sat) && (v.rm ≠ 5 || v.op = 4) && bits v.done 13 3 = 0 &&
  (!v.phys || (turnpike && v.op = 3)) && (!v.skip || v.op = 6 || v.op = 7) &&
  (!v.red || ((v.op = 4 || v.op = 5 || v.op = 6) && redFmt v.dt && !(v.op = 6 && v.sub = 1) && !v.dstLoft && !(v.op = 4 && tb v.sub 1))) &&
  (!(v.op = 5 || v.op = 6 || v.op = 7) || v.ss % 16 = 0) && (!(v.op = 6 || v.op = 7) || v.ds % 16 = 0) &&
  (v.zeroOp ||
    ((!usesSrc || (v.src % 16 = 0 && hi v.srcLoft v.src)) && (!dst || (v.dst % 16 = 0 && hi v.dstLoft v.dst)) &&
     (!aux0 || (v.aux0 % 16 = 0 && hi v.auxLoft v.aux0)) && (!aux1 || (v.aux1 % 16 = 0 && hi v.auxLoft v.aux1))))

/-! ### Operands (R245) -/

/-- A run of bytes of an operand: how it is accessed, where, and whether it must lie in the group's near channels. -/
structure DRun where
  acc : Access
  loft : Bool
  a : Nat
  n : Nat
  near : Bool := true
  deriving DecidableEq, Repr, Inhabited

/-- What stops a descriptor: a translation that its group's cache misses, or a fault's code and address. -/
inductive DStop where
  | wait (va : Nat) (acc : Access)
  | fault (code : Nat) (addr : Option Nat)
  deriving DecidableEq, Repr, Inhabited

/-- Translate for an engine (R242, R491): by its group's cache, or by a walk's result that its descriptor holds. -/
def engAddr (s : State) (ch ctx va : Nat) (acc : Access) : Except DStop Nat :=
  if (getCtx s ctx).isNone || va / 2 ^ 48 ≠ 0 then .error (.fault 0x0302 (some va)) else
    match tlbFind (s.deck.engTlb.getD (ch / 4) [] ++ ((current s ch).map (·.trans)).getD []) ctx va with
    | some t => if rightsOk t.leaf.toNat acc then .ok (leafAddr t.leaf t.log2 va) else .error (.fault 0x0302 (some va))
    | none => .error (.wait va acc)

/-- A miss of the group's cache goes to the half's walker (R242, R491). -/
def engWalk (s : State) (ch : Nat) (d : DDesc) (va : Nat) (acc : Access) : State :=
  let w : WalkReq := { half := chanHalf ch, ctx := d.ctx, va := va, acc := acc, agent := .engine ch, pipe := d.pipe, slot := d.slot }
  if s.deck.walks.any (fun v => { v with deferred := false } = w) then s else { s with deck := { s.deck with walks := s.deck.walks ++ [w] } }

/-- The first trouble of a run (R245, R246). -/
def runStop (s : State) (ch ctx : Nat) (r : DRun) : Option DStop :=
  if r.n = 0 then none
  else if r.loft then (if r.a + r.n > loftSize (chanCore ch) then some (.fault 0x0302 (some r.a)) else none)
  else (vaPieces r.a r.n).findSome? (fun p =>
    match engAddr s ch ctx p.1 r.acc with
    | .error e => some e
    | .ok a =>
      if !isDeck s a || (r.near && chanOf (locOf a) / 4 ≠ ch / 4) then some (.fault 0x0302 (some p.1))
      else if !dieUp s (homeDie (a / 64)) then some (.fault 0x0206 (some a))
      else none)

/-- A line that a portion reads: its number, its context address, the channel whose engine reads it. -/
structure EngLine where
  line : Nat
  va : Nat
  chan : Nat
  deriving DecidableEq, Repr, Inhabited

/-- The lines that a portion reads (R249): each goes to the engine of its own channel of the group, what lies elsewhere to the lead. Rows to which SCATTER_ADD
adds are read too. -/
def portionReads (s : State) (lead ctx : Nat) (rmw : Bool) (l : List DRun) : List EngLine :=
  let ps := (l.filter (fun r => !r.loft && (r.acc = .read || (rmw && r.acc = .write)))).flatMap (fun r => (vaPieces r.a r.n).filterMap (fun p =>
    match engAddr s lead ctx p.1 r.acc with
    | .ok a => some ({ line := a / 64, va := p.1, chan := if chanOf (locOf a) / 4 = lead / 4 then chanOf (locOf a) else lead } : EngLine)
    | .error _ => none))
  ps.foldl (fun a p => if a.any (fun q => q.line = p.line) then a else a ++ [p]) []

/-- Read a line at its channel (R237, R238): counts and records, and the fault that it raises: its code and address. -/
def engRead (s : State) (ctx : Nat) (p : EngLine) (out : EccOut) : Option (Nat × Nat) × State :=
  let mine : Bool := match getMark s (locLine p.line) with | some (.strip n) => n = ctx | _ => false
  let (bad, s) := arrayRead s (locLine p.line) out
  (if bad then some (0x0207, p.va) else if mine then some (0x0205, p.va) else none, s)

/-- Bytes of a run. -/
def deRead (s : State) (ch ctx : Nat) (loft : Bool) (a n : Nat) : List Byte :=
  if loft then readBytes s.mem (loftAt (chanCore ch) + a) n
  else (vaPieces a n).flatMap (fun p => match engAddr s ch ctx p.1 .read with | .ok sa => orderBytes s sa p.2 | .error _ => List.replicate p.2 0)

/-- An engine as a writer of write-combining entries. -/
def engWriter (ch : Nat) : Nat := 2000 + ch

/-- Write the bytes of a run. -/
def deWrite (s : State) (ch ctx : Nat) (loft : Bool) (a : Nat) (bs : List Byte) : State :=
  if loft then { s with mem := writeBytes s.mem (loftAt (chanCore ch) + a) bs }
  else each (vaPieces a bs.length) (fun s p =>
    match engAddr s ch ctx p.1 .write with
    | .ok sa => orderWriteBytes s sa ((bs.drop (p.1 - a)).take p.2) (engWriter ch)
    | .error _ => s) s

/-- A U32 of an index or offset array. -/
def auxAt (s : State) (ch ctx : Nat) (loft : Bool) (a j : Nat) : Nat := leNat (deRead s ch ctx loft (a + 4 * j) 4)

/-- Runs that the descriptor's own fields name. -/
def Dv.runs (v : Dv) : List DRun :=
  if v.zeroOp then [] else
    let rd := fun l a n => ({ acc := .read, loft := l, a := a, n := n } : DRun)
    let wr := fun l a n => ({ acc := if v.red then .atomic else .write, loft := l, a := a, n := n, near := !v.red } : DRun)
    let aux := fun a n => ({ acc := .read, loft := v.auxLoft, a := a, n := n } : DRun)
    match v.op with
    | 1 => [{ rd v.srcLoft v.src v.len with near := false }, wr v.dstLoft v.dst v.len]
    | 2 => [wr v.dstLoft v.dst v.len]
    | 3 => if v.phys then [] else [wr v.dstLoft v.dst v.len]
    | 4 => [rd v.srcLoft v.src (rowBytes v.st v.len), wr v.dstLoft v.dst (rowBytes v.dt v.len)] ++
           (if tb v.sub 0 then [aux v.aux0 ((v.len + 31) / 32)] else []) ++
           (if tb v.sub 1 then [{ aux v.aux1 ((v.len + 31) / 32) with acc := .write }] else [])
    | 5 => (List.range v.cnt).map (fun i => rd v.srcLoft (v.src + i * v.ss) (rowBytes v.st v.len)) ++ [wr v.dstLoft v.dst (rowBytes v.dt v.len)]
    | 6 => aux v.aux1 (4 * (v.cnt + 1)) :: (List.range v.cnt).map (fun b => wr v.dstLoft (v.dst + b * v.ds) (rowBytes v.dt v.len))
    | 7 => aux v.aux0 (4 * v.cnt) :: (List.range v.cnt).map (fun i => rd v.srcLoft (v.src + i * v.ss) (rowBytes v.st v.len))
    | 8 => [rd v.srcLoft v.src (rowBytes v.st v.len), wr v.dstLoft v.dst (rowBytes v.dt v.kOut), { aux v.aux0 (4 * v.kOut) with acc := .write }]
    | _ => [rd v.srcLoft v.src v.len]

/-- Whether every line of a run lies in the group's near channels; a run that cannot be translated, or that leaves this device's deck, counts as near, so that its
trouble shows (R245, R246). -/
def runNear (s : State) (ch ctx : Nat) (loft : Bool) (acc : Access) (a n : Nat) : Bool :=
  loft || (vaPieces a n).all (fun p => match engAddr s ch ctx p.1 acc with | .ok sa => !isDeck s sa || chanOf (locOf sa) / 4 = ch / 4 | .error _ => true)

/-- The table rows that the indices name: per bag (GATHER_REDUCE; its size) or for each row (SCATTER_ADD; its number) the addresses used; AUX1[0];
how many rows are skipped. -/
structure Rows where
  bags : List (Nat × List Nat) := []
  first : Nat := 0
  skipped : Nat := 0
  runs : List DRun := []
  deriving DecidableEq, Repr, Inhabited

/-- Read the index arrays and check them (R246). -/
def tableRows (s : State) (ch ctx : Nat) (v : Dv) : Except DStop Rows :=
  let n := v.param % 2 ^ 32
  let idx := auxAt s ch ctx v.auxLoft v.aux0
  if v.zeroOp then .ok {} else
    match v.op with
    | 6 =>
      let off := (List.range (v.cnt + 1)).map (auxAt s ch ctx v.auxLoft v.aux1)
      let pairs := off.zip (off.drop 1)
      let last := off.getLastD 0
      if pairs.any (fun p => p.2 < p.1) then .error (.fault 0x0302 (some v.aux1)) else
        match runStop s ch ctx { acc := .read, loft := v.auxLoft, a := v.aux0 + 4 * off.headD 0, n := 4 * (last - off.headD 0) } with
        | some e => .error e
        | none =>
          let w := rowBytes v.st v.len
          let bags := pairs.map (fun p => (p.2 - p.1, (List.range (p.2 - p.1)).map (fun j => idx (p.1 + j))))
          if bags.any (fun b => b.2.any (fun i => i ≥ n)) then .error (.fault 0x0302 (some v.aux0)) else
            let near := fun i => runNear s ch ctx v.srcLoft .read (v.src + i * v.ss) w
            let keep := bags.map (fun b => (b.1, (b.2.filter (fun i => !v.skip || near i)).map (fun i => v.src + i * v.ss)))
            .ok { bags := keep, first := off.headD 0, skipped := (bags.map (fun b => b.2.length)).sum - (keep.map (fun b => b.2.length)).sum,
                  runs := keep.flatMap (fun b => b.2.map (fun a => { acc := .read, loft := v.srcLoft, a := a, n := w })) }
    | 7 =>
      let w := rowBytes v.dt v.len
      let is := (List.range v.cnt).map idx
      if is.any (fun i => i ≥ n) then .error (.fault 0x0302 (some v.aux0)) else
        let near := fun i => runNear s ch ctx v.dstLoft .write (v.dst + i * v.ds) w
        let keep := is.zipIdx.filter (fun p => !v.skip || near p.1)
        .ok { bags := keep.map (fun p => (p.2, [v.dst + p.1 * v.ds])), skipped := is.length - keep.length,
              runs := keep.map (fun p => { acc := .write, loft := v.dstLoft, a := v.dst + p.1 * v.ds, n := w }) }
    | _ => .ok {}

/-! ### Arithmetic (R59, R64, R69) -/

/-- A sum of terms in binary32, or binary64 when `wide`: one rounded add per term, in an order that the engine chooses (R59, R68). `key`: the
first of the 2^33 open values set aside for an element. -/
def sumVals (key : Nat) (wide : Bool) (xs : List Val) : Nat × Flg :=
  let ty := if wide then 0 else 1
  let f : Fmt := if wide then ⟨11, 52, 1023, .ieee⟩ else ⟨8, 23, 127, .ieee⟩
  let ts := xs.map (encTy ty .rne false)
  let (r, g) := sumAnyOrder f key (ts.length - 1) (ts.map (·.1))
  (r, ts.foldl (fun a p => a ||| p.2) g)

/-- One element of a reduction over rows (R59, R69): SUBOP 0 SUM, 1 MAX or MEAN, as `mean` says; `size` divides a MEAN. -/
def reduceElem (s : State) (idx : Nat) (v : Dv) (kind size : Nat) (xs : List Nat) : Nat × Flg :=
  let isI := v.st = 9 || v.st = 12
  let wide := v.st = 0
  let accTy := if wide then 0 else 1
  let vs := xs.map (fun x => (decTy v.st x).1)
  let sn := fIf (xs.any (fun x => (decTy v.st x).2)) fInvalid
  -- a reduction is arithmetic: SR through DYN rounds RNE (log 149, DEDUCED)
  let md := rmodeOf (arithRm v.rm) 0
  if xs.isEmpty then (0, 0) else
    match kind with
    | 2 =>
      let m := (vs.drop 1).foldl (vMinMax true) (vs.headD (.fin false 0 0))
      let (r, f) := encTy v.dt md v.sat m
      (r, f ||| sn)
    | k =>
      let (acc, f) := if isI then
          let z := (xs.map (fun x => sext (tyBits v.st) x)).sum
          if k = 0 then (wrap 32 z, 0) else encTy 1 .rne false (.fin (sext 32 (wrap 32 z) < 0) (sext 32 (wrap 32 z)).natAbs 0)
        else sumVals (s.freeCtr + 2 ^ 33 * idx) wide vs
      if isI && k = 0 then (acc, f ||| sn) else
        let (acc, f) := if k = 0 then (acc, f) else
          let (q, g) := vDiv (decTy accTy acc).1 (.fin false size 0)
          let (b, h) := encTy accTy .rne false q
          (b, f ||| g ||| h)
        let (r, g) := cvtElem accTy v.dt md v.sat acc
        (r, f ||| g ||| sn)

/-- CRC-32C of bytes after a previous result: reflected, polynomial 0x82F63B78. -/
def crcByte (c : Nat) (b : Byte) : Nat :=
  (List.range 8).foldl (fun c _ => if c % 2 = 1 then Nat.xor (c / 2) 0x82F63B78 else c / 2) (Nat.xor c b.toNat)

def crc32c (prev : Nat) (bs : List Byte) : Nat := Nat.xor (bs.foldl crcByte (Nat.xor prev 0xFFFFFFFF)) 0xFFFFFFFF

/-- Whether `a` ranks before `b` in TOPK: NaN below every number. -/
def ranks (small : Bool) (a b : Val) : Bool := if a.isNan then false else if b.isNan then true else if small then vLt a b else vLt b a

/-- Insert into a list sorted best first, after its equals. -/
def rankIn (small : Bool) (x : Val × Nat × Nat) : List (Val × Nat × Nat) → List (Val × Nat × Nat)
  | [] => [x]
  | y :: t => if ranks small x.1 y.1 then x :: y :: t else y :: rankIn small x t

/-! ### Effects (R244) -/

/-- What a portion leaves: the state, flags, RESULT, REDs to send (address, bytes), TOPK's candidates (value, position). -/
structure DRes where
  s : State
  fl : Flg := 0
  result : Nat := 0
  reds : List (Nat × List Byte) := []
  cand : List (Nat × Nat) := []
  deriving Inhabited

/-- Elements of a packed row. -/
def elems (ty n : Nat) (bs : List Byte) : List Nat := (List.range n).map (rowElem ty (leNat bs))

/-- A row of results, to memory or as REDs. -/
def putRow (ch ctx : Nat) (v : Dv) (r : DRes) (a : Nat) (bs : List Byte) : DRes :=
  if v.red then { r with reds := r.reds ++ [(a, bs)] } else { r with s := deWrite r.s ch ctx v.dstLoft a bs }

/-- The portion of a descriptor in hand: its fields and table rows, the progress after it, whether it is the last, the whole descriptor's results of
TOPK, and the position of its first element. -/
structure Work where
  v : Dv
  rows : Rows
  next : Nat
  last : Bool
  kOut : Nat := 0
  pos : Nat := 0
  deriving DecidableEq, Repr, Inhabited

/-- How many portions a descriptor has: bags or kept rows, else 64 bytes or 64 elements each (R252; log 45, DESIGN CHOICE). -/
def unitCount (v : Dv) (rows : Rows) : Nat :=
  if v.zeroOp then 0 else if v.op = 6 || v.op = 7 then rows.bags.length else (v.len + 63) / 64

/-- Portion `u` of a descriptor. Bags whose results DST_RED sends to one line are one portion (R247). -/
def portionOf (v : Dv) (rows : Rows) (u : Nat) : Work :=
  let n := unitCount v rows
  match v.op with
  | 6 =>
    let line := fun k => (v.dst + (u + k) * v.ds) / 64
    let g := if v.red && v.ds ≠ 0 then ((List.range 4).filter (fun k => u + k < n && line k = line 0)).length else 1
    let bags := (rows.bags.drop u).take g
    let w := rowBytes v.st v.len
    { v := { v with dst := v.dst + u * v.ds, cnt := bags.length, aux1 := v.aux1 + 4 * u }, next := u + g, last := u + g ≥ n
      rows := { bags := bags, runs :=
        { acc := .read, loft := v.auxLoft, a := v.aux0 + 4 * (rows.first + ((rows.bags.take u).map (·.1)).sum), n := 4 * (bags.map (·.1)).sum } ::
        bags.flatMap (fun b => b.2.map (fun a => { acc := .read, loft := v.srcLoft, a := a, n := w })) } }
  | 7 =>
    let b := rows.bags.getD u default
    { v := { v with src := v.src + b.1 * v.ss, cnt := 1, aux0 := v.aux0 + 4 * b.1 }, next := u + 1, last := u + 1 ≥ n
      rows := { bags := [(0, b.2)], runs := b.2.map (fun a => { acc := .write, loft := v.dstLoft, a := a, n := rowBytes v.dt v.len }) } }
  | op =>
    let elem := op = 4 || op = 5 || op = 8
    let off := fun ty => if elem then rowBytes ty (64 * u) else 64 * u
    { v := { v with
        len := min 64 (v.len - 64 * u), src := v.src + off v.st, dst := if op = 8 then v.dst else v.dst + off v.dt
        aux0 := if op = 4 then v.aux0 + 2 * u else v.aux0, aux1 := if op = 4 then v.aux1 + 2 * u else v.aux1 }
      rows := {}, next := u + 1, last := u + 1 ≥ n, kOut := v.kOut, pos := 64 * u }

/-- The runs of a portion: TOPK writes with its last. -/
def Work.runs (w : Work) (v : Dv) : List DRun :=
  (if v.op = 8 then w.v.runs.filter (fun r => r.acc = .read) ++ (if w.last then v.runs.filter (fun r => r.acc = .write) else []) else w.v.runs) ++ w.rows.runs

/-- The effect of a portion of a descriptor whose operands do not run into one another; `cand`: TOPK's candidates so far. -/
def descResult (s : State) (ch ctx : Nat) (w : Work) (cand : List (Nat × Nat)) : DRes :=
  let v := w.v
  let rows := w.rows
  let row := fun (s : State) l a ty => elems ty v.len (deRead s ch ctx l a (rowBytes ty v.len))
  let out := fun (l : List (Nat × Flg)) => natLe (rowBytes v.dt l.length) (packRow v.dt (l.map (·.1)))
  let ors := fun (l : List (Nat × Flg)) => l.foldl (fun (a : Flg) p => a ||| p.2) 0
  match v.op with
    | 1 => { s := deWrite s ch ctx v.dstLoft v.dst (deRead s ch ctx v.srcLoft v.src v.len) }
    | 2 => { s := deWrite s ch ctx v.dstLoft v.dst ((List.range v.len).map (fun k => BitVec.ofNat 8 (bits v.param (8 * (k % 8)) 8))) }
    | 3 =>
      if v.phys then { s := orderWriteBytes s (myDev s * 2 ^ 40 + v.dst) (List.replicate v.len 0) (engWriter ch) }
      else { s := deWrite s ch ctx v.dstLoft v.dst (List.replicate v.len 0) }
    | 4 =>
      let src := row s v.srcLoft v.src v.st
      let sc := fun j => (deRead s ch ctx v.auxLoft (v.aux0 + j / 32) 1).headD 0
      let vals := src.zipIdx.map (fun e =>
        let (x, sn) := decTy v.st e.1
        (if tb v.sub 0 then scaled x (sc e.2).toNat else x, sn))
      let md := fun j => rmodeOf v.rm (Config.freeNat (s.freeCtr + j) % 65536)
      let sn := fIf (vals.any (·.2)) fInvalid
      let s1 := { s with freeCtr := s.freeCtr + v.len }
      if !tb v.sub 1 then
        let r := vals.zipIdx.map (fun e => encTy v.dt (md e.2) v.sat e.1.1)
        putRow ch ctx v { s := s1, fl := ors r ||| sn } v.dst (out r)
      else
        let blocks : List (Nat × List (Nat × Flg)) := (List.range ((v.len + 31) / 32)).map (fun b =>
          let blk := (vals.drop (32 * b)).take 32
          match blockScale v.dt (blk.map (·.1)) with
          | none => (255, blk.map (fun _ => ((0, fInvalid) : Nat × Flg)))
          | some q => (q, blk.zipIdx.map (fun (e : (Val × Bool) × Nat) =>
              encTy v.dt (md (32 * b + e.2)) v.sat (match e.1.1 with | .fin n m x => .fin n m (x - q + 127) | w => w))))
        let r := blocks.flatMap (·.2)
        let s1 := deWrite s1 ch ctx v.dstLoft v.dst (out r)
        { s := deWrite s1 ch ctx v.auxLoft v.aux1 (blocks.map (fun b => BitVec.ofNat 8 b.1)), fl := ors r ||| sn }
    | 5 =>
      let src := (List.range v.cnt).map (fun i => row s v.srcLoft (v.src + i * v.ss) v.st)
      let r := (List.range v.len).map (fun j => reduceElem s j v (if v.sub = 1 then 2 else 0) v.cnt (src.map (fun l => l.getD j 0)))
      putRow ch ctx v { s := { s with freeCtr := s.freeCtr + 2 ^ 33 * v.len }, fl := ors r } v.dst (out r)
    | 6 =>
      rows.bags.zipIdx.foldl (fun (st : DRes) b =>
        let src := b.1.2.map (fun a => row s v.srcLoft a v.st)
        let r := (List.range v.len).map (fun j => reduceElem st.s j v v.sub b.1.1 (src.map (fun l => l.getD j 0)))
        let st := { st with s := { st.s with freeCtr := st.s.freeCtr + 2 ^ 33 * v.len }, fl := st.fl ||| ors r }
        if v.red && src.isEmpty then st else putRow ch ctx v st (v.dst + b.2 * v.ds) (out r)) { s := s }
    | 7 =>
      rows.bags.foldl (fun (st : DRes) b =>
        let a := b.2.headD 0
        let src := row st.s v.srcLoft (v.src + b.1 * v.ss) v.st
        let old := row st.s v.dstLoft a v.dt
        let r := (old.zip src).map (fun p =>
          if v.dt = 12 then ((p.1 + wrap 32 (sext (tyBits v.st) p.2)) % 2 ^ 32, (0 : Flg)) else
            let md := rmodeOf (arithRm v.rm) 0
            let (x, sx) := decTy v.dt p.1
            let (y, sy) := decTy v.st p.2
            let (z, f) := vAdd md x y
            let (q, g) := encTy v.dt md v.sat z
            (q, f ||| g ||| fIf (sx || sy) fInvalid))
        { st with s := deWrite st.s ch ctx v.dstLoft a (out r), fl := st.fl ||| ors r }) { s := s }
    | 8 =>
      let src := row s v.srcLoft v.src v.st
      -- a NaN leaves as the canonical one, and a signalling one raises INVALID (R52)
      let quiet := fun (x : Nat) => if (decTy v.st x).1.isNan then (encTy v.st .rne false .nan).1 else x
      let fl := fIf (src.any (fun x => (decTy v.st x).2)) fInvalid
      let old := cand.map (fun e => ((decTy v.st e.1).1, e.1, e.2))
      let best := (src.zipIdx.map (fun e => ((decTy v.st e.1).1, quiet e.1, w.pos + e.2))).foldl (fun l x => (rankIn (v.sub = 1) x l).take w.kOut) old
      if !w.last then { s := s, fl := fl, cand := best.map (·.2) } else
        let s1 := deWrite s ch ctx v.dstLoft v.dst (natLe (rowBytes v.dt best.length) (packRow v.dt (best.map (·.2.1))))
        { s := deWrite s1 ch ctx v.auxLoft v.aux0 (best.flatMap (fun e => natLe 4 e.2.2)), fl := fl, result := best.length }
    | _ => { s := s, result := crc32c (v.param % 2 ^ 32) (deRead s ch ctx v.srcLoft v.src v.len) }

/-- What a descriptor or a portion writes, and whether a read of the descriptor meets a write without covering the same elements: then what it writes is
open (log 50, DESIGN CHOICE). -/
def descWrites (v : Dv) (rows : Rows) : List DRun := (v.runs ++ rows.runs).filter (fun r => r.acc = .write)
def descMixed (v : Dv) (rows : Rows) : Bool :=
  (v.op = 1 || v.op = 4 || v.op = 5 || v.op = 6 || v.op = 7) && (v.runs ++ rows.runs).any (fun r => r.acc = .read && (descWrites v rows).any (fun w =>
    r.loft = w.loft && r.a < w.a + w.n && w.a < r.a + r.n && !(r.a = w.a && r.n = w.n && v.op ≠ 6 && v.op ≠ 7)))

/-- The effect of a portion; `v`, `rows`: the whole descriptor's. -/
def descEffect (s : State) (ch ctx : Nat) (v : Dv) (rows : Rows) (w : Work) (cand : List (Nat × Nat)) : DRes :=
  let r := descResult s ch ctx w cand
  if !descMixed v rows then r else
    let s1 := each (descWrites w.v w.rows) (fun s w =>
      deWrite { s with freeCtr := s.freeCtr + w.n } ch ctx w.loft w.a ((List.range w.n).map (fun j => BitVec.ofNat 8 (Config.freeNat (s.freeCtr + j))))) r.s
    { r with s := { s1 with freeCtr := s1.freeCtr + 1 }, fl := if v.op = 1 then r.fl else BitVec.ofNat 6 (Config.freeNat s1.freeCtr) }

/-! ### Residency: CLEAN and CLAIM (R230, R247) -/

/-- The system lines of a list of runs that lie in the deck, each with whether it is written. -/
def runLines (s : State) (ch ctx : Nat) (l : List DRun) : List (Nat × Bool) :=
  l.flatMap (fun r => if r.loft then [] else (vaPieces r.a r.n).filterMap (fun p =>
    match engAddr s ch ctx p.1 r.acc with
    | .ok a => if r.acc = .atomic then none else some (a / 64, r.acc = .write)
    | .error _ => none))

/-- The lines of a PHYS ZERO. -/
def physLines (s : State) (v : Dv) : List (Nat × Bool) := (List.range (v.len / 64)).map (fun j => ((myDev s * 2 ^ 40 + v.dst) / 64 + j, true))

/-- Lines with their writes merged. -/
def mergeLines (l : List (Nat × Bool)) : List (Nat × Bool) :=
  l.foldl (fun a p => if a.any (fun q => q.1 = p.1) then a.map (fun q => if q.1 = p.1 then (q.1, q.2 || p.2) else q) else a ++ [p]) []

/-- Whether the deck holds a line as the engine needs it: no transaction; nothing held, or for a read a clean line. -/
def lineReady (s : State) (line : Nat) (write : Bool) : Bool :=
  (getBusy s (homeDie line) line).isNone && !s.coh.net.any (fun m => m.kind = .writeBack && m.line = line) &&
  (match getLine s (homeDie line) line with | none => true | some e => !write && e.st ≠ .hd && e.st ≠ .hg)

/-- Send CLEAN or CLAIM for lines. -/
def claimLines (s : State) (ch : Nat) (l : List (Nat × Bool)) : State :=
  each l (fun s p => send s { kind := if p.2 then .claim else .clean, req := .engine ch, die := homeDie p.1, slice := sliceOf p.1, line := p.1, id := 0 }) s

/-- Whether the descriptor may start by the core's scoreboard (R148). -/
def descReady (s : State) (c : Nat) (d : DDesc) : Bool :=
  d.turnpike || ((heldRanges s c).all (fun h => d.seq ≤ h.1 || d.ranges.all (fun r => !(r.meets h.2 && (r.write || h.2.write)))) &&
    (getCore s c).outs.all (fun o => match o.kind with
      | .load .. => true | .prefetch => true | .flag _ => true | .move .. => true
      | _ => o.parts.all (fun p => d.ranges.all (fun r => r.loft || p.va + p.size ≤ r.lo || r.hi ≤ p.va))))

/-- A descriptor's fault (R246): DETAIL of an uncorrectable line is its record's index (R98). -/
def descFault (s : State) (ch : Nat) (d : DDesc) (code : Nat) (addr : Option Nat) : State :=
  let index := match addr.map (fun a => engAddr s ch d.ctx a .read) with | some (.ok a) => errIndex s (locLine (a / 64)) | _ => lastErr s
  raiseFault s { ctx := d.ctx, code := code, detail := match code with | 0x0302 => ch | 0x0207 => index | _ => 0,
                 core := chanCore ch, pipe := d.pipe, slot := d.slot, group := !d.turnpike, addr := addr, manager := d.turnpike }

/-- Messages to one line are one where they name different bytes of it (R247). -/
def mergeReds (l : List Msg) : List Msg :=
  l.foldl (fun (a : List Msg) m =>
    match a.find? (fun q => q.line = m.line && q.mask &&& m.mask = 0) with
    | some q => a.map (fun p => if p = q then { q with mask := q.mask ||| m.mask, data := q.data ||| m.data } else p)
    | none => a ++ [m]) []

/-- The REDs of a DST_RED output: one per line (R247). The rows of a MAX are reduced by MAX at the home, those of a sum by ADD, and so are a CONVERT's, for which the
spec names no reduction (log 47, DEDUCED). -/
def redMsgs (s : State) (ch ctx : Nat) (v : Dv) (l : List (Nat × List Byte)) : List Msg :=
  let op := if (v.op = 5 && v.sub = 1) || (v.op = 6 && v.sub = 2) then (if 12 ≤ v.dt then 2 else 10) else (if 12 ≤ v.dt then 0 else 8)
  mergeReds (l.flatMap (fun q => (vaPieces q.1 q.2.length).filterMap (fun p =>
    match engAddr s ch ctx p.1 .atomic with
    | .ok a => some {
        kind := .red, req := .engine ch, die := homeDie (a / 64), slice := sliceOf (a / 64), line := a / 64, id := 1, op := op, ty := v.dt, flags := 2,
        mask := BitVec.ofNat 64 ((2 ^ p.2 - 1) * 2 ^ (a % 64)),
        data := BitVec.ofNat 512 (leNat ((q.2.drop (p.1 - q.1)).take p.2) * 2 ^ (8 * (a % 64))) }
    | .error _ => none)))

/-- What an engine works on (R249): its own descriptor, or sub-work of another engine of its group, in order of arrival; while its own waits for
other engines, sub-work. Answers the lead's channel. -/
def engineWork (s : State) (chan : Nat) : Option (Nat × DDesc) :=
  let own := (current s chan).filter (fun d => !d.passed)
  let sub := (getChan s chan).sub.findSome? (fun w => ((current s w.lead).filter (fun d => d.id = w.desc)).map (fun d => (w, d)))
  match own, sub with
  | some d, some (w, e) => if w.at_ ≤ d.id then some (w.lead, e) else some (chan, d)
  | some d, none => some (chan, d)
  | none, some (w, e) => some (w.lead, e)
  | none, none => none

/-- The part of a portion that lies in another channel goes to the sub-queue of that channel's engine, of 4 entries (R242, R249). -/
def passPart (s : State) (lead to_ : Nat) (d : DDesc) : State :=
  let c := getChan s to_
  if c.sub.length ≥ 4 || c.sub.any (fun w => w.lead = lead && w.desc = d.id) then s
  else setChan s to_ { c with sub := c.sub ++ [{ lead := lead, desc := d.id, at_ := s.deck.nextId }] }

/-- A part is done: it leaves its engine's sub-queue. -/
def partDone (s : State) (chan lead : Nat) (d : DDesc) : State :=
  let c := getChan s chan
  setChan s chan { c with sub := c.sub.filter (fun w => !(w.lead = lead && w.desc = d.id)) }

/-- A portion is done: the descriptor goes on from `next` (R252). -/
def unitDone (s : State) (lead next : Nat) (last : Bool) (f : DDesc → DDesc) : State :=
  setCurrent s lead (fun q => f { q with unit := next, asked := [], read := [], passed := false, phase := if last then 2 else q.phase,
                                         trans := if last then [] else q.trans })

/-- Half slots of a line transfer: a granule of the gather path takes half a slot (R227). -/
def Dv.half (v : Dv) : Nat := if v.op = 6 && rowBytes v.st v.len ≤ 16 then 1 else 2

/-- A step of the descriptor that the engine of a channel works on, of which `lead` is the lead (R246, R247, R249): the engine reads the next line of its part of the
portion in hand; once all parts are read, the lead combines them and has the portion's effect. -/
def runUnit (e : EngAt) (lead : Nat) (d : DDesc) (s : State) : State :=
  let chan := e.chan
  let raw := dview d.raw
  let v := { raw with rm := d.rm, sat := d.sat }
  let c := chanCore chan
  let k := getCore s c
  let half := v.half
  if !d.awaiting.isEmpty || (k.halted && k.ctx = some d.ctx) || (k.preempting && !d.turnpike) || k.gated || !dieUp s (chan / 512) ||
    !serves s chan v.cls half || !descReady s c d then s
  else if d.unit = 0 && (!raw.ok d.turnpike || (v.stEn && v.stOff + 16 > loftSize c)) then descFault s lead d 0x0302 none
  else
    let stop := v.runs.findSome? (runStop s lead d.ctx)
    let rows : Except DStop Rows := match stop with | some e => .error e | none => tableRows s lead d.ctx v
    let rows : Except DStop Rows := match rows with
      | .error e => .error e
      | .ok r => match r.runs.findSome? (runStop s lead d.ctx) with | some e => .error e | none => .ok r
    match rows with
    | .error (.wait va acc) => engWalk s lead d va acc
    | .error (.fault code addr) => descFault s lead d code addr
    | .ok rows =>
      if unitCount v rows = 0 then
        unitDone s lead 0 true (fun q => { q with
          result := if v.op = 9 then v.param % 2 ^ 32 else 0, skipped := rows.skipped, code := if rows.skipped ≠ 0 then 1 else 0 })
      else
        let w := portionOf (if v.op = 9 && d.unit ≠ 0 then { v with param := d.result } else v) rows d.unit
        let runs := w.runs v
        let left := (portionReads s lead d.ctx (v.op = 7) runs).filter (fun p => !d.read.contains p.line)
        let s := if chan = lead then each (distinct ((left.filter (fun p => p.chan ≠ lead)).map (·.chan))) (fun s to_ => passPart s lead to_ d) s else s
        let lines := mergeLines (runLines s lead d.ctx runs ++ if v.phys then physLines s w.v else [])
        let needs := fun (p : Nat × Bool) => resOf s (pageOf (locLine p.1 * 64)) ≠ 0 && !(d.asked.contains p.1 && lineReady s p.1 p.2)
        let ask := fun (l : List (Nat × Bool)) =>
          claimLines (setCurrent s lead (fun q => { q with asked := q.asked ++ l.map (·.1), awaiting := l.map (·.1) })) lead l
        match left.filter (fun p => p.chan = chan) with
        | p :: more =>
          let l := (lines.filter (fun q => (p :: more).any (fun m => m.line = q.1) && needs q)).take 64
          if !l.isEmpty then ask l else
            match engRead (useSlot s chan v.cls half) d.ctx p e.out with
            | (some (code, va), s) => descFault s lead d code (some va)
            | (none, s) =>
              let s := setCurrent s lead (fun q => { q with read := q.read ++ [p.line], passed := q.passed && left.length ≠ 1 })
              if more.isEmpty then partDone s chan lead d else s
        | [] =>
          if chan ≠ lead then partDone s chan lead d
          -- the lead waits once every part is in a sub-queue; one that is full is tried again
          else if !left.isEmpty then
            (if left.all (fun p => (getChan s p.chan).sub.any (fun w => w.lead = lead && w.desc = d.id)) then setCurrent s lead (fun q => { q with passed := true }) else s)
          else
            let l := (lines.filter needs).take 64
            if !l.isEmpty then ask l else
              let r := descEffect s lead d.ctx v rows w d.cand
              let reds := redMsgs s lead d.ctx v r.reds
              -- 64 bytes for each line, 16 for each granule of the gather path (R344)
              let gran := if half = 1 then w.rows.runs.length - 1 else 0
              let s1 := toll r.s d.ctx 4 (64 * (lines.length - gran) + 16 * gran)
              let s1 := each (lines.filter (·.2)) (fun s p => useSlot s (chanOf (locLine p.1 * 64)) v.cls 2) s1
              each reds (fun s m => send s m) (unitDone s1 lead w.next w.last (fun q => { q with
                reds := q.reds ++ reds.map (·.line), arith := q.arith ||| r.fl, result := r.result, cand := r.cand
                skipped := if w.last then rows.skipped else 0, code := if w.last && rows.skipped ≠ 0 then 1 else 0 }))

/-- A row of an operation: the engine of a channel takes a step of that operation, or finds that the operation is reserved (R246, R249). -/
def engineRow (op : Nat) (e : EngAt) (s : State) : State :=
  match engineWork s e.chan with
  | none => s
  | some (lead, d) =>
    let o := (dview d.raw).op
    if 1 ≤ o && o ≤ 9 && o ≠ op then s else runUnit e lead d s

def execCopy (e : EngAt) (s : State) : Out := .next (engineRow 1 e s)
def execFill (e : EngAt) (s : State) : Out := .next (engineRow 2 e s)
def execZero (e : EngAt) (s : State) : Out := .next (engineRow 3 e s)
def execConvert (e : EngAt) (s : State) : Out := .next (engineRow 4 e s)
def execReduce (e : EngAt) (s : State) : Out := .next (engineRow 5 e s)
def execGatherReduce (e : EngAt) (s : State) : Out := .next (engineRow 6 e s)
def execScatterAdd (e : EngAt) (s : State) : Out := .next (engineRow 7 e s)
def execTopk (e : EngAt) (s : State) : Out := .next (engineRow 8 e s)
def execCrc32c (e : EngAt) (s : State) : Out := .next (engineRow 9 e s)

/-- Pages that a completed PHYS ZERO gives back (R225). -/
def zeroedPages (s : State) (v : Dv) : State :=
  let l := (List.range (v.len / 65536)).map (· + v.dst / 65536)
  each (l.filter (fun p => s.deck.zeroing.contains p)) (fun s p =>
    pageFreed { s with deck := { s.deck with zeroing := s.deck.zeroing.filter (· ≠ p) } } p) s

/-- A descriptor completes when its every write is performed and every RED applied (R250): its entries of the write-combining buffers are flushed
(R229), the status record is written, then the waymark is incremented. -/
def execDescComplete (chan : Nat) (s : State) : Out :=
  .next (match (getChan s chan).queue.find? (fun d => d.phase = 2 && d.awaiting.isEmpty && d.reds.isEmpty) with
    | none => s
    | some d =>
      let v := dview d.raw
      let mine := s.deck.chans.flatMap (fun e => (e.2.wcb.filter (fun w => w.writers.contains (engWriter chan))).map (·.line))
      let s := each mine (fun s l => flushWcb s l) s
      let c := getChan s chan
      let s := setChan s chan { c with queue := c.queue.filter (fun q => q.id ≠ d.id) }
      let st := natLe 2 d.code ++ natLe 1 d.arith.toNat ++ natLe 1 0 ++ natLe 4 d.skipped ++ natLe 4 d.result ++ natLe 4 (mstNow s % 2 ^ 32)
      let s := if v.stEn then { s with mem := writeBytes s.mem (loftAt (chanCore chan) + v.stOff) st } else s
      let s := if v.phys then zeroedPages s v else s
      match getCtx s d.ctx with
      | some x => if tb v.done 12 then
          sendWm s { kind := .add, wm := wmIndex x (v.done % 4096), half := chanHalf chan, core := chanCore chan, count := 1 } else s
      | none => s)

/-! ### DESC (R122, R248) -/

/-- What a fence of a core covers: its loft and all of its context's memory. -/
def fenceRanges : List Rng := [rng true true 0 (2 ^ 21), rng false true 0 (2 ^ 48)]

/-- GATHER_REDUCE's last offset as it stands at issue: 0 when it cannot be read. -/
def lastOffset (s : State) (c ctx : Nat) (v : Dv) : Nat :=
  let a := v.aux1 + 4 * v.cnt
  if v.auxLoft then readNat s.mem (loftAt c + a) 4
  else match (getCtx s ctx).map (fun x => walkVa s x a .read) with
    | some (.leaf e n) => if isDeck s (leafAddr e n a) then orderNat s (leafAddr e n a) 4 else 0
    | _ => 0

/-- The ranges that a descriptor holds in the scoreboard (R248). One of a zero length or count orders as a fence would (R8; log 157, DEDUCED). The extent of
GATHER_REDUCE's indices is read from its offsets at issue (log 45, DESIGN CHOICE). -/
def descRanges (s : State) (c ctx : Nat) (v : Dv) : List Rng :=
  let mk := fun (r : DRun) => rng r.loft (r.acc ≠ .read) r.a r.n
  let idx := if v.op = 6 then [rng v.auxLoft false v.aux0 (max 1 (4 * lastOffset s c ctx v))] else []
  if v.zeroOp then fenceRanges else (v.runs.filter (fun r => r.n ≠ 0)).map mk ++ idx ++ (if v.stEn then [rng true true v.stOff 16] else [])

/-- Put a descriptor on a channel's queue. -/
def putDesc (s : State) (ch : Nat) (d : DDesc) : State :=
  let c := getChan s ch
  setChan { s with deck := { s.deck with nextId := s.deck.nextId + 1 } } ch { c with queue := c.queue ++ [{ d with id := s.deck.nextId }] }

/-- DESC (R122). -/
def execDesc (g : Grp) (i : RForm) (s : State) : Out :=
  .next (issue s g i.pr i.pn false 0 0x340 i.d i.a (fun ct => ct = 1)
    (fun _ => [⟨16, i.d, .z⟩, ⟨24, i.a, .r⟩, ⟨32, i.b, .r⟩, ⟨40, i.c, .z⟩]) (fun _ => (48, i.ty = 0) :: plainTail i)
    (fun e =>
      if e.ex = 0 then advance s g e.x 8
      else if fenceHolds e.p false then s else
        let t := lowest e.ex
        let a := e.x.opnd e.sc 32 i.a t
        let ch := nearChan g.core + e.x.opnd e.sc 32 i.b t % 4
        let insn := insnWord i.pr i.pn 0 0x340 i.d i.a
        if a + 64 > loftSize g.core then memFault s e insn (0x0204, a, a)
        else if a % 64 ≠ 0 then memFault s e insn (0x0203, 64, a)
        else if sbBlocked s g.core [rng true false a 64] || (getChan s ch).queue.length ≥ 16 then s
        else
          let raw : Line := BitVec.ofNat 512 (readNat s.mem (loftAt g.core + a) 64)
          let v := dview raw
          let (rm, sat) := resolveRm e.x.arith v.rm v.sat
          let d : DDesc := {
            id := 0, raw := raw, ctx := e.ctx, core := g.core, pipe := g.pipe, slot := g.slot, rm := rm, sat := sat, seq := e.k.nextOp,
            ranges := if v.ok false then descRanges s g.core e.ctx v else [] }
          let s := setCore s g.core { e.k with nextOp := e.k.nextOp + 1 }
          advance (putDesc s ch d) g e.x 8))

end Sys2Proof.Machine
end

