-- ==== Sys2Proof/Machine/Supply.lean ====
section
/-! DEFINITION. Supply, mains and the Kerb (chapter 15): samples and comparators (R381, R382), half-cycle ends and the power-quality log
(R383-R387), sheds (R389-R394), frequency response (R396-R399). Log 77, DESIGN CHOICE (open roundings), 81 (SAG and INTERRUPTION), 82 (how a follower's cap
rises), 83 (a leader without mains), 84 (the count of shed edges), 85 (when NO_MAINS clears), 86 (a threshold write that is out of limits). -/

namespace Sys2Proof.Machine

/-! ### Sheds (R389-R394) -/

/-- The MC's firmware runs, outside verge mode: sampling, the comparators and the answer to the Kerb (R381, R395, R441). -/
def mcRuns (s : State) : Bool := rd s .PS_BOOT_LAST_STEP ≥ 3 && rd s .PS_STATUS_STATE ≠ 5

/-- Whether the dies run, so that a shed acts on them (R395). -/
def diesRun (s : State) : Bool := rd s .PS_STATUS_STATE = 1 || rd s .PS_STATUS_STATE = 2

/-- A Kerb shed (1) or a bus shed (2) begins beside what holds already: KB_STATUS, the SHED event (R385, R402), the power controller. -/
def shedBegins (s : State) (which : Nat) : State :=
  let was := flag s .KB_STATUS_SHED
  let s := wr0 (bumpSat s .KB_STATUS_COUNT) .KB_STATUS_SHED 1
  if was then pqTouch (pqChange s 8 (fun e => { e with extreme := 3 })) else
    let s := pqTouch (pqOpen { s with sup := { s.sup with shedSince := some s.now } } 8 which)
    if diesRun s then powShedBegin s else syncLimit s

/-- One of the sheds has ended; when none holds any longer, the device leaves the shed (R392, R393). -/
def shedEnds (s : State) : State :=
  if flag s .KB_STATUS_KERB || flag s .KB_STATUS_BUS || !flag s .KB_STATUS_SHED then s else
    let s := pqClose (wr0 s .KB_STATUS_SHED 0) 8
    let ns := match s.sup.shedSince with | some t => s.now - t | none => 0
    let s := { s with sup := { s.sup with shedSince := none, sum := { s.sup.sum with shedNs := s.sup.sum.shedNs + ns } } }
    if diesRun s && s.boot.hold = .awake then powShedEnd s else syncLimit s

/-- An edge samples SHED_N low and the device is not in a Kerb shed (R390). -/
def execKerbShedStart (s : State) : Out :=
  .next (if !mcRuns s || !flag s .KB_CTRL_EN || flag s .KB_STATUS_KERB then s else
    let s := wr0 (wr0 (wr0 s .KB_STATUS_KERB 1) .KB_STATUS_ACK 1) .KB_LAST_MST (mstNow s)
    shedBegins { s with sup := { s.sup with kerbLow := s.now } } 1)

/-- The Kerb shed ends: SHED_ACK_N is released. -/
def endKerb (s : State) : State := shedEnds (wr0 (wr0 s .KB_STATUS_KERB 0) .KB_STATUS_ACK 0)

/-- EXIT_EDGES consecutive edges have sampled SHED_N high (R392): not sooner than the shelf clock allows (log 84, DEDUCED). -/
def execKerbShedEnd (s : State) : Out :=
  .next (if !flag s .KB_STATUS_KERB || (s.now - s.sup.kerbLow) * 1000 < rd s .KB_CTRL_EXIT_EDGES * 9999 then s else endKerb s)

/-- SHED_N is sampled low during the exit count (R392, R401). -/
def execExitCountRestart (s : State) : Out :=
  .next (if flag s .KB_STATUS_KERB then { s with sup := { s.sup with kerbLow := s.now } } else s)

/-- A write clears KB_CTRL.EN (R389). -/
def execKerbDisable (s : State) : Out :=
  .next (let s := wr0 s .KB_CTRL_EN 0
         if flag s .KB_STATUS_KERB then endKerb s else s)

/-- KERB_CLK shows no edge for 100 ns (R394). -/
def execKerbClkLost (s : State) : Out := .next (wr0 s .KB_STATUS_CLK_LOST 1)

/-- KERB_CLK has shown 16 consecutive edges (R394). -/
def execKerbClkRestored (s : State) : Out := .next (wr0 s .KB_STATUS_CLK_LOST 0)

/-! ### The 54 V and 12 V inputs (R381, R382, R385) -/

/-- A count of consecutive samples. -/
def runOf (n : Nat) (hit : Bool) : Nat := if hit then n + 1 else 0

/-- The events of the inputs (R385): BUS_HIGH and STBY_LOW. -/
def inputEvents (s : State) : State :=
  let u := s.sup
  let s := if 10 ≤ u.hiBus && (u.open_.get 6).isNone then pqOpen s 6 u.busMv else s
  let s := pqHigh s 6 u.busMv
  let s := if 100 ≤ u.loBus then pqClose s 6 else s
  let s := pqLow s 5 u.busMv
  let s := if 10 ≤ u.lowStby && (u.open_.get 9).isNone then pqOpen s 9 u.stbyMv else s
  let s := pqLow s 9 u.stbyMv
  if 100 ≤ u.okStby then pqClose s 9 else s

/-- A 1 µs sample of both inputs, in mV, 0.1 A and mA (R381, R425): registers, energy, the comparators' counts, events. -/
def execBusSample (busMv busDa stbyMv stbyMa : Nat) (s : State) : Out :=
  .next (if !mcRuns s then s else
    let u := s.sup
    let shedV := rd s .SUP_CTRL_SHED_V
    let holdV := rd s .SUP_CTRL_HOLD_V
    let pj := u.energy + busMv * busDa * 100 + stbyMv * stbyMa
    let okHold := runOf u.okHold (busMv ≥ holdV + 1000)
    let held := u.held && okHold < 100
    let s := { s with sup := { u with
      busMv := busMv, busDa := busDa, stbyMv := stbyMv, stbyMa := stbyMa, last1ms := (busMv :: u.last1ms).take 1000, energy := pj % 1000000
      lowShed := runOf u.lowShed (busMv < shedV), okShed := runOf u.okShed (busMv ≥ shedV + 1000)
      lowHold := if u.held then 0 else runOf u.lowHold (busMv < holdV), okHold := okHold, held := held
      hiBus := runOf u.hiBus (busMv > 60000), loBus := runOf u.loBus (busMv ≤ 59500)
      lowStby := runOf u.lowStby (stbyMv < 11400), okStby := runOf u.okStby (stbyMv ≥ 11600), ov := runOf u.ov (busMv > 63000)
      okSince := if busMv ≤ 60000 then some (u.okSince.getD s.now) else none
      goodSince := if busMv ≥ holdV + 2000 then some (u.goodSince.getD s.now) else none } }
    let s := wr0 (wr0 (wr0 s .SUP_BUS_VOLT (min busMv 65535)) .SUP_BUS_CURR (min busDa 65535)) .SUP_BUS_POWER (min (divOpen (busMv * busDa) 10000) 65535)
    let s := wr0 (wr0 s .SUP_STBY_VOLT (min stbyMv 65535)) .SUP_STBY_CURR (min stbyMa 65535)
    inputEvents (wr0 s .PW_ENERGY_UJ (rd s .PW_ENERGY_UJ + pj / 1000000)))

/-- Ten low samples: a bus shed (R382, R393); BUS_LOW opens. -/
def execBusShedStart (s : State) : Out :=
  .next (if !flag s .SUP_CTRL_AUTO_SHED || flag s .KB_STATUS_BUS || s.sup.lowShed < 10 then s else
    let s := wr0 { s with sup := { s.sup with okShed := 0 } } .KB_STATUS_BUS 1
    shedBegins (pqOpen s 5 s.sup.busMv) 2)

/-- A hundred good samples: the bus shed ends. -/
def execBusShedEnd (s : State) : Out :=
  .next (if !flag s .KB_STATUS_BUS || s.sup.okShed < 100 then s else shedEnds (pqClose (wr0 s .KB_STATUS_BUS 0) 5))

/-- Two hundred samples below HOLD_V: one request for Hold for each excursion (R382). -/
def execHoldRequest (s : State) : Out :=
  .next (if !flag s .SUP_CTRL_AUTO_HOLD || s.sup.held || s.sup.lowHold < 200 then s
    else { s with sup := { s.sup with held := true, lowHold := 0, okHold := 0 }, boot := { s.boot with holdReq := true } })

/-- A write of SUP_CTRL's low and high halves: thresholds within 38-50 V; what a threshold governs counts afresh (R382, R402, log 86, DEDUCED). -/
def supCtrl (s : State) (v : Nat) (low high : Bool) : State :=
  let okV := fun x => 38000 ≤ x && x ≤ 50000
  let s := if !low then s else
    let s := setFlag s .SUP_CTRL_AUTO_SHED 0 (tb v 16)
    if okV (bits v 0 16) then wr0 { s with sup := { s.sup with lowShed := 0, okShed := 0 } } .SUP_CTRL_SHED_V (bits v 0 16) else s
  if !high then s else
    let s := setFlag s .SUP_CTRL_AUTO_HOLD 0 (tb v 48)
    if okV (bits v 32 16) then wr0 { s with sup := { s.sup with lowHold := 0, okHold := 0, goodSince := none } } .SUP_CTRL_HOLD_V (bits v 32 16) else s

def execSupCtrlWrite (v : W64) (s : State) : Out := .next (supCtrl s v.toNat true true)

/-! ### The summary (R387) -/

/-- The time of a shed that still holds joins the total (R387). -/
def countShed (s : State) : State :=
  match s.sup.shedSince with
  | some t => { s with sup := { s.sup with shedSince := some s.now, sum := { s.sup.sum with shedNs := s.sup.sum.shedNs + (s.now - t) } } }
  | none => s

/-- The MC rewrites the summary in flash. -/
def saveSummary (s : State) : State :=
  let s := countShed s
  let q := { s.sup.sum with mst := mstNow s }
  { s with sup := { s.sup with sum := q, flash := q } }

/-- Every hour of Run and Trim. -/
def execPqSummaryUpdate (s : State) : Out :=
  .next (if !diesRun s || s.boot.runNs < s.sup.sumAt + 3600000000000 then s
    else saveSummary { s with sup := { s.sup with sumAt := s.boot.runNs } })

/-- The 64 bytes of a summary. -/
def PqSum.bytes (q : PqSum) : List Byte :=
  natLe 8 q.mst ++ q.counts.flatMap (natLe 4) ++ natLe 2 (q.rmsMin.getD 0) ++ natLe 2 (q.rmsMax.getD 0) ++ natLe 2 (wrap 16 (q.freqMin.getD 0)) ++
    natLe 2 (wrap 16 (q.freqMax.getD 0)) ++ natLe 4 (min (divOpen q.shedNs 1000000000) (2 ^ 32 - 1)) ++ natLe 8 0

/-- The 32 bytes of a log entry (R386). -/
def PqEntry.bytes (e : PqEntry) : List Byte :=
  natLe 8 e.start ++ natLe 4 e.dur ++ natLe 1 e.kind ++ natLe 1 e.flags ++ natLe 2 0 ++ natLe 4 (wrap 32 e.extreme) ++ natLe 12 0

/-- The supply record of a snapshot (R388). -/
def supplyRecord (s : State) : List Byte :=
  let u := s.sup
  natLe 4 u.busMv ++ natLe 4 u.busDa ++ natLe 4 (u.last1ms.foldl min u.busMv) ++ natLe 4 (u.last1ms.foldl max u.busMv) ++ natLe 4 u.stbyMv ++
    natLe 4 u.stbyMa ++ natLe 4 (if flag s .MAINS_MEAS_VALID then rd s .MAINS_MEAS_HALF else 0) ++ natLe 2 (rd s .MAINS_RMS_HALF) ++
    natLe 2 (rd s .FR_STATUS_CAP_PM) ++ natLe 1 (rd s .KB_STATUS_SHED + 2 * rd s .KB_STATUS_KERB + 4 * rd s .KB_STATUS_BUS + 8 * rd s .KB_STATUS_ACK) ++ natLe 31 0

/-! ### Frequency response (R396-R399) -/

/-- A point's offset, signed. -/
def frOffset (s : State) (i : Nat) : Int := sext 16 (rd s .FR_POINT_OFFSET i)

/-- The curve's cap for an offset (R396): between points, interpolated and rounded down. -/
def frCurveCap (s : State) (x : Int) : Nat :=
  let cap := fun i => rd s .FR_POINT_CAP_PM i
  if x < frOffset s 0 then cap 0
  else match (List.range 7).find? (fun i => frOffset s i ≤ x && x ≤ frOffset s (i + 1)) with
    | some i =>
      let a := frOffset s i
      let w := frOffset s (i + 1) - a
      (((cap i : Int) * w + ((cap (i + 1) : Int) - cap i) * (x - a)) / w).toNat
    | none => cap 7

/-- Whether the offsets are strictly ascending. -/
def frAscending (s : State) : Bool := (List.range 7).all (fun i => frOffset s i < frOffset s (i + 1))

/-- The applied cap changes. -/
def setCap (s : State) (c : Nat) : State :=
  if c = rd s .FR_STATUS_CAP_PM then s else syncPow (pqTouch (syncLimit (wr0 s .FR_STATUS_CAP_PM c)))

/-- One step toward the target (R397): down at once, up by at most RISE / 2. A leader computes it and applies it with its members (R398). -/
def frStep (s : State) : State :=
  let lead := rd s .FR_CTRL_MODE = 2
  let base := if lead then s.sup.computed else rd s .FR_STATUS_CAP_PM
  let t := s.sup.target
  let new := if t ≤ base then t else min t (base + rd s .FR_CTRL_RISE / 2)
  let s := { s with sup := { s.sup with stepAt := s.time.mst } }
  if !lead then setCap s new
  else if new = base then { s with sup := { s.sup with computedAt := s.time.mst } }
  else { s with sup := { s.sup with computed := new, computedAt := s.time.mst, sendDue := true,
                                    applyQ := s.sup.applyQ ++ [(s.time.mst + rd s .FR_CTRL_LEAD * 1000, new)] } }

/-- The target of R397 by MODE (R398); without lock the curve is not evaluated and the target stands (R384, R401). -/
def frTarget (s : State) : Nat :=
  let lock := flag s .MAINS_STATUS_LOCK
  match rd s .FR_CTRL_MODE with
  | 0 => 1000
  | 3 => if !flag s .FR_STATUS_LEADER_LOST then s.sup.leadCap else if lock then rd s .FR_STATUS_CURVE_PM else rd s .FR_STATUS_CAP_PM
  | _ => if lock then rd s .FR_STATUS_CURVE_PM else s.sup.target

def retarget (s : State) : State := { s with sup := { s.sup with target := frTarget s } }

/-- APPLY_MST arrives (R398, R399, log 82, DEDUCED). -/
def execCapApply (s : State) : Out :=
  .next (match s.sup.applyQ.find? (fun e => e.1 ≤ s.time.mst) with
    | none => s
    | some e =>
      let s := { s with sup := { s.sup with applyQ := s.sup.applyQ.erase e } }
      if rd s .FR_CTRL_MODE = 2 then setCap s e.2
      else if rd s .FR_CTRL_MODE = 3 then frStep (retarget { s with sup := { s.sup with leadCap := e.2 } })
      else s)

/-- Between half-cycle ends the cap rises one step every 10 ms of MST (R397). -/
def execCapRise (s : State) : Out :=
  .next (
    let base := if rd s .FR_CTRL_MODE = 2 then s.sup.computed else rd s .FR_STATUS_CAP_PM
    if s.sup.target ≤ base || s.time.mst < s.sup.stepAt + 10000000 then s else frStep s)

/-- The leader has not been heard for TIMEOUT × 10 ms (R398). -/
def execLeaderTimeout (s : State) : Out :=
  .next (if rd s .FR_CTRL_MODE ≠ 3 || flag s .FR_STATUS_LEADER_LOST || s.time.mst < s.sup.heard + rd s .FR_CTRL_TIMEOUT * 10000000 then s
    else retarget (wr0 s .FR_STATUS_LEADER_LOST 1))

/-- A write of FR_CTRL (R396, R402): fields that a zero leaves unchanged, and MODE, which leaves 0 only with an ascending curve. -/
def execFrModeWrite (v : W64) (s : State) : Out :=
  .next (
    let v := v.toNat
    let keep0 := fun (s : State) (f : Fld) (x : Nat) => if x = 0 then s else wr0 s f x
    let s := wr0 s .FR_CTRL_NOMINAL (bits v 8 16)
    let s := keep0 s .FR_CTRL_RISE (bits v 24 8)
    let s := wr0 s .FR_CTRL_LEADER (bits v 32 12)
    let s := keep0 (keep0 s .FR_CTRL_TIMEOUT (bits v 44 8)) .FR_CTRL_LEAD (bits v 52 12)
    let old := rd s .FR_CTRL_MODE
    let new := bits v 0 2
    if new = old then s
    else if old = 0 && !frAscending s then wr0 s .FR_STATUS_CFG_ERR 1
    else
      let cap := rd s .FR_STATUS_CAP_PM
      let s := wr0 s .FR_CTRL_MODE new
      let s := { s with sup := { s.sup with computed := cap, leadCap := cap, heard := s.time.mst, applyQ := [], sendDue := new = 2,
                                            computedAt := s.time.mst, sent := s.time.mst } }
      retarget s)

/-! ### Half-cycles (R383-R385) -/

/-- A quotient rounded to nearest; a tie is open (log 77, DESIGN CHOICE). -/
def nearest (a b : Nat) : Nat := a / b + (if 2 * (a % b) > b || (2 * (a % b) = b && Config.roundUp a b) then 1 else 0)

/-- The voltage events (R385); while an INTERRUPTION is open no SAG is (log 81, DEDUCED). -/
def rmsEvents (s : State) (rms : Nat) : State :=
  let nom := rd s .PQ_CFG_NOMINAL_RMS
  let h := rd s .PQ_CFG_HYST_PCT
  let below := fun p => rms * 100 < nom * p
  let s := if below (rd s .PQ_CFG_INTR_PCT) then pqClose (pqOpen s 3 rms) 1 else s
  let s := pqLow s 3 rms
  let s := if below (rd s .PQ_CFG_INTR_PCT + h) then s else pqClose s 3
  let s := if below (rd s .PQ_CFG_SAG_PCT) && (s.sup.open_.get 3).isNone then pqOpen s 1 rms else s
  let s := pqLow s 1 rms
  let s := if below (rd s .PQ_CFG_SAG_PCT + h) then s else pqClose s 1
  let s := if rms * 100 > nom * rd s .PQ_CFG_SWELL_PCT then pqOpen s 2 rms else s
  let s := pqHigh s 2 rms
  let s := if rms * 100 ≤ nom * (rd s .PQ_CFG_SWELL_PCT - h) then pqClose s 2 else s
  let q := s.sup.sum
  { s with sup := { s.sup with sum := { q with rmsMin := some (min (q.rmsMin.getD rms) rms), rmsMax := some (max (q.rmsMax.getD rms) rms) } } }

/-- The frequency event (R385): EXTREME is the offset of largest magnitude. -/
def freqEvents (s : State) (off : Int) : State :=
  let band := rd s .PQ_CFG_FREQ_BAND
  let s := if off.natAbs > band then pqOpen s 4 off else s
  let s := pqChange s 4 (fun e => { e with extreme := if off.natAbs > e.extreme.natAbs then off else e.extreme })
  let s := if off.natAbs + 10 ≤ band then pqClose s 4 else s
  let q := s.sup.sum
  { s with sup := { s.sup with sum := { q with freqMin := some (min (q.freqMin.getD off) off), freqMax := some (max (q.freqMax.getD off) off) } } }

/-- A zero crossing ends a half-cycle: its interval in ns, the sense RMS of the half-cycle and of the cycle in µV, and its direction. The angle, the
measurements, the log, the curve and the applied cap follow. -/
def execHalfCycleEnd (intervalNs halfUv cycleUv : Nat) (positive : Bool) (s : State) : Out :=
  .next (if !mcRuns s || intervalNs = 0 then s else
    let f := min (nearest (10 ^ 12) (2 * intervalNs)) (2 ^ 20 - 1)
    let prev := if flag s .MAINS_STATUS_LOCK then rd s .MAINS_MEAS_HALF else s.time.mhz
    let s := angleCross s (if positive then 0 else cyclePh / 2) f
    let s := if positive then bump s .MAINS_STATUS_CYCLES else s
    let nom := rd s .PQ_CFG_NOMINAL_RMS
    let rms := min (divOpen (halfUv * nom) 1000000) 65535
    let s := rmsEvents s rms
    let s := if !flag s .MAINS_STATUS_LOCK then s else
      let avg := divOpen (f + prev) 2
      let off : Int := (avg : Int) - rd s .FR_CTRL_NOMINAL
      let s := wr0 (wr0 s .MAINS_MEAS_HALF f) .MAINS_MEAS_AVG avg
      let s := wr0 (wr0 s .MAINS_RMS_HALF rms) .MAINS_RMS_CYCLE (min (divOpen (cycleUv * nom) 1000000) 65535)
      let s := freqEvents (wr0 s .MAINS_RMS_SENSE (min (divOpen halfUv 1000) 65535)) off
      wr0 s .FR_STATUS_CURVE_PM (frCurveCap s off)
    let s := frStep (retarget s)
    if positive && rd s .FR_CTRL_MODE = 2 then { s with sup := { s.sup with sendDue := true } } else s)

/-- No zero crossing follows within 1.5 times the last half-cycle interval: a failing half-cycle, and the second in a row loses the lock (R36). -/
def execMainsLockLoss (s : State) : Out :=
  .next (
    let t := s.time
    if t.mhz = 0 || !flag s .MAINS_STATUS_LOCK || (s.now - t.missAt) * 4 * t.mhz < 3 * 10 ^ 12 then s else
      let s := { s with time := { t with badHalves := t.badHalves + 1, goodHalves := 0, missAt := t.missAt + 10 ^ 12 / (2 * t.mhz) } }
      if 2 ≤ s.time.badHalves then lockLost s else s)

/-- No zero crossing for 50 ms: INTERRUPTION opens (R385). -/
def execMainsNoCrossing (s : State) : Out :=
  .next (if !mcRuns s || s.now < s.time.lastCross + 50000000 || (s.sup.open_.get 3).isSome then s else
    let (f, s) := free s
    pqClose (pqOpen s 3 (f % 65536 : Nat)) 1)

end Sys2Proof.Machine
end

