-- ==== Sys2Proof/Machine/Host.lean ====
section
/-! DEFINITION. The host attachment (chapter 12): functions, rings, entry reads, completion records, the memory window, host loss and the
journal. Log 60, DESIGN CHOICE: the SEAL of a record that is journalled and never written; log 63, DEDUCED: a doorbell with PI = CI changes nothing; log 64, DEDUCED: records
held when a ring is enabled again; log 65, DESIGN CHOICE: which posted writes the host has
acknowledged; log 66, DEDUCED: DETACHED through a hot reset; log 131, DESIGN CHOICE: when and to what an attachment trains. -/

namespace Sys2Proof.Machine

/-! ### Functions (R310) -/

/-- Attachment and number of a function. -/
def fnAtt (fid : Nat) : Nat := fid / 128
def fnNum (fid : Nat) : Nat := fid % 128

/-- The function of an instance: VF n of the PF on its attachment; PF0 for the manager (R310, R357). -/
def instFn (s : State) (inst : Nat) : Nat :=
  if inst = 0 then 0 else (if flag s .HA_MODE_SPLIT then rd s .IN_CFG_ATTACH inst * 128 else 0) + inst

/-- VFs of a PF, as its TotalVFs says (R306, R310). -/
def totalVfs : Nat := 64

/-- Whether a function is present: a PF of an attachment that there is, or a VF of an instance in use; in verge mode PF0 alone (R309, R310, R357). -/
def fnPresent (s : State) (fid : Nat) : Bool :=
  let a := fnAtt fid
  let n := fnNum fid
  let verge := flag s .HA_LINK_VERGE (a * 128)
  (a = 0 || (a = 1 && flag s .HA_MODE_SPLIT && !verge)) && n ≤ totalVfs && (n = 0 || (rd s .IN_STATUS_STATE n ≠ 0 && instFn s n = fid && !verge))

/-- The functions of an attachment. -/
def attFns (att : Nat) : List Nat := (List.range 65).map (· + att * 128)

/-- Copy number of a ring's registers. -/
def rkey (fid ring : Nat) : Nat := fid * 32 + ring

/-- A host loss of the attachment has not been acknowledged (R312). -/
def attLost (s : State) (att : Nat) : Bool := flag s .HA_ATTACH_LOST (att * 128)

/-- The attachment is out of L0 (R330). -/
def retraining (s : State) (att : Nat) : Bool := (s.host.left.get att).isSome

def ringX (s : State) (k : Nat) : RingX := s.host.rings.getD k {}

def setRingX (s : State) (k : Nat) (x : RingX) : State := { s with host := { s.host with rings := s.host.rings.set k {} x } }

/-- Keep ACTIVE: EN is 1 and the ring is not DETACHED (R312). -/
def syncActive (s : State) (k : Nat) : State :=
  setFlag s .RING_STATUS_ACTIVE k (flag s .RING_CFG_EN k && !flag s .RING_STATUS_DETACHED k)

/-! ### The journal (R332) -/

/-- Keep FULL in step with HEAD and TAIL when room returns. -/
def journalRoom (s : State) : Bool := (rd s .HA_JNL_HEAD + 131072 - rd s .HA_JNL_TAIL) % 131072 < 65536

/-- Write a journal entry: kind, function, ring, cause, the value of ATTACH_GEN it carries, and its 64-byte record. -/
def journal (s : State) (kind fid ring cause gen : Nat) (rcd : List Byte) : State :=
  if !journalRoom s then bumpSat (wr0 s .HA_JNL_FULL 1) .HA_JNL_DROPPED else
    let head := rd s .HA_JNL_HEAD
    let e := natLe 8 (mstNow s) ++ [BitVec.ofNat 8 kind, BitVec.ofNat 8 fid, BitVec.ofNat 8 ring, BitVec.ofNat 8 cause] ++ natLe 2 gen ++
      natLe 18 0 ++ (rcd ++ natLe 64 0).take 64 ++ natLe 31 0 ++ [0x80]
    let s := { s with host := { s.host with journal := s.host.journal.put (head % 65536) e } }
    wr0 s .HA_JNL_HEAD (head + 1)

/-- ATTACH_GEN as an entry made now carries it: the value before the increment of the last loss while that is not acknowledged. -/
def jnlGen (s : State) (att : Nat) : Nat :=
  let g := rd s .HA_ATTACH_ATTACH_GEN (att * 128)
  if attLost s att then (g + 65535) % 65536 else g

/-! ### Completion records (R323-R327) -/

/-- The record of a command that ends now. -/
def mkRec (s : State) (c : Cmd) (status detail : Nat) : CRec :=
  { fid := c.ref.fid, ring := c.ref.ring, tag := c.fld 4 4, status := status, ctx := c.ctx, index := c.ref.index,
    detail := min detail (2 ^ 32 - 1), endMst := mstNow s, attachGen := rd s .HA_ATTACH_ATTACH_GEN (fnAtt c.ref.fid * 128),
    gen := rd s .IN_STATUS_GEN (fnNum c.ref.fid) }

/-- The 32 bytes of a record with its SEAL (R324). -/
def CRec.bytes (r : CRec) (tail : Nat) : List Byte :=
  natLe 4 r.tag ++ natLe 1 r.status ++ natLe 1 0 ++ natLe 2 r.ctx ++ natLe 4 r.index ++ natLe 4 r.detail ++ natLe 8 r.endMst ++
    natLe 4 0 ++ natLe 2 r.attachGen ++ natLe 1 r.gen ++ natLe 1 tail

/-- Journal a record that cannot be written; its SEAL is free (log 60, DESIGN CHOICE). -/
def journalRec (s : State) (r : CRec) : State :=
  let (f, s) := free s
  journal s 2 r.fid r.ring 0 (jnlGen s (fnAtt r.fid)) (r.bytes f)

/-- Records of a ring's completion ring. -/
def cqSize (s : State) (k : Nat) : Nat := 2 ^ (rd s .RING_CFG_CQ_SIZE k + 7)

/-- Whether the completion ring takes a record (R327). -/
def cqRoom (s : State) (k : Nat) : Bool := (rd s .CQ_TAIL_TAIL k + 2 ^ 32 - rd s .CQ_HEAD_HEAD k) % 2 ^ 32 < cqSize s k

/-- Post a write to host memory. -/
def hostPost (s : State) (w : HostWr) : State :=
  { s with host := { s.host with
      out := s.host.out ++ [{ w with tag := s.host.nextTag, held := retraining s w.att }], nextTag := s.host.nextTag + 1 } }

/-- Write a record (R325 steps 3 to 5): bytes 0-23 relaxed, then bytes 24-31 in one write that passes nothing. -/
def writeRec (s : State) (r : CRec) : State :=
  let k := rkey r.fid r.ring
  let j := rd s .CQ_TAIL_TAIL k
  let size := cqSize s k
  let b := r.bytes ((j / size + 1) % 2 * 128 + j % 128)
  let a := rd s .CQ_BASE_BASE k * 4096 + 32 * (j % size)
  let att := fnAtt r.fid
  let s := hostPost s { att := att, addr := a, bytes := b.take 24, relaxed := true, pay := .record r j }
  let s := hostPost s { att := att, addr := a + 24, bytes := b.drop 24, relaxed := false, pay := .record r j }
  wr s .CQ_TAIL_TAIL k (j + 1)

/-- Write held records while there is room (R327). -/
def drainHeld : Nat → State → Nat → State
  | 0, s, _ => s
  | n + 1, s, k =>
    match (ringX s k).held with
    | [] => s
    | r :: rest =>
      if !cqRoom s k then s else
        let s := setRingX (writeRec s r) k { ringX s k with held := rest }
        drainHeld n (setFlag s .RING_STATUS_CQ_FULL k (!rest.isEmpty)) k

/-- Make a command's record (R323, R327, R331): written, held, or journalled after a host loss. -/
def emitRec (s : State) (r : CRec) : State :=
  let k := rkey r.fid r.ring
  if attLost s (fnAtt r.fid) || flag s .RING_STATUS_DETACHED k then journalRec s r
  else if (ringX s k).held.isEmpty && cqRoom s k then writeRec s r
  else
    let x := ringX s k
    setFlag (setRingX s k { x with held := x.held ++ [r] }) .RING_STATUS_CQ_FULL k true

/-- Write a fault record to host memory through an instance's function (R325, R337), or journal it. -/
def hostFaultRec (s : State) (inst addr : Nat) (b : List Byte) : State :=
  let fid := instFn s inst
  let att := fnAtt fid
  if attLost s att then journal s 5 fid 0 0 (jnlGen s att) b else
    let s := hostPost s { att := att, addr := addr, bytes := b.take 56, relaxed := true, pay := .fault fid b }
    hostPost s { att := att, addr := addr + 56, bytes := b.drop 56, relaxed := false, pay := .fault fid b }

/-! ### Host reads (R329) -/

/-- Issue a read of host memory; false when 256 are outstanding or the attachment retrains. -/
def hostRead (s : State) (att addr len : Nat) (kind : RdKind) : Bool × State :=
  if retraining s att || (s.host.reads.filter (fun r => r.att = att)).length ≥ 256 then (false, s) else
    let r : HostRd := { att := att, tag := s.host.nextTag, addr := addr, len := len, kind := kind }
    (true, { s with host := { s.host with reads := s.host.reads ++ [r], nextTag := s.host.nextTag + 1 } })

/-- Entries of a ring. -/
def ringSize (s : State) (k : Nat) : Nat := 2 ^ (rd s .RING_CFG_SIZE k + 7)

/-- Whether the instance's rings accept entries: not while it drains, is squashed, scrubbed or frozen (R370, R374). -/
def instOpen (s : State) (inst : Nat) : Bool := inst = 0 || rd s .IN_STATUS_STATE inst = 1

/-- Ask for the next batch of entries of a ring (R316, R321), up to the ring's end, where the ring may go on. -/
def startFetch (s : State) (fid ring : Nat) : State :=
  let k := rkey fid ring
  let slot := rd s .RING_CI_CI k % ringSize s k
  let n := min (ringSize s k - slot) (min 16 ((rd s .RING_STATUS_DB_PI k + 2 ^ 32 - rd s .RING_CI_CI k) % 2 ^ 32))
  let busy := s.host.reads.any (fun r => match r.kind with | .entry f q => f = fid && q = ring | _ => false)
  if n = 0 || busy || !flag s .RING_STATUS_ACTIVE k || (ringX s k).stopped || flag s .RING_STATUS_DOORBELL_AHEAD k ||
      (ringX s k).reread.isSome || attLost s (fnAtt fid) || !instOpen s (fnNum fid) then s
  else (hostRead s (fnAtt fid) (rd s .RING_BASE_BASE k * 4096 + 64 * slot) (64 * n) (.entry fid ring)).2

/-- Restart the entry reads of an attachment's rings. -/
def restartFetch (s : State) (att : Nat) : State :=
  each ((attFns att).flatMap (fun f => (List.range 32).map (fun r => (f, r)))) (fun s e =>
    if flag s .RING_CFG_EN (rkey e.1 e.2) then startFetch s e.1 e.2 else s) s

/-- An entry read has failed (R329): the ring consumes nothing until EN is cleared and set again. -/
def fetchErr (s : State) (k : Nat) : State :=
  if flag s .RING_CFG_EN k then wr (setRingX s k { ringX s k with stopped := true, reread := none }) .RING_STATUS_FETCH_ERR k 1 else s

/-- Whether an entry's SEAL fits an index (R316, R317). -/
def sealOk (s : State) (k index : Nat) (e : BitVec 512) : Bool :=
  bits e.toNat 504 8 = (index / ringSize s k + 1) % 2 * 128 + index % 128

/-- Accept an entry: CI advances (R321). -/
def acceptEntry (s : State) (fid ring : Nat) (e : BitVec 512) : State :=
  let k := rkey fid ring
  let i := rd s .RING_CI_CI k
  let s := { s with host := { s.host with cmds := s.host.cmds ++ [{ ref := { fid := fid, ring := ring, index := i }, raw := e }] } }
  wr s .RING_CI_CI k (i + 1)

/-- Accept the entries of a batch in order; the first mismatch stops (R321, R322). -/
def takeEntries : List (BitVec 512) → State → Nat → Nat → State
  | [], s, fid, ring => startFetch s fid ring
  | e :: rest, s, fid, ring =>
    let k := rkey fid ring
    let i := rd s .RING_CI_CI k
    if i = rd s .RING_STATUS_DB_PI k then s
    else if sealOk s k i e then takeEntries rest (acceptEntry s fid ring e) fid ring
    else setRingX s k { ringX s k with reread := some (0, s.now) }

/-- Remove the outstanding entry read of a ring, if there is one. -/
def dropEntryRead (s : State) (fid ring : Nat) : Option (HostRd × State) :=
  (s.host.reads.find? (fun r => r.kind = .entry fid ring)).map (fun r =>
    (r, { s with host := { s.host with reads := s.host.reads.erase r } }))

/-- A batch of entries has come (R321). -/
def entriesCome (s : State) (fid ring : Nat) (r : HostRd) (es : List (BitVec 512)) : State :=
  let k := rkey fid ring
  if !flag s .RING_STATUS_ACTIVE k || !instOpen s (fnNum fid) then s else takeEntries (es.take (r.len / 64)) s fid ring

def execEntryRead (fid ring : Nat) (entries : List (BitVec 512)) (s : State) : Out :=
  .next (match dropEntryRead s fid ring with
    | none => s
    | some (r, s1) => entriesCome s1 fid ring r entries)

/-- A mismatched entry is read again each microsecond, 16 times (R322); an error answer stops the ring (R329). -/
def execSealReread (fid ring : Nat) (entry : EntryAns) (s : State) : Out :=
  .next (
    let k := rkey fid ring
    let x := ringX s k
    match x.reread with
    | none => s
    | some (n, t) =>
      if s.now < t + 1000 || retraining s (fnAtt fid) || !flag s .RING_STATUS_ACTIVE k || !instOpen s (fnNum fid) then s
      else match entry with
        | .error _ => fetchErr s k
        | .entry e =>
          if sealOk s k (rd s .RING_CI_CI k) e then startFetch (acceptEntry (setRingX s k { x with reread := none }) fid ring e) fid ring
          else if n + 1 < 16 then setRingX s k { x with reread := some (n + 1, s.now) }
          else bumpSat (wr (setRingX s k { x with reread := none }) .RING_STATUS_DOORBELL_AHEAD k 1) .RING_STATUS_AHEAD_EVENTS k)

/-! ### Doorbells and ring registers (R320, R312) -/

/-- A DOORBELL write (R320). -/
def execDoorbell (fid : Nat) (v : W64) (s : State) : Out :=
  .next (
    let ring := bits v.toNat 32 5
    let pi := bits v.toNat 0 32
    let k := rkey fid ring
    let ci := rd s .RING_CI_CI k
    let n := (pi + 2 ^ 32 - ci) % 2 ^ 32
    if !fnPresent s fid then s
    else if !flag s .RING_CFG_EN k || flag s .RING_STATUS_DETACHED k then wr s .RING_STATUS_CFG_ERR k 1
    else if n > ringSize s k then wr s .RING_STATUS_DOORBELL_RANGE k 1
    else if n = 0 then s
    else startFetch (wr (wr s .RING_STATUS_DB_PI k pi) .RING_STATUS_DOORBELL_AHEAD k 0) fid ring)

/-- A size field of RING_CFG: unchanged, with CFG_ERR, when a change comes while EN is 1 or the value is above 9 (R312). -/
def writeSize (s : State) (f : Fld) (k v : Nat) (was : Bool) : State :=
  if v = rd s f k then s else if was || v > 9 then wr s .RING_STATUS_CFG_ERR k 1 else wr s f k v

/-- A write of RING_CFG (R312, R316): EN going from 0 to 1 zeroes the indices. -/
def execRingEnable (fid ring : Nat) (v : W64) (s : State) : Out :=
  .next (if !fnPresent s fid || 32 ≤ ring then s else
    let k := rkey fid ring
    let was := flag s .RING_CFG_EN k
    let s := writeSize (writeSize s .RING_CFG_SIZE k (bits v.toNat 1 4) was) .RING_CFG_CQ_SIZE k (bits v.toNat 8 4) was
    let s := setFlag s .RING_CFG_EN k (tb v.toNat 0)
    let s := if !was && tb v.toNat 0 then
        let s := wr (wr (wr (wr s .RING_CI_CI k 0) .CQ_HEAD_HEAD k 0) .CQ_TAIL_TAIL k 0) .RING_STATUS_DB_PI k 0
        let s := match dropEntryRead s fid ring with | some (_, s1) => s1 | none => s
        drainHeld 64 (setRingX s k { ringX s k with reread := none, stopped := false }) k
      else s
    syncActive s k)

/-- A write of CQ_HEAD (R312, R327): records are freed and held ones written. -/
def execCqHeadWrite (fid ring : Nat) (v : W64) (s : State) : Out :=
  .next (if !fnPresent s fid || 32 ≤ ring then s else
    let k := rkey fid ring
    let h := rd s .CQ_HEAD_HEAD k
    let n := v.toNat % 2 ^ 32
    if (n + 2 ^ 32 - h) % 2 ^ 32 ≤ (rd s .CQ_TAIL_TAIL k + 2 ^ 32 - h) % 2 ^ 32 then drainHeld 64 (wr s .CQ_HEAD_HEAD k n) k
    else wr s .RING_STATUS_CFG_ERR k 1)

/-! ### The memory window (R313-R315) -/

/-- OWNED units of an instance in ascending order: its window (R314, R364). -/
def instUnits (s : State) (inst : Nat) : List Nat :=
  (List.range 384).filter (fun u => rd s .IN_UNIT_DATA_STATE u = 1 && rd s .IN_UNIT_DATA_OWNER u = inst)

/-- Configuration space of an attachment's PF. -/
def attCfg (s : State) (att : Nat) : AttCfg := s.host.cfg.getD att {}

/-- The attachment has trained to CXL (R306). -/
def cxlMode (s : State) (att : Nat) : Bool := 1 ≤ rd s .HA_LINK_MODE (att * 128) && rd s .HA_LINK_MODE (att * 128) ≤ 3

/-- Whether an instance owns a unit: it is OWNED, or POOL, owned as part of a save pool (R362). -/
def unitOwned (s : State) (u : Nat) : Bool := rd s .IN_UNIT_DATA_STATE u = 1 || rd s .IN_UNIT_DATA_STATE u = 3

/-- What an offset in a function's window names: `none` an unsupported request, else the local address and whether a unit that no
instance owns is named in a CXL mode (R313, R314). A VF's window ends with its BAR4. -/
def windowAt (s : State) (fid off : Nat) : Option (Nat × Bool) :=
  let cxl := cxlMode s (fnAtt fid)
  if !fnPresent s fid || rd s .HA_LINK_MODE (fnAtt fid * 128) = 0 || flag s .HA_LINK_VERGE (fnAtt fid * 128) then none
  else if fnNum fid = 0 then
    if off ≥ deckBytes then none else some (off, cxl && !unitOwned s (off / 2 ^ 30))
  else if cxl || 2 ^ (30 + (attCfg s (fnAtt fid)).vfBar) ≤ off then none
  else ((instUnits s (fnNum fid))[off / 2 ^ 30]?).map (fun u => (u * 2 ^ 30 + off % 2 ^ 30, false))

/-- Whether the home of a window access answers: its die runs (R313), which in Hold no die does (R436). -/
def homeRuns (s : State) (loc : Nat) : Bool := diesRun s && dieUp s (loc / dieBytes)

/-- A window write is performed at its home (R192, R315): WR for each of its lines; in a CXL mode its completion is returned when all are performed.
Without an owner, or without a home that runs, it is discarded (R313, R436). An atomic is answered as an unsupported request (R306). -/
def execHdmWrite (fid addr : Nat) (bytes : HdmWr) (s : State) : Out :=
  .next (match bytes, windowAt s fid addr with
    | .atomic _, _ => answer s .unsupported
    | _, none => answer s .unsupported
    | .data bs, some (a, unowned) =>
      let cxl := cxlMode s (fnAtt fid)
      if unowned || !homeRuns s a then answer s (if cxl then .done else .silent)
      else hdmAdd (answer s .silent) { no := 0, att := fnAtt fid, kind := .write cxl, wait := linePieces (myDev s * 2 ^ 40 + a) bs })

/-- A window read (R313): GETS for each of its lines, answered when all have come. It is poisoned where no instance owns the unit, where the home is in
reset, or where the deck's data is (R237); in Hold poisoned over CXL.mem, completer abort through BAR4 (R436). -/
def execHdmRead (fid addr len : Nat) (s : State) : Out :=
  .next (match windowAt s fid addr with
    | none => answer s .unsupported
    | some (a, unowned) =>
      if rd s .PS_STATUS_STATE = 3 && !cxlMode s (fnAtt fid) then answer s .abort
      else if unowned || !homeRuns s a then answer s .poison
      else if len = 0 then answer s (.data [])
      else
        let sys := myDev s * 2 ^ 40 + a
        hdmAdd (answer s .silent) { no := 0, att := fnAtt fid, kind := .read sys len,
                                    wait := (List.range ((sys + len - 1) / 64 - sys / 64 + 1)).map (fun j => (sys / 64 + j, 0, 0)) })

/-- A read of HDM_FLUSH (R173, R315): it returns once the window writes before it are performed and in the deck. In Hold it completes at once (R436); in
an absent VF it reads zero (R310). -/
def execHdmFlush (fid : Nat) (s : State) : Out :=
  .next (if !fnPresent s fid then answer s (.data (natLe 8 0))
    else if rd s .PS_STATUS_STATE = 3 then answer s (.data (natLe 8 (rd s .HA_ATTACH_ATTACH_GEN (fnAtt fid * 128))))
    else
      let before := s.host.window.filter (fun w => w.att = fnAtt fid && (match w.kind with | .write _ => true | _ => false))
      hdmAdd (answer s .silent) { no := 0, att := fnAtt fid, kind := .flush fid (before.map (·.no)) })

/-- The access of a lost host: writes that were received go on, with no answer; of the rest no answer is sent (R335). -/
def windowLost (s : State) (att : Nat) : State :=
  { s with host := { s.host with window := (s.host.window.filter (fun w => w.att ≠ att || (match w.kind with | .write _ => true | _ => false))).map (fun w =>
      if w.att = att then { w with kind := .write false } else w) } }

/-- What stops the slices ends the window accesses under way: reads are poisoned, writes that have not been performed are discarded (R436). -/
def windowStop (s : State) : State :=
  let w := s.host.window
  each w (fun s v => match v.kind with
    | .read _ _ => answer s .poison
    | .write completes => if completes then answer s .done else s
    | .flush fid _ => answer s (.data (natLe 8 (rd s .HA_ATTACH_ATTACH_GEN (fnAtt fid * 128))))) { s with host := { s.host with window := [] } }

/-! ### HA_MODE (R308) -/

/-- A PF's write of HA_MODE stores the settings for the next cold reset; the flash record follows within 100 ms. -/
def execHaModeWrite (att : Nat) (v : W64) (s : State) : Out :=
  .next (if !fnPresent s (att * 128) then s else
    let s := { s with host := { s.host with
      modeWr := s.host.modeWr.filter (fun w => s.now < w.1 + 100000000) ++ [(s.now, rd s .HA_MODE_SPLIT_NEXT, rd s .HA_MODE_MAX_RATE_NEXT)] } }
    let s := wr0 s .HA_MODE_SPLIT_NEXT (bits v.toNat 0 1)
    if bits v.toNat 1 2 = 3 then s else wr0 s .HA_MODE_MAX_RATE_NEXT (bits v.toNat 1 2))

/-! ### Retrain and loss (R330, R331) -/

/-- The attachment leaves L0 for Recovery. -/
def execLinkRecovery (att : Nat) (s : State) : Out :=
  .next (if !fnPresent s (att * 128) || retraining s att || rd s .HA_LINK_MODE (att * 128) = 0 then s
    else { s with host := { s.host with left := s.host.left.put att (s.time.mst, false) } })

/-- Bytes of a COPY. -/
def Cmd.copyLen (c : Cmd) : Nat := c.fld 24 8

/-- A journal entry for a copy from the host that is cut (R332): the first host and device bytes not delivered and their number. -/
def journalCopy (s : State) (c : Cmd) (left gen : Nat) : State :=
  let off := c.copyLen - left
  journal s 4 c.ref.fid c.ref.ring 0 gen (natLe 8 (c.fld 8 8 + off) ++ natLe 8 (c.fld 16 8 + off) ++ natLe 8 left ++ natLe 4 (c.fld 4 4) ++ natLe 4 c.ref.index)

/-- Bytes of a command among posted writes. -/
def postedBytes (l : List HostWr) (r : CmdRef) : Nat :=
  (l.map (fun w => match w.pay with | .copy q _ _ => if q = r then w.bytes.length else 0 | _ => 0)).sum

/-- Copies to the host among posted writes, each with its first write. -/
def postedCopies (l : List HostWr) : List (CmdRef × Nat × Nat × Nat) :=
  l.foldl (fun a w => match w.pay with | .copy r tag va => if a.any (fun e => e.1 = r) then a else a ++ [(r, tag, va, w.addr)] | _ => a) []

/-- A journal entry for a copy to the host whose posted writes are discarded (R332). -/
def journalOut (s : State) (lost : List HostWr) (e : CmdRef × Nat × Nat × Nat) (gen : Nat) : State :=
  let (r, tag, va, host) := e
  journal s 3 r.fid r.ring 0 gen (natLe 8 host ++ natLe 8 va ++ natLe 8 (postedBytes lost r) ++ natLe 4 tag ++ natLe 4 r.index)

/-- Records among posted writes, each once, in order. -/
def postedRecs (l : List HostWr) : List CRec :=
  l.foldl (fun a w => match w.pay with | .record r _ => if a.contains r then a else a ++ [r] | _ => a) []

/-- Fault records among posted writes. -/
def postedFaults (l : List HostWr) : List (Nat × List Byte) :=
  l.foldl (fun a w => match w.pay with | .fault f b => if a.contains (f, b) then a else a ++ [(f, b)] | _ => a) []

/-- The steps of R331. The host has acknowledged a free number of the posted writes that left, in order (log 65, DESIGN CHOICE); none that waits in the
transmit buffer since the link went into Recovery. -/
def hostLoss (s : State) (att cause : Nat) : State :=
  let gen := rd s .HA_ATTACH_ATTACH_GEN (att * 128)
  -- step 1
  let s := each ((attFns att).flatMap (fun f => (List.range 32).map (rkey f))) (fun s k =>
    let s := wr s .RING_STATUS_DETACHED k 1
    let s := if (ringX s k).reread.isSome then setRingX s k { ringX s k with reread := none } else s
    syncActive s k) s
  -- step 2
  let (f, s) := free s
  let mine := s.host.out.filter (fun w => w.att = att)
  let lost := mine.drop (f % ((mine.filter (fun w => !w.held)).length + 1))
  let rds := s.host.reads.filter (fun r => r.att = att)
  let s := windowLost { s with host := { s.host with out := s.host.out.filter (fun w => w.att ≠ att), reads := s.host.reads.filter (fun r => r.att ≠ att) } } att
  -- step 3
  let s := journal s 1 (att * 128) 0 cause gen []
  let s := each (postedCopies lost) (fun s e => journalOut s lost e gen) s
  let s := each (s.host.cmds.filter (fun c => fnAtt c.ref.fid = att)) (fun s c =>
    let out := postedBytes lost c.ref
    let inn := c.started && c.fin.isNone && c.op = 2 && c.fld 32 1 = 0
    let s := if rds.any (fun r => r.kind = .flush c.ref) then setCmd s { c with flush := 2 } else s
    if out ≠ 0 then (match getCmd s c.ref with | some c => setCmd s { c with fin := some (8, out) } | none => s)
    else if inn then finCmd (journalCopy s c (c.copyLen - c.part) gen) c.ref 8 (c.copyLen - c.part)
    else s) s
  let held := (attFns att).flatMap (fun f => (List.range 32).flatMap (fun r => (ringX s (rkey f r)).held))
  let s := each (postedRecs lost ++ held) (fun s r =>
    let (x, s) := free s
    let cut := postedBytes lost ⟨r.fid, r.ring, r.index⟩
    journal s 2 r.fid r.ring 0 gen ((if cut = 0 then r else { r with status := 8, detail := min cut (2 ^ 32 - 1) }).bytes x)) s
  let s := each (postedFaults lost) (fun s e => journal s 5 e.1 0 0 gen e.2) s
  let s := each ((attFns att).flatMap (fun f => (List.range 32).map (rkey f))) (fun s k =>
    if (ringX s k).held.isEmpty then s else wr (setRingX s k { ringX s k with held := [] }) .RING_STATUS_CQ_FULL k 0) s
  -- step 4
  let s := bump s .HA_ATTACH_ATTACH_GEN (att * 128)
  let s := wr s .HDM_FLUSH_ATTACH_GEN (att * 128) (rd s .HA_ATTACH_ATTACH_GEN (att * 128))
  let s := bumpSat (wr s .HA_ATTACH_LOST (att * 128) 1) .HA_LINK_LOSSES (att * 128)
  -- a link that went down, or was reset or disabled, is not trained any more
  if cause = 1 then s else wr (wr s .HA_LINK_MODE (att * 128) 0) .HA_LINK_WIDTH (att * 128) 0

/-- FLR-class registers of functions return to their defaults (R5, R331). -/
def flrReset (s : State) (fids : List Nat) : State :=
  let fs := regsFn.flatMap (fun r => r.flds.filter (fun f => f.spec.cls = .flr))
  let s := each fids (fun s fid => each ((List.range 32).map (rkey fid)) (fun s k =>
    each (fs.filter (fun f => f ≠ .RING_STATUS_DETACHED || !attLost s (fnAtt fid))) (fun s f => wr s f k (f.dflt k)) s) s) s
  let s := { s with host := { s.host with
    reads := s.host.reads.filter (fun r => match r.kind with | .entry f _ => !fids.contains f | _ => true)
    rings := s.host.rings.filter (fun e => !fids.contains (e.1 / 32)) } }
  s

/-- Host loss (R330, R331): Recovery beyond 100 ms (cause 1), a link-down (2), a hot reset (3), a secondary bus reset or disable (4). -/
def execHostLoss (att cause : Nat) (s : State) : Out :=
  .next (if !fnPresent s (att * 128) then s else
    match cause, s.host.left.get att with
    | 1, some (t, false) =>
      if t + 100000000 ≤ s.time.mst then
        hostLoss { s with host := { s.host with left := s.host.left.put att (t, true) } } att 1 else s
    | 1, _ => s
    | c, l =>
      if c = 2 || c = 3 || c = 4 then
        let s := hostLoss { s with host := { s.host with left := s.host.left.put att ((l.map (·.1)).getD s.time.mst, true) } } att c
        if c = 3 then flrReset { s with host := { s.host with cfg := s.host.cfg.del att } } (attFns att) else s
      else s)

/-- Modes (as HA_LINK.MODE codes them) that MAX_RATE allows, and verge mode (R306, R308, R309). -/
def attModes (s : State) : List Nat :=
  if rd s .PS_STATUS_STATE = 5 then [3, 6]
  else match rd s .HA_MODE_MAX_RATE with
    | 0 => [1, 2, 3, 4, 5, 6]
    | 1 => [2, 3, 5, 6]
    | _ => [3, 6]

/-- Numbers of lanes to which an attachment may train (R307). -/
def attWidths (s : State) : List Nat := if flag s .HA_MODE_SPLIT then [1, 2, 4, 8] else [1, 2, 4, 8, 16]

/-- An attachment that is not trained reaches L0, while its I/O die is powered: mode and width are what the host makes of the offer (log 131, DESIGN CHOICE). -/
def attTrain (s : State) (att : Nat) : State :=
  if rd s .HA_LINK_MODE (att * 128) ≠ 0 || !fnPresent s (att * 128) || !(s.boot.vio || rd s .PS_STATUS_STATE = 5) then s else
    let (f, s) := free s
    let mode := (attModes s).getD (f % (attModes s).length) 3
    let width := (attWidths s).getD (f / 8 % (attWidths s).length) 1
    wr (wr s .HA_LINK_MODE (att * 128) mode) .HA_LINK_WIDTH (att * 128) width

/-- The attachment reaches L0 (R309) or returns to it (R330, R335): within 100 ms nothing is lost; at that instant or later a loss has been
declared. -/
def execLinkL0 (att : Nat) (s : State) : Out :=
  .next (match s.host.left.get att with
    | none => attTrain s att
    | some (t, lost) =>
      let back := fun (s : State) => { s with host := { s.host with
        left := s.host.left.del att, out := s.host.out.map (fun w => if w.att = att then { w with held := false } else w) } }
      if lost then attTrain (back s) att
      else if t + 100000000 ≤ s.time.mst then back (hostLoss s att 1)
      else restartFetch (bumpSat (back s) .HA_LINK_RETRAINS (att * 128)) att)

/-- A PF's write of HA_ATTACH.ACK (R333, R334, R335): the newest ATTACH_GEN ends the suspension. -/
def execAttachAck (pfAtt att gen : Nat) (s : State) : Out :=
  .next (if !fnPresent s (pfAtt * 128) || !fnPresent s (att * 128) || gen ≠ rd s .HA_ATTACH_ATTACH_GEN (att * 128) || !attLost s att then s else
    let s := wr s .HA_ATTACH_LOST (att * 128) 0
    restartFetch (each ((attFns att).flatMap (fun f => (List.range 32).map (rkey f))) (fun s k =>
      if flag s .RING_CFG_EN k then syncActive (wr s .RING_STATUS_DETACHED k 0) k else s) s) att)

end Sys2Proof.Machine
end

