-- ==== Sys2Proof/Machine/Sched.lean ====
section
/-! DEFINITION. The Turnpike's scheduling (chapter 13) and kills (R94-R98): agents, charging, placement, pre-emption with its save images, the
fencing of a core (R471), the kill sequence and the fault record. Log 51, DEDUCED (killed descriptors), 52 (a manager's kill without a fault), 53
(statuses of a killed context's commands), 54 (contention stalls), 55 (energy rounding), 61 (virtual time on becoming runnable), 67 (ties and
the core chosen by R343), 68 (the save image as data), 69 (record fields without a source). -/

namespace Sys2Proof

/-- The body of a save image between its header and its loft bytes, whose fields R349 names without their places (log 99, DESIGN CHOICE). -/
opaque Config.imageBody : Machine.SaveImg → List (BitVec 8)
/-- The image that a body's bytes stand for. -/
opaque Config.imageOf : List (BitVec 8) → Machine.SaveImg

end Sys2Proof

namespace Sys2Proof.Machine

/-! ### Agents (R336) -/

/-- Live S-cores of a half. -/
def liveS (s : State) (h : Nat) : List Nat := ((List.range 8).map (· + h * 104 + 96)).filter (coreLive s)

/-- The S-core of a half's agent: the live one of lowest local index. -/
def isAgent (s : State) (c : Nat) : Bool := (liveS s (coreHalf c)).head? = some c

/-- A half's agent has to restart on the next live S-core. -/
def startRestart (s : State) (h : Nat) : State := { s with sched := { s.sched with agents := s.sched.agents.put h (0, some s.now) } }

/-- Have PREEMPT sent to a core. -/
def askPreempt (s : State) (c : Nat) : State :=
  if s.sched.wantPre.contains c || (getCore s c).preempting || (getCore s c).ctx.isNone then s
  else { s with sched := { s.sched with wantPre := s.sched.wantPre ++ [c] } }

/-- A core belongs to no instance any more, and its IN_CORES bit is clear (R360, R361). -/
def leaveInst (s : State) (c : Nat) : State :=
  match s.inst.cores.get c with
  | none => s
  | some i =>
    let s := { s with inst := { s.inst with cores := s.inst.cores.del c } }
    let w := rd s .IN_CORES_CORES (i * 16 + c / 64)
    if w.testBit (c % 64) then wr s .IN_CORES_CORES (i * 16 + c / 64) (w - 2 ^ (c % 64)) else s

/-- An agent restarts once the next live S-core is free of work (R336); that S-core belongs to no instance then (R360). -/
def execAgentRestart (half : Nat) (s : State) : Out :=
  .next (match s.sched.agents.get half, (liveS s half).head? with
    | some (_, some _), some c =>
      if (getCore s c).ctx.isSome then askPreempt s c
      else leaveInst { s with sched := { s.sched with agents := s.sched.agents.del half } } c
    | _, _ => s)

/-! ### Charging (R342, R344) -/

/-- Weighted rate of a core's type. -/
def chargeRate (c : Nat) : Nat := match coreType c with | 1 => 8 | 2 => 2 | _ => 1

/-- Bring a held core's charge, held cycles and tolls up to now. -/
def settle_ (s : State) (c : Nat) : State :=
  let k := getCore s c
  match k.ctx with
  | none => s
  | some n =>
    let cyc := cycles s (coreHalf c) - k.sinceCyc
    let s := toll s n (coreType c - 1) cyc
    let s := match getCtx s n with
      | some x => setCtx s n { x with charge := x.charge + chargeRate c * (s.now - k.since), held := x.held + cyc, heldCore := true }
      | none => s
    setCore s c { k with since := s.now, sinceCyc := cycles s (coreHalf c) }

/-- Cores that a context holds. -/
def ctxCores (s : State) (n : Nat) : List Nat := (s.cores.filter (fun e => e.2.ctx = some n)).map (·.1)

/-- A context's charge with what its cores have run since they were last settled. -/
def chargeNow (s : State) (n : Nat) : Nat :=
  ((getCtx s n).map (·.charge)).getD 0 + ((ctxCores s n).map (fun c => chargeRate c * (s.now - (getCore s c).since))).sum

/-- Weight of a context. -/
def weightOf (s : State) (n : Nat) : Nat := max 1 (((getCtx s n).map (·.weight)).getD 1)

/-- Virtual time of `a` is below that of `b`. -/
def vtLess (s : State) (a b : Nat) : Bool := chargeNow s a * weightOf s b < chargeNow s b * weightOf s a

/-- The context of lowest virtual time; a tie is open (log 67, DESIGN CHOICE). -/
def lowestVt (s : State) (l : List Nat) : Option Nat :=
  pick (Config.freeNat s.freeCtr) (l.filter (fun n => l.all (fun m => !vtLess s m n)))

/-- The context of highest virtual time; a tie is open (log 67, DESIGN CHOICE). -/
def highestVt (s : State) (l : List Nat) : Option Nat :=
  pick (Config.freeNat (s.freeCtr + 1)) (l.filter (fun n => l.all (fun m => !vtLess s n m)))

/-- Whether a context has a waiting or running block. -/
def runnable (s : State) (n : Nat) : Bool :=
  s.sched.blocks.any (fun e => e.2.ctx = n) || s.sched.launches.any (fun e => e.2.ctx = n && e.2.fresh < e.2.wblocks)

/-- A context that becomes runnable starts no lower than the lowest virtual time among the runnable contexts of its instance (R342, log 61, DEDUCED). -/
def raiseVt (s : State) (n : Nat) : State :=
  match getCtx s n with
  | none => s
  | some x =>
    match lowestVt s ((s.sched.ctxs.filter (fun e => e.2.inst = x.inst && e.1 ≠ n && e.2.st = .ready && runnable s e.1)).map (·.1)) with
    | none => s
    | some m =>
      if vtLess s n m then
        let w := weightOf s m
        setCtx s n { x with charge := (chargeNow s m * weightOf s n + w - 1) / w }
      else s

/-- The same for a context that has no block yet. -/
def becomeRunnable (s : State) (n : Nat) : State := if runnable s n then s else raiseVt s n

/-! ### Clearing (R73) -/

/-- Bytes of a core's loft are zeroed; its groups, banks and queues are cleared. The L1 and the translation cache, the identities of requests
and the ramp stay. -/
def clearCore (s : State) (c : Nat) : State :=
  let k := getCore s c
  let s := { s with mem := s.mem.filter (fun e => !(loftAt c ≤ e.1 && e.1 < loftAt c + loftStride)) }
  setCore s c { l1 := k.l1, tlb := k.tlb, nextOp := k.nextOp, gate := k.gate, shedCold := k.shedCold, gated := k.gated, resumes := k.resumes }

/-- Descriptors of a core in its near channels leave their queues, and portions of them the sub-queues. -/
def dropDescs (s : State) (c : Nat) : State :=
  if coreType c ≠ 1 then s else
    let gone := ((List.range 4).flatMap (fun j => (getChan s (nearChan c + j)).queue)).filter (fun d => !(d.turnpike || d.core ≠ c))
    each ((List.range 4).map (· + nearChan c)) (fun s ch =>
      let x := getChan s ch
      setChan s ch { x with queue := x.queue.filter (fun d => d.turnpike || d.core ≠ c), sub := x.sub.filter (fun w => gone.all (fun d => d.id ≠ w.desc)) }) s

/-- Walks asked for by a core or its engines end unanswered. -/
def dropWalks (s : State) (c : Nat) : State :=
  let mine := fun (w : WalkReq) => match w.agent with | .core d => d = c | .engine ch => coreType c = 1 && chanCore ch = c | _ => false
  { s with deck := { s.deck with walks := s.deck.walks.filter (fun w => !mine w) } }

/-! ### Fencing (R471) -/

/-- Steps 2 to 8 of R471 for a core whose block has left it, or is killed here with CORE_LOST in a forced fence. -/
def fenceCore (s : State) (c cause : Nat) (forced : Bool) : State :=
  let agent := isAgent s c
  let k := getCore s c
  let s := setLive s c false
  let s := if agent then startRestart s (coreHalf c) else s
  let s := match k.ctx with
    | some n => if forced then raiseFault s { ctx := n, code := 0x0401, detail := c, core := c } else s
    | none => s
  let k := getCore s c
  let k := { k with gated := true, halted := true, l1 := [], tlb := [], outs := [],
                    engines := (k.engines.mapV (fun _ x => { x with queue := [] })).filter (fun e => e.2 ≠ {}) }
  let s := dropWalks (dropDescs (setCore s c k) c) c
  -- its tickets are withdrawn and its pending requests return FENCED; the lines go to the next ticket (R198)
  let pend := s.coh.refused.filter (fun r => r.msg.req = .core c && r.msg.kind ≠ .strip)
  let freed := (s.coh.tickets.filter (fun e => e.2.any (fun t => t.agent = .core c))).map (·.1)
  let s := match k.ctx with
    | some n => each pend (fun s _ => raiseFault s { ctx := n, code := 0x0206, core := c, score := coreType c = 3 }) s
    | none => s
  let s := { s with coh := { s.coh with
    refused := s.coh.refused.filter (fun r => r.msg.req ≠ .core c)
    tickets := (s.coh.tickets.mapV (fun _ l => l.filter (fun t => t.agent ≠ .core c))).filter (fun e => !e.2.isEmpty) } }
  let s := each freed (fun s key => kick s (key / 2 ^ 46) (key % 2 ^ 46)) s
  let x := k.ctx.bind (getCtx s)
  let i := (x.map (·.inst)).getD 0
  let s := logErr s { mst := 0, code := 0x0701, sev := 2, loc := c, ctx := if forced then k.ctx.getD 0 else 0, inst := if forced then i else 0,
                      gen := if forced && k.ctx.isSome then rd s .IN_STATUS_GEN i else 0, detail := cause }
  let s := { s with rel := { s.rel with fencing := none } }
  bumpSat (wr0 (wr0 s .RL_FENCE_STATUS_CORE c) .RL_FENCE_STATUS_BUSY 0) .RL_FENCE_STATUS_FENCES

/-! ### Placement (R340, R341, R360, R364) -/

/-- Running blocks and saved images of an instance. -/
def slotsUsed (s : State) (inst : Nat) : Nat :=
  (s.sched.blocks.filter (fun e => ((getCtx s e.2.ctx).map (·.inst)) = some inst)).length

/-- Slots of an instance's pool (R364). -/
def poolSlots (s : State) (inst : Nat) : Nat :=
  341 * ((List.range 384).filter (fun u => rd s .IN_UNIT_DATA_STATE u = 3 && rd s .IN_UNIT_DATA_OWNER u = inst)).length

/-- Whether the Turnpike places work: in Run and Trim, in no transition (R437). -/
def placing (s : State) : Bool := (rd s .PS_STATUS_STATE = 1 || rd s .PS_STATUS_STATE = 2) && !flag s .PS_STATUS_TRANSITION

/-- A core that can take a block of its instance now. -/
def coreIdle (s : State) (c : Nat) : Bool :=
  let k := getCore s c
  c < 832 && coreLive s c && !k.gated && k.ctx.isNone && !isAgent s c && agentUp s (coreHalf c) && placing s && dieUp s (coreDie c) &&
    (match s.inst.cores.get c with
     | some i => (i = 0 || rd s .IN_STATUS_STATE i = 1) && !((s.inst.x.getD i {}).removing.contains c)
     | none => false)

/-- Whether a saved block may resume on a core (R341): the one it left, or another when that is no longer the instance's or not live. -/
def blockFits (s : State) (inst c : Nat) (b : Block) : Bool := b.left = c || !inCores s inst b.left || !coreLive s b.left

/-- What a core would be given: a saved block by its id, or a fresh block of a launch by the launch's id. -/
inductive Give where
  | saved (b : Nat)
  | fresh (l : Nat)
  deriving DecidableEq, Repr, Inhabited

/-- What a context has for a core (R341 steps 2 and 3). -/
def ctxGives (s : State) (inst c n : Nat) : Option Give :=
  let ct := coreType c
  let saved := s.sched.blocks.filter (fun e => e.2.ctx = n && e.2.st = .saved && ((s.sched.launches.get e.2.launch).map (·.ctype)) = some ct)
  match saved.find? (fun e => e.2.left = c) with
  | some e => some (.saved e.1)
  | none =>
    let room := slotsUsed s inst < poolSlots s inst
    (s.sched.launches.filter (fun e => e.2.ctx = n && e.2.ctype = ct && (e.2.pin.getD c) = c)).findSome? (fun e =>
      let sv := (saved.filter (fun b => b.2.launch = e.1 && blockFits s inst c b.2)).foldl (fun (a : Option (Nat × Block)) b =>
        match a with | none => some b | some d => if b.2.number < d.2.number then some b else a) none
      if room && e.2.fresh < e.2.wblocks && (match sv with | some b => e.2.fresh < b.2.number | none => true) then some (.fresh e.1)
      else sv.map (fun b => .saved b.1))

/-- R341's choice for a core: the context of lowest virtual time that has something for it, and what. -/
def chosen (s : State) (c : Nat) : Option (Nat × Give) :=
  if !coreIdle s c then none else
    match s.inst.cores.get c with
    | none => none
    | some i =>
      let l := (s.sched.ctxs.filter (fun e => e.2.inst = i && e.2.st = .ready && (ctxGives s i c e.1).isSome)).map (·.1)
      (lowestVt s l).bind (fun n => (ctxGives s i c n).map (fun g => (n, g)))

/-- Among the free cores of a type and instance, one that last ran the context comes first, then the lowest number (R341). -/
def comesFirst (s : State) (c : Nat) (n : Nat) (g : Give) : Bool :=
  let late := fun d => if s.sched.lastCtx.get d = some n then 0 else 1
  (List.range 832).all (fun d =>
    d = c || coreType d ≠ coreType c || s.inst.cores.get d ≠ s.inst.cores.get c || !coreIdle s d || chosen s d ≠ some (n, g) ||
      late c < late d || (late c = late d && c < d))

/-- An acquire at SYSTEM scope on every path of a core (R169): a far-epoch advance that they wait for. -/
def coreAcquire (s : State) (c n : Nat) : State :=
  let (s, adv) := startAdvance s n
  let k := getCore s c
  let f : FenceRec := { acquire := true, scope := 3, ops := [], advance := adv }
  let add := fun (p : Path) => { p with fences := p.fences ++ [f] }
  setCore s c { k with groups := k.groups.mapV (fun _ x => { x with run := x.run.map add, others := x.others.map add }) }

/-- Take a core for a context: cleared when it last ran another (R73), held from now (R342); its engines are cold (R151). -/
def takeCore (s : State) (c n : Nat) : State :=
  let s := if s.sched.lastCtx.get c = some n then s else clearCore s c
  let k := getCore s c
  let s := setCore s c { k with ctx := some n, halted := false, killed := false, preempting := false, since := s.now,
                                sinceCyc := cycles s (coreHalf c), resumes := k.resumes + 1
                                engines := (k.engines.mapV (fun _ x => { x with warm := false, lastCyc := 0 })).filter (fun e => e.2 ≠ {}) }
  { s with sched := { s.sched with lastCtx := s.sched.lastCtx.put c n } }

/-- Pipes of a core for placing groups (R340). -/
def pipesOf (ct : Nat) : Nat := match ct with | 1 => 2 | 2 => 8 | _ => 1

/-- A group at entry (R128). -/
def entryGroup (s : State) (c blk number g : Nat) (l : Launch) : Group :=
  let v := [(0, l.args), (1, number), (2, g), (3, l.groups), (4, l.list)].filter (fun e => e.2 ≠ 0)
  let score := l.ctype = 3
  { block := blk, index := g, n := l.n, arith := l.arith,
    xs := if score then ((v.filter (fun e => e.1 < 4)).map (fun e => (e.1 * 32, e.2 % 2 ^ 64))) else [],
    us := if score then [] else v.map (fun e => (e.1, e.2 % 2 ^ 64)),
    run := some { pc := BitVec.ofNat 64 (l.entry + 64), mask := if score then 1 else BitVec.allOnes 32, ran := true },
    wpCyc := cycles s (coreHalf c) }

/-- Start a fresh block of a launch on a core (R128, R169, R340). -/
def startBlock (s : State) (c n lid : Nat) (l : Launch) : State :=
  let s := takeCore s c n
  let id := s.sched.nextId
  let s := { s with sched := { s.sched with
    nextId := id + 1
    launches := s.sched.launches.put lid { l with fresh := l.fresh + 1 }
    blocks := s.sched.blocks.put id { ctx := n, launch := lid, number := l.fresh, st := .running c, left := c, loftTop := l.loftBytes } } }
  let p := pipesOf l.ctype
  let gs := (List.range l.groups).map (fun g => (g % p * 16 + g / p, entryGroup s c id l.fresh g l))
  let k := getCore s c
  let s := setCore s c { k with blocks := [id], groups := gs.foldl (fun m e => m.put e.1 e.2) [] }
  coreAcquire s c n

/-! ### Leaving a core -/

/-- What waits for a core to be free: a planned fence of it (R471), and a SET_CORES that takes it away (R361). -/
def afterFree (s : State) (c : Nat) : State :=
  let s := match s.rel.fencing with
    | some (d, cause) => if d = c then fenceCore s c cause false else s
    | none => s
  match s.inst.cores.get c with
  | none => s
  | some i =>
    let x := s.inst.x.getD i {}
    if !x.removing.contains c then s else
      let s := clearCore (dropWindow s i c) c
      let s := { s with sched := { s.sched with lastCtx := s.sched.lastCtx.del c } }
      let rest := x.removing.filter (· ≠ c)
      let s := leaveInst { s with inst := { s.inst with x := s.inst.x.set i {} { x with removing := rest } } } c
      if rest.isEmpty then wr (wr s .IN_RESULT_RESULT i 0) .IN_RESULT_BUSY i 0 else s

/-- A core's work has left it: it is free, its charge settled. -/
def freeCore (s : State) (c : Nat) : State :=
  let s := settle_ s c
  let k := getCore s c
  let s := setCore s c { k with ctx := none, blocks := [], groups := [], outs := [], preempting := false, halted := false, killed := false, winTop := 0,
                                engines := (k.engines.mapV (fun _ x => { x with queue := [] })).filter (fun e => e.2 ≠ {}) }
  afterFree { s with sched := { s.sched with wantPre := s.sched.wantPre.filter (· ≠ c) } } c

/-- Every group of a core has exited and its engines, descriptors and operations are complete (R169). -/
def coreDone (s : State) (c : Nat) : Bool :=
  let k := getCore s c
  k.groups.all (fun e => e.2.done) && k.engines.all (fun e => e.2.queue.isEmpty) && k.outs.isEmpty &&
    (coreType c ≠ 1 || (List.range 4).all (fun j => (getChan s (nearChan c + j)).queue.all (fun d => d.turnpike || d.core ≠ c)))

/-- A block has ended (R169): with its launch's last block the LAUNCH's work is done. -/
def blockEnds (s : State) (id : Nat) : State :=
  match s.sched.blocks.get id with
  | none => s
  | some b =>
    let s := { s with sched := { s.sched with blocks := s.sched.blocks.del id } }
    match s.sched.launches.get b.launch with
    | none => s
    | some l =>
      if l.ended + 1 < l.wblocks then
        { s with sched := { s.sched with launches := s.sched.launches.put b.launch { l with ended := l.ended + 1 } } }
      else
        let s := { s with sched := { s.sched with launches := s.sched.launches.del b.launch } }
        match l.cmd with | some r => finCmd s r 0 0 | none => s

/-- A core whose block has ended is released once its PARTIAL contributions are pushed (R169); a free core is given what R341 chooses, when
that is a fresh block (a saved one comes by BLOCK_RESUME). -/
def execCoreFree (core : Nat) (s : State) : Out :=
  .next (
    let k := getCore s core
    match k.ctx with
    | some _ =>
      if k.halted || !coreDone s core then s
      else if !(contributed s core).isEmpty then (relStart s core 3).1
      else freeCore (each k.blocks blockEnds (relStart s core 3).1) core
    | none =>
      match chosen s core with
      | some (n, .fresh lid) =>
        if !comesFirst s core n (.fresh lid) then s else
          (match s.sched.launches.get lid with | some l => startBlock { s with freeCtr := s.freeCtr + 1 } core n lid l | none => s)
      | _ => s)

/-! ### Pre-emption (R347-R349) -/

/-- PREEMPT reaches a core: groups with a path that is blocked at a WAIT stand at a waypoint and stop at once; the others at their next (R90). -/
def execPreempt (core : Nat) (s : State) : Out :=
  .next (if !s.sched.wantPre.contains core then s else
    let s := { s with sched := { s.sched with wantPre := s.sched.wantPre.filter (· ≠ core) } }
    let k := getCore s core
    if k.ctx.isNone then s else
      setCore s core { k with preempting := true,
                              groups := k.groups.mapV (fun _ x => if anyWaiting x then { x with stopped := true } else x) })

/-- An outstanding operation that a save carries or drops (R348): reads of another device, a tile move's among them, re-reads of flags, prefetches. -/
def savable (k : Core) (o : OutOp) : Bool :=
  match o.kind with
  | .load .. => o.far
  | .flag _ => true
  | .prefetch => true
  | .move eng id => (getEng k eng).queue.any (fun m => m.id = id && o.parts.all (fun p => m.asked.contains (p.addr / 64)))
  | _ => false

/-- Descriptors of a core that wait or are held between lines, by engine. -/
def coreDescs (s : State) (c : Nat) : List (Nat × List DDesc) :=
  if coreType c ≠ 1 then [] else
    ((List.range 4).map (fun j => (j, (getChan s (nearChan c + j)).queue.filter (fun d => !d.turnpike && d.core = c)))).filter (fun e => !e.2.isEmpty)

/-- Bytes of a save image (R349). -/
def imageBytes (i : SaveImg) : Nat :=
  let recs := (i.groups.map (fun e => if i.ctype = 3 then 320 else 128 * e.2.n + 1024)).sum
  let waits := (i.groups.map (fun e => (waiting e.2).length)).sum
  let reads := (i.outs.map (fun o => o.parts.length)).sum
  64 + recs + 32 * waits + 32 * reads + 66112 * i.engines.length + 1088 * i.descs.length + i.loftSaved

/-- Every group has stopped, and the drain of R347 step 2 is complete. -/
def savedUp (s : State) (c : Nat) : Bool :=
  let k := getCore s c
  k.preempting && !k.halted && k.groups.all (fun e => (e.2.stopped || e.2.done) && e.2.entries.all (fun r => r.fences.isEmpty) && (allPaths e.2).all (fun p => p.fences.isEmpty && (match p.stat with | .locking _ => false | _ => true))) &&
    k.outs.all (savable k) && (coreDescs s c).all (fun e => e.2.all (fun d => d.awaiting.isEmpty && d.reds.isEmpty && d.phase ≠ 2))

/-- The save image of a core. -/
def saveImage (s : State) (c : Nat) (top : Nat) : SaveImg :=
  let k := getCore s c
  let n := min (max top k.winTop) (loftSize c)
  let cyc := cycles s (coreHalf c)
  { ctype := coreType c, source := c, groups := k.groups.mapV (fun _ x => { x with wpCyc := cyc - x.wpCyc, yieldCyc := cyc - x.yieldCyc, stopped := false }),
    -- a move's reads that are not answered are issued again on resume
    engines := (k.engines.mapV (fun _ x => { x with warm := false, lastCyc := 0, queue := x.queue.map (fun m => { m with asked := m.got.map (·.1) }) })).filter (fun e => e.2 ≠ {}),
    outs := k.outs.filter (fun o => match o.kind with | .load .. => true | _ => false),
    descs := (coreDescs s c).map (fun e => (e.1, e.2.map (fun d => { d with asked := [], trans := [], passed := false }))),
    loft := ((s.mem.filter (fun e => loftAt c ≤ e.1 && e.1 < loftAt c + n)).map (fun e => (e.1 - loftAt c, e.2))), loftSaved := n }

/-- The channels from which a core's save image is written and read (R347): the near channels of an M-core, else those of its half. -/
def saveChans (c : Nat) : List Nat :=
  if coreType c = 1 then (List.range 4).map (· + nearChan c) else (List.range 256).map (· + coreHalf c * 256)

/-- Whether those channels serve BULK traffic: one of them does (R226, R227). -/
def savePasses (s : State) (c : Nat) : Bool := (saveChans c).any (fun ch => serves s ch .bulk)

/-- The BULK slots that an image takes, spread over them. -/
def saveSlots (s : State) (c : Nat) (i : SaveImg) : State :=
  let l := (saveChans c).filter (fun ch => serves s ch .bulk)
  each l (fun s ch => useSlot s ch .bulk (2 * ((imageBytes i + 64 * l.length - 1) / (64 * l.length)))) s

/-- The 64-byte header of a save image (R349). -/
def imageHeader (i : SaveImg) (resumes len : Nat) : List Byte :=
  let waits := (i.groups.map (fun e => (waiting e.2).length)).sum
  let reads := (i.outs.map (fun o => o.parts.length)).sum
  let mask := i.engines.foldl (fun a e => a + 2 ^ e.1) 0
  (natLe 4 0x45564153 ++ natLe 1 i.ctype ++ natLe 1 i.groups.length ++ natLe 2 i.source ++ natLe 4 resumes ++ natLe 4 i.loftSaved ++ natLe 4 mask ++
    natLe 2 waits ++ natLe 2 reads ++ natLe 2 0 ++ natLe 38 0).take (min 64 len)

/-- A save image's bytes: header, body, loft. -/
def imageOut (i : SaveImg) (resumes : Nat) : List Byte :=
  let len := imageBytes i
  imageHeader i resumes len ++ (List.range (len - 64 - i.loftSaved)).map (fun k => (Config.imageBody i).getD k 0) ++
    (List.range i.loftSaved).map (fun k => readByte i.loft k)

/-- Slots that saved images of an instance take. -/
def usedSlots (s : State) (inst : Nat) : List Nat :=
  (s.sched.blocks.filter (fun e => e.2.st = .saved && ((getCtx s e.2.ctx).map (·.inst)) = some inst)).map (fun e => e.2.slot)

/-- The slot for a save image: the lowest free one of the instance's pool (R364; log 68, DESIGN CHOICE). -/
def freeSlot (s : State) (inst : Nat) : Option Nat :=
  let used := usedSlots s inst
  ((List.range 384).filter (fun u => rd s .IN_UNIT_DATA_STATE u = 3 && rd s .IN_UNIT_DATA_OWNER u = inst)).findSome? (fun u =>
    ((List.range 341).map (· + u * 341)).find? (fun k => !used.contains k))

/-- System address of a slot: 3 MiB each (R364). -/
def slotAt (s : State) (k : Nat) : Nat := myDev s * 2 ^ 40 + k / 341 * 2 ^ 30 + k % 341 * (3 * 2 ^ 20)

/-- Write a save image to its slot (R347, R349). -/
def writeImage (s : State) (slot : Nat) (img : SaveImg) (resumes : Nat) : State := orderWriteBytes s (slotAt s slot) (imageOut img resumes) turnpikeWriter

/-- The save image is written and the core leaves its context (R347 steps 2 to 4); without a free slot the save waits (R365; log 94, DEDUCED). -/
def execPreemptSave (core : Nat) (s : State) : Out :=
  .next (
    let k := getCore s core
    match k.ctx, k.blocks with
    | some n, id :: _ =>
      if !savedUp s core || !savePasses s core then s
      else if !(contributed s core).isEmpty then (relStart s core 3).1
      else
        match s.sched.blocks.get id, freeSlot s (((getCtx s n).map (·.inst)).getD 0) with
        | some b, some slot =>
          let s := (relStart s core 3).1
          let img := saveImage s core b.loftTop
          let s := writeImage (dropWalks (dropDescs s core) core) slot img b.resumes
          let s := { s with sched := { s.sched with
            images := s.sched.images.put id img
            blocks := s.sched.blocks.put id { b with st := .saved, left := core, loftTop := max b.loftTop img.loftSaved, slot := slot } } }
          freeCore (toll (saveSlots s core img) n 4 ((imageBytes img + 63) / 64 * 64)) core
        | _, _ => s
    | _, _ => s)

/-- Put an image's loft bytes into a core's loft. -/
def loadLoft (s : State) (c : Nat) (i : SaveImg) : State :=
  let keep := s.mem.filter (fun e => !(loftAt c ≤ e.1 && e.1 < loftAt c + i.loftSaved))
  { s with mem := i.loft.foldl (fun m e => writeByte m (loftAt c + e.1) e.2) keep }

/-- Re-test a group's waits from scratch (R348): all threads wait again, READs and flag reads are sent afresh. -/
def rearm (s : State) (g : Grp) : State :=
  match getGroup s g with
  | none => s
  | some x =>
    let fresh := fun (p : Path) => match p.stat with
      | .waiting w => { p with stat := .waiting { w with left := maskOf (w.target.map (·.1)), notBefore := 0, lastRead := s.now,
                                                         inUnit := waitUnits (getCore s g.core) < 64 } }
      | _ => p
    let s := setGroup s g { x with run := x.run.map fresh, others := x.others.map fresh }
    match getGroup s g with
    | none => s
    | some x =>
      retest (each (waiting x) (fun s pw =>
        if pw.2.kind = 0 then sendReads s g.core pw.2
        else if pw.2.kind = 1 || pw.2.kind = 2 then readFlags s g (lowest pw.1.mask) pw.2 else s) s) g

/-- A saved block is reloaded on the core that R341 gives it (R347): the reads of R348 are issued again, waits are armed again, the core acts
as FENCE.SYSTEM.ACQ. -/
def execBlockResume (core block : Nat) (s : State) : Out :=
  .next (match chosen s core, s.sched.blocks.get block, s.sched.images.get block with
    | some (n, .saved b), some blk, some img =>
      if b ≠ block || !comesFirst s core n (.saved b) || !savePasses s core then s else
        let s := saveSlots (takeCore s core n) core img
        let s := loadLoft s core img
        let s := { s with sched := { s.sched with
          images := s.sched.images.del block
          blocks := s.sched.blocks.put block { blk with st := .running core, resumes := blk.resumes + 1 } } }
        let cyc := cycles s (coreHalf core)
        let k := getCore s core
        -- what the core issues next comes after what the image holds (R148)
        let seqs := img.engines.flatMap (fun e => e.2.queue.map (·.seq)) ++ img.descs.flatMap (fun e => e.2.map (·.seq))
        let base := seqs.foldl (fun a q => max a (q + 1)) k.nextOp
        let outs := (img.outs.zipIdx).map (fun e => { e.1 with id := base + e.2 })
        let s := setCore s core { k with
          blocks := [block]
          groups := img.groups.mapV (fun _ x => { x with wpCyc := cyc - x.wpCyc, yieldCyc := cyc - x.yieldCyc })
          outs := outs
          nextOp := base + outs.length
          engines := img.engines }
        let s := each img.descs (fun s e =>
          let ch := nearChan core + e.1
          let c := getChan s ch
          setChan s ch { c with queue := c.queue ++ e.2.map (fun d => { d with core := core }) }) s
        let s := each outs (fun s o =>
          let gat : Bool := match o.kind with | .load _ _ true => true | _ => false
          each (distinct (o.parts.map (fun p => if gat then p.addr / 16 else p.addr / 64 * 4))) (fun s a =>
            send s { coreMsg core o.id (a / 4) .gets with flags := (if o.install then 0 else 2) + (if gat then 8 else 0), thread := a % 4 }) s) s
        let s := each (coreGroups s core) rearm s
        coreAcquire (toll s n 4 ((imageBytes img + 63) / 64 * 64)) core n
    | _, _, _ => s)

/-! ### Kills (R94-R98) -/

/-- The fault that reached the Turnpike first: of those that arrived together, that of the lowest core, pipe and slot (R96). -/
def firstFault (l : List FaultRec) : Option FaultRec :=
  let less := fun (a b : FaultRec) => a.time < b.time || (a.time = b.time && (a.core * 4096 + a.pipe * 64 + a.slot < b.core * 4096 + b.pipe * 64 + b.slot))
  l.foldl (fun a f => match a with | none => some f | some b => if less f b then some f else a) none

/-- The context takes its first pending fault, or counts a later one (R95 step 2, R96): of those that arrived together, the lowest core,
pipe and slot. -/
def execContextKill (ctx : Nat) (s : State) : Out :=
  .next (
    match firstFault (s.sched.faults.filter (fun f => f.ctx = ctx)) with
    | none => s
    | some f =>
      let s := { s with sched := { s.sched with faults := s.sched.faults.erase f } }
      match getCtx s ctx with
      | none => s
      | some x =>
        if x.st = .dead then s else
          setCtx s ctx { x with st := .killing, fault := some (match x.fault with
            | some p => { p with secondary := min (p.secondary + 1) (2 ^ 32 - 1) }
            | none => { f with manager := x.mgr }) })

/-- Free bytes (log 7, DESIGN CHOICE). -/
def freeBytes (s : State) (n : Nat) : List Byte × State :=
  ((List.range n).map (fun j => BitVec.ofNat 8 (Config.freeNat (s.freeCtr + j))), { s with freeCtr := s.freeCtr + n })

/-- The output granules of an aborted matrix command are left undefined (R95): bytes of context memory, bytes of the loft. -/
def abortOutputs (s : State) (c ctx : Nat) (m : MCmd) : State :=
  let s := match m.op.runs with
    | some (.write, l) => each l (fun s r =>
        let (b, s) := freeBytes s r.2
        farWrite s ctx r.1 b c) s
    | _ => s
  each (m.ranges.filter (fun r => r.loft && r.write && r.hi ≤ loftStride)) (fun s r =>
    let (b, s) := freeBytes s (r.hi - r.lo)
    { s with mem := writeBytes s.mem (loftAt c + r.lo) b }) s

/-- KILL reaches a core (R95 step 3). -/
def execCoreKill (core ctx : Nat) (s : State) : Out :=
  .next (
    let k := getCore s core
    if k.ctx ≠ some ctx || k.killed || ((getCtx s ctx).map (·.st)) ≠ some .killing then s else
      let cmds := k.engines.flatMap (fun e => e.2.queue)
      let s := each cmds (fun s m => abortOutputs s core ctx m) s
      let k := getCore s core
      let keep := fun (o : OutOp) => match o.kind with | .write => true | .red => true | .strip => true | _ => false
      let s := setCore s core { k with halted := true, killed := true, preempting := false, outs := k.outs.filter keep,
                                       engines := (k.engines.mapV (fun _ x => { x with queue := [] })).filter (fun e => e.2 ≠ {}) }
      let s := { s with sched := { s.sched with wantPre := s.sched.wantPre.filter (· ≠ core) } }
      dropWalks (dropDescs s core) core)

/-- PRECISE of a fault code (R98). -/
def precise (code : Nat) : Bool := [0x0101, 0x0102, 0x0103, 0x0104, 0x0107, 0x0201, 0x0202, 0x0203, 0x0204].contains code

/-- The codes of R98. -/
def faultCodes : List Nat := [0x0101, 0x0102, 0x0103, 0x0104, 0x0105, 0x0106, 0x0107, 0x0201, 0x0202, 0x0203, 0x0204, 0x0205, 0x0206, 0x0207, 0x0208, 0x0301, 0x0302, 0x0401, 0x0402]

/-- The fault record (R97) of a context's kill; what has no source is free (log 52, DESIGN CHOICE, 69). PRECISE needs an instruction that the PC names, or a
kernel's entry (R127), where INSN is 0 (log 159, DESIGN CHOICE). -/
def faultRecord (s : State) (n : Nat) (x : Ctx) : List Byte × State :=
  let v := fun j => Config.freeNat (s.freeCtr + j)
  let s' := { s with freeCtr := s.freeCtr + 10 }
  let f := x.fault.getD { ctx := n, code := faultCodes.getD (v 0 % 19) 0x0101, core := 1024, manager := true, time := v 1 }
  let mgr := x.fault.isNone
  let path := f.active ≠ 0
  let pr := !mgr && precise f.code && (path || f.pc ≠ 0)
  let cls := f.code / 256
  let fl := (if pr then 1 else 0) + (if f.addr.isSome then 2 else 0) + (if f.secondary ≠ 0 then 4 else 0) + (if f.manager then 8 else 0) + (if f.score then 16 else 0)
  let noDet := mgr || [0x0101, 0x0205, 0x0206].contains f.code
  (natLe 2 f.code ++ natLe 1 cls ++ natLe 1 fl ++ natLe 2 (if f.core < 832 then f.core else v 3 % 1024) ++
    natLe 1 (if f.group then f.pipe else v 4) ++ natLe 1 (if f.group then f.slot else v 5) ++ natLe 4 (if path then f.active.toNat else v 6) ++
    natLe 4 f.secondary ++ natLe 8 (if path || pr then f.pc.toNat % 2 ^ 48 else v 7 % 2 ^ 48) ++ natLe 8 (f.addr.getD (v 8)) ++
    natLe 8 f.time ++ natLe 2 n ++ natLe 1 x.inst ++ natLe 1 (rd s .IN_STATUS_GEN x.inst) ++ natLe 4 (if noDet then v 9 else f.detail) ++
    natLe 8 (mstNow s) ++ natLe 4 (if pr then f.insn else 0) ++ natLe 3 0 ++ [0x80], s')

/-- Address of a sequence entry (R352): the table begins at the 64 KiB that BASE names (log 70, DEDUCED). -/
def seqAt (s : State) (n : Nat) : Nat := myDev s * 2 ^ 40 + (rd s .TP_SEQ_BASE_BASE / 65536 * 65536 + 64 * n) % 2 ^ 40

/-- Bytes of a sequence entry as a number; write of some. -/
def seqGet (s : State) (n off len : Nat) : Nat := leNat (orderBytes s (seqAt s n + off) len)
def seqPut (s : State) (n off len v : Nat) : State := orderWriteBytes s (seqAt s n + off) (natLe len v) turnpikeWriter

/-- A sequence leaves with a state and its SEQ_ADD ends (R354, R355). -/
def seqEnd (s : State) (n st status detail : Nat) : State :=
  let s := seqPut s n 0 1 st
  let r := s.sched.seqCmds.get n
  let s := { s with sched := { s.sched with seqCmds := s.sched.seqCmds.del n, cancels := s.sched.cancels.filter (· ≠ n) } }
  match r with | some r => finCmd s r status detail | none => s

/-- A context's commands end (R95, R328): a started LAUNCH, BATCH_START or SEQ_ADD with `status`, the others ABORTED (log 53, DEDUCED). -/
def endCommands (s : State) (n inst status detail : Nat) : State :=
  each (s.host.cmds.filter (fun c => c.ctx = n && fnNum c.ref.fid = inst && c.fin.isNone)) (fun s c =>
    let work := c.started && [0x01, 0x20, 0x22].contains c.op
    finCmd s c.ref (if work then status else 7) (if work then detail else 0)) s

/-- Everything of a killed context leaves the device (R95 steps 5 and 6): `record` whether a fault record is written; the status that its
open work ends with; the state of its sequences. -/
def endContext (s : State) (n : Nat) (x : Ctx) (record : Bool) (status : Nat) (seqSt : Nat) : State :=
  -- faults not yet taken count; the first of a context that the manager kills is what its record holds (R96)
  let mine := s.sched.faults.filter (fun f => f.ctx = n)
  let x := { x with fault := match x.fault with
    | some f => some { f with secondary := min (f.secondary + mine.length) (2 ^ 32 - 1) }
    | none => (firstFault mine).map (fun f => { f with manager := true, secondary := mine.length - 1 }) }
  let (b, s) := if record then faultRecord s n x else ([], s)
  let code := leNat (b.take 2)
  let s := if !record then s
    else if x.faultAddr % 2 = 1 then hostFaultRec s x.inst (x.faultAddr / 64 * 64) b
    else
      let a := myDev s * 2 ^ 40 + x.faultAddr / 64 * 64
      if x.faultAddr < 2 ^ 40 && (isLoft s a || (isDeck s a && dieUp s (homeDie (a / 64)))) then orderWriteBytes s a b turnpikeWriter else s
  let seqs := s.sched.seqCmds.keys.filter (fun q => seqGet s q 24 2 = n)
  let s := each seqs (fun s q => seqEnd s q seqSt status (if status = 1 then code else 0)) s
  let s := endCommands s n x.inst status (if status = 1 then code else 0)
  let s := each (ctxCores s n) (fun s c => clearCore (freeCore s c) c) s
  let ids := (s.sched.blocks.filter (fun e => e.2.ctx = n)).map (·.1)
  let s := { s with
    sched := { s.sched with
      faults := s.sched.faults.filter (fun f => f.ctx ≠ n)
      blocks := s.sched.blocks.filter (fun e => e.2.ctx ≠ n)
      launches := s.sched.launches.filter (fun e => e.2.ctx ≠ n)
      images := s.sched.images.filter (fun e => !ids.contains e.1)
      loops := s.sched.loops.del n
      batches := s.sched.batches.del n
      lastCtx := s.sched.lastCtx.filter (fun e => e.2 ≠ n) }
    deck := { s.deck with walks := s.deck.walks.filter (fun w => w.ctx ≠ n) }
    link := { s.link with far := s.link.far.filter (fun f => f.ctx ≠ n), waits := s.link.waits.filter (fun w => w.ctx ≠ n) } }
  setCtx s n { (getCtx s n).getD x with st := .dead, fault := none, mgr := false }

/-- Every core of a context has stopped with its stores complete, and its remote operations have drained (R95 steps 3 and 4). -/
def killDrained (s : State) (n : Nat) : Bool :=
  (ctxCores s n).all (fun c => (getCore s c).killed && (getCore s c).outs.isEmpty) && s.link.far.all (fun f => f.ctx ≠ n) && s.link.waits.all (fun w => w.ctx ≠ n)

/-! ### Accounting (R343, R345, R346) -/

/-- Whether a context waits with a block of a type. -/
def waitsFor (s : State) (n ct : Nat) : Bool :=
  ((getCtx s n).map (·.st)) = some .ready &&
    (s.sched.launches.any (fun e => e.2.ctx = n && e.2.ctype = ct && e.2.fresh < e.2.wblocks) ||
     s.sched.blocks.any (fun e => e.2.ctx = n && e.2.st = .saved && ((s.sched.launches.get e.2.launch).map (·.ctype)) = some ct))

/-- R343 for one instance and core type: the core that is pre-empted, if one is; which of those that B holds is open (log 67, DESIGN CHOICE). -/
def sharePreempt (s : State) (inst ct : Nat) : Option Nat :=
  let cs := (s.sched.ctxs.filter (fun e => e.2.inst = inst)).map (·.1)
  let mine := fun n => (ctxCores s n).filter (fun c => coreType c = ct && !(getCore s c).preempting && !s.sched.wantPre.contains c && !(getCore s c).halted)
  match lowestVt s (cs.filter (fun n => waitsFor s n ct)), highestVt s (cs.filter (fun n => !(mine n).isEmpty)) with
  | some a, some b =>
    if a ≠ b && chargeNow s b * weightOf s a > chargeNow s a * weightOf s b + rd s .TP_CFG_SLACK * 1000 * weightOf s a * weightOf s b
    then pick (Config.freeNat (s.freeCtr + 2)) (mine b) else none
  | _, _ => none

/-- Energy of the period shared among contexts (R345), in pJ; rounding to µJ is open (log 55, DESIGN CHOICE). -/
def shareEnergy (s : State) : State :=
  let t := s.now - s.sched.periodStart
  let e := (rd s .PW_ENERGY_UJ + 2 ^ 64 - s.sched.periodUj) % 2 ^ 64 * 1000000
  let stat := rd s .TP_STATIC_WATTS * t * 1000
  let dyn := e - stat
  let act := fun (x : Ctx) => ((List.range 7).map (fun k =>
    rd s .TP_EWEIGHT_PJ k * ((x.tolls.getD k 0 + 2 ^ 64 - x.periodTolls.getD k 0) % 2 ^ 64))).sum
  let total := (s.sched.ctxs.map (fun c => act c.2)).sum
  let wsum := ((s.sched.ctxs.filter (fun c => c.2.heldCore)).map (fun c => c.2.weight)).sum
  let s0 := s
  let s := each s0.sched.ctxs (fun s c =>
    let d := if total = 0 then 0 else dyn * act c.2 / total
    let w := if c.2.heldCore && wsum ≠ 0 then stat * c.2.weight / wsum else 0
    toll s c.1 7 (divOpen (d + w) 1000000)) s
  let rest := (if total = 0 then dyn else 0) + (if wsum = 0 then stat else 0)
  let zero := [0, 0, 0, 0, 0, 0, 0, 0]
  let l := s.sched.instTolls.getD 0 zero
  let r := divOpen rest 1000000
  if r = 0 then s else
    { s with sched := { s.sched with instTolls := s.sched.instTolls.put 0 (l.set 7 ((l.getD 7 0 + r) % 2 ^ 64)) } }

/-- SLOWDOWN of a period (R346) from held cycles and contention stalls. -/
def slowdownOf (h x : Nat) : Nat := if h = 0 then 256 else if h ≤ x then 65535 else min 65535 (256 * h / (h - x))

/-- The end of an accounting period (R343, R345, R346); contention stalls are free (log 54, DESIGN CHOICE). -/
def execAccountingPeriod (s : State) : Out :=
  .next (if s.now < s.sched.periodStart + rd s .TP_CFG_PERIOD * 100000 then s else
    let s := each (s.cores.keys) settle_ s
    let s := shareEnergy s
    let s := each s.sched.ctxs (fun s c =>
      match getCtx s c.1 with
      | none => s
      | some x =>
        let (f, s) := free s
        setCtx s c.1 { x with slowdown := slowdownOf x.held (f % (x.held + 1)), held := 0, stalls := 0, heldCore := false, periodTolls := x.tolls }) s
    let s := each ((List.range 65).flatMap (fun i => [(i, 1), (i, 2), (i, 3)])) (fun s p =>
      match sharePreempt s p.1 p.2 with | some c => askPreempt { s with freeCtr := s.freeCtr + 3 } c | none => s) s
    -- a SET_WEIGHT holds from the next period (R338)
    let s := { s with sched := { s.sched with ctxs := s.sched.ctxs.mapV (fun _ x => { x with weight := x.nextWeight.getD x.weight, nextWeight := none }) } }
    { s with sched := { s.sched with periodStart := s.now, periodUj := rd s .PW_ENERGY_UJ } })

end Sys2Proof.Machine
end

