-- ==== Sys2Proof/Machine/Commands.lean ====
section
/-! DEFINITION. The commands of the rings (R318, R319, R340), the batching commands and loop (R352-R355), host read completions and the end
of a command (R325). Log 56, DESIGN CHOICE: a COPY or FILL works through its whole length in its row; 57: WAYMARK WAIT looks at the bank; 62: checks in the
order MALFORMED, CONTEXT; 70: a SEQ_ADD's entry; 71: cancelling a QUEUED sequence; 72: commands out of place; 73: sizes of host transfers. -/

namespace Sys2Proof.Machine

/-! ### Start (R317, R319, R327, R328) -/

/-- Fields of an entry that a kind uses, as (lowest bit, width), beside those of every entry (R317, R318, R353). -/
def opFields (op : Nat) : Option (List (Nat × Nat)) :=
  match op with
  | 0x00 => some []
  | 0x01 => some [(64, 128), (192, 56), (256, 12), (271, 1), (272, 10), (287, 1)]
  | 0x02 => some [(64, 200)]
  | 0x03 => some [(64, 192)]
  | 0x04 => some [(64, 12), (80, 8), (96, 32)]
  | 0x05 => some [(64, 16), (96, 32)]
  | 0x20 => some [(64, 40), (128, 96), (256, 128)]
  | 0x21 => some [(64, 32)]
  | 0x22 => some [(64, 256)]
  | 0x23 => some []
  | 0x24 => some [(64, 40)]
  | _ => none

/-- The values that a kind does not permit, as the first bits of their fields; the addresses of a zero length are not looked at (R9).
A PIN to a core of another type than CORE_TYPE is such a value, whether or not that core is live (R18; log 180, DESIGN CHOICE). -/
def badFields (c : Cmd) : List Nat :=
  match c.op with
  | 0x01 => (if c.fld 30 1 = 0 || c.fld 30 1 > 3 then [240] else []) ++
      (if c.fld 34 2 ≥ 2 ^ 15 && (c.fld 34 2 % 1024 ≥ 832 || coreType (c.fld 34 2 % 1024) ≠ c.fld 30 1) then [272] else [])
  | 0x02 => (if c.fld 32 1 > 2 then [256] else []) ++ ((if c.fld 24 8 = 0 then [24] else [8, 16, 24]).filter (fun b => c.fld b 8 % 16 ≠ 0)).map (· * 8)
  | 0x03 => ((if c.fld 16 8 = 0 then [16] else [8, 16]).filter (fun b => c.fld b 8 % 16 ≠ 0)).map (· * 8)
  | 0x04 => if c.fld 10 1 > 1 then [80] else []
  | 0x05 => if c.fld 8 1 > 1 then [64] else []
  | 0x20 => if c.fld 8 4 ≥ 2097152 then [64] else []
  | 0x21 => if c.fld 8 4 ≥ 2097152 then [64] else []
  | 0x22 => (if c.fld 24 4 > 65536 then [192] else []) ++ (if c.fld 30 2 = 0 then [240] else [])
  | 0x24 => if c.fld 8 4 ≥ 2097152 then [64] else []
  | _ => []

/-- The lowest offending bit of an entry (R328), if one offends. -/
def malformed (c : Cmd) : Option Nat :=
  match opFields c.op with
  | none => some 0
  | some l =>
    let ok := fun i => ([(0, 11), (16, 48), (504, 8)] ++ l).any (fun f => f.1 ≤ i && i < f.1 + f.2)
    let bad := (List.range 512).find? (fun i => tb c.raw.toNat i && !ok i)
    (bad.toList ++ badFields c).foldl (fun (a : Option Nat) b => match a with | none => some b | some d => some (min b d)) none

/-- Commands of a ring that were accepted before one, and have not ended. -/
def earlier (s : State) (r : CmdRef) : List Cmd :=
  (s.host.cmds.takeWhile (fun c => c.ref ≠ r)).filter (fun c => c.ref.fid = r.fid && c.ref.ring = r.ring)

/-- A command that may start now (R319, R327, R370, R437). -/
def startable (s : State) (r : CmdRef) : Option Cmd :=
  match getCmd s r with
  | none => none
  | some c =>
    let before := earlier s r
    if c.started || !(ringX s (rkey r.fid r.ring)).held.isEmpty || !placing s || !instOpen s (fnNum r.fid) then none
    else if before.any (fun d => !d.started || (d.op = 4 && d.fld 10 1 = 0 && d.fin.isNone)) then none
    else if tb c.flags 2 && !before.isEmpty then none
    else some c

/-- The live context that an entry names (R328). -/
def cmdCtx (s : State) (c : Cmd) : Option Ctx :=
  match getCtx s c.ctx with
  | some x => if x.inst = fnNum c.ref.fid && x.st ≠ .dead then some x else none
  | none => none

/-- Start a command of the kinds listed: its checks, then its own effect, with the command marked started. -/
def begin_ (s : State) (r : CmdRef) (kind : Cmd → Bool) (body : State → Cmd → Ctx → State) : State :=
  match startable s r with
  | none => s
  | some c =>
    if !kind c then s else
      match malformed c with
      | some b => finCmd s r 3 b
      | none =>
        match cmdCtx s c with
        | none => finCmd s r 4 0
        | some x => if x.st = .killing then s else body (setCmd s { c with started := true }) { c with started := true } x

/-- NOP. -/
def execCmdNop (r : CmdRef) (s : State) : Out := .next (begin_ s r (fun c => c.op = 0) (fun s _ _ => finCmd s r 0 0))

/-! ### Accesses of the Turnpike to context memory (R223) -/

/-- How an access fails: a status and DETAIL, a fault of the context, an uncorrectable line of a table, or a wait for an agent. -/
inductive TpStop where
  | status (code detail : Nat)
  | fault (code detail va : Nat)
  | bad (loc va : Nat)
  | wait
  deriving DecidableEq, Repr, Inhabited

/-- Translate an access of the Turnpike, mapping a page at its first touch under STRIPE_DEVICE (R223). -/
def tpAddr (s : State) (n va : Nat) (acc : Access) : Except TpStop (Nat × State) :=
  match getCtx s n with
  | none => .error (.status 4 0)
  | some x =>
    let fin := fun (s : State) (e : W64) (l : Nat) =>
      let a := leafAddr e l va
      if isDeck s a && !dieUp s (homeDie (a / 64)) then .error (.status 2 (homeDie (a / 64)))
      -- the window of a core that is not live answers FENCED (R267)
      else if isLoft s a && !coreLive s ((locOf a - loftBase) / loftStride) then .error (.status 2 ((locOf a - loftBase) / loftStride))
      else .ok (a, s)
    if va ≥ 2 ^ 48 then .error (.fault 0x0201 0 va) else
      match walkVa s x va acc with
      | .leaf e l => fin s e l
      | .defer at_ =>
        if !agentUp s 0 then .error .wait else
          (match touchPage s n x va at_ none false with
           | none => .error (.fault 0x0201 3 va)
           | some s1 => match walkVa s1 x va acc with | .leaf e l => fin s1 e l | _ => .error (.fault 0x0201 3 va))
      | .fault c d => .error (.fault c d va)
      | .fenced at_ => .error (.status 2 (at_ / dieBytes))
      | .uncorrectable loc => .error (.bad loc va)

/-- Pieces of a virtual run cut at pages of 64 KiB. -/
def pagePieces (va n : Nat) : List (Nat × Nat) :=
  if n = 0 then [] else
    (List.range ((va + n - 1) / 65536 - va / 65536 + 1)).map (fun j =>
      let lo := max va ((va / 65536 + j) * 65536)
      (lo, min (va + n) ((va / 65536 + j + 1) * 65536) - lo))

/-- Translate a whole run: system addresses with their lengths. -/
def tpRun (s : State) (n va len : Nat) (acc : Access) : Except TpStop (List (Nat × Nat) × State) :=
  (pagePieces va len).foldl (fun r p =>
    match r with
    | .error e => .error e
    | .ok (l, s) => match tpAddr s n p.1 acc with | .error e => .error e | .ok (a, s1) => .ok (l ++ [(a, p.2)], s1)) (.ok ([], s))

/-- Deck lines of a run, for DECK_BYTES. -/
def runDeckBytes (s : State) (l : List (Nat × Nat)) : Nat :=
  (l.map (fun p => if p.2 = 0 || devOf p.1 ≠ myDev s then 0 else 64 * ((p.1 + p.2 - 1) / 64 - p.1 / 64 + 1))).sum

/-- The lines of a run but for those of this device's loft windows. -/
def memLinesOf (s : State) (l : List (Nat × Nat)) : List Nat :=
  distinct ((l.filter (fun p => !isLoft s p.1 && p.2 ≠ 0)).flatMap (fun p => (List.range ((p.1 + p.2 - 1) / 64 - p.1 / 64 + 1)).map (· + p.1 / 64)))

/-- The context address at which a run that starts at `va` meets a line. -/
def lineVa (line : Nat) : Nat → List (Nat × Nat) → Nat
  | va, [] => va
  | va, p :: rest => if p.1 / 64 ≤ line && line * 64 < p.1 + p.2 then va + (max p.1 (line * 64) - p.1) else lineVa line (va + p.2) rest

/-- Send a request of a command for a line: to its home slice, or to another device (R193, R297). `va`: its context address. -/
def tpSend (s : State) (r : CmdRef) (kind : MsgKind) (line va : Nat) (data : Line) (mask : BitVec 64) : State :=
  match getCmd s r with
  | none => s
  | some c =>
    let id := s.link.nextTag
    let s := setCmd { s with link := { s.link with nextTag := id + 1 } } { c with far := c.far ++ [(id, line, va)] }
    let m : Msg := { kind := kind, req := .turnpike, die := homeDie line, slice := sliceOf line, line := line, id := id, data := data, mask := mask }
    if isLocal s line then send s m else farSend s m (if kind = .gets then 0x01 else 0x03)

/-- Ask for the lines of a run at `va` that a command has not got: true once it has them all (R170). -/
def tpAsk (s : State) (r : CmdRef) (va : Nat) (l : List (Nat × Nat)) : Bool × State :=
  let lines := memLinesOf s l
  match getCmd s r with
  | none => (lines.isEmpty, s)
  | some c =>
    let need := lines.filter (fun n => c.got.all (fun g => g.1 ≠ n))
    if need.isEmpty then (true, s) else
      (false, each (need.filter (fun n => c.far.all (fun f => f.2.1 ≠ n))) (fun s n => tpSend s r .gets n (lineVa n va l) 0 0) s)

/-- Bytes of a translated run: from the lines that the command has got, or from a loft window. -/
def tpRead (s : State) (r : CmdRef) (l : List (Nat × Nat)) : List Byte :=
  let got := ((getCmd s r).map (·.got)).getD []
  l.flatMap (fun p => if isLoft s p.1 then orderBytes s p.1 p.2
    else (List.range p.2).map (fun j => BitVec.ofNat 8 (lineNat (((got.find? (fun g => g.1 = (p.1 + j) / 64)).map (·.2)).getD 0) ((p.1 + j) % 64) 1)))

/-- A write of a context to a line of another device updates its FAR copies here (R171). -/
def farUpdate (s : State) (ctx line : Nat) (data : Line) (mask : BitVec 64) : State :=
  let tag := (getCtx s ctx).bind (·.farTag)
  { s with coh := { s.coh with lines := s.coh.lines.mapV (fun k e =>
      if k % 2 ^ 46 = line && e.st = .far && some e.tag = tag then { e with data := mergeLine e.data data mask } else e) } }

/-- Write a run for a command, piece by piece: WR to the home of each line, here or on another device (R171); a loft window takes its bytes at once. -/
def tpStore (s : State) (r : CmdRef) (ctx va : Nat) (l : List (Nat × Nat)) (bs : List Byte) : State :=
  (l.foldl (fun (st : State × List Byte) p =>
    let s := st.1
    let b := st.2.take p.2
    (if isLoft s p.1 then orderWriteBytes s p.1 b turnpikeWriter
      else each (linePieces p.1 b) (fun s q => farUpdate (tpSend s r .wr q.1 (lineVa q.1 va l) q.2.2 q.2.1) ctx q.1 q.2.2 q.2.1) s,
     st.2.drop p.2)) (toll s ctx 4 (runDeckBytes s l), bs)).1

/-- A fault that the Turnpike itself meets for a context: no core holds the work (log 69, DESIGN CHOICE). -/
def tpFault (s : State) (n code detail va pc : Nat) : State :=
  raiseFault s { ctx := n, code := code, detail := detail, core := 1024, addr := some va, pc := BitVec.ofNat 64 pc }

/-! ### LAUNCH (R126, R127, R340) -/

/-- The first reserved bit or value of a header, in ascending bit order (R127). -/
def headerBad (h ct : Nat) : Option Nat :=
  let score := ct = 3
  let vals := (if bits h 32 8 ≠ 1 then [32] else []) ++ (if bits h 40 8 = 0 || bits h 40 8 > 3 || bits h 40 8 ≠ ct then [40] else []) ++
    (if !score && bits h 48 5 > 16 then [48] else []) ++ (if bits h 56 3 > 5 then [56] else []) ++ (if bits h 128 64 % 8 ≠ 0 then [128] else [])
  let rsv := (List.range 512).find? (fun i => tb h i && ((!score && 53 ≤ i && i < 56) || (60 ≤ i && i < 63) || (96 ≤ i && i < 128) || 192 ≤ i))
  (vals ++ rsv.toList).foldl (fun (a : Option Nat) b => match a with | none => some b | some d => some (min b d)) none

/-- What a launch's header says: a fault, that it has been asked for, nothing to start, too many groups, or the launch. `ct` 0: the header names the core type. -/
inductive HeaderSays where
  | stop (e : TpStop)
  | ask
  | nothing
  | groups
  | ok (l : Launch)
  deriving DecidableEq, Repr, Inhabited

/-- Read and check a kernel header (R126, R127, R340), with what its first touches change; its line is asked for first. `r`: the command. -/
def header (s : State) (r : CmdRef) (n entry ct groups : Nat) (l : Launch) : HeaderSays × State :=
  if entry % 8 ≠ 0 then (.stop (.fault 0x0203 8 entry), s) else
    match tpRun s n entry 64 .fetch with
    | .error e => (.stop e, s)
    | .ok (run, s) =>
      match tpAsk s r entry run with
      | (false, s) => (.ask, s)
      | (true, s) =>
        let h := leNat (tpRead s r run)
        let s := match getCmd s r with | some c => setCmd s { c with got := [] } | none => s
        let ct := if ct = 0 then bits h 40 8 else ct
        if bits h 0 32 ≠ 0x4B414947 then (.stop (.fault 0x0101 0 entry), s) else
          match headerBad h ct with
          | some b => (.stop (.fault 0x0102 b entry), s)
          | none =>
            let loft := bits h 64 32
            let limit := match ct with | 1 => 0x200000 | 2 => 0x100000 | _ => 0x80000
            if loft > limit then (.stop (.fault 0x0204 loft entry), s)
            else
              let nreg := 8 * bits h 48 5
              let per := (groups + pipesOf ct - 1) / pipesOf ct
              if (if ct = 3 then groups > 8 else per > (if nreg = 0 then 16 else min 16 (1024 / nreg))) then (.groups, s)
              else if (ct ≠ 3 && nreg = 0) || bits h 128 64 = 0 then (.nothing, s)
              else (.ok { l with ctype := ct, n := if ct = 3 then 8 else nreg, arith := arithInit (bits h 56 8), loftBytes := loft, groups := groups }, s)

/-- Add a launch to the running ones (R342). -/
def addLaunch (s : State) (l : Launch) : Nat × State :=
  let s := becomeRunnable s l.ctx
  let id := s.sched.nextId
  (id, { s with sched := { s.sched with nextId := id + 1, launches := s.sched.launches.put id l } })

/-- A restored launch: its header is read again, once it has come where it lies on another device; its saved blocks are those of its context and core
type (log 101, DEDUCED). -/
def relaunch (s : State) (r : CmdRef) (n : Nat) (l0 : Launch) (ended : Nat) (fin : State → Nat → State) : State :=
  match header s r n l0.entry l0.ctype l0.groups l0 with
  | (.stop (.fault k d va), s) => tpFault s n k d va l0.entry
  | (.stop (.bad loc va), s) => let s := tableRead s loc
                                tpFault s n 0x0207 (errIndex s loc) va l0.entry
  | (.stop _, s) => tpFault s n 0x0201 3 l0.entry l0.entry
  | (.ok l, s) =>
    let mine := s.sched.blocks.filter (fun e => e.2.ctx = n && e.2.launch = 0 && ((s.sched.images.get e.1).map (·.ctype)) = some l.ctype && e.2.number < l.wblocks)
    let fresh := max (ended + mine.length) ((mine.map (fun e => e.2.number + 1)).foldl max 0)
    let (id, s) := addLaunch s { l with fresh := fresh, ended := fresh - mine.length }
    let s := { s with sched := { s.sched with blocks := s.sched.blocks.mapV (fun k b => if mine.any (fun e => e.1 = k) then { b with launch := id } else b) } }
    fin s id
  | (_, s) => s

/-- The launch of a command, from its entry (R318). -/
def cmdLaunch (c : Cmd) : Launch :=
  let pin := c.fld 34 2
  { ctx := c.ctx, cmd := some c.ref, entry := c.fld 8 8, args := c.fld 16 8, wblocks := c.fld 24 4, groups := c.fld 28 2, ctype := c.fld 30 1, n := 8,
    arith := {}, pin := if pin ≥ 2 ^ 15 then some (pin % 1024) else none }

/-- A LAUNCH that a RESTORE brought, some of whose work blocks have ended or were saved, goes on. -/
def relaunchCmd (s : State) (c : Cmd) : State := relaunch s c.ref c.ctx (cmdLaunch c) c.part (fun s _ => s)

/-- The step of a loop that a RESTORE brought goes on. -/
def relaunchLoop (s : State) (n : Nat) (l : Loop) : State :=
  let seqs := (s.sched.batches.getD n []).length
  let base : Launch := { ctx := n, cmd := none, entry := l.entry, args := l.args, list := l.list + ((l.step + 1) % 2) * (4 + 4 * l.maxBatch),
                         wblocks := (seqs + l.perBlock - 1) / l.perBlock, groups := l.groups, ctype := 0, n := 8, arith := {} }
  relaunch s l.cmd n base 0 (fun s id => { s with sched := { s.sched with loops := s.sched.loops.put n { l with launch := some id } } })

/-- Saved blocks of a context wait for the launch that a RESTORE brings back. -/
def orphans (s : State) (n : Nat) : Bool := s.sched.blocks.any (fun b => b.2.ctx = n && b.2.launch = 0)

/-- The launch of a command runs. -/
def launchUp (s : State) (r : CmdRef) : Bool := s.sched.launches.any (fun e => e.2.cmd = some r)

/-- A LAUNCH that a THAW started again, whose header is still on its way. -/
def relaunching (s : State) (r : CmdRef) : Option Cmd :=
  match getCmd s r with
  | some c => if c.started && c.op = 1 && c.fin.isNone && !launchUp s r && (c.part ≠ 0 || orphans s c.ctx) && instOpen s (fnNum r.fid) &&
                ((getCtx s c.ctx).map (fun x => decide (x.st ≠ .killing ∧ x.st ≠ .dead))) = some true then some c else none
  | none => none

/-- GROUPS of a launch of no work blocks (R9): what R340 refuses whatever N the kernel's header, which is not read, would give. -/
def groupsBad (ct groups : Nat) : Bool := if ct = 3 then groups > 8 else (groups + pipesOf ct - 1) / pipesOf ct > 16

/-- LAUNCH (R318, R340). A kernel header that faults kills the context (R127); a wait leaves the command unstarted. -/
def execLaunch (r : CmdRef) (s : State) : Out :=
  .next (match relaunching s r with
    | some c => relaunchCmd s c
    | none => begin_ s r (fun c => c.op = 1) (fun s1 c _ =>
    let pin := c.fld 34 2
    if pin ≥ 2 ^ 15 && !coreLive s1 (pin % 1024) then finCmd s1 r 2 (pin % 1024)
    else if c.fld 24 4 = 0 || c.fld 28 2 = 0 then (if groupsBad (c.fld 30 1) (c.fld 28 2) then finCmd s1 r 3 224 else finCmd s1 r 0 0)
    else
      let l := cmdLaunch c
      match header s1 r c.ctx l.entry l.ctype l.groups l with
      | (.stop .wait, _) => s
      -- the command has not started while its header is on its way
      | (.ask, s2) => (match getCmd s2 r with | some d => setCmd s2 { d with started := false } | none => s2)
      | (.stop (.bad loc va), s2) => let s2 := tableRead s2 loc
                                     tpFault s2 c.ctx 0x0207 (errIndex s2 loc) va l.entry
      | (.stop (.fault k d va), s2) => tpFault s2 c.ctx k d va l.entry
      | (.stop (.status k d), s2) => finCmd s2 r k d
      | (.nothing, s2) => finCmd s2 r 0 0
      | (.groups, s2) => finCmd s2 r 3 224
      | (.ok l, s2) => (addLaunch s2 l).2))

/-! ### COPY and FILL (R318, R329) -/

/-- Status of a COPY or FILL whose device address fails (R328), or a fault of its context for what it reads. -/
def copyStop (s : State) (s0 : State) (r : CmdRef) (e : TpStop) : State :=
  match e with
  | .wait => s0
  | .status c d => finCmd s r c d
  | .fault _ _ _ => finCmd s r 6 0
  | .bad loc va =>
    let s := tableRead s loc
    match getCmd s r with | some c => tpFault s c.ctx 0x0207 (errIndex s loc) va 0 | none => s

/-- A fault of a context is under way. -/
def faulted (s : State) (n : Nat) : Bool := s.sched.faults.any (fun f => f.ctx = n)

/-- A command's writes are sent, and none has made its context fault: it ends OK, unless one fails. -/
def finSent (s : State) (r : CmdRef) (n : Nat) : State := if faulted s n then s else finCmd s r 0 0

/-- FILL: its writes are sent; the command ends once they are performed (R325). -/
def execFillCommand (r : CmdRef) (s : State) : Out :=
  let go := fun (s1 : State) (c : Cmd) =>
    let n := c.fld 16 8
    match tpRun s1 c.ctx (c.fld 8 8) n .write with
    | .error e => copyStop s1 s r e
    | .ok (l, s2) => finSent (tpStore s2 r c.ctx (c.fld 8 8) l ((List.range n).map (fun k => (natLe 8 (c.fld 24 8)).getD (k % 8) 0))) r c.ctx
  .next (match getCmd s r with
    | none => s
    | some c0 =>
      if c0.started && c0.op = 3 && c0.fin.isNone then (if faulted s c0.ctx then s else go s c0)
      else begin_ s r (fun c => c.op = 3) (fun s1 c _ => if c.fld 16 8 = 0 then finCmd s1 r 0 0 else go s1 c))

/-- Most bytes of one read of host memory, and of one posted write (log 73, DESIGN CHOICE). -/
def readMax : Nat := 4096
def postMax : Nat := 256

/-- Issue reads of a COPY from the host while tags are free. -/
def issueCopy : Nat → State → CmdRef → State
  | 0, s, _ => s
  | fuel + 1, s, r =>
    match getCmd s r with
    | none => s
    | some c =>
      let n := min readMax (c.copyLen - c.sent)
      if n = 0 || c.fin.isSome then s else
        match hostRead s (fnAtt r.fid) (c.fld 8 8 + c.sent) n (.copy r c.sent n) with
        | (false, s) => s
        | (true, s) => issueCopy fuel (setCmd s { c with sent := c.sent + n }) r

/-- The part of a COPY that reads device memory, once it has every line (R318): its bytes go to the host or to the destination. A COPY to a host that
has been lost meanwhile ends HOST_LOST (R328). -/
def copyOut (s0 : State) (r : CmdRef) (s1 : State) (c : Cmd) : State :=
  let n := c.copyLen
  match tpRun s1 c.ctx (c.fld 8 8) n .read with
  | .error e => copyStop s1 s0 r e
  | .ok (src, s2) =>
    match tpAsk s2 r (c.fld 8 8) src with
      | (false, s2) => s2
      | (true, s2) =>
        let bs := tpRead s2 r src
        let s2 := toll s2 c.ctx 4 (runDeckBytes s2 src)
        if c.fld 32 1 = 1 then
          if attLost s2 (fnAtt r.fid) then finCmd s2 r 8 n else
          let s2 := each (List.range ((n + postMax - 1) / postMax)) (fun s j =>
            hostPost s { att := fnAtt r.fid, addr := c.fld 16 8 + j * postMax, bytes := (bs.drop (j * postMax)).take postMax, relaxed := true,
                         pay := .copy r (c.fld 4 4) (c.fld 8 8 + j * postMax) }) s2
          finCmd (toll s2 c.ctx 6 n) r 0 0
        else
          match tpRun s2 c.ctx (c.fld 16 8) n .write with
          | .error e => copyStop s2 s0 r e
          | .ok (dst, s3) => finSent (tpStore s3 r c.ctx (c.fld 16 8) dst bs) r c.ctx

/-- COPY (R318): within the device and to the host in this row, from the host by reads whose completions bring the data, to and from other devices
by remote requests (R297). A COPY that waits for its lines goes on here. -/
def execCopyCommand (r : CmdRef) (s : State) : Out :=
  .next (match getCmd s r with
    | none => s
    | some c0 =>
      if c0.started && c0.op = 2 && c0.fin.isNone then (if faulted s c0.ctx then s else if c0.fld 32 1 = 0 then issueCopy 256 s r else copyOut s r s c0)
      else begin_ s r (fun c => c.op = 2) (fun s1 c _ =>
        let n := c.copyLen
        let dir := c.fld 32 1
        if n = 0 then finCmd s1 r 0 0
        else if dir ≠ 2 && attLost s1 (fnAtt r.fid) then finCmd s1 r 8 n
        else if dir = 0 then
          match tpRun s1 c.ctx (c.fld 16 8) n .write with
          | .error e => copyStop s1 s r e
          | .ok (_, s2) => issueCopy 256 s2 r
        else copyOut s r s1 c))

/-- How much of a COPY has arrived without a gap. -/
def copyPart (s : State) (r : CmdRef) (sent : Nat) : Nat :=
  s.host.reads.foldl (fun a q => match q.kind with | .copy p off _ => if p = r then min a off else a | _ => a) sent

/-- Data of a COPY from the host goes to its homes. -/
def copyData (s : State) (c : Cmd) (off : Nat) (bs : List Byte) : State :=
  let r := c.ref
  match tpRun s c.ctx (c.fld 16 8 + off) bs.length .write with
  | .error (.status k d) => finCmd s r k d
  | .error (.bad loc va) => copyStop s s r (.bad loc va)
  | .error _ => finCmd s r 6 0
  | .ok (l, s) =>
    let s := issueCopy 256 (toll (tpStore s r c.ctx (c.fld 16 8 + off) l bs) c.ctx 6 bs.length) r
    match getCmd s r with
    | none => s
    | some c =>
      let part := copyPart s r c.sent
      let s := setCmd s { c with part := part }
      if part = c.copyLen then finSent s r c.ctx else s

/-- Cut bytes into entries. -/
def entriesOf : Nat → List Byte → List (BitVec 512)
  | 0, _ => []
  | n + 1, bs => if bs.length < 64 then [] else BitVec.ofNat 512 (leNat (bs.take 64)) :: entriesOf n (bs.drop 64)

/-- The host has answered a posted write with an error (R329): a COPY whose record is to come ends with HOST_DMA; of a record an error record is made
(log 163, DESIGN CHOICE). -/
def writeErr (s : State) (w : HostWr) (code : Nat) : State :=
  let s := { s with host := { s.host with out := s.host.out.filter (fun v => v.tag ≠ w.tag) } }
  let note := fun (ring num : Nat) => logErr s { mst := 0, code := 0x0501, sev := 5, loc := w.att, detail := detail2 ring num }
  match w.pay with
  | .copy r _ _ => (match getCmd s r with
    | some c => if c.fin = some (0, 0) || c.fin.isNone then setCmd s { c with started := true, fin := some (5, code) } else s
    | none => s)
  | .record r num => note r.ring num
  | .fault _ _ => note 0 0

/-- A host read completion (R329): data, or an error answer, which may be to a posted write; for a tag that is not outstanding it is discarded. -/
def execHostReadCompletion (att tag : Nat) (ans : HostAns) (s : State) : Out :=
  .next (match s.host.reads.find? (fun r => r.att = att && r.tag = tag) with
    | none => (match ans, s.host.out.find? (fun w => w.att = att && w.tag = tag) with
      | .error e, some w => writeErr s w e
      | _, _ => s)
    | some r =>
      let full := (s.host.reads.filter (fun r => r.att = att)).length ≥ 256
      let s := { s with host := { s.host with reads := s.host.reads.erase r } }
      -- a ring that found 256 reads outstanding asks again
      (fun s => if full then restartFetch s att else s) <| match r.kind, ans with
      | .entry fid ring, .data bs => entriesCome s fid ring r (entriesOf 16 bs)
      | .entry fid ring, .error _ =>
        fetchErr s (rkey fid ring)
      | .copy q off len, .data bs =>
        (match getCmd s q with
         | some c => if c.fin.isSome then s else copyData s c off (bs.take len)
         | none => s)
      | .copy q _ _, .error e =>
        let s := { s with host := { s.host with reads := s.host.reads.filter (fun p => match p.kind with | .copy x _ _ => x ≠ q | _ => true) } }
        finCmd s q 5 e
      | .flush q, _ => (match getCmd s q with | some c => setCmd s { c with flush := 2 } | none => s))

/-! ### Waymark commands -/

/-- WAYMARK WAIT: it starts, and is done once COUNT has reached VALUE (log 57, DEDUCED). -/
def execWaymarkWait (r : CmdRef) (s : State) : Out :=
  .next (
    let look := fun (s : State) (c : Cmd) (x : Ctx) =>
      if (getWm s (wmIndex x (c.fld 8 2 % 4096))).count.toNat ≥ c.fld 12 4 then finCmd s r 0 0 else s
    match getCmd s r with
    | none => s
    | some c0 =>
      if c0.started && c0.op = 4 && c0.fin.isNone then (match getCtx s c0.ctx with | some x => look s c0 x | none => s)
      else begin_ s r (fun c => c.op = 4 && c.fld 10 1 ≠ 1) look)

/-- WAYMARK ADD: VALUE is added when the command starts; 0 adds nothing (R8). -/
def execWaymarkAdd (r : CmdRef) (s : State) : Out :=
  .next (begin_ s r (fun c => c.op = 4 && c.fld 10 1 = 1) (fun s c x =>
    let v := c.fld 12 4
    let s := if v = 0 then s else sendWm s { kind := .add, wm := wmIndex x (c.fld 8 2 % 4096), half := 8, count := BitVec.ofNat 32 v }
    finCmd s r 0 0))

/-! ### The end of a command (R325) -/

/-- A command ends: the flushing read of HOST_VISIBLE first; then the release over its writes (R169), its record and its DONE waymark. An
entry of a reserved kind starts and ends here. A pinned LAUNCH that ends FENCED increments its DONE waymark too (R18, R318; log 179, DESIGN CHOICE). -/
def execCommandEnd (r : CmdRef) (s : State) : Out :=
  .next (
    let s := match startable s r with
      | some c => if (opFields c.op).isNone then finCmd s r 3 0 else s
      | none => s
    match getCmd s r with
    | none => s
    | some c =>
      match c.fin with
      | none => s
      | some (st, det) =>
        let k := rkey r.fid r.ring
        let att := fnAtt r.fid
        -- the release covers the command's writes (R169)
        if !c.far.isEmpty then s
        -- the record of a command whose flushing read is under way comes first: its number is taken
        else if s.host.cmds.any (fun d => d.ref ≠ r && d.ref.fid = r.fid && d.ref.ring = r.ring && d.flush ≠ 0) then s
        else if tb c.flags 0 && c.flush = 0 && !attLost s att then
          match hostRead s att (rd s .CQ_BASE_BASE k * 4096 + 32 * ((rd s .CQ_TAIL_TAIL k + (ringX s k).held.length) % cqSize s k)) 0 (.flush r) with
          | (true, s) => setCmd s { c with flush := 1 }
          | (false, s) => s
        else if c.flush = 1 && !attLost s att then s
        else if (ringX s k).held.length ≥ 64 then s
        else
          let ls := s.deck.chans.flatMap (fun e => (e.2.wcb.filter (fun w => w.writers.contains turnpikeWriter)).map (·.line))
          let s := each ls flushWcb s
          let s := { s with host := { s.host with cmds := s.host.cmds.filter (fun d => d.ref ≠ r) } }
          let s := if st = 0 && tb c.flags 1 then s else emitRec s (mkRec s c st det)
          let done := c.fld 32 2
          if c.op = 1 && done ≥ 2 ^ 15 && st ≠ 3 && st ≠ 4 then
            match getCtx s c.ctx with
            | some x => sendWm s { kind := .add, wm := wmIndex x (done % 4096), half := 8, count := 1 }
            | none => s
          else s)

/-! ### Batching (R352-R355) -/

/-- A number into an ascending list without it. -/
def insNat (n : Nat) : List Nat → List Nat
  | [] => [n]
  | m :: t => if n = m then m :: t else if n < m then n :: m :: t else m :: insNat n t

/-- Entries of the sequence table of which a byte may be written: what the memory lists, and the lines that caches hold or messages carry. Every other
entry reads as zero, which is FREE (R352). -/
def seqWritten (s : State) : List Nat :=
  let lines := s.mem.map (fun c => myDev s * 2 ^ 34 + c.1 / 64) ++ s.coh.lines.map (fun e => e.1 % 2 ^ 46) ++ s.coh.net.map (·.line) ++ s.coh.busy.map (fun e => e.1 % 2 ^ 46)
  let base := myDev s * 2 ^ 34 + rd s .TP_SEQ_BASE_BASE / 65536 * 1024
  (lines.filter (fun l => l / 2 ^ 34 = myDev s)).foldl (fun a l =>
    let n := (l + 2 ^ 34 - base) % 2 ^ 34
    if n < 2097152 then insNat n a else a) []

/-- Entries of the sequence table that an instance holds outside FREE (R368), ascending. -/
def seqUsed (s : State) (inst : Nat) : List Nat := (seqWritten s).filter (fun n => seqGet s n 0 1 ≠ 0 && seqGet s n 1 1 = inst)

def seqHeld (s : State) (inst : Nat) : Nat := (seqUsed s inst).length

/-- Start a batching command: its context has BATCH set, or it ends with CONTEXT (R353). -/
def beginBatch (s : State) (r : CmdRef) (op : Nat) (body : State → Cmd → Ctx → State) : State :=
  begin_ s r (fun c => c.op = op) (fun s c x => if x.batch then body s c x else finCmd s r 4 0)

/-- SEQ_ADD (R353): the entry is written; the command ends when the sequence leaves. A LENGTH or MAX_LENGTH of zero is no zero length of R8: the entry holds it
(log 178, DESIGN CHOICE). -/
def execSeqAdd (r : CmdRef) (s : State) : Out :=
  .next (beginBatch s r 0x20 (fun s c x =>
    let n := c.fld 8 4
    if seqGet s n 0 1 ≠ 0 || seqHeld s x.inst ≥ rd s .IN_RES_SEQ_QUOTA x.inst then finCmd s r 3 64 else
      let e := [1, BitVec.ofNat 8 x.inst, BitVec.ofNat 8 (c.fld 12 1), 0] ++ natLe 4 (c.fld 24 4) ++ natLe 8 (c.fld 32 8) ++ natLe 4 (c.fld 16 4) ++
        natLe 4 (c.fld 20 4) ++ natLe 2 c.ctx ++ natLe 2 0 ++ natLe 4 0 ++ natLe 8 (mstNow s) ++ natLe 8 (c.fld 40 8) ++ natLe 16 0
      let s := orderWriteBytes s (seqAt s n) e turnpikeWriter
      { s with sched := { s.sched with seqCmds := s.sched.seqCmds.put n r } }))

/-- Whether a sequence is QUEUED or RUNNING for an instance (R353). -/
def seqOpen (s : State) (n inst : Nat) : Bool := (seqGet s n 0 1 = 1 || seqGet s n 0 1 = 2) && seqGet s n 1 1 = inst

/-- SEQ_CANCEL (R353-R355): a RUNNING sequence leaves after its step; a QUEUED one at once (log 71, DEDUCED). -/
def execSeqCancel (r : CmdRef) (s : State) : Out :=
  .next (beginBatch s r 0x21 (fun s c x =>
    let n := c.fld 8 4
    if !seqOpen s n x.inst then finCmd s r 3 64
    else if seqGet s n 0 1 = 1 then finCmd (seqEnd s n 3 7 0) r 0 0
    else finCmd { s with sched := { s.sched with cancels := s.sched.cancels ++ [n] } } r 0 0))

/-- SEQ_PRIORITY (R353). -/
def execSeqPriority (r : CmdRef) (s : State) : Out :=
  .next (beginBatch s r 0x24 (fun s c x =>
    let n := c.fld 8 4
    if !seqOpen s n x.inst then finCmd s r 3 64 else finCmd (seqPut s n 2 1 (c.fld 12 1)) r 0 0))

/-- BATCH_START (R353): a loop begins; with MAX_BATCH or GROUPS 0, which are counts, it ends at once (R8). -/
def execBatchStart (r : CmdRef) (s : State) : Out :=
  .next (beginBatch s r 0x22 (fun s c _ =>
    if (s.sched.loops.get c.ctx).isSome then finCmd s r 3 0
    else if c.fld 24 4 = 0 || c.fld 28 2 = 0 then finCmd s r 0 0
    else
      let l : Loop := { cmd := r, entry := c.fld 8 8, args := c.fld 16 8, maxBatch := c.fld 24 4, groups := c.fld 28 2, perBlock := c.fld 30 2, list := c.fld 32 8 }
      { s with sched := { s.sched with loops := s.sched.loops.put c.ctx l } }))

/-- BATCH_STOP (R353): recorded; the loop ends at its next step boundary. -/
def execBatchStop (r : CmdRef) (s : State) : Out :=
  .next (beginBatch s r 0x23 (fun s c _ =>
    match s.sched.loops.get c.ctx with
    | none => finCmd s r 3 0
    | some l => finCmd { s with sched := { s.sched with loops := s.sched.loops.put c.ctx { l with stopping := true } } } r 0 0))

/-- The end of a loop: BATCH_START's command is done. -/
def loopEnds (s : State) (n : Nat) (l : Loop) (st det : Nat) : State :=
  finCmd { s with sched := { s.sched with loops := s.sched.loops.del n } } l.cmd st det

/-- Step 1 of R354: sequences leave. -/
def seqLeave (s : State) (n : Nat) : State :=
  each (s.sched.batches.getD n []) (fun s q =>
    let cut := s.sched.cancels.contains q
    let eos := seqGet s q 3 1 % 2 = 1 || seqGet s q 16 4 ≥ seqGet s q 20 4
    if !(cut || eos) then s else
      let s := seqEnd s q 3 (if cut then 7 else 0) (seqGet s q 28 4)
      { s with sched := { s.sched with batches := s.sched.batches.put n ((s.sched.batches.getD n []).filter (· ≠ q)) } }) s

/-- Insert a sequence into the joining order: PRIORITY, higher first, then ARRIVAL_MST, then number. -/
def joinIn (s : State) (q : Nat) : List Nat → List Nat
  | [] => [q]
  | p :: rest =>
    let key := fun (n : Nat) => (255 - seqGet s n 2 1, seqGet s n 32 8, n)
    let a := key q
    let b := key p
    if a.1 < b.1 || (a.1 = b.1 && (a.2.1 < b.2.1 || (a.2.1 = b.2.1 && a.2.2 < b.2.2))) then q :: p :: rest else p :: joinIn s q rest

/-- Step 2 of R354: QUEUED sequences join. -/
def seqJoin (s : State) (n maxB : Nat) : State :=
  let queued := (s.sched.seqCmds.keys.filter (fun q => seqGet s q 24 2 = n && seqGet s q 0 1 = 1)).foldl (fun l q => joinIn s q l) []
  let have_ := s.sched.batches.getD n []
  let new := queued.take (maxB - have_.length)
  let s := each new (fun s q => seqPut s q 0 1 2) s
  { s with sched := { s.sched with batches := s.sched.batches.set n [] (have_ ++ new) } }

/-- A loop's step meets a failed access of the Turnpike. -/
def stepStop (s0 s : State) (n entry : Nat) (at_ : Nat) (e : TpStop) : State :=
  match e with
  | .wait => s0
  | .fault c d va => tpFault s n c d va entry
  | .bad loc va => let s := tableRead s loc
                   tpFault s n 0x0207 (errIndex s loc) va entry
  | .status c _ => tpFault s n (if c = 2 then 0x0206 else 0x0201) 0 at_ entry

/-- Where a step's list stands (R354). -/
def Loop.at_ (l : Loop) : Nat := l.list + (l.step % 2) * (4 + 4 * l.maxBatch)

/-- Step 4 of R354: the step kernel is launched, once the list is performed and released and its header has come. -/
def stepGo (s0 s : State) (n : Nat) (l : Loop) : State :=
  match getCmd s l.cmd with
  | none => s
  | some c =>
    if !c.far.isEmpty then s else
      let s := each (s.deck.chans.flatMap (fun e => (e.2.wcb.filter (fun w => w.writers.contains turnpikeWriter)).map (·.line))) flushWcb s
      let seqs := s.sched.batches.getD n []
      let wb := (seqs.length + l.perBlock - 1) / l.perBlock
      let base : Launch := { ctx := n, cmd := none, entry := l.entry, args := l.args, list := l.at_, wblocks := wb, groups := l.groups, ctype := 1, n := 8, arith := {} }
      let next := fun (s : State) (id : Nat) =>
        let s := match getCmd s l.cmd with | some c => setCmd s { c with part := 0 } | none => s
        { s with sched := { s.sched with loops := s.sched.loops.put n { l with step := l.step + 1, launch := some id } } }
      match header s l.cmd n l.entry 0 l.groups base with
      | (.stop e, s) => stepStop s0 s n l.entry l.entry e
      | (.ask, s) => s
      | (.nothing, s) => next s 0
      | (.groups, s) => loopEnds s n l 3 224
      | (.ok k, s) =>
        let (id, s) := addLaunch s k
        next s id

/-- Step 3 of R354: the list is written; then the kernel is launched. `s0`: the state to keep when an agent must be waited for. -/
def stepLaunch (s0 s : State) (n : Nat) (l : Loop) : State :=
  let seqs := s.sched.batches.getD n []
  let bs := natLe 4 seqs.length ++ seqs.flatMap (natLe 4)
  match tpRun s n l.at_ bs.length .write with
  | .error e => stepStop s0 s n l.entry l.at_ e
  | .ok (run, s) =>
    let s := tpStore s l.cmd n l.at_ run bs
    let s := match getCmd s l.cmd with | some c => setCmd s { c with part := 1 } | none => s
    stepGo s0 s n l

/-- A step boundary of a context's loop (R354, R355). -/
def execBatchStep (ctx : Nat) (s : State) : Out :=
  .next (match s.sched.loops.get ctx, getCtx s ctx with
    | some l, some x =>
      let running := match l.launch with | some id => (s.sched.launches.get id).isSome | none => false
      let begun : Bool := l.launch.isNone && ((getCmd s l.cmd).map (fun c => decide (c.part ≠ 0))).getD false
      if running || x.st = .killing || x.st = .dead || !placing s || !instOpen s x.inst || faulted s ctx then s
      -- a step that a THAW started again, whose header was on its way
      else if l.launch.isNone && orphans s ctx then relaunchLoop s ctx l
      -- a step whose list or header is still under way
      else if begun then stepGo s s ctx l
      else
        let s1 := if l.launch.isSome then
            each (s.sched.batches.getD ctx []) (fun s q => seqPut s q 28 4 ((seqGet s q 28 4 + 1) % 2 ^ 32)) s else s
        let l := { l with launch := none }
        if l.stopping then loopEnds s1 ctx l 0 0 else
          let s1 := { s1 with sched := { s1.sched with loops := s1.sched.loops.put ctx l } }
          let s1 := seqJoin (seqLeave s1 ctx) ctx l.maxBatch
          if (s1.sched.batches.getD ctx []).isEmpty then s1 else stepLaunch s s1 ctx l
    | _, _ => s)

end Sys2Proof.Machine
end

