-- ==== Sys2Proof/Machine/Contexts.lean ====
section
/-! DEFINITION. Contexts (R337, R338): creation from a descriptor, suspension, kill, destruction, weight; the dropping of translations (R494).
Log 58, DEDUCED: a descriptor's number and the command's; 59: a weight of 0; 74: the manager's waymarks; 75: commands of a context destroyed while
suspended; 76: ZERO descriptors beyond an engine's 16. -/

namespace Sys2Proof.Machine

/-- Drop a context's cached translations whose pages overlap the addresses from `lo` up to, not including, `hi` (R494). -/
def dropTrans (s : State) (n lo hi : Nat) : State :=
  keepTlb s (fun t => !(t.ctx = n && t.va < hi && lo < t.va + 2 ^ t.log2))

/-- The descriptor of R337 as a context. -/
def ctxOf (d : Nat) : Ctx :=
  { inst := bits d 16 8, stripPoison := tb d 24, farEn := tb d 25, batch := tb d 26, weight := bits d 32 16, policy := bits d 48 8, wmLog2 := bits d 56 8,
    budget := if tb d 88 then none else some (bits d 64 24), wmBase := bits d 96 12, convoy := bits d 112 8, convoyEn := tb d 120,
    seed := bits d 128 64, ptRoot := bits d 192 64, faultAddr := bits d 256 64 }

/-- Whether a descriptor keeps its reserved fields and values (R337). -/
def descriptorOk (d : Nat) : Bool :=
  let x := ctxOf d
  x.inst ≤ 64 && bits d 27 5 = 0 && x.weight ≠ 0 && x.policy ≤ 3 && x.wmLog2 ≤ 12 && bits d 89 7 = 0 && bits d 108 4 = 0 && bits d 121 7 = 0 &&
    bits d 257 5 = 0 && bits d 320 192 = 0 && x.wmBase % 2 ^ x.wmLog2 = 0

/-- Whether two ranges of waymarks meet. -/
def wmMeet (a la b lb : Nat) : Bool := a < b + 2 ^ lb && b < a + 2 ^ la

/-- Whether a context's window lies in its instance's waymarks (R338, R368); the manager's are those of no enabled instance (log 74, DEDUCED). -/
def wmInside (s : State) (x : Ctx) : Bool :=
  if x.inst = 0 then
    (List.range 64).all (fun i => rd s .IN_STATUS_STATE (i + 1) = 0 || !wmMeet x.wmBase x.wmLog2 (rd s .IN_WM_BASE (i + 1)) (rd s .IN_WM_LOG2 (i + 1))) &&
      x.wmBase + 2 ^ x.wmLog2 ≤ 4096
  else rd s .IN_WM_BASE x.inst ≤ x.wmBase && x.wmBase + 2 ^ x.wmLog2 ≤ rd s .IN_WM_BASE x.inst + 2 ^ rd s .IN_WM_LOG2 x.inst

def ctxResult (s : State) (v : Nat) : State := wr0 s .TP_CTX_RESULT_RESULT v

/-- The watch masks of a new context's waymarks are cleared, with no UPDATE (R278). -/
def clearWatches (s : State) (x : Ctx) : State :=
  { s with wm := { s.wm with marks := (s.wm.marks.mapV (fun w m => if x.wmBase ≤ w && w < x.wmBase + 2 ^ x.wmLog2 then { m with watch := 0 } else m)).filter (fun e => e.2 ≠ {}) } }

/-- The lowest far tag that no context holds (R205). -/
def freeTag (s : State) : Option Nat := (List.range 256).find? (fun t => s.sched.ctxs.all (fun e => e.2.farTag ≠ some t))

/-- CREATE (R337, R338). -/
def execCreate (ctx : Nat) (s : State) : Out :=
  .next (
    let at_ := rd s .TP_CTX_ARG_ADDR
    let a := myDev s * 2 ^ 40 + at_
    if at_ % 64 ≠ 0 || !isDeck s a || !dieUp s (homeDie (a / 64)) then ctxResult s 3 else
      let d := leNat (orderBytes s a 64)
      let n := bits d 0 16
      let x := ctxOf d
      if n ≠ ctx || n = 0 || n > 4095 || (getCtx s n).isSome then ctxResult s 2
      else if !descriptorOk d then ctxResult s 3
      else if !wmInside s x || s.sched.ctxs.any (fun e => e.2.st ≠ .dead && wmMeet x.wmBase x.wmLog2 e.2.wmBase e.2.wmLog2) then ctxResult s 6
      else if !x.farEn then ctxResult (setCtx (clearWatches s x) n x) 0
      else
        match freeTag s with
        | none => ctxResult s 4
        | some t =>
          let s := freshTag s t
          ctxResult (setCtx (clearWatches s x) n { x with farTag := some t }) 0)

/-- SUSPEND: every block of the context is pre-empted and no further work placed. -/
def execSuspend (ctx : Nat) (s : State) : Out :=
  .next (match getCtx s ctx with
    | none => ctxResult s 2
    | some x =>
      if x.st ≠ .ready then ctxResult s 5 else
        ctxResult (each (ctxCores s ctx) askPreempt (setCtx s ctx { x with st := .suspended })) 0)

/-- RESUME. -/
def execResume (ctx : Nat) (s : State) : Out :=
  .next (match getCtx s ctx with
    | none => ctxResult s 2
    | some x =>
      if x.st ≠ .suspended then ctxResult s 5 else
        let s := if runnable s ctx then raiseVt s ctx else s
        match getCtx s ctx with | some x => ctxResult (setCtx s ctx { x with st := .ready }) 0 | none => s)

/-- KILL (R338): the context is killed under R95 by the manager. -/
def execKill (ctx : Nat) (s : State) : Out :=
  .next (match getCtx s ctx with
    | none => ctxResult s 2
    | some x =>
      if x.st = .killing || x.st = .dead then ctxResult s 5 else ctxResult (setCtx s ctx { x with st := .killing, mgr := true }) 0)

/-- A ZERO descriptor with PHYS for a page, in the BULK class (R225, R363). -/
def zeroDesc (s : State) (n page : Nat) : State :=
  let ch := chanOf (page * 65536)
  putDesc s ch { id := 0, raw := BitVec.ofNat 512 (3 + 192 * 256 + page * 65536 * 2 ^ 128 + 65536 * 2 ^ 320), ctx := n, core := chanCore ch, turnpike := true }

/-- Have a page zeroed; until it is, it is given to no one (R225). -/
def zeroPage (s : State) (n page : Nat) : State := zeroDesc { s with deck := { s.deck with zeroing := s.deck.zeroing ++ [page] } } n page

/-- The pages that first touch gave a context go back (R225): zeroed by descriptors, or at once as they are. -/
def freePagesOf (s : State) (n : Nat) (zero : Bool) : State :=
  let mine := (s.deck.owner.filter (fun e => e.2 = n)).map (·.1)
  let s := { s with deck := { s.deck with owner := s.deck.owner.filter (fun e => e.2 ≠ n) } }
  each mine (fun s p => if zero then zeroPage s n p else pageFreed s p) s

/-- A context's number, far tag and pages are free (R338, R225). -/
def freeCtx (s : State) (n : Nat) (zero : Bool) : State :=
  let s := freePagesOf (dropTrans s n 0 (2 ^ 48)) n zero
  { s with sched := { s.sched with ctxs := s.sched.ctxs.del n } }

/-- DESTROY: of a DEAD context, or of a SUSPENDED one that holds no core, whose images are discarded (R338). -/
def execDestroy (ctx : Nat) (s : State) : Out :=
  .next (match getCtx s ctx with
    | none => ctxResult s 2
    | some x =>
      if x.st = .dead then ctxResult (freeCtx s ctx true) 0
      else if x.st = .suspended && (ctxCores s ctx).isEmpty then ctxResult (freeCtx (endContext s ctx x false 7 3) ctx true) 0
      else ctxResult s 5)

/-- SET_WEIGHT: from the next accounting period. -/
def execSetWeight (ctx weight : Nat) (s : State) : Out :=
  .next (match getCtx s ctx with
    | none => ctxResult s 2
    | some x => if weight = 0 || weight > 65535 then ctxResult s 3 else ctxResult (setCtx s ctx { x with nextWeight := some weight }) 0)

end Sys2Proof.Machine
end

