-- ==== Sys2Proof/Machine/Power.lean ====
section
/-! DEFINITION. Power control (chapter 16): current samples, ratios, budgets, code steps and grants, droop, hints and peak windows, convoy beacons and
pacing, and the broadcasts of R302 with the POWER messages of R398, R399. Log 87, DESIGN CHOICE (phase shedding), 88 (when a HINT command ends), 89 (the pair that
pacing chooses), 90 (a bound that the control loop lifts). -/

namespace Sys2Proof.Machine

/-- Whether a half's power control runs: the dies run, and the half answers. -/
def halfRuns (s : State) (h : Nat) : Bool := diesRun s && halfUp s h

/-! ### Current (R404, R411, R418) -/

/-- Ramp gates of a half that have not opened move one SPACING later (R418). -/
def delayGates (s : State) (h : Nat) : State :=
  { s with cores := s.cores.map (fun e =>
      if coreHalf e.1 = h && coreType e.1 = 1 && e.2.gate ≠ 0 && (e.2.gate > s.time.mst || shedding s)
      then (e.1, { e.2 with gate := e.2.gate + rd s .MX_RAMP_CTRL_SPACING h * 10 }) else e) }

/-- An HPC takes a 1 µs sample of its half's current, in A. -/
def execHpcSample (half amps : Nat) (s : State) : Out :=
  .next (if !halfRuns s half then s else
    let old := s.pow.samples.getD half []
    let rise : Bool := match old with | p :: _ => amps > p + 250 | [] => false
    let s := { s with pow := { s.pow with samples := s.pow.samples.put half ((amps :: old).take 100000) } }
    let s := if rise then delayGates (bumpSat s .PW_HALF_STATUS_DIDT half) half else s
    let avg := fun n => let (a, k) := currentSum s half n; min (divOpen a k) 2047
    let s := wr (wr (wr s .PW_HALF_STATUS_I_NOW half (min amps 2047)) .PW_HALF_STATUS_I_1MS half (avg 1000)) .PW_HALF_STATUS_I_100MS half (avg 100000)
    let s := if i1msAbove s half (rd s .PW_LIMIT_GRANT_PCT) 100 then { s with pow := { s.pow with above := s.pow.above.put half s.now } } else s
    let (ten, k) := currentSum s half 10
    let s := if amps > rd s .PW_LIMIT_TRIP_FAST || (k = 10 && ten * 10 > powBudget s half * 110) then fastStep s half else s
    -- phases (log 87, DESIGN CHOICE)
    let (f, s) := free s
    let all := !flag s .PW_HALF_CTRL_PHASE_SHED half || s.pow.heavy.contains half || f % 2 = 1
    syncPow (setFlag s .PW_HALF_STATUS_ALL_PHASES half all))

/-- The ratio goes back one step (R411, R413, R417). -/
def execRatioReturn (half : Nat) (s : State) : Out :=
  .next (if !halfRuns s half then s else
    let n1 := rd s .PW_HALF_STATUS_RATIO half
    let w := wantedN s half
    let since := fun t => match s.pow.ratioAt.get half with | some a => a + t ≤ s.now | none => true
    let down := fun (why : Raised) => syncPow (setRatio s half (n1 - 1) (if n1 - 1 ≤ w then none else some why))
    let level := rd s .KB_CTRL_LEVEL * 90
    if shedding s then
      if s.pow.watts > level then syncPow (fastStep s half)
      else if n1 > w && rd s .PW_DIE_STATUS_CODE (half / 2) = 0 && !flag s .PW_DIE_STATUS_TRANSITION (half / 2) &&
          s.pow.watts * 100 < level * 95 && since 10000 then syncPow (setRatio s half (n1 - 1) (some .shed)) else s
    else if n1 ≤ w then s
    else if s.pow.raised.get half = some .limit then
      let (a, k) := currentSum s half 1000
      if since 100000 && (k = 0 || a * 100 < powBudget s half * k * 90) then down .limit else s
    else if since 1000 then down .back else s)

/-- A write of PW_HALF_CTRL (R411, R428): a slower half at once, a faster one step by step; a threshold outside 20-80 mV is not taken. -/
def execReqRatioWrite (half : Nat) (v : W64) (s : State) : Out :=
  .next (
    let v := v.toNat
    let s := wr s .PW_HALF_CTRL_REQ_RATIO half (bits v 0 4)
    let s := if 20 ≤ bits v 8 8 && bits v 8 8 ≤ 80 then wr s .PW_HALF_CTRL_DROOP_MV half (bits v 8 8) else s
    let s := setFlag s .PW_HALF_CTRL_PHASE_SHED half (tb v 16)
    let w := wantedN s half
    let n1 := rd s .PW_HALF_STATUS_RATIO half
    syncPow (if w > n1 || (w = n1 && s.pow.raised.get half ≠ none) then setRatio s half w none
      else if w < n1 && s.pow.raised.get half = none then { s with pow := { s.pow with raised := s.pow.raised.put half .back } } else s))

/-- Every 100 µs the MC gives each half its budget (R410): the last average of input power in W and of input current in 0.1 A. -/
def execBudgetTick (watts deciAmps : Nat) (s : State) : Out :=
  .next (
    let s := { s with pow := { s.pow with watts := watts } }
    let lim := if flag s .PW_INPUT_PEAK_OPEN then 11000 else rd s .PW_INPUT_P_LIM
    let scale := fun b => min (if watts > lim then divOpen (b * lim) watts else b) (if deciAmps > 2500 then divOpen (b * 2500) deciAmps else b)
    each (List.range 8) (fun s h =>
      let b := powBudget s h
      let new := if watts > lim || deciAmps > 2500 then scale b else min (baseB s h) (b * 102 / 100)
      { s with pow := { s.pow with budget := if new = baseB s h then s.pow.budget.del h else s.pow.budget.put h new } }) s)

/-! ### Codes (R406-R408, R412) -/

/-- Halves of a die. -/
def dieHalves (d : Nat) : List Nat := [2 * d, 2 * d + 1]

/-- A die steward's step every 100 µs (R412, R417): down while a half is over its budget or slowed for a limit, else up toward the bounds. -/
def execCodeStep (die : Nat) (s : State) : Out :=
  .next (if !diesRun s || !dieUp s die || s.now < s.pow.stepAt.getD die 0 + 100000 || shedding s then s else
    let s := { s with pow := { s.pow with stepAt := s.pow.stepAt.put die s.now } }
    let code := rd s .PW_DIE_STATUS_CODE die
    let hs := dieHalves die
    if hs.any (fun h => i1msAbove s h 100 100 || (s.pow.raised.get h = some .limit && rd s .PW_HALF_STATUS_RATIO h > wantedN s h)) then
      if code = 0 then s else
        let s := { s with pow := { s.pow with cur := s.pow.cur.put die (code - 1, limitBit s), downAt := s.pow.downAt.put die s.now } }
        syncPow (bumpSat (settleDie s die) .PW_DIE_STATUS_STEPS_DOWN die)
    else if hs.all (fun h =>
        let (a, k) := currentSum s h 1000
        (k = 0 || a * 100 < powBudget s h * k * 95) && rd s .PW_HALF_STATUS_RATIO h ≤ wantedN s h) then
      -- the current bound lifts by one, and goes once it reaches another bound (log 90, DEDUCED)
      let s := match s.pow.cur.get die with
        | some (b, bit) =>
          let s1 := { s with pow := { s.pow with cur := s.pow.cur.del die } }
          if b + 1 ≥ boundOf s1 die then s1 else { s with pow := { s.pow with cur := s.pow.cur.put die (b + 1, bit) } }
        | none => s
      syncPow (if !flag s .PW_DIE_STATUS_TRANSITION die && code < allowedOf s die then raiseTo s die (code + 1) else s)
    else s)

/-- A code above 42 is granted one step (R408). -/
def execCodeGrant (die : Nat) (s : State) : Out :=
  .next (
    let code := rd s .PW_DIE_STATUS_CODE die
    let ago := fun (m : SMap Nat) (k t : Nat) => match m.get k with | some a => a + t ≤ s.now | none => true
    if !diesRun s || !dieUp s die || shedding s || code < 42 || boundOf s die ≤ code || flag s .PW_DIE_STATUS_TRANSITION die ||
        !(dieHalves die).all (fun h => ago s.pow.above h 1000000 && !i1msAbove s h (rd s .PW_LIMIT_GRANT_PCT) 100) ||
        !ago s.pow.downAt die 10000000 || !ago s.pow.grantAt die 100000 then s
    else syncPow (raiseTo { s with pow := { s.pow with grantAt := s.pow.grantAt.put die s.now } } die (code + 1)))

/-- A transition completes (R406); a raise that waited for it follows. -/
def execVfTransitionDone (die : Nat) (s : State) : Out :=
  .next (if !flag s .PW_DIE_STATUS_TRANSITION die then s else
    let t := s.pow.target.getD die (rd s .PW_DIE_STATUS_CODE die)
    let s := wr (putCode s die t) .PW_DIE_STATUS_TRANSITION die 0
    let wait := s.pow.wantReq.contains die
    let s := { s with pow := { s.pow with target := s.pow.target.del die, wantReq := s.pow.wantReq.filter (· ≠ die) } }
    syncPow (if wait then requestCode s die else settleDie s die))

/-- A write of PW_DIE_CTRL (R407, R428): codes 57-63 are not taken. -/
def execReqCodeWrite (die : Nat) (v : W64) (s : State) : Out :=
  .next (
    let req := bits v.toNat 0 6
    let trim := bits v.toNat 8 6
    let s := if trim ≤ 56 then wr s .PW_DIE_CTRL_TRIM_CEIL die trim else s
    if req ≤ 56 && req ≠ rd s .PW_DIE_CTRL_REQ_CODE die then syncPow (requestCode (wr s .PW_DIE_CTRL_REQ_CODE die req) die)
    else syncPow (settleDie s die))

/-- Every 10 ms the thermal ceiling falls by two codes while CEIL90 holds, and rises by one after it (R407). -/
def execThermalCeilStep (die : Nat) (s : State) : Out :=
  .next (
    let c := rd s .PW_DIE_STATUS_THERM_CEIL die
    let at_ := s.pow.thermAt.getD die s.now
    if s.now < at_ + 10000000 then s else
      let s := { s with pow := { s.pow with thermAt := s.pow.thermAt.put die (at_ + 10000000) } }
      if flag s .DK_TEMP_CEIL90 die then syncPow (settleDie (wr s .PW_DIE_STATUS_THERM_CEIL die (c - 2)) die)
      else if c < 56 then syncPow (wr s .PW_DIE_STATUS_THERM_CEIL die (c + 1)) else s)

/-! ### Droop (R414) -/

/-- A quadrant's detector trips: the half's clock stretches; the episode counts once. -/
def execDroopTrip (half quad : Nat) (s : State) : Out :=
  .next (
    let q := half * 8 + quad % 8
    if !halfRuns s half || s.pow.tripped.contains q then s else
      let s := { s with pow := { s.pow with tripped := q :: s.pow.tripped } }
      if (s.pow.stretch.get half).isSome then s
      else bumpSat { s with pow := { s.pow with stretch := s.pow.stretch.put half (cycles s half) } } .PW_HALF_STATUS_STRETCH half)

/-- The half has stretched for 256 cycles and a detector is still tripped: n rises by one. -/
def execStretchLimit (half : Nat) (s : State) : Out :=
  .next (match s.pow.stretch.get half with
    | some c => if c + 256 ≤ cycles s half then syncPow (fastStep { s with pow := { s.pow with stretch := s.pow.stretch.del half } } half) else s
    | none => s)

/-- The detectors of a half are clear: the episode ends. -/
def execDroopDetectorClear (half : Nat) (s : State) : Out :=
  .next { s with pow := { s.pow with stretch := s.pow.stretch.del half, tripped := s.pow.tripped.filter (fun q => q / 8 ≠ half) } }

/-! ### Hints (R415, R416) -/

/-- A HINT command starts: its work waits for the basis, and the command is done (log 88, DEDUCED). -/
def hintStart (r : CmdRef) (heavy : Bool) (s : State) : State :=
  begin_ s r (fun c => c.op = 5 && (c.fld 8 1 = 1) = !heavy) (fun s c _ =>
    let h : Hint := { heavy := heavy, halves := c.fld 9 1, basis := s.time.mst + c.fld 12 4 }
    finCmd { s with pow := { s.pow with hints := s.pow.hints.put s.pow.nextHint h, nextHint := s.pow.nextHint + 1 } } r 0 0)

def execHeavyHint (r : CmdRef) (s : State) : Out := .next (hintStart r true s)
def execLightHint (r : CmdRef) (s : State) : Out := .next (hintStart r false s)

/-- Halves named by a hint. -/
def Hint.list (h : Hint) : List Nat := (List.range 8).filter (fun k => tb h.halves k)

/-- Every phase of the hint's halves is enabled. -/
def enablePhases (s : State) (h : Hint) : State :=
  let s := each h.list (fun s k => wr s .PW_HALF_STATUS_ALL_PHASES k 1) s
  { s with pow := { s.pow with heavy := s.pow.heavy ++ h.list.filter (fun k => !s.pow.heavy.contains k) } }

/-- T − 20 µs of a HEAVY hint. -/
def execHintPhaseEnable (hint : Nat) (s : State) : Out :=
  .next (match s.pow.hints.get hint with
    | some h => if !h.heavy || h.phased || s.time.mst + 20000 < h.basis then s
      else enablePhases { s with pow := { s.pow with hints := s.pow.hints.put hint { h with phased := true } } } h
    | none => s)

/-- A half opens a peak window, if R416 allows it. -/
def openPeak (s : State) (k : Nat) : State :=
  if flag s .PW_HALF_STATUS_PEAK k then s
  else if pLimit s ≠ 9000 || shedding s || flag s .PW_INPUT_RECOVERY then bumpSat s .PW_INPUT_PEAK_DENIED
  else
    let s := bumpSat (wr s .PW_HALF_STATUS_PEAK k 1) .PW_INPUT_PEAK_COUNT
    { s with pow := { s.pow with budget := s.pow.budget.del k, peakSince := some (s.pow.peakSince.getD s.now) } }

/-- The basis of a hint (R415): windows and gates for HEAVY; for LIGHT the windows close and phases may be shed. -/
def execHintBasis (hint : Nat) (s : State) : Out :=
  .next (match s.pow.hints.get hint with
    | some h =>
      if s.time.mst < h.basis then s else
        let s := { s with pow := { s.pow with hints := s.pow.hints.del hint } }
        syncPow (if h.heavy then gateHalves (each h.list openPeak (enablePhases s h)) h.list h.basis
          else
            let s := each h.list closePeak s
            { s with pow := { s.pow with heavy := s.pow.heavy.filter (fun k => !h.list.contains k) } })
    | none => s)

/-- Ten milliseconds after the first half opened it, the window closes (R416). -/
def execPeakWindowExpiry (s : State) : Out :=
  .next (match s.pow.peakSince with
    | some t => if t + 10000000 ≤ s.now then syncPow (each (List.range 8) closePeak s) else s
    | none => s)

/-- Ninety milliseconds of peak recovery (R416). -/
def execPeakRecoveryEnd (s : State) : Out :=
  .next (match s.pow.recovery with
    | some t => if t + 90000000 ≤ s.now then wr0 { s with pow := { s.pow with recovery := none } } .PW_INPUT_RECOVERY 0 else s
    | none => s)

/-! ### Broadcasts (R302) -/

/-- Ports named by a mask. -/
def maskPorts (m : Nat) : List Nat := (List.range 8).filter (fun p => tb m p)

/-- Whether a sequence number is newer than the last taken from its source: an empty or lapsed number is below every other. -/
def bcastNewer (s : State) (src seq : Nat) : Bool :=
  match s.link.bcast.get src with
  | none => true
  | some (l, t) => t + 1000000000 ≤ s.time.mst || (1 ≤ (seq + 65536 - l) % 65536 && (seq + 65536 - l) % 65536 ≤ 32767)

/-- A received broadcast (R302), whose source and payload are those given: discarded, or taken and forwarded; whether it goes to this device's MC. -/
def takeBcast (s : State) (b : Bcast) (op body : Nat) : Bool × State :=
  match takeIn s b.port (fun m => m.op = op && m.src = b.src && m.data.toNat = body) with
  | none => (false, s)
  | some (m, s) =>
    let s := freeSlots s b.port m
    if !bcastNewer s b.src b.seq then (false, s) else
    let s := { s with link := { s.link with bcast := s.link.bcast.put b.src (b.seq, s.time.mst) } }
    let s := each (maskPorts (rd s .LK_CONVOY_FWD b.port)) (fun s p => (portPut s p { m with sub := 0 }).2) s
    (flag s .LK_CONVOY_LOCAL b.port && b.convoy = rd s .LK_BCAST_CONVOY, s)

/-- The number stored for a source lapses after 1 s. -/
def execBroadcastLapse (src : Nat) (s : State) : Out :=
  .next (match s.link.bcast.get src with
    | some (_, t) => if t + 1000000000 ≤ s.time.mst then { s with link := { s.link with bcast := s.link.bcast.del src } } else s
    | none => s)

/-- A message of this device's own broadcast sequence goes out on the ports of LK_BCAST.ORIG. -/
def sendOwn (s : State) (op : Nat) (body : List Byte) : State :=
  let d := leNat (natLe 2 s.link.ownSeq ++ natLe 1 (rd s .LK_BCAST_CONVOY) ++ natLe 1 1 ++ body)
  let m : LMsg := { op := op, dest := 0, src := rd s .LK_DEVNUM_DEV, data := BitVec.ofNat 512 d }
  let s := { s with link := { s.link with ownSeq := (s.link.ownSeq + 1) % 65536 } }
  each (maskPorts (rd s .LK_BCAST_ORIG)) (fun s p => (portPut s p m).2) s

/-! ### Pacing (R419-R423) -/

/-- Pace of a half in kHz (R419; log 77, DESIGN CHOICE). -/
def halfPace (s : State) (h : Nat) : Nat := divOpen (codeMhz (rd s .PW_DIE_STATUS_CODE (h / 2)) * 1000) (rd s .PW_HALF_STATUS_RATIO h + 1)

/-- The half of lowest clock among those of dies that run. -/
def slowHalf (s : State) : Nat :=
  ((List.range 8).filter (fun h => halfUp s h)).foldl (fun a h => if halfPace s h < halfPace s a then h else a)
    (((List.range 8).find? (fun h => halfUp s h)).getD 0)

/-- The slowest member (R421): the THROTTLED current beacon of lowest pace, this device's own state among them. -/
def slowest (s : State) : Option (Nat × Nat) :=
  let own := if flag s .PW_CONVOY_STATUS_THROTTLED then [(rd s .LK_DEVNUM_DEV, halfPace s (slowHalf s))] else []
  let life := rd s .PW_CONVOY_CTRL_STALE * rd s .PW_CONVOY_CTRL_PERIOD * 10000
  let l := own ++ (s.pow.beacons.filter (fun e => e.2.throttled && s.now < e.2.at_ + life && e.1 ≠ rd s .LK_DEVNUM_DEV)).map (fun e => (e.1, e.2.pace))
  l.foldl (fun (a : Option (Nat × Nat)) e => match a with
    | none => some e
    | some b => if e.2 < b.2 || (e.2 = b.2 && e.1 < b.1) then some e else some b) none

/-- The pair of code and n that gives a die the highest clock at or below 1.02 × a pace (R422), among the codes that its own bounds allow (log 89, DEDUCED). -/
def pacePair (s : State) (d pace : Nat) : Nat × Nat :=
  let top := let m := min (rd s .PW_DIE_CTRL_REQ_CODE d) (ownCeil s d)
             if m > 42 then min m (max 42 (rd s .PW_DIE_STATUS_CODE d)) else m
  let ok := fun (c n : Nat) => codeMhz c * 100000 ≤ pace * 102 * n
  ((List.range 16).flatMap (fun n => (List.range (top + 1)).map (fun c => (c, n + 1)))).foldl (fun (a : Nat × Nat) e =>
    if ok e.1 e.2 && (!ok a.1 a.2 || codeMhz e.1 * a.2 > codeMhz a.1 * e.2) then e else a) (0, 16)

/-- Bring the slowest member, the record of lost time and the pacing ceilings up to date. -/
def paceUpdate (s : State) : State :=
  let m := slowest s
  let s := match m with
    | none => wr0 s .PW_CONVOY_STATUS_SLOW_VALID 0
    | some (dev, pace) =>
      let s := if dev = rd s .PW_CONVOY_STATUS_SLOW_DEV then s else
        let s := wr0 s .PW_CONVOY_PREV_DEV (rd s .PW_CONVOY_STATUS_SLOW_DEV)
        wr0 (wr0 s .PW_CONVOY_PREV_NS (min (rd s .PW_CONVOY_WAIT_NS) (2 ^ 48 - 1))) .PW_CONVOY_WAIT_NS 0
      wr0 (wr0 (wr0 s .PW_CONVOY_STATUS_SLOW_VALID 1) .PW_CONVOY_STATUS_SLOW_DEV dev) .PW_CONVOY_STATUS_SLOW_PACE pace
  let s := each (List.range 4) (fun s d =>
    let (c, n1) := match m with
      | some (_, pace) =>
        if !flag s .PW_CONVOY_CTRL_PACE_EN then (56, 0) else
          let (c, n) := pacePair s d pace
          let top := min (rd s .PW_DIE_CTRL_REQ_CODE d) (ownCeil s d)
          (if c < top then c else 56, n - 1)
      | none => (56, 0)
    let s := wr { s with pow := { s.pow with paceN := s.pow.paceN.set d 0 n1 } } .PW_DIE_STATUS_PACE_CEIL d c
    let s := each (dieHalves d) (fun s h => if wantedN s h > rd s .PW_HALF_STATUS_RATIO h then setRatio s h (wantedN s h) none else s) s
    settleDie s d) s
  syncPow s

/-- The payload of a beacon as it is forwarded (R419). -/
def beaconBytes (p : BeaconBody) : List Byte :=
  natLe 1 (p.throttled.toNat + 2 * p.paced.toNat + 4 * p.shed.toNat) ++ natLe 1 p.cause ++ natLe 1 p.code ++ natLe 1 p.ratio ++ natLe 4 p.paceKhz ++ natLe 4 0

/-- A beacon arrives (R302, R421). -/
def execBeacon (b : Bcast) (p : BeaconBody) (s : State) : Out :=
  .next (
    match takeBcast s b 0x61 (leNat (natLe 2 b.seq ++ natLe 1 b.convoy ++ natLe 1 1 ++ beaconBytes p)) with
    | (true, s) => paceUpdate { s with pow := { s.pow with beacons := s.pow.beacons.put b.src { pace := p.paceKhz, throttled := p.throttled, at_ := s.now } } }
    | (false, s) => s)

/-- The device's own beacon (R419). -/
def execBeaconSend (s : State) : Out :=
  .next (if !flag s .PW_CONVOY_CTRL_BEACON_EN || s.now < s.pow.beaconAt + rd s .PW_CONVOY_CTRL_PERIOD * 10000 then s else
    let h := slowHalf s
    let cause := (List.range 4).foldl (fun a d => a ||| rd s .PW_DIE_STATUS_CAUSE d) 0
    let p : BeaconBody := { throttled := flag s .PW_CONVOY_STATUS_THROTTLED, paced := flag s .PW_CONVOY_STATUS_PACED, shed := flag s .KB_STATUS_SHED,
                            cause := cause, code := rd s .PW_DIE_STATUS_CODE (h / 2), ratio := rd s .PW_HALF_STATUS_RATIO h, paceKhz := halfPace s h }
    paceUpdate (sendOwn { s with pow := { s.pow with beaconAt := s.now } } 0x61 (beaconBytes p)))

/-- A beacon is no longer current (R421). -/
def execBeaconStale (dev : Nat) (s : State) : Out :=
  .next (match s.pow.beacons.get dev with
    | some r =>
      if r.at_ + rd s .PW_CONVOY_CTRL_STALE * rd s .PW_CONVOY_CTRL_PERIOD * 10000 ≤ s.now then
        paceUpdate { s with pow := { s.pow with beacons := s.pow.beacons.del dev } } else s
    | none => s)

/-! ### POWER (R398, R399) -/

/-- The payload of a POWER message. -/
def powerBytes (cap : Nat) (offset : Int) (apply : Nat) : List Byte := natLe 2 cap ++ natLe 2 (wrap 16 offset) ++ natLe 8 apply

/-- A POWER broadcast arrives: a follower takes its leader's (R399). -/
def execPowerBroadcast (b : Bcast) (p : PowerBody) (s : State) : Out :=
  .next (
    let d := leNat (natLe 2 b.seq ++ natLe 1 b.convoy ++ natLe 1 1 ++ powerBytes p.capPm p.offset p.applyMst)
    match takeBcast s b 0x62 d with
    | (false, s) => s
    | (true, s) =>
      if rd s .FR_CTRL_MODE ≠ 3 || b.src ≠ rd s .FR_CTRL_LEADER then s else
        let s := wr0 { s with sup := { s.sup with heard := s.time.mst } } .FR_STATUS_LEADER_LOST 0
        if p.applyMst < mstNow s then
          bumpSat (frStep (retarget { s with sup := { s.sup with leadCap := p.capPm } })) .FR_STATUS_LATE
        else retarget { s with sup := { s.sup with applyQ := s.sup.applyQ ++ [(p.applyMst, p.capPm)] } })

/-- A leader sends POWER: at a change of its cap, at its positive zero crossing, or every 20 ms of MST without mains (R398, log 83, DEDUCED). -/
def execPowerSend (s : State) : Out :=
  .next (
    let lock := flag s .MAINS_MEAS_VALID
    let late := !lock && s.sup.sent + 20000000 ≤ s.time.mst
    if rd s .FR_CTRL_MODE ≠ 2 || !(s.sup.sendDue || late) then s else
      let at_ := if s.sup.sendDue then s.sup.computedAt else s.time.mst
      let off : Int := if lock then (rd s .MAINS_MEAS_AVG : Int) - rd s .FR_CTRL_NOMINAL else -32768
      let s := { s with sup := { s.sup with sendDue := false, sent := s.time.mst, computedAt := at_ } }
      sendOwn s 0x62 (powerBytes s.sup.computed off (at_ + rd s .FR_CTRL_LEAD * 1000)))

end Sys2Proof.Machine
end

