-- ==== Sys2Proof/Machine/Milestone.lean ====
section
/-! DEFINITION. The milestone table (R38-R50): arming with its checks, disarming, firing, repeats, the actions and snapshot records. Log 91, DEDUCED (a
refused arming captures ARM_MST; a target in a die in reset). -/

namespace Sys2Proof.Machine

/-! ### Arming (R39) -/

/-- Bytes of a snapshot record (R50, R344). -/
def snapSize (owner set : Nat) : Nat :=
  64 + (if tb set 0 then 64 else 0) + (if tb set 1 then 64 else 0) + (if tb set 2 then (if owner = 0 then 4160 else 64) else 0) + (if tb set 3 then 64 else 0)

/-- Whether the ACTION and ARG fields keep to the action table (R47). -/
def actionOk (owner action a b : Nat) : Bool :=
  match action with
  | 0 => a = 0 && b = 0
  | 1 => bits a 12 4 = 0 && b = 0
  | 2 => bits a 0 6 ≤ 56 && bits a 6 2 = 0 && bits a 12 52 = 0 && b = 0
  | 3 => bits a 4 8 ≠ 0 && bits a 12 4 = 0 && bits a 24 8 = 0 && b = 0
  | 4 => bits a 0 10 < 832 && coreType (bits a 0 10) = 3 && bits a 13 51 = 0 && bits b 32 32 = 0
  | 5 => bits a 4 60 = 0 && b % 64 = 0 && b + snapSize owner a ≤ deckBytes
  | 6 => bits a 8 8 = 0 && bits a 32 32 = 0 && b = 0
  | 7 => bits a 8 56 = 0 && b = 0
  | _ => false

/-- Whether a waymark is an instance's (R368). -/
def wmOwned (s : State) (inst w : Nat) : Bool :=
  rd s .IN_WM_BASE inst ≤ w && w < rd s .IN_WM_BASE inst + 2 ^ rd s .IN_WM_LOG2 inst

/-- Whether a record lies in one OWNED unit of an instance. -/
def unitHolds (s : State) (inst a n : Nat) : Bool := unitOf s a = (inst, 1) && a / 2 ^ 30 = (a + n - 1) / 2 ^ 30

/-- Whether an instance holds the waymark, core or unit that an action names (R39). -/
def targetHeld (s : State) (owner action a b : Nat) : Bool :=
  owner = 0 || (match action with
    | 1 => wmOwned s owner (bits a 0 12)
    | 4 => inCores s owner (bits a 0 10)
    | 5 => unitHolds s owner b (snapSize owner a)
    | _ => true)

/-- What an instance may arm (R39). -/
def ownerMay (s : State) (owner action a b : Nat) : Bool :=
  owner = 0 || (action ≠ 2 && action ≠ 6 && action ≠ 7 && targetHeld s owner action a b &&
    (action ≠ 3 || (List.range 8).all (fun h => !tb a (16 + h) ||
      (List.range 64).any (fun i => inCores s owner (h * 104 + i)))))

/-- The W1C flags of MT_CTRL that a write clears. -/
def mtFlags : List Fld :=
  [.MT_CTRL_FIRED, .MT_CTRL_LATE, .MT_CTRL_SUPPRESSED, .MT_CTRL_FENCED, .MT_CTRL_CLAMPED, .MT_CTRL_NO_MAINS, .MT_CTRL_FLYWHEEL, .MT_CTRL_ARM_ERR]

def mtClear (s : State) (n v : Nat) : State :=
  each (mtFlags.zipIdx) (fun s f => if tb v (24 + f.2) then wr s f.1 n 0 else s) s

/-- Whether a write would change a field that an armed entry keeps. -/
def mtChanges (s : State) (n v : Nat) : Bool :=
  bits v 1 1 ≠ rd s .MT_CTRL_KIND n || bits v 2 1 ≠ rd s .MT_CTRL_REPEAT n || bits v 4 4 ≠ rd s .MT_CTRL_ACTION n || bits v 32 32 ≠ rd s .MT_CTRL_PERIOD n

/-- Give an entry that is not armed its fields. -/
def mtFields (s : State) (n v : Nat) : State :=
  wr (wr (wr (wr s .MT_CTRL_KIND n (bits v 1 1)) .MT_CTRL_REPEAT n (bits v 2 1)) .MT_CTRL_ACTION n (bits v 4 4)) .MT_CTRL_PERIOD n (bits v 32 32)

/-- An entry is disarmed: it fires no further. -/
def mtOff (s : State) (n : Nat) : State :=
  let t := s.time
  wr { s with time := { t with due := t.due.del n, basis := t.basis.del n, skip := t.skip.del n, disarm := t.disarm.filter (· ≠ n) } } .MT_CTRL_ARMED n 0

/-- Arm a checked entry: its basis (R38, R40, R44); one that fires at once falls due. -/
def mtSchedule (s : State) (n : Nat) : State :=
  let t := rd s .MT_TIME_TIME n
  let soon := s.time.mst + 2000
  let put := fun (s : State) (b : Nat) => { s with time := { s.time with basis := s.time.basis.put n b, skip := s.time.skip.put n 0 } }
  if !flag s .MT_CTRL_KIND n then
    let s := put s t
    if t < soon then markDue s n true false s.time.mst else s
  else
    let s := put s (max t soon)
    if !flag s .MAINS_STATUS_VALID then markDue s n true true s.time.mst else s

/-- A write of ARMED = 1 to an entry that is not armed. -/
def mtArmNew (s : State) (n v owner : Nat) : State :=
  let s := wr (mtFields s n v) .MT_ARM_MST_ARM_MST n (mstNow s)
  let a := rd s .MT_ARG0_ARG n
  let b := rd s .MT_ARG1_ARG n
  let act := bits v 4 4
  if actionOk owner act a b && !(tb v 2 && bits v 32 32 = 0) && ownerMay s owner act a b then
    mtSchedule (wr (wr s .MT_CTRL_ARMED n 1) .MT_CTRL_OWNER n owner) n
  else wr s .MT_CTRL_ARM_ERR n 1

/-- How far an angle entry's crossing lies ahead is at least 2,000 ns: the crossings to come are predicted at the running frequency. -/
def angleFar (s : State) (n e : Nat) : Bool :=
  let full := cyclePh * 2 ^ 32
  let d := (rd s .MT_ANGLE_ANGLE n * cyclePh + full - s.time.phase * 2 ^ 32) % full
  let d := if d = 0 then full else d
  let per := s.time.mhz * 2 ^ 32
  let wait := e - s.time.mst
  -- crossings that come too soon or are passed over
  let early := if wait * per ≤ d then 0 else (wait * per - d + full - 1) / full
  let k := max early (s.time.skip.getD n 0)
  2000 * per ≤ d + k * full

/-- Whether a write of ARMED = 0 comes in time (R43). -/
def disarmInTime (s : State) (n : Nat) : Bool :=
  (s.time.due.get n).isNone && (match s.time.basis.get n with
    | none => true
    | some e => if flag s .MT_CTRL_KIND n then angleFar s n e else s.time.mst + 2000 ≤ e)

/-! ### Actions (R47-R49) -/

/-- Set a flag of an entry's MT_CTRL. -/
def setMt (s : State) (f : Fld) (n : Nat) : State := wr s f n 1

/-- A die that an action names is in reset: by itself, or because the device has not booted. -/
def dieDown (s : State) (d : Nat) : Bool := !diesRun s || s.die.down.contains d || s.die.dead.contains d

/-- The counters of an instance, 64 bytes (R344). -/
def tollRecord (s : State) (inst : Nat) : List Byte := (s.sched.instTolls.getD inst [0, 0, 0, 0, 0, 0, 0, 0]).flatMap (natLe 8)

/-- The thermal record (R426). -/
def thermalRecord (s : State) : List Byte :=
  (List.range 4).flatMap (fun d =>
    natLe 1 (rd s .DK_TEMP_MAX d) ++ natLe 1 (rd s .PW_DIE_STATUS_CODE d) ++ natLe 1 (ceilOf s d) ++ natLe 1 (rd s .PW_DIE_STATUS_CAUSE d) ++
      natLe 1 (rd s .PW_HALF_STATUS_RATIO (2 * d)) ++ natLe 1 (rd s .PW_HALF_STATUS_RATIO (2 * d + 1)) ++
      natLe 2 (rd s .PW_HALF_STATUS_I_1MS (2 * d)) ++ natLe 2 (rd s .PW_HALF_STATUS_I_1MS (2 * d + 1)) ++ natLe 6 0)

/-- A snapshot record (R50): the header, then the set's records in the order of its bits. -/
def snapRecord (s : State) (n owner set : Nat) : List Byte :=
  let s := each s.cores.keys settle_ s
  natLe 8 (mstNow s) ++ natLe 2 n ++ natLe 1 set ++ natLe 53 0 ++
    (if tb set 0 then supplyRecord s else []) ++ (if tb set 1 then thermalRecord s else []) ++
    (if tb set 2 then (if owner = 0 then (List.range 65).flatMap (tollRecord s) else tollRecord s owner) else []) ++
    (if tb set 3 then (countShed s).sup.sum.bytes else [])

/-- Write a snapshot record to its local address. -/
def putSnap (s : State) (a : Nat) (b : List Byte) : State := orderWriteBytes s (myDev s * 2 ^ 40 + a) b turnpikeWriter

/-- APPLY_VF for one die (R47, R48). -/
def applyVf (s : State) (n code d : Nat) : State :=
  if dieDown s d then setMt s .MT_CTRL_FENCED n else
    let s := wr s .PW_DIE_CTRL_REQ_CODE d code
    let s := if shedding s || allowedOf s d < code then setMt s .MT_CTRL_CLAMPED n else s
    syncPow (requestCode s d)

/-- What an action does outside Hold and Watch, with its basis. -/
def mtAct (s : State) (n basis : Nat) : State :=
  let owner := rd s .MT_CTRL_OWNER n
  let act := rd s .MT_CTRL_ACTION n
  let a := rd s .MT_ARG0_ARG n
  let b := rd s .MT_ARG1_ARG n
  let fenced := setMt s .MT_CTRL_FENCED n
  if !targetHeld s owner act a b then fenced else
    match act with
    | 1 =>
      let w := bits a 0 12
      if dieDown s (w / 1024) then fenced
      else if bits a 16 16 = 0 then s
      else sendWm s { kind := .add, wm := w, half := 8, count := BitVec.ofNat 32 (bits a 16 16), abs := some (BitVec.ofNat 64 (basis + bits a 32 32)) }
    | 2 => each ((List.range 4).filter (fun d => tb a (8 + d))) (fun s d => applyVf s n (bits a 0 6) d) s
    | 3 =>
      let hs := (List.range 8).filter (fun h => tb a (16 + h))
      let up := hs.filter (fun h => !dieDown s (h / 2))
      let s := if up.length < hs.length then fenced else s
      let s := if shedding s then setMt s .MT_CTRL_CLAMPED n else s
      let halves := up.foldl (fun (m : BitVec 8) h => m ||| bit 8 h) 0
      if halves = 0 then s else
        let ev : GateEv := { halves := halves, mst := basis + bits a 32 32, spacing := bits a 4 8 * 10, lanes := bits a 0 4 + 1, owner := owner }
        { s with wm := { s.wm with gates := s.wm.gates ++ [ev] } }
    | 4 =>
      let c := bits a 0 10
      if !coreLive s c || (getCore s c).gated || dieDown s (coreDie c) then fenced else
        let g : Grp := { core := c, pipe := 0, slot := bits a 10 3 }
        (match getGroup s g with
         | some x => retest (setGroup s g { x with signal := BitVec.ofNat 32 b }) g
         | none => s)
    | 5 => if dieDown s (b / dieBytes) || dieDown s ((b + snapSize owner a - 1) / dieBytes) then fenced else putSnap s b (snapRecord s n owner a)
    | 6 =>
      let hs := (List.range 8).filter (fun h => tb a h)
      let up := hs.filter (fun h => !dieDown s (h / 2))
      let s := if up.length < hs.length then fenced else s
      if bits a 16 16 = 0 then s else
        each up (fun s h => { s with deck := { s.deck with wins := s.deck.wins.put h { until_ := s.now + bits a 16 16 * 1000 } } }) s
    | 7 =>
      let hs := (List.range 8).filter (fun h => tb a h)
      let up := hs.filter (fun h => !dieDown s (h / 2))
      let s := if up.length < hs.length then fenced else s
      each up closeWindow s
    | _ => s

/-- The dies that an action names. -/
def actDies (owner act a b : Nat) : List Nat :=
  match act with
  | 1 => [bits a 0 12 / 1024]
  | 2 => (List.range 4).filter (fun d => tb a (8 + d))
  | 3 => (List.range 4).filter (fun d => bits a (16 + 2 * d) 2 ≠ 0)
  | 4 => [coreDie (bits a 0 10)]
  | 5 => [b / dieBytes, (b + snapSize owner a - 1) / dieBytes]
  | 6 | 7 => (List.range 4).filter (fun d => bits a (2 * d) 2 ≠ 0)
  | _ => []

/-- A die held in reset by its own loss or reset, whatever the power state. -/
def dieHeldDown (s : State) (d : Nat) : Bool := s.die.down.contains d || s.die.dead.contains d

/-- What an action does in Hold and Watch (R49). What an instance no longer holds, a die held in reset and a fenced core stop it there too, with FENCED (R39). -/
def mtActAsleep (s : State) (n : Nat) : State :=
  let act := rd s .MT_CTRL_ACTION n
  let owner := rd s .MT_CTRL_OWNER n
  let a := rd s .MT_ARG0_ARG n
  let b := rd s .MT_ARG1_ARG n
  let stop := !targetHeld s owner act a b || (actDies owner act a b).any (dieHeldDown s) || (act = 4 && !coreLive s (bits a 0 10))
  let s := if stop then setMt s .MT_CTRL_FENCED n else s
  if act = 0 then s
  else if act = 5 && a = 1 then
    if stop then s
    else if s.time.snaps.length < 64 then
      { s with time := { s.time with snaps := s.time.snaps ++ [(b, snapRecord s n owner a)] } }
    else setMt s .MT_CTRL_SUPPRESSED n
  else setMt s .MT_CTRL_SUPPRESSED n

/-! ### Firing (R41, R42, R44) -/

/-- The next scheduled basis of a repeating entry, and the catch-up when some have passed (R42). -/
def mtRepeat (s : State) (n : Nat) (noMains : Bool) : State :=
  let p := rd s .MT_CTRL_PERIOD n
  let t := s.time
  if flag s .MT_CTRL_KIND n then
    if noMains then
      let s := { s with time := { t with basis := t.basis.del n, skip := t.skip.del n } }
      if flag s .MAINS_STATUS_VALID then
        { s with time := { s.time with basis := s.time.basis.put n (max (rd s .MT_TIME_TIME n) (t.mst + 2000)), skip := s.time.skip.put n 0 } }
      else s
    else
      let c := t.skip.getD n 0
      if c < p then { s with time := { t with skip := t.skip.put n (p - 1 - c), basis := t.basis.put n 0 } }
      else
        let s := bumpSat s .MT_CTRL_MISSED n (c / p - 1)
        let s := markDue s n true false t.mst
        { s with time := { s.time with skip := s.time.skip.put n (c % p) } }
  else
    let next := t.basis.getD n 0 + p
    if t.mst < next then { s with time := { t with basis := t.basis.put n next } }
    else
      let k := (t.mst - next) / p
      let s := bumpSat s .MT_CTRL_MISSED n k
      markDue { s with time := { t with basis := t.basis.put n (next + k * p) } } n true false t.mst

/-- An entry that is due acts. -/
def fireEntry (s : State) (n : Nat) : State :=
  match s.time.due.get n with
  | none => s
  | some d =>
    let s := { s with time := { s.time with due := s.time.due.del n } }
    let s := wr (setMt s .MT_CTRL_FIRED n) .MT_FIRE_MST_FIRE_MST n d.at_
    let s := if d.late then setMt s .MT_CTRL_LATE n else s
    let s := if d.noMains then setMt s .MT_CTRL_NO_MAINS n else s
    let s := if d.fly then setMt s .MT_CTRL_FLYWHEEL n else s
    let s := if rd s .PS_STATUS_STATE = 3 || rd s .PS_STATUS_STATE = 4 then mtActAsleep s n else mtAct s n d.at_
    if s.time.disarm.contains n || !flag s .MT_CTRL_REPEAT n then mtOff s n else mtRepeat s n d.noMains

/-- Whether another entry comes first: one due in the same instant with a lower number (R41). -/
def dueBefore (s : State) (n : Nat) : Bool :=
  match s.time.due.get n with
  | none => false
  | some d => s.time.due.any (fun e => e.2.at_ = d.at_ && e.1 < n)

/-- An entry that is due acts, unless one due in the same instant comes first: then it stays due. -/
def fireInTurn (s : State) (n : Nat) : State := if dueBefore s n then s else fireEntry s n

/-- A write of ARMED = 1 (R39): of an entry that is armed, field by field; else the entry's fields, the checks, and the arming. An entry that is to
fire at once does so here, but after the lower-numbered ones that are due in the same instant. -/
def execMtArm (entry : Nat) (v : W64) (owner : Nat) (s : State) : Out :=
  .next (
    let v := v.toNat
    if entry ≥ 256 || owner > 64 || !tb v 0 then s else
      let s := mtClear s entry v
      if flag s .MT_CTRL_ARMED entry then (if mtChanges s entry v then wr s .MT_CTRL_ARM_ERR entry 1 else s)
      else fireInTurn (mtArmNew s entry v owner) entry)

/-- A write of ARMED = 0 (R43). -/
def execMtDisarm (entry : Nat) (v : W64) (s : State) : Out :=
  .next (
    let v := v.toNat
    if entry ≥ 256 || tb v 0 then s else
      let s := mtClear s entry v
      if !flag s .MT_CTRL_ARMED entry then mtFields s entry v else
        let s := if mtChanges s entry v then wr s .MT_CTRL_ARM_ERR entry 1 else s
        if disarmInTime s entry then mtOff s entry
        else { s with time := { s.time with disarm := s.time.disarm.filter (· ≠ entry) ++ [entry] } })

/-- An entry that is due is dispatched: of those due in one instant the lowest number first (R41). -/
def execMtFire (entry : Nat) (s : State) : Out :=
  .next (fireInTurn s entry)

end Sys2Proof.Machine
end

