-- ==== Sys2Proof/Machine/Instances.lean ====
section
/-! DEFINITION. Instances (R357-R374): the commands of the instance block but for the blob's, units and their scrub, cores, the reset in its six steps,
the freeze, and the end of a kill (R95 steps 5 and 6). Log 92, DEDUCED (RESULT of cases without one), 93 (DISABLE during a reset, what DISABLE leaves
unscrubbed), 94 (images in a unit of instance 0), 95 (the blob key and a function-level reset), 96 (the state that a FREEZE in progress shows), 97 (records
of a squash), 98 (ENABLE's scrub). -/

namespace Sys2Proof.Machine

/-! ### Commands (R358) -/

/-- Who may write the instance block: the MC, and the PF of the attachment that carries the instance. -/
def instWriter (s : State) (who : Who) (n : Nat) : Bool :=
  match who with
  | .mc => true
  | .pf att => att = fnAtt (instFn s n)
  | _ => false

def instState (s : State) (n : Nat) : Nat := rd s .IN_STATUS_STATE n

def setInst (s : State) (n st : Nat) : State := wr s .IN_STATUS_STATE n st

def instX (s : State) (n : Nat) : InstX := s.inst.x.getD n {}

def setInstX (s : State) (n : Nat) (x : InstX) : State := { s with inst := { s.inst with x := s.inst.x.set n {} x } }

/-- A command ends with a RESULT. -/
def inResult (s : State) (n code : Nat) : State := wr (wr s .IN_RESULT_RESULT n code) .IN_RESULT_BUSY n 0

/-- A command goes on. -/
def inBusy (s : State) (n : Nat) : State := wr (wr s .IN_RESULT_RESULT n 1) .IN_RESULT_BUSY n 1

/-- A command of the block: ignored while BUSY, wrong state outside the states allowed (R358); `zero` tells whether instance 0 allows it. -/
def instCmd (s : State) (who : Who) (n : Nat) (states : List Nat) (zero : Bool) (body : State → State) : State :=
  if n > 64 || !instWriter s who n || flag s .IN_RESULT_BUSY n then s
  else if (if n = 0 then zero else states.contains (instState s n)) then body s
  else inResult s n 2

/-! ### Units (R362-R365) -/

/-- Units that an instance holds in one of some states, lowest first. -/
def unitsIn (s : State) (n : Nat) (sts : List Nat) : List Nat :=
  (List.range 384).filter (fun u => rd s .IN_UNIT_DATA_OWNER u = n && sts.contains (rd s .IN_UNIT_DATA_STATE u))

/-- Units held, POOL included, and those that a scrub of the instance's own holds. -/
def countUnits (s : State) (n : Nat) : State :=
  wr s .IN_STATUS_UNITS n ((unitsIn s n [1, 3]).length + ((unitsIn s n [2]).filter (fun u => (s.inst.keep.get u).isSome)).length)

def setUnit (s : State) (u owner st : Nat) : State := wr (wr s .IN_UNIT_DATA_OWNER u owner) .IN_UNIT_DATA_STATE u st

/-- Start a unit's scrub; afterwards it is in state `then_`, FREE for 0. -/
def startScrub (s : State) (u owner then_ : Nat) : State :=
  let s := setUnit s u owner 2
  { s with inst := { s.inst with scrubs := s.inst.scrubs ++ [u], keep := s.inst.keep.set u 0 then_ } }

/-- ADD_UNIT (R362, R365). -/
def execAddUnit (who : Who) (n unit : Nat) (s : State) : Out :=
  .next (instCmd s who n [0, 1, 5] true (fun s =>
    if unit ≥ 384 || rd s .IN_UNIT_DATA_STATE unit ≠ 0 then inResult s n 3 else
      let pool := n = 0 && (unitsIn s 0 [3]).length < rd s .PS_CFG_POOL0_GIB
      inResult (countUnits (setUnit s unit n (if pool then 3 else 1)) n) n 0))

/-- Pages of a unit. -/
def unitOfPage (page : Nat) : Nat := page / 16384

/-- Whether a save image lies in a unit of instance 0's pool (R365). -/
def imageIn (s : State) (u : Nat) : Bool := (usedSlots s 0).any (fun k => k / 341 = u)

/-- REMOVE_UNIT (R362, R365); translations to the unit are dropped (R494). -/
def execRemoveUnit (who : Who) (n unit : Nat) (s : State) : Out :=
  .next (instCmd s who n [0, 1, 5] true (fun s =>
    let st := rd s .IN_UNIT_DATA_STATE unit
    let gone := fun (s : State) => inResult (countUnits (startScrub (dropTargets s n (unit * 2 ^ 30) ((unit + 1) * 2 ^ 30)) unit 0 0) n) n 0
    if unit ≥ 384 || rd s .IN_UNIT_DATA_OWNER unit ≠ n || (st ≠ 1 && st ≠ 3) then inResult s n 3
    else if st = 3 then
      if n ≠ 0 || imageIn s unit then inResult s n 2 else gone s
    else if s.deck.owner.any (fun e => unitOfPage e.1 = unit) then inResult s n 5
    else gone s))

/-- A local line of a unit, whose page is not retired. -/
def inUnit (s : State) (u loc : Nat) : Bool := loc / 2 ^ 24 = u && !s.deck.retired.contains (loc / 1024)

/-- No access, message, transaction or write-back concerns a line of a unit. -/
def unitQuiet (s : State) (u : Nat) : Bool :=
  let mine := fun (line : Nat) => isLocal s line && locLine line / 2 ^ 24 = u
  s.coh.net.all (fun m => !mine m.line) && s.coh.busy.all (fun e => !mine (e.1 % 2 ^ 46)) && s.coh.victims.all (fun e => !mine (e.1 % 2 ^ 46)) &&
    s.coh.pendInv.all (fun p => !mine p.line) && s.cores.all (fun e => e.2.outs.all (fun o => o.parts.all (fun p => !mine (p.addr / 64))))

/-- Every line of a unit is zero with fresh check, no cache holds one, its marks are clear; PENDING pages are retired (R363). -/
def zeroUnit (s : State) (u : Nat) : State :=
  let mine := fun (line : Nat) => isLocal s line && inUnit s u (locLine line)
  let s := { s with
    mem := s.mem.filter (fun c => !(c.1 < deckBytes && inUnit s u (c.1 / 64)))
    cores := s.cores.map (fun e => (e.1, { e.2 with l1 := e.2.l1.filter (fun l => !mine l.1) }))
    coh := { s.coh with lines := s.coh.lines.filter (fun e => !mine (e.1 % 2 ^ 46)) }
    deck := { s.deck with
      marks := s.deck.marks.filter (fun e => !inUnit s u e.1)
      res := s.deck.res.filter (fun e => unitOfPage e.1 ≠ u)
      chans := s.deck.chans.map (fun e => (e.1, { e.2 with wcb := e.2.wcb.filter (fun w => !inUnit s u w.line) })) } }
  let p := (s.deck.pendingPages.filter (fun p => unitOfPage p.1 = u)).map (·.1)
  each p pageFreed s

/-! ### Reset, steps 3 to 6 (R370) -/

/-- Step 6: the report; after DISABLE every core and unit is released (R358). -/
def resetReport (s : State) (n : Nat) : State :=
  let x := instX s n
  let s := flrReset s [instFn s n]
  let s := wr (wr s .IN_STATUS_RESET_DONE n 1) .IN_STATUS_BY_FLR n (if x.kind = 2 then 1 else 0)
  if x.kind ≠ 3 then setInst (setInstX s n { x with kind := 0, squash := [] }) n 1 else
    let s := each (unitsIn s n [1, 3]) (fun s u => setUnit s u 0 0) s
    let cs := (s.inst.cores.filter (fun e => e.2 = n)).map (·.1)
    let s := each cs (fun s c => { clearCore s c with sched := { s.sched with lastCtx := s.sched.lastCtx.del c } }) s
    let s := { s with inst := { s.inst with cores := s.inst.cores.filter (fun e => e.2 ≠ n) } }
    let s := each (List.range 13) (fun s j => wr s .IN_CORES_CORES (n * 16 + j) 0) s
    inResult (setInst (setInstX (countUnits s n) n {}) n 0) n 0

/-- Step 5: the scrub, where there is one to make. -/
def resetScrub (s : State) (n : Nat) : State :=
  let us := unitsIn s n [1, 3]
  if !flag s .IN_CFG_SCRUB_ON_RESET n || us.isEmpty then resetReport s n else
    setInst (each us (fun s u => startScrub s u n (rd s .IN_UNIT_DATA_STATE u)) s) n 4

/-- Step 4: contexts, waymarks, mailbox; the images went with the contexts. -/
def resetClear (s : State) (n : Nat) : State :=
  let s := each ((s.sched.ctxs.filter (fun e => e.2.inst = n)).map (·.1)) (fun s c => freeCtx s c false) s
  let lo := rd s .IN_WM_BASE n
  let hi := lo + 2 ^ rd s .IN_WM_LOG2 n
  let s := { s with
    wm := { s.wm with marks := s.wm.marks.filter (fun e => !(lo ≤ e.1 && e.1 < hi)) }
    inst := { s.inst with mail := s.inst.mail.filter (fun c => c.1 / 4096 ≠ n) } }
  resetScrub (setInstX s n { kind := (instX s n).kind }) n

/-- A remaining command of a squash ends: with its own status where its work was done, else ABORTED; its record is written (log 97, DEDUCED). -/
def squashCmd (s : State) (c : Cmd) : State :=
  let (st, det) := c.fin.getD (7, 0)
  let s := { s with host := { s.host with
    cmds := s.host.cmds.filter (fun d => d.ref ≠ c.ref)
    reads := s.host.reads.filter (fun r => match r.kind with | .copy q _ _ => q ≠ c.ref | .flush q => q ≠ c.ref | _ => true) } }
  if st = 0 && tb c.flags 1 then s else emitRec s (mkRec s c st det)

/-- The squash is over once every context is dead (step 3): what remains ends ABORTED, the sequences return to FREE, GEN increments. -/
def squashNext (s : State) (n : Nat) : State :=
  if instState s n ≠ 3 || s.sched.ctxs.any (fun e => e.2.inst = n && e.2.st ≠ .dead) then s else
    let s := each (s.sched.seqCmds.keys.filter (fun q => seqGet s q 1 1 = n)) (fun s q => seqEnd s q 0 7 0) s
    -- every entry of the instance returns to FREE, the ended ones too (R355)
    let s := each (seqUsed s n) (fun s q => seqPut s q 0 1 0) s
    let s := each (s.host.cmds.filter (fun c => fnNum c.ref.fid = n)) squashCmd s
    resetClear (bump s .IN_STATUS_GEN n) n

/-- Step 3 begins. -/
def squash (s : State) (n : Nat) : State :=
  let open_ := (s.sched.ctxs.filter (fun e => e.2.inst = n && e.2.st ≠ .killing && e.2.st ≠ .dead)).map (·.1)
  let s := setInst (setInstX s n { instX s n with squash := open_ }) n 3
  let s := each open_ (fun s c => match getCtx s c with | some x => setCtx s c { x with st := .killing } | none => s) s
  squashNext s n

/-- Whether the running commands of an instance have all ended. -/
def drained (s : State) (n : Nat) : Bool := s.host.cmds.all (fun c => fnNum c.ref.fid ≠ n || !c.started)

/-- A FREEZE has ended: no core holds a block, no command moves data (R374). -/
def frozenNow (s : State) (n : Nat) : Bool :=
  s.cores.all (fun e => ((e.2.ctx.bind (getCtx s)).map (·.inst)) ≠ some n) &&
    s.host.cmds.all (fun c => fnNum c.ref.fid ≠ n || !c.started || !(c.op = 2 || c.op = 3) || c.fin.isSome)

/-- The drain ends at completion or at its deadline, and the squash begins; a freeze's drain ends in FROZEN. -/
def execDrainDeadline (n : Nat) (s : State) : Out :=
  .next (
    let x := instX s n
    if n = 0 || n > 64 then s
    else if x.freezing then
      if frozenNow s n then inResult (setInst (setInstX s n { x with freezing := false }) n 5) n 0 else s
    else if instState s n = 3 then squashNext s n
    else if instState s n = 2 && x.kind ≠ 0 && (drained s n || x.since + rd s .IN_CFG_DRAIN_US n * 1000 ≤ s.now) then squash s n
    else s)

/-- Step 1: the stop. A reset under way takes another one in, its deadline unchanged (R371); the blob key goes (R459). -/
def startReset (s : State) (n kind : Nat) : State :=
  let x := instX s n
  if x.kind = 1 || x.kind = 2 || x.kind = 3 then (if kind = 3 then setInstX s n { x with kind := 3 } else s) else
    let s := each ((List.range 256).filter (fun e => rd s .MT_CTRL_OWNER e = n && flag s .MT_CTRL_ARMED e)) mtOff s
    setInst (setInstX s n { x with kind := kind, since := s.now, squash := [], freezing := false, key := none, unwrapped := none, mts := [], incomplete := false }) n 2

/-- RESET: it is allowed in ACTIVE and FROZEN, and merges with a reset under way (R358, R371). -/
def execReset (who : Who) (n : Nat) (s : State) : Out :=
  .next (instCmd s who n [1, 5, 2, 3, 4] false (fun s => inResult (startReset s n 1) n 0))

/-- DISABLE: busy until the instance is UNUSED (log 93, DEDUCED). -/
def execDisable (who : Who) (n : Nat) (s : State) : Out :=
  .next (instCmd s who n [1, 5, 2, 3, 4] false (fun s => inBusy (startReset s n 3) n))

/-- A function-level reset of VF n (R370); in Hold it is recorded for the wake (R446). A FREEZE under way ends there, undone. -/
def execFlr (n : Nat) (s : State) : Out :=
  .next (if n = 0 || n > 64 || instState s n = 0 then s
    else if rd s .PS_STATUS_STATE = 3 then
      { s with boot := { s.boot with flrLater := s.boot.flrLater.filter (· ≠ n) ++ [n] } }
    else if (instX s n).kind = 4 then s
    else
      let s := if (instX s n).freezing then inResult s n 2 else s
      startReset s n 2)

/-- A unit's zeroing ends (R363): of one die in their order. -/
def execUnitScrubDone (unit : Nat) (s : State) : Out :=
  .next (
    match s.inst.scrubs.find? (fun u => u / 96 = unit / 96) with
    | none => s
    | some u =>
      if u ≠ unit || !unitQuiet s unit || !dieUp s (unit / 96) || !diesRun s then s else
        let s := zeroUnit s unit
        let n := rd s .IN_UNIT_DATA_OWNER unit
        let st := s.inst.keep.getD unit 0
        let s := setUnit s unit (if st = 0 then 0 else n) st
        let s := { s with inst := { s.inst with scrubs := s.inst.scrubs.filter (· ≠ unit), keep := s.inst.keep.del unit } }
        let s := countUnits s n
        if n = 0 || instState s n ≠ 4 || !(unitsIn s n [2]).isEmpty then s
        else if (instX s n).kind = 4 then inResult (setInst (setInstX s n {}) n 1) n 0
        else resetReport s n)

/-! ### ENABLE (R359, R364) -/

def execEnable (who : Who) (n : Nat) (s : State) : Out :=
  .next (instCmd s who n [0] false (fun s =>
    let a := rd s .IN_WM_BASE n
    let l := rd s .IN_WM_LOG2 n
    let own := unitsIn s n [1]
    let pool := rd s .IN_CFG_POOL_GIB n
    let cores := (s.inst.cores.filter (fun e => e.2 = n)).length
    if a % 2 ^ l ≠ 0 || (List.range 65).any (fun m => m ≠ 0 && m ≠ n && instState s m ≠ 0 && wmMeet a l (rd s .IN_WM_BASE m) (rd s .IN_WM_LOG2 m)) then inResult s n 3
    else if own.length < pool || cores > pool * 341 then inResult s n 4
    else
      let s := each (own.take pool) (fun s u => setUnit s u n 3) s
      let us := unitsIn s n [1, 3]
      if !flag s .IN_CFG_SCRUB_ON_RESET n || us.isEmpty then inResult (setInst s n 1) n 0 else
        let s := each us (fun s u => startScrub s u n (rd s .IN_UNIT_DATA_STATE u)) s
        inBusy (setInst (setInstX s n { instX s n with kind := 4 }) n 4) n))

/-! ### SET_CORES (R361) -/

/-- IN_CORES shows the cores that an instance holds. -/
def showCores (s : State) (n : Nat) : State :=
  each (List.range 13) (fun s j => wr s .IN_CORES_CORES (n * 16 + j)
    ((List.range 64).foldl (fun a b => if inCores s n (64 * j + b) then a + 2 ^ b else a) 0)) s

def execSetCores (who : Who) (n : Nat) (s : State) : Out :=
  .next (instCmd s who n [0, 1, 5] true (fun s =>
    let want := (List.range 832).filter (fun c => (rd s .IN_CORES_CORES (n * 16 + c / 64)).testBit (c % 64) && !isAgent s c)
    let added := want.filter (fun c => !inCores s n c)
    let removed := (List.range 832).filter (fun c => inCores s n c && !want.contains c)
    if added.any (fun c => (s.inst.cores.get c).isSome || !coreLive s c) then inResult (showCores s n) n 3
    else if (n = 0 || instState s n ≠ 0) && want.length > poolSlots s n then inResult (showCores s n) n 4
    else
      let s := { s with inst := { s.inst with cores := added.foldl (fun m c => m.put c n) s.inst.cores } }
      let idle := removed.filter (fun c => (getCore s c).ctx.isNone)
      let held := removed.filter (fun c => (getCore s c).ctx.isSome)
      let s := each idle (fun s c =>
        let s := clearCore (dropWindow s n c) c
        { s with sched := { s.sched with lastCtx := s.sched.lastCtx.del c }, inst := { s.inst with cores := s.inst.cores.del c } }) s
      let s := setInstX s n { instX s n with removing := held }
      let s := each held askPreempt s
      let s := showCores s n
      if held.isEmpty then inResult s n 0 else inBusy s n))

/-! ### FREEZE (R374) -/

/-- An armed entry as the blob records it: its number, the seven registers, and the crossings that it still passes over. -/
def mtRecord (s : State) (e : Nat) : Nat × List Nat :=
  let ctrl := (mtFlags.zipIdx).foldl (fun a f => a + rd s f.1 e * 2 ^ (24 + f.2))
    (rd s .MT_CTRL_ARMED e + 2 * rd s .MT_CTRL_KIND e + 4 * rd s .MT_CTRL_REPEAT e + 16 * rd s .MT_CTRL_ACTION e + 256 * rd s .MT_CTRL_OWNER e +
      65536 * rd s .MT_CTRL_MISSED e + 2 ^ 32 * rd s .MT_CTRL_PERIOD e)
  (e, [rd s .MT_TIME_TIME e, rd s .MT_ANGLE_ANGLE e, ctrl, rd s .MT_ARG0_ARG e, rd s .MT_ARG1_ARG e, rd s .MT_FIRE_MST_FIRE_MST e, rd s .MT_ARM_MST_ARM_MST e])

/-- FREEZE: entries disarmed and recorded, rings stopped, every running block pre-empted; the last blob key goes (R459). -/
def execFreeze (who : Who) (n : Nat) (s : State) : Out :=
  .next (instCmd s who n [1] false (fun s =>
    let es := (List.range 256).filter (fun e => rd s .MT_CTRL_OWNER e = n && flag s .MT_CTRL_ARMED e)
    let rec_ := es.map (mtRecord s)
    let s := each es mtOff s
    let s := setInst (setInstX s n { instX s n with freezing := true, mts := rec_, key := none, unwrapped := none, restored := [], incomplete := false }) n 2
    let cs := (s.cores.filter (fun e => ((e.2.ctx.bind (getCtx s)).map (·.inst)) = some n)).map (·.1)
    inBusy (each cs askPreempt s) n))

/-! ### The end of a kill (R95 steps 4 to 6) -/

/-- A kill's drain ends: the fault record and the completions are written, the cores are free. A context that a reset's squash killed leaves no
record, and the last of them ends the squash (R370). -/
def execKillDrainDone (ctx : Nat) (s : State) : Out :=
  .next (match getCtx s ctx with
    | none => s
    | some x =>
      if x.st ≠ .killing || !killDrained s ctx then s
      else if instState s x.inst = 3 && (instX s x.inst).squash.contains ctx then squashNext (endContext s ctx x false 7 0) x.inst
      else squashNext (endContext s ctx x true 1 3) x.inst)

end Sys2Proof.Machine
end

