-- ==== Sys2Proof/Machine/Links.lean ====
section
/-! DEFINITION. The Mbolvoar ports (chapter 11): training, lane faults, replay, discards, the requests of other devices at their homes here and
the answers to this device's own requests, time transfer (R285-R304). A message on a link is one command of its kind; FRAME_RECEIVE
handles the sequence numbers and acknowledgements of a frame's flits (log 34, DESIGN CHOICE). Log 107, DESIGN CHOICE: what a discard takes; log 108, DESIGN CHOICE: which time-transfer
row does what; log 109, DEDUCED: generation of a part, 64 flits as a time, retrains that keep the faulty mask. -/

namespace Sys2Proof.Machine

/-! ### Leaving UP (R301, R304) -/

/-- A port takes a state other than UP: time transfer stops, and MST falls back when the port was its parent. -/
def leaveUp (s : State) (p st : Nat) : State :=
  let up := portUp s p
  let s := wr s .LK_STATUS_STATE p st
  let s := setPort s p { getPort s p with clean := 0, bad := List.replicate 8 0 }
  if !up then s else
    let x := getPort s p
    let s := setPort s p { x with notUp := some s.now, tt := [], ttSent := none, ttOrigin := none }
    let s := wr (wr (wr s .LK_TT_VALID p 0) .LK_TT_DELAY p 0) .LK_TT_OFFSET p 0
    if rd s .MST_CTRL_LINK_PORT ≠ p then s else
      let s := wr0 s .MST_STATUS_LINK_OK 0
      if rd s .MST_STATUS_SOURCE = 2 then mstFall s else s

/-- A port that trains from DOWN starts with an empty ingress buffer at each end: every credit is held (R292; log 145, DEDUCED). -/
def fullCredits (x : Port) : Port := { x with cred := List.replicate 10 vcReserved, shared := vcShared, owed := List.replicate 10 0 }

/-- The port goes DOWN for a reason (R285, R303): an error record, except when it is disabled. -/
def portDown (s : State) (p reason : Nat) : State :=
  let s := wr (wr (leaveUp s p 0) .LK_STATUS_DOWN_REASON p reason) .LK_STATUS_WIDTH p 0
  let s := setPort s p { getPort s p with tries := 0, full := false }
  if reason = 8 then s else logErr s { mst := 0, code := 0x0403, sev := 5, loc := p, detail := reason }

/-- Lane groups in order of preference (R303): the WIDTH code, the first lane, how many. -/
def laneGroups : List (Nat × Nat × Nat) := [(3, 0, 8), (2, 0, 4), (2, 4, 4), (1, 0, 2), (1, 2, 2), (1, 4, 2), (1, 6, 2)]

/-- The group kept among the lanes that a mask leaves (R303): WIDTH code and mask; none when no two are left. -/
def laneGroup (lanes : Nat) : Option (Nat × Nat) :=
  (laneGroups.find? (fun g => (List.range g.2.2).all (fun k => tb lanes (g.2.1 + k)))).map (fun g => (g.1, (2 ^ g.2.2 - 1) * 2 ^ g.2.1))

/-- Lanes that this end may use: those not marked faulty and, in a retrain that does not retry every lane, those kept before (R286, R303). -/
def ownLanes (s : State) (p : Nat) : Nat :=
  let x := getPort s p
  let ok := 255 - rd s .LK_STATUS_FAULTY p % 256
  if x.full || x.group = 0 then ok else Nat.land ok x.group

/-- Retrain a port (R286): with `full` every lane is retried, else the faulty-lane mask and the rate are kept. -/
def beginRetrain (s : State) (p : Nat) (full : Bool) : State :=
  let s := bumpSat (leaveUp s p 3) .LK_STATUS_RETRAINS p
  let s := if full then wr s .LK_STATUS_FAULTY p 0 else s
  setPort s p { getPort s p with tries := 0, full := full, replaysNow := 0 }

/-- Ports are served but in Watch, where they are down apart from their wake detectors (R286). -/
def linksOn (s : State) : Bool := rd s .PS_STATUS_STATE ≠ 4

/-- LK_CTRL.EN is set: a port that is DOWN trains (R285). -/
def execLinkEnable (port : Nat) (s : State) : Out :=
  .next (if port ≥ 8 || !linksOn s then s else
    let s := wr s .LK_CTRL_EN port 1
    if rd s .LK_STATUS_STATE port ≠ 0 then s else
      let s := wr (wr s .LK_STATUS_STATE port 1) .LK_STATUS_DOWN_REASON port 0
      setPort (wr s .LK_STATUS_FAULTY port 0) port (fullCredits { getPort s port with tries := 0, full := true, clean := 0, part := [] }))

/-- A write of RETRAIN (R286). -/
def execRetrain (port : Nat) (s : State) : Out :=
  .next (if port ≥ 8 || !linksOn s || !flag s .LK_CTRL_EN port then s else beginRetrain s port (flag s .LK_CTRL_FULL_WIDTH port))

/-! ### Replay (R290, R291) -/

/-- The flits from a sequence number on leave again, in order, each with ACK as it now stands. -/
def resend (s : State) (p seq : Nat) : State :=
  setPort s p (((getPort s p).replay.dropWhile (fun e => e.1 ≠ seq)).foldl (fun (x : Port) e => x.emit s.now 1 e.1 (some e.2)) (getPort s p))

/-- A time-transfer exchange begins (R301): TT_REQ leaves with MST as its stamp. -/
def ttAsk (s : State) (p : Nat) : State :=
  let s := setPort s p { getPort s p with ttSent := some (mstNow s), ttAt := s.now, ttOrigin := none }
  (portPut s p { op := 0x63, dest := rd s .LK_STATUS_PARTNER p, src := myDev s, data := BitVec.ofNat 512 (mstNow s) }).2

/-- What both ends choose at the end of training (R284, R285, R286, R303): the highest rate that both allow, 224 Gb/s never with an earlier part (log 109, DEDUCED), or
the rate kept; the widest group intact at both. -/
def trainChoice (s : State) (p rate lanes gen : Nat) : Nat × Option (Nat × Nat) :=
  let best := max (max (rd s .LK_CTRL_MAX_RATE p) rate) (if gen < 4 then 1 else 0)
  (if rd s .LK_STATUS_STATE p = 3 && !(getPort s p).full then rd s .LK_STATUS_RATE p else best, laneGroup (Nat.land (ownLanes s p) lanes))

/-- 64 consecutive good frames make the port UP (R285, R286, R303): what stood unacknowledged is sent again, waiting messages leave, time transfer begins.
With no group of two lanes intact at both ends it goes DOWN. -/
def execLinkUp (port rate lanes partner : Nat) (tt : Bool) (gen : Nat) (s : State) : Out :=
  .next (
    let st := rd s .LK_STATUS_STATE port
    if port ≥ 8 || !linksOn s || (st ≠ 1 && st ≠ 3) || rate > 2 || gen ≥ 8 then s else
    let (r, g) := trainChoice s port rate lanes gen
    match g with
    | none => portDown s port 7
    | some (width, keep) =>
      if (getPort s port).clean < 64 || (r = 0 && gen < 4) then s else
        let old := rd s .LK_STATUS_WIDTH port
        let s := wr (wr (wr (wr s .LK_STATUS_STATE port 2) .LK_STATUS_RATE port r) .LK_STATUS_WIDTH port width) .LK_STATUS_PARTNER port partner
        let s := wr (wr (wr s .LK_STATUS_PARTNER_TT port tt.toNat) .LK_STATUS_PARTNER_GEN port gen) .LK_STATUS_DOWN_REASON port 0
        let s := if width < old then logErr s { mst := 0, code := 0x0402, sev := 2, loc := port, detail := width } else s
        let s := setPort s port { getPort s port with notUp := none, clean := 0, bad := List.replicate 8 0, tries := 0, full := false, replaysNow := 0, ackAt := s.now,
                                                      nakSent := false, group := keep }
        let s := match (getPort s port).replay with | e :: _ => resend s port e.1 | [] => s
        let s := if tt then ttAsk s port else s
        pump (getPort s port).egress.length s port)

/-- A training attempt fails at a step (R285): after the third the port goes DOWN. A retrain that does not retry every lane has no step 1 (R286). -/
def execTrainFail (port step : Nat) (s : State) : Out :=
  .next (
    let st := rd s .LK_STATUS_STATE port
    if port ≥ 8 || (st ≠ 1 && st ≠ 3) || step < 1 || step > 6 || (step = 1 && st = 3 && !(getPort s port).full) then s else
      let x := getPort s port
      if x.tries + 1 ≥ 3 then portDown s port step else setPort s port { x with tries := x.tries + 1, clean := 0 })

/-- A lane is marked faulty (R303): the port retrains on what is left, or goes DOWN. -/
def execLaneFault (port lane : Nat) (s : State) : Out :=
  .next (
    let f := rd s .LK_STATUS_FAULTY port
    let st := rd s .LK_STATUS_STATE port
    if port ≥ 8 || lane ≥ 8 || tb f lane || st = 0 then s else
      let s := logErr (wr s .LK_STATUS_FAULTY port (f + 2 ^ lane)) { mst := 0, code := 0x0401, sev := 2, loc := port, detail := lane }
      if laneGroup (ownLanes s port) = none then portDown s port 7
      else if st = 2 then beginRetrain s port false else s)

/-- An acknowledgement: the flits up to it leave the replay buffer, and new ones follow. -/
def ackTo (s : State) (p a : Nat) : State :=
  let x := getPort s p
  if !x.replay.any (fun e => e.1 = a) then s else
    let rest := (x.replay.dropWhile (fun e => e.1 ≠ a)).drop 1
    pump x.egress.length (setPort s p { x with replay := rest, ackAt := s.now, replaysNow := 0 }) p

/-- The sender replays from a sequence number: after 16 replays with no advance of ACK the port retrains. -/
def doReplay (s : State) (p seq : Nat) : State :=
  let s := bumpSat s .LK_ERR_REPLAYS p
  let x := getPort s p
  let s := setPort s p { x with replaysNow := x.replaysNow + 1, ackAt := s.now }
  if x.replaysNow + 1 ≥ 16 then beginRetrain s p false else resend s p seq

/-- A NAK is heeded: the sender resends from its sequence number. -/
def takeNak (s : State) (p seq : Nat) : State :=
  if !portUp s p || !(getPort s p).replay.any (fun e => e.1 = seq % 4096) then s else doReplay s p (seq % 4096)

/-- A drop of a flit at the receiver: the first of a run sends one NAK with the sequence number expected. -/
def dropFlit (s : State) (p : Nat) : State :=
  let x := getPort s p
  if x.nakSent then s else setPort s p { x.emit s.now 2 x.expect none with nakSent := true }

/-- Credits that a flit returns, and what may leave with them (R288, R292). -/
def takeCredits (s : State) (p : Nat) (cr : List (Nat × Nat)) : State :=
  if cr.isEmpty then s else
    let s := setPort s p (cr.foldl (fun x c => x.refund c.1 c.2) (getPort s p))
    pump (getPort s p).egress.length s p

/-! ### Messages out of slots, and on their way (R289, R294-R296) -/

/-- The torus dimension of a port: that of the lowest valid route entry that names it (R294; log 145, DEDUCED). -/
def portDim (s : State) (p : Nat) : Option Nat :=
  ((List.range 4096).find? (fun d => flag s .LK_ROUTE_DATA_VALID d && rd s .LK_ROUTE_DATA_PORT d = p)).map (fun d => rd s .LK_ROUTE_DATA_DIM d)

/-- The sub-channel on which a message in transit goes on (R295): sub-channel 1 lasts while the next hop lies in the dimension of the port it came by. -/
def transitSub (s : State) (port sub dest : Nat) : Nat :=
  if sub = 1 && portDim s port = some (rd s .LK_ROUTE_DATA_DIM dest) then 1 else 0

/-- A message that asks for an answer: a REQ, or an MGMT read or write. -/
def asks (m : LMsg) : Bool := opClass m.op = 0 || m.op = 0x80 || m.op = 0x81

/-- A request that cannot be served is answered ERROR (R289, R296, R299, R488). -/
def answerError (s : State) (m : LMsg) : State :=
  (linkSend s { op := 0x23, dest := m.src, src := myDev s, tag := m.tag, gen := m.gen }).2

/-- A message of another device for a third goes on by this device's own table (R294, R296). -/
def relay (s : State) (p : Nat) (m : LMsg) : State :=
  let (ok, s') := linkSend s { m with sub := transitSub s p m.sub m.dest }
  let s := if ok then s' else if asks m then answerError s m else s
  freeSlots s p m

/-- A whole message has arrived (R289): a malformed one is discarded, counted and, where it asks, answered ERROR; one for another device goes on; a broadcast or a
stamp, which are for whoever receives them (R301, R302), and a message for this device wait to be handled. -/
def deliver (p : Nat) (s : State) (h : Nat) (l : List Nat) : State :=
  let m := msgOfSlots h l
  let cls := bits h 0 3
  if !slotsOk h l then
    let s := bumpSat s .LK_ERR_MALFORMED p
    let x := getPort s p
    let s := if cls < 5 then setPort s p (x.owe (2 * cls + bits h 3 1) (l.length + 1)) else s
    if cls = 0 || (cls = 4 && m.op ≠ 0x82) then answerError s m else s
  else if m.dest = myDev s || (0x61 ≤ m.op && m.op ≤ 0x64) then setPort s p { getPort s p with inbox := (getPort s p).inbox ++ [m] }
  else relay s p m

/-- The slots of an MSG flit in order (R288, R289): `start` marks those that begin a message; a message cut short by the next is malformed. -/
def takeSlots (p start : Nat) : State → List (Nat × Nat) → State
  | s, [] => s
  | s, (k, v) :: t =>
    let x := getPort s p
    let begins := tb start k
    let s := if begins && !x.part.isEmpty then deliver p (setPort s p { x with part := [] }) (x.part.headD 0) x.part.tail else s
    let part := if begins then [v] else if x.part.isEmpty then [] else x.part ++ [v]
    let need := bits (part.headD 0) 36 3 + 1
    if part.isEmpty then takeSlots p start s t
    else if part.length < need then takeSlots p start (setPort s p { getPort s p with part := part }) t
    else takeSlots p start (deliver p (setPort s p { getPort s p with part := [] }) (part.headD 0) part.tail) t

/-! ### Frames and flits (R287, R288) -/

/-- A flit of a good frame (R288, R290): a bad CRC makes it bad. An MSG flit is taken in sequence only, a NAK is noted. A reserved KIND or a nonzero reserved field discards
what the flit holds and counts as malformed (log 168, DESIGN CHOICE). -/
def takeFlit (p : Nat) (s : State) (b : BitVec 2048) : State :=
  let f := readFlit b
  if !portUp s p then s
  else if !f.crcOk then dropFlit s p
  else
    let s := if f.reserved then bumpSat s .LK_ERR_MALFORMED p else
      let s := match f.ack with | some a => ackTo s p a | none => s
      takeCredits s p f.cr
    if f.kind = 2 && !f.reserved then setPort s p { getPort s p with nakIn := some f.seq }
    else if f.kind ≠ 1 then s
    else
      let x := getPort s p
      if f.seq ≠ x.expect then dropFlit s p else
        let s := setPort s p { x with expect := (x.expect + 1) % 4096, got := true, nakSent := false }
        if f.reserved then s else takeSlots p f.start s ((List.range 15).zip f.slots)

/-- Lanes without whose symbol errors each codeword of a frame could be corrected: 15 symbols in each (R287, R303). -/
def blamed (errs : List (Nat × Nat)) : List Bool :=
  let a := (errs.map (·.1)).sum
  let b := (errs.map (·.2)).sum
  (List.range 8).map (fun l => let e := errs.getD l (0, 0); a - e.1 ≤ 15 && b - e.2 ≤ 15)

/-- A frame arrives (R285, R287, R290, R303): of `errs`, the symbol errors of each lane in the two codewords, up to 15 in a codeword are corrected; the frame word aligns lanes and
holds nothing else. A port that trains counts the frames without an uncorrectable error. `e`: how the port's buffers behave (R463). -/
def execFrameReceive (port : Nat) (_word : BitVec 40) (errs : List (Nat × Nat)) (flits : List (BitVec 2048)) (e : Sram) (s : State) : Out :=
  .next (
    let st := rd s .LK_STATUS_STATE port
    if port ≥ 8 || st = 0 then s else
    let s0 := match e with
      | .corrected _ => logCorrected s (unitPort port) { mst := 0, code := 0x0201, sev := 1, strct := 9, loc := port }
      | _ => s
    let a := ((errs.take 8).map (·.1)).sum
    let b := ((errs.take 8).map (·.2)).sum
    let good := a ≤ 15 && b ≤ 15
    let x := getPort s0 port
    match e with
    | .uncorrectable _ =>
      let s := logErr s { mst := 0, code := 0x0202, sev := 2, strct := 9, loc := port }
      beginRetrain (portDown s port 0) port false
    | _ =>
      if good then
        let s := bumpSat (setPort s0 port { x with bad := List.replicate 8 0, clean := x.clean + 1 }) .LK_ERR_CORR port (a + b)
        each (flits.take 5) (takeFlit port) s
      else
        let bad := (blamed (errs.take 8)).zipWith (fun y n => if y then n + 1 else 0) x.bad
        let s := bumpSat (setPort s0 port { x with bad := bad, clean := 0 }) .LK_ERR_UNCORR port
        let s := if portUp s port then dropFlit s port else s
        each ((List.range 8).filter (fun l => 16 ≤ bad.getD l 0)) (fun s l => match execLaneFault port l s with | .next t => t | _ => s) s)

/-- A NAK that has arrived makes the sender replay from the number it names (R291). -/
def execNak (port seq : Nat) (s : State) : Out :=
  .next (if port ≥ 8 || (getPort s port).nakIn ≠ some seq then s else takeNak (setPort s port { getPort s port with nakIn := none }) port seq)

/-- No ACK has advanced for 4 µs: the sender resends from the oldest flit that is not acknowledged (R291). -/
def execReplayTimeout (port : Nat) (s : State) : Out :=
  .next (
    let x := getPort s port
    match x.replay with
    | e :: _ => if port ≥ 8 || !portUp s port || s.now < x.ackAt + 4000 then s else doReplay s port e.1
    | [] => s)

/-- An IDLE flit carries ACK and credits when nothing else goes (R288, R290; log 109, DEDUCED): 64 flits last less than 100 ns at x8 and 224 Gb/s alone. -/
def execIdleAck (port : Nat) (s : State) : Out :=
  .next (
    let x := getPort s port
    let due := if rd s .LK_STATUS_RATE port = 0 && rd s .LK_STATUS_WIDTH port = 3 then 78 else 100
    if port ≥ 8 || !portUp s port || !x.heads.isEmpty || s.now < x.lastAckSent + due then s
    else setPort s port (x.emit s.now 0 0 none))

/-! ### Answers of this device, and requests of its own that fail -/

/-- Answer a request of another device. -/
def linkAnswer (s : State) (r : LinkReq) (op : Nat) (data : Line) (param : Nat) : State :=
  (linkSend s { op := op, dest := r.src, src := myDev s, tag := r.tag, gen := r.gen, data := data, param := param }).2

/-- A message that a port discards (R304): a request of this device completes as REMOTE; one in transit is answered ERROR. -/
def discardMsg (p : Nat) (s : State) (m : LMsg) : State :=
  if opClass m.op ≠ 0 then s
  else if m.src ≠ myDev s then (linkSend s { op := 0x23, dest := m.src, src := m.dest, tag := m.tag, gen := m.gen }).2
  else match s.link.far.find? (fun f => f.port = p && f.tag = m.tag) with
    | some f => farFail { s with link := { s.link with far := s.link.far.erase f } } f.msg false
    | none => s

/-- A port has not been UP for 100 µs (R304): what waits at its egress, or for a replay, is discarded; the credits of what waited for a replay are held
again (log 145, DEDUCED). -/
def execEgressDiscard (port : Nat) (s : State) : Out :=
  .next (if port ≥ 8 || !portDiscards s port then s else
    let x := getPort s port
    let y := x.replay.foldl (fun (y : Port) e => y.refund (vcOf e.2.op e.2.sub) e.2.slots) x
    wakeTags port (each (x.replay.map (·.2) ++ x.egress) (discardMsg port) (setPort s port { y with egress := [], replay := [] })))

/-! ### Requests of other devices (R294, R296, R297, R299) -/

/-- A request performed on a loft window (R485, R486). -/
def loftLink (s : State) (kind : MsgKind) (r : LinkReq) (loc : Nat) : State :=
  let ln := loc / 64 * 64
  let old : Line := BitVec.ofNat 512 (readNat s.mem ln 64)
  let put := fun (l : Line) (m : BitVec 64) =>
    let top := ((List.range 64).filter (fun k => has m k)).getLastD 0
    if m = 0 then s else winMark { s with mem := writeNat s.mem ln 64 l.toNat } ln (top + 1)
  match kind with
  | .gets => if r.size = 16 then linkAnswer s r 0x41 (BitVec.ofNat 512 (readNat s.mem (loc / 16 * 16) 16)) 0 else linkAnswer s r 0x40 old 0
  | .wr => linkAnswer (put (mergeLine old r.data r.mask) r.mask) r 0x20 0 0
  | .red => linkAnswer (put (redElems r.op r.ty r.mask old r.data) r.mask) r 0x20 0 0
  | .atom =>
    let (v, m) := atomAt s.mem loc r.op r.ty r.size (bits r.data.toNat 0 (8 * r.size)) (bits r.data.toNat 64 (8 * r.size))
    linkAnswer (winMark { s with mem := m } loc r.size) r 0x21 (BitVec.ofNat 512 v) 0
  | _ => linkAnswer s r 0x20 0 0

/-- A request that has arrived is performed at its home, as one of the I/O agents (R297, R299). Its slots in the ingress buffer go free once it has been answered (R292). -/
def linkIn (port : Nat) (kind : MsgKind) (q : LinkReq) (s : State) : State :=
  let r := if kind = .atom then { q with size := atomBytes q.ty } else q
  match takeIn s port (fun m => m = reqMsg kind q (myDev s)) with
  | none => s
  | some (m, s) =>
    let freed := freeSlots s port m
    let line := r.addr / 64
    let loc := locOf r.addr
    if devOf r.addr ≠ myDev s || rd s .PS_STATUS_STATE = 3 then linkAnswer freed r 0x23 0 0
    else if loc < deckBytes then
      let d := homeDie line
      if !dieUp s d then linkAnswer freed r 0x22 0 0 else
        let id := s.link.nextIn
        let k : MsgKind := if kind = .red && r.merge then .redw else kind
        let s := { s with link := { s.link with nextIn := id + 1, inReqs := s.link.inReqs ++ [{ port := port, id := id, kind := k, r := r }] } }
        let mask : BitVec 64 := if kind = .atom then BitVec.ofNat 64 ((2 ^ r.size - 1) * 2 ^ (r.addr % 64)) else r.mask
        send s { kind := k, req := .port port, die := d, slice := sliceOf line, line := line, id := id, data := r.data, mask := mask, op := if kind = .strip then 4096 else r.op, ty := r.ty,
                 flags := if kind = .gets && r.size = 16 then 8 else 0 }
    else if isLoft s r.addr then
      let c := (loc - loftBase) / loftStride
      if !dieUp s (coreDie c) || !coreLive s c then linkAnswer freed r 0x22 0 0
      else if (loc - loftBase) % loftStride ≥ loftSize c then linkAnswer freed r 0x23 0 0
      else loftLink freed kind r loc
    else linkAnswer freed r 0x23 0 0

/-- READ and READ16. -/
def execLinkRead (port : Nat) (r : LinkReq) (s : State) : Out := .next (linkIn port .gets r s)
/-- WR. -/
def execLinkWr (port : Nat) (r : LinkReq) (s : State) : Out := .next (linkIn port .wr r s)
/-- ATOM. -/
def execLinkAtom (port : Nat) (r : LinkReq) (s : State) : Out := .next (linkIn port .atom r s)
/-- RED and REDW. -/
def execLinkRed (port : Nat) (r : LinkReq) (s : State) : Out := .next (linkIn port .red r s)
/-- STRIP: the mark's context is none of this device's, so none is set (R212). -/
def execLinkStrip (port : Nat) (r : LinkReq) (s : State) : Out := .next (linkIn port .strip r s)

/-! ### Responses to this device's requests (R205, R299, R369) -/

/-- A line or granule of another device reaches the slice that asked for it: it is installed as FAR under the reader's tag, valid while the epoch
is that of the request (R205), and answers the read. One for the Turnpike goes to it alone (R169). -/
def farData (s : State) (m : Msg) (v : Line) (bad : Bool) : State :=
  match getBusy s m.die m.line with
  | none => if m.req = .turnpike then reply s m .data v bad.toNat else s
  | some t =>
    if t.msg ≠ m then (if m.req = .turnpike then reply s m .data v bad.toNat else s) else
      if m.flags ≥ 8 then
        let g := m.thread % 4
        leaveBusy (reply s m .data (BitVec.ofNat 512 (lineNat v 0 16 * 2 ^ (128 * g))) (bad.toNat + 12 + 16 * g)) m.die m.line
      else
        let s := match farTagOf s m.req with
          | some tag =>
            if bad || !getsAlloc m then s else
              install s m.die m.line (agentInst s m.req m.line)
                { st := .far, data := v, strm := gutBy t.gut m.req, tag := tag, epoch := t.step, valid := farEpoch s m.die m.line tag = t.step && !s.coh.sweeps.contains (m.die * 96 + sliceOf m.line, tag) }
          | none => s
        leaveBusy (reply s m .data v (bad.toNat + 4)) m.die m.line

/-- The answer that a response carries (R289, R299). -/
def LMsg.ans (m : LMsg) : Option LinkAns :=
  match m.op with
  | 0x20 => some .ack
  | 0x21 => some (.result (BitVec.ofNat 64 m.data.toNat))
  | 0x22 => some .fenced
  | 0x23 => some .error
  | _ => if opClass m.op ≠ 2 then none else some (if m.param % 2 = 1 then .bad m.data else .data m.data)

/-- A response reaches its requester, or is dropped: with no request of its tag (R304), or as stale (R369). It always sinks, so its slots in the ingress
buffer go free at once (R292, R293). -/
def execLinkResponse (port tag gen : Nat) (ans : LinkAns) (s : State) : Out :=
  .next (match takeIn s port (fun m => m.tag = tag && m.gen = gen && m.ans = some ans) with
    | none => s
    | some (r, s) =>
    let s := freeSlots s port r
    match s.link.far.find? (fun f => f.port = port && f.tag = tag) with
    | none => s
    | some f =>
      let m := f.msg
      let s1 := { s with link := { s.link with far := s.link.far.erase f } }
      wakeTags port (
      if gen ≠ rd s .IN_STATUS_GEN f.inst then farFree (bumpSat s1 .IN_STATUS_STALE f.inst) m
      else
        let s2 := toll s1 f.ctx 5 r.bytes
        match ans, m.kind with
        | .data v, .gets => farData s2 m v false
        | .bad v, .gets => farData s2 m v true
        | .result v, .atom => reply s2 m .atomResult (BitVec.ofNat 512 v.toNat) 0
        | .ack, .gets => s
        | .ack, .atom => s
        | .ack, _ => reply s2 m .ack 0 0
        | .fenced, _ => farFail s2 m true
        | .error, _ => farFail s2 m false
        | _, _ => s))

/-! ### Time transfer (R301) -/

/-- The average of the exchanges, in 1/8 ns, of values that are twice what is averaged, in ns. -/
def ttAvg (l : List Int) : Int :=
  let n := l.sum * 4
  if n ≥ 0 then (divOpen n.toNat l.length : Nat) else -((divOpen (-n).toNat l.length : Nat) : Int)

/-- An exchange that has been answered gives delay, offset and their averages; the parent port steers MST where no REF input does. -/
def ttTake (s : State) (port : Nat) (e : TtStamps) : State :=
  let d2 : Int := ((e.t4 : Int) - e.t1) - ((e.t3 : Int) - e.t2)
  let o2 : Int := ((e.t2 : Int) - e.t1) - ((e.t4 : Int) - e.t3)
  let x := getPort s port
  let tt := (x.tt ++ [(d2, o2)]).drop (x.tt.length + 1 - 64)
  let delay := ttAvg (tt.map (·.1))
  let off := ttAvg (tt.map (·.2))
  let s := setPort s port { x with tt := tt, ttUnc := e.uncert }
  let s := wr (wr s .LK_TT_DELAY port (wrap 16 delay)) .LK_TT_OFFSET port (wrap 16 off)
  if tt.length < 64 then s else
    let s := wr s .LK_TT_VALID port 1
    if rd s .MST_CTRL_LINK_PORT ≠ port then s else
      let s := wr0 s .MST_STATUS_LINK_OK 1
      if !flag s .MST_CTRL_LINK_EN || rd s .MST_STATUS_SOURCE = 1 then s else
        let ns : Int := if off ≥ 0 then (divOpen off.toNat 8 : Nat) else -((divOpen (-off).toNat 8 : Nat) : Int)
        let s := wr0 s .MST_STATUS_EPOCH e.epoch.toNat
        let s := if s.time.isSet then mstCorrect s ns else mstLoad s ((s.time.mst : Int) + ns).toNat
        mstSource s 2 (linkUnc s)

/-- 125 µs have passed since the last request: its exchange, if it has been answered, counts, and the next begins (log 108, DESIGN CHOICE). -/
def execTtExchange (port t1 t2 t3 t4 : Nat) (epoch : Bool) (s : State) : Out :=
  .next (
    let x := getPort s port
    if port ≥ 8 || !portUp s port || !flag s .LK_STATUS_PARTNER_TT port || s.now < x.ttAt + 125000 then s else
    match x.ttOrigin with
    | none => ttAsk s port
    | some e => if e = { t1 := t1, t2 := t2, t3 := t3, t4 := t4, epoch := epoch, uncert := e.uncert } then ttAsk (ttTake s port e) port else s)

/-- A TT_REQ that has arrived: the port stamps it and answers with its stamps, its EPOCH and its UNCERT (log 108, DESIGN CHOICE). -/
def execTtReq (port : Nat) (t1 : Nat) (s : State) : Out :=
  .next (match takeIn s port (fun m => m.op = 0x63 && m.data.toNat % 2 ^ 64 = t1) with
    | none => s
    | some (r, s) =>
      let s := freeSlots s port r
      if !portUp s port then s else
        let stamps := t1 + mstNow s * 2 ^ 64 + mstNow s * 2 ^ 128 + rd s .MST_STATUS_UNCERT * 2 ^ 192
        (portPut s port { op := 0x64, dest := rd s .LK_STATUS_PARTNER port, src := myDev s, tag := rd s .MST_STATUS_EPOCH, data := BitVec.ofNat 512 stamps }).2)

/-- A TT_RSP that has arrived: the four stamps of the exchange stand with the port until it counts (log 108, DESIGN CHOICE). -/
def execTtRsp (port t2 t3 : Nat) (s : State) : Out :=
  .next (match takeIn s port (fun m => m.op = 0x64 && bits m.data.toNat 64 64 = t2 && bits m.data.toNat 128 64 = t3) with
    | none => s
    | some (r, s) =>
      let s := freeSlots s port r
      let x := getPort s port
      match x.ttSent with
      | some t1 =>
        if bits r.data.toNat 0 64 ≠ t1 then s else
          setPort s port { x with ttSent := none, ttOrigin := some { t1 := t1, t2 := t2, t3 := t3, t4 := mstNow s, epoch := r.tag % 2 = 1, uncert := bits r.data.toNat 192 16 } }
      | none => s)

end Sys2Proof.Machine
end

