-- ==== Sys2Proof/Machine/Reliab.lean ====
section
/-! DEFINITION. Fencing, online test, core reset and ageing (R431, R465, R470-R481). Log 111, DEDUCED: what a fence or test request does while another
fence waits, and the phase shown; log 112, DEDUCED: roundings and the empty case of a resurvey. -/

namespace Sys2Proof.Machine

/-! ### Fences (R470, R471) -/

/-- A planned fence: at once for an idle core, else after the pre-emption of its block. A fenced core's request completes at once. -/
def fencePlan (s : State) (core cause : Nat) : State :=
  if core ≥ 832 || flag s .RL_FENCE_STATUS_BUSY then s
  else if !coreLive s core then wr0 s .RL_FENCE_STATUS_CORE core
  else
    let s := wr0 (wr0 s .RL_FENCE_STATUS_CORE core) .RL_FENCE_STATUS_BUSY 1
    let s := { s with rel := { s.rel with fencing := some (core, cause) } }
    if (getCore s core).ctx.isNone then fenceCore s core cause false else askPreempt s core

/-- A forced fence: it supersedes a planned fence of the core that waits; for the core under test it only keeps the core fenced (R476). -/
def fenceForce (s : State) (core cause : Nat) : State :=
  let old := s.rel.fencing
  let mine := (old.map (·.1)) = some core
  if core ≥ 832 || (cause = 2 && flag s .RL_FENCE_STATUS_BUSY && !mine) then s
  else
    let s := { s with rel := { s.rel with mustFence := s.rel.mustFence.filter (· ≠ core) } }
    if !coreLive s core then
      let s := if rd s .RL_TEST_STATUS_STATE = 1 && rd s .RL_TEST_STATUS_CORE = core then { s with rel := { s.rel with testForced := true } } else s
      if cause = 2 then wr0 s .RL_FENCE_STATUS_CORE core else s
    else
      let s := fenceCore s core cause true
      let s := { s with sched := { s.sched with wantPre := s.sched.wantPre.filter (· ≠ core) } }
      let s := setCore s core { getCore s core with preempting := false }
      if old.isSome && !mine then wr0 { s with rel := { s.rel with fencing := old } } .RL_FENCE_STATUS_BUSY 1 else s

/-- A planned fence: cause 1 by register, 3 for a test. -/
def execFencePlanned (core cause : Nat) (s : State) : Out := .next (if cause = 1 || cause = 3 then fencePlan s core cause else s)

/-- A forced fence: cause 2 by register, 4 a second uncorrectable error within 24 hours (R465), 5 a power-gate fault. -/
def execFenceForced (core cause : Nat) (s : State) : Out :=
  .next (if cause = 2 || cause = 5 || (cause = 4 && s.rel.mustFence.contains core) then fenceForce s core cause else s)

/-! ### Core reset (R431) -/

/-- Files, caches, loft, banks and queues of a core domain are cleared. The identities of requests and the resume count stay. -/
def coreClear (s : State) (c : Nat) : State :=
  let k := getCore s c
  let s := { s with mem := s.mem.filter (fun e => !(loftAt c ≤ e.1 && e.1 < loftAt c + loftStride)) }
  dropWalks (dropDescs (setCore s c { nextOp := k.nextOp, resumes := k.resumes, gated := k.gated, gate := k.gate }) c) c

/-- A core reset, of a core that holds no work block (R431); an agent on it restarts (R446). -/
def execCoreReset (core : Nat) (s : State) : Out :=
  .next (if core ≥ 832 || (getCore s core).ctx.isSome then s else
    let s := if isAgent s core then startRestart s (coreHalf core) else s
    coreClear s core)

/-! ### Online test (R473-R476) -/

/-- A test runs. -/
def testing (s : State) : Bool := rd s .RL_TEST_STATUS_STATE = 1

/-- A request for a test, of a manager or of the MC for the first candidate (R465). -/
def execOnlineTest (core : Nat) (auto : Bool) (s : State) : Out :=
  .next (
    let factory := core < 832 && (rd s .ORG_FACTORY_LIVE_LIVE (core / 64)).testBit (core % 64)
    if auto && (!flag s .RL_CFG_AUTO_TEST || s.rel.cands.head? ≠ some core || testing s || !factory) then s
    else if testing s || !factory then wr0 s .RL_TEST_STATUS_REFUSED 1
    else if coreLive s core && flag s .RL_FENCE_STATUS_BUSY && (s.rel.fencing.map (·.1)) ≠ some core then s
    else
      let s := { s with rel := { s.rel with cands := s.rel.cands.filter (· ≠ core), testForced := false } }
      let s := wr0 (wr0 (wr0 (wr0 s .RL_TEST_STATUS_CORE core) .RL_TEST_STATUS_STATE 1) .RL_TEST_STATUS_PHASE 1) .RL_TEST_STATUS_ABORTED 0
      let s := bumpSat s .RL_TEST_STATUS_TESTS
      if coreLive s core then fencePlan s core 3 else s)

/-- The running test stops (R476): the core stays fenced. -/
def abortTest (s : State) (cause : Nat) : State :=
  if !testing s then s else
    let c := rd s .RL_TEST_STATUS_CORE
    let s := wr0 (wr0 s .RL_TEST_STATUS_STATE 0) .RL_TEST_STATUS_ABORTED 1
    logErr { s with rel := { s.rel with testForced := false } } { mst := 0, code := 0x0704, sev := 5, loc := c, detail := cause }

/-- RL_TEST_CTRL.ABORT. -/
def execTestAbort (s : State) : Out := .next (abortTest s 3)

/-- The stop of a core is closed (R265). -/
def stopClosed (s : State) (c : Nat) : Bool := (rd s .NET_CLOSED_CLOSED (coreHalf c * 2 + c % 104 / 64)).testBit (c % 104 % 64)

/-- A test ends (R475): `failPhase` 0 when every phase passed. -/
def execTestComplete (failPhase us : Nat) (s : State) : Out :=
  .next (
    let c := rd s .RL_TEST_STATUS_CORE
    let phases := if coreType c = 1 then [1, 2, 3, 4, 5, 6, 7] else [1, 2, 3, 4, 7]
    if !testing s || coreLive s c || (s.rel.fencing.map (·.1)) = some c || (failPhase ≠ 0 && !phases.contains failPhase) then s else
      let code := rd s .PW_DIE_STATUS_CODE (coreDie c)
      if failPhase = 0 then
        let s := coreClear s c
        -- the core of a closed stop stays out of ORG_LIVE (R265)
        let s := if s.rel.testForced || stopClosed s c then s else
          let s := setLive (setCore s c { getCore s c with gated := false, halted := false }) c true
          -- the agent's S-core belongs to no instance (R360)
          if isAgent s c then leaveInst s c else s
        let s := wr0 (wr0 s .RL_TEST_STATUS_STATE 2) .RL_TEST_STATUS_PHASE 0
        logErr { s with rel := { s.rel with testForced := false } } { mst := 0, code := 0x0702, sev := 5, loc := c, detail := us % 2 ^ 32 + code * 2 ^ 32 }
      else
        let s := bumpSat (wr0 (wr0 s .RL_TEST_STATUS_STATE 3) .RL_TEST_STATUS_PHASE failPhase) .RL_TEST_STATUS_FAILS
        logErr { s with rel := { s.rel with testForced := false } } { mst := 0, code := 0x0703, sev := 2, loc := c, detail := failPhase + code * 2 ^ 32 })

/-! ### Ageing (R478-R481) -/

def halfAge (s : State) (h : Nat) : HalfAge := s.rel.age.getD h {}

/-- The next multiple of 5 mV at or above a voltage in µV. -/
def up5 (uv : Nat) : Nat := (uv + 4999) / 5000 * 5

/-- A half's table in force, in mV by code; the factory's holds the 10 mV guard band. -/
def ageTable (s : State) (h : Nat) : List Nat :=
  let t := (halfAge s h).table
  if t.isEmpty then (List.range 57).map (fun c => up5 ((Config.vNom h c + 10) * 1000)) else t

/-- The new table of a half for the largest degradation `d` in ppm. -/
def newTable (s : State) (h d : Nat) : List Nat :=
  let g := rd s .RL_AGE_CFG_G_BASE_MV
  ((List.range 57).zip (ageTable s h)).map (fun e => max (up5 ((Config.vNom h e.1 + g) * 1000 + Config.ageK h * d)) e.2)

/-- The resurvey of one half: table, D values, ceiling and margins (R480). -/
def resurveyHalf (ppm : List Nat) (s : State) (h : Nat) : State :=
  let ds := (ppm.drop (16 * h)).take 16
  let d := ds.foldl max 0
  let t := newTable s h d
  let top := 900 - rd s .RL_AGE_CFG_MARGIN_MIN_MV
  let old := rd s .RL_AGE_STATUS_CEIL h
  let ceil := min old (((List.range 57).filter (fun c => t.getD c 0 ≤ top)).getLastD 0)
  let mTop := wrap 16 (900 - (t.getD 56 0 : Int))
  let mRated := wrap 16 (900 - (t.getD 42 0 : Int))
  let dv := rd s .RL_AGE_CFG_G_BASE_MV + divOpen (Config.ageK h * d) 1000
  let s := { s with rel := { s.rel with age := s.rel.age.set h {} { d := ds, table := t } } }
  let s := wr (wr (wr s .RL_AGE_STATUS_D_MAX h d) .RL_AGE_STATUS_DV_MV h dv) .RL_AGE_STATUS_CEIL h ceil
  wr (wr s .RL_AGE_STATUS_MARGIN_TOP h mTop) .RL_AGE_STATUS_MARGIN_RATED h mRated

/-- AGE_CEILING_LOWERED of a half whose ceiling was `old` before the resurvey. -/
def ceilLowered (s : State) (h old : Nat) : State :=
  let ceil := rd s .RL_AGE_STATUS_CEIL h
  if ceil < old then logErr s { mst := 0, code := 0x0802, sev := 5, loc := h, detail := detail2 old ceil } else s

/-- RATED_MARGIN_LOW of a half. -/
def ratedLow (s : State) (h : Nat) : State :=
  let m := rd s .RL_AGE_STATUS_MARGIN_RATED h
  if sext 16 m < rd s .RL_AGE_CFG_RATED_WARN_MV then logErr s { mst := 0, code := 0x0803, sev := 5, loc := h, detail := m } else s

/-- RESURVEY_DONE of a half. -/
def resurveyed (s : State) (h : Nat) : State :=
  let d := rd s .RL_AGE_STATUS_D_MAX h % 2 ^ 32 + rd s .RL_AGE_STATUS_CEIL h * 2 ^ 32 + rd s .RL_AGE_STATUS_MARGIN_TOP h * 2 ^ 64 +
    rd s .RL_AGE_STATUS_MARGIN_RATED h * 2 ^ 96
  logErr s { mst := 0, code := 0x0801, sev := 5, loc := h, detail := d }

/-- A resurvey is due by RUN_HOURS or was asked for (R479). -/
def resurveyDue (s : State) : Bool :=
  flag s .RL_AGE_CTRL_BUSY || rd s .RL_AGE_HOURS_LAST_RESURVEY_H + rd s .RL_AGE_CFG_INTERVAL_H ≤ rd s .RL_AGE_HOURS_RUN_HOURS

/-- A resurvey, with D of each of the 128 pairs in ppm (R480, R481): each die's ageing ceiling is the lower of its halves'; the records follow in the
order of R481. -/
def execResurvey (ppm : List Nat) (s : State) : Out :=
  .next (if !resurveyDue s || !diesRun s then s else
    let olds := (List.range 8).map (fun h => (h, rd s .RL_AGE_STATUS_CEIL h))
    let s := each (List.range 8) (resurveyHalf ppm) s
    let s := each olds (fun s e => ceilLowered s e.1 e.2) s
    let s := each (List.range 4) (fun s d =>
      settleDie (wr s .PW_DIE_STATUS_AGE_CEIL d (min (rd s .RL_AGE_STATUS_CEIL (2 * d)) (rd s .RL_AGE_STATUS_CEIL (2 * d + 1)))) d) s
    let s := each (List.range 8) resurveyed (each (List.range 8) ratedLow s)
    syncPow (wr0 (wr0 s .RL_AGE_HOURS_LAST_RESURVEY_H (rd s .RL_AGE_HOURS_RUN_HOURS)) .RL_AGE_CTRL_BUSY 0))

/-- The hourly measurement (R478, R482): an hour of Run and Trim has passed. -/
def execAgeMeasure (ppm : List Nat) (s : State) : Out :=
  .next (if s.boot.runNs < s.boot.hourMark + 3600000000000 then s else
    let s := bump { s with boot := { s.boot with hourMark := s.boot.hourMark + 3600000000000 } } .RL_AGE_HOURS_RUN_HOURS
    { s with rel := { s.rel with age := (List.range 8).foldl (fun m h =>
        m.set h {} { m.getD h {} with d := (ppm.drop (16 * h)).take 16 }) s.rel.age } })

end Sys2Proof.Machine
end

