-- ==== Sys2Proof/Machine/Dies.lean ====
section
/-! DEFINITION. The loss, isolation, return and reset of dies and halves (R26, R27, R234, R263-R267, R273, R275, R430). Log 104, DESIGN CHOICE: the fault code of a
context killed with a die; log 105, DESIGN CHOICE: what of the coherence traffic and the write-combining buffers is lost, and how; log 106, DEDUCED: which closed stops
leave a die unroutable; log 110, DEDUCED: which pages count as a context's. -/

namespace Sys2Proof.Machine

/-! ### Contexts that go with a die (R26, R27) -/

/-- Whether a table at a level, or what it maps, meets `[lo, hi)` of the local space. -/
def tableMeets (s : State) (lo hi : Nat) : Nat → Nat → Nat → Bool
  | 0, _, _ => false
  | f + 1, lvl, a =>
    (lo ≤ a && a < hi) || (List.range (if lvl = 3 then 32 else 512)).any (fun i =>
      let e := orderNat s (myDev s * 2 ^ 40 + a + 8 * i) 8
      let t := pteAddr e
      if !tb e 0 then false
      else if tb e 1 then devOf t = myDev s && locOf t < hi && lo < locOf t + 2 ^ ptLeafLog lvl
      else tableMeets s lo hi f (lvl + 1) t)

/-- A context has a page in a die's deck (log 110, DEDUCED). -/
def pageOnDie (s : State) (n : Nat) (x : Ctx) (d : Nat) : Bool :=
  s.deck.owner.any (fun e => e.2 = n && pageOf (d * dieBytes) ≤ e.1 && e.1 < pageOf ((d + 1) * dieBytes)) ||
    tableMeets s (d * dieBytes) ((d + 1) * dieBytes) 4 0 x.ptRoot

/-- Contexts that are killed: with a block on one of the halves, a page on the die, or a waymark of their window in the halves' banks. -/
def doomed (s : State) (d : Nat) (halves : List Nat) : List Nat :=
  (s.sched.ctxs.filter (fun e =>
    e.2.st ≠ .dead && (
      s.cores.any (fun k => k.2.ctx = some e.1 && halves.contains (coreHalf k.1)) || pageOnDie s e.1 e.2 d ||
      halves.any (fun h => e.2.wmBase < 512 * (h + 1) && 512 * h < e.2.wmBase + 2 ^ e.2.wmLog2)))).map (·.1)

/-- Kill a context for the loss of a die: the code and DETAIL are open (log 104, DESIGN CHOICE). -/
def killLost (s : State) (n : Nat) : State :=
  let (k, s) := free s
  let (d, s) := free s
  raiseFault s { ctx := n, code := faultCodes.getD (k % faultCodes.length) 0x0206, detail := d % 2 ^ 64, core := 1024 }

/-! ### What is lost (R26, R27, R430; log 105, DESIGN CHOICE) -/

/-- A core loses its state; the context that it runs stays with it until its kill is complete. -/
def loseCore (s : State) (c : Nat) : State :=
  let k := getCore s c
  let s := { s with mem := s.mem.filter (fun e => !(loftAt c ≤ e.1 && e.1 < loftAt c + loftStride)) }
  setCore s c { ctx := k.ctx, blocks := k.blocks, halted := k.ctx.isSome, killed := k.ctx.isSome, gated := k.gated, nextOp := k.nextOp, resumes := k.resumes,
                since := k.since, sinceCyc := k.sinceCyc }

/-- A slice is one of the halves'. -/
def inHalves (halves : List Nat) (die slice : Nat) : Bool := halves.contains (sliceHalf die slice)

/-- The line is homed on the die. -/
def homedOn (s : State) (d line : Nat) : Bool := isLocal s line && homeDie line = d

/-- An agent that is lost with the halves. -/
def agentLost (halves : List Nat) : Agent → Bool
  | .core c => halves.contains (coreHalf c)
  | .guest d t => inHalves halves d t
  | .engine ch => halves.contains (chanHalf ch)
  | .walker h => halves.contains h
  | _ => false

/-- A message whose sender's or receiver's side is lost: a request of a lost agent; what goes to a lost slice or to the deck of a lost home. -/
def msgLost (s : State) (d : Nat) (halves : List Nat) (m : Msg) : Bool :=
  if isReq m.kind then agentLost halves m.req
  else match m.kind with
    | .deckRead => homedOn s d m.line
    | .writeBack => homedOn s d m.line
    | .residencyNote => homedOn s d m.line
    | .inv => agentLost halves m.req && inHalves halves m.die m.slice
    | .ack => if m.op = 1 then inHalves halves m.die m.slice else agentLost halves m.req
    | .data => if m.op = 1 then inHalves halves m.die m.slice else agentLost halves m.req
    | .fwdShare => inHalves halves m.die m.slice
    | .fwdOwn => inHalves halves m.die m.slice
    | .fwdRecall => inHalves halves m.die m.slice
    | .fwdDrop => inHalves halves m.die m.slice
    | _ => agentLost halves m.req

/-- An entry that survives, without the bits of lost holders: a home line whose owner is lost has an open value. -/
def trimEntry (s : State) (halves : List Nat) (key : Nat) (e : SEntry) : SEntry × State :=
  let line := key % 2 ^ 46
  let die := key / 2 ^ 46
  let sh := ((List.range 208).filter (fun i => has e.sharers i && halves.contains (coreHalf (die * 208 + i)))).foldl (fun (m : BitVec 208) i => m &&& ~~~(bit 208 i)) e.sharers
  let gone := (guestList e.guests).filter (fun g => inHalves halves g (sliceOf line))
  let gs := gone.foldl (fun (m : BitVec 4) g => m &&& ~~~(bit 4 g)) e.guests
  if e.st = .hg && !gone.isEmpty then
    let (v, s) := free s
    ({ e with st := .hd, data := BitVec.ofNat 512 v, guests := gs, sharers := sh }, s)
  else ({ e with guests := gs, sharers := sh }, s)

/-- A transaction that waits for a lost owner ends: its requester is answered FENCED; one of a lost requester ends in silence. One in a lost slice ends
so too, and what waited behind it goes back to the networks, where it is answered FENCED (R273). -/
def endLostTxns (s : State) (d : Nat) (halves : List Nat) : State :=
  let wants := fun (k : Nat) (t : Txn) =>
    agentLost halves t.msg.req || homedOn s d (k % 2 ^ 46) ||
      s.coh.net.any (fun m => m.line = k % 2 ^ 46 && inHalves halves m.die m.slice && (match m.kind with
        | .fwdShare => true | .fwdOwn => true | .fwdRecall => true | .fwdDrop => true | _ => false))
  let dead := s.coh.busy.filter (fun e => inHalves halves (e.1 / 2 ^ 46) (sliceOf (e.1 % 2 ^ 46)))
  let hit := s.coh.busy.filter (fun e => !inHalves halves (e.1 / 2 ^ 46) (sliceOf (e.1 % 2 ^ 46)) && wants e.1 e.2)
  let s := { s with coh := { s.coh with busy := s.coh.busy.filter (fun e => !dead.any (fun x => x.1 = e.1)) } }
  let fence := fun (s : State) (m : Msg) => if agentLost halves m.req || !isReq m.kind then s else reply s m .fenced 0 0
  let s := each dead (fun s e => fence { s with coh := { s.coh with net := e.2.waiting ++ s.coh.net } } e.2.msg) s
  each hit (fun s e => leaveBusy (fence s e.2.msg) (e.1 / 2 ^ 46) (e.1 % 2 ^ 46)) s

/-- Every outstanding access of a surviving core to a line homed on the die completes FENCED (R26, R27). -/
def failHomed (s : State) (d : Nat) (halves : List Nat) : State :=
  each ((s.cores.filter (fun e => !halves.contains (coreHalf e.1))).map (·.1)) (fun s c =>
    each (getCore s c).outs (fun s o =>
      each (distinct ((o.parts.map (fun p => p.addr / 64)).filter (homedOn s d))) (fun s line => coreFail s c o.id line 0x0206 0) s) s) s

/-- So does every access of the Turnpike (R328) and of the host (R313). -/
def failTurnpike (s : State) (d : Nat) : State :=
  let s := each s.host.cmds (fun s c => each (c.far.filter (fun f => homedOn s d f.2.1)) (fun s f => tpFail s f.1 f.2.1 0x0206 0) s) s
  each (s.host.window.flatMap (fun w => w.sent.filter (fun p => homedOn s d p.2))) (fun s p => hdmGot s p.1 none) s

/-- And every request of a deck engine (R246). -/
def failEngines (s : State) (d : Nat) (halves : List Nat) : State :=
  each ((s.deck.chans.filter (fun e => !halves.contains (chanHalf e.1))).flatMap (fun e => e.2.queue.flatMap (fun q =>
    (q.awaiting.filter (homedOn s d)).map (fun l => (e.1, l, 0)) ++ (q.reds.filter (homedOn s d)).map (fun l => (e.1, l, 1))))) (fun s p =>
      engineFenced s p.1 p.2.1 p.2.2) s

/-- The L1s of surviving cores lose the lines homed on the die (R26, R27). -/
def l1Lose (s : State) (d : Nat) : State :=
  each s.cores.keys (fun s c => each (((getCore s c).l1.map (·.1)).filter (homedOn s d)) (fun s line => l1Drop s c line) s) s

/-- Coherence after the loss of the halves' slices and cores, and of every line homed on the die. -/
def cohLose (s : State) (d : Nat) (halves : List Nat) : State :=
  let s := endLostTxns s d halves
  let s := l1Lose (failEngines (failTurnpike (failHomed s d halves) d) d halves) d
  let s := each (s.link.inReqs.filter (fun q => homedOn s d (q.r.addr / 64))) (fun s q => portAnswer s q.port q.id 0x22 0 0) s
  let net := (s.coh.net.filter (fun m => !msgLost s d halves m)).map (fun m =>
    if m.kind = .inv && agentLost halves m.req then { m with kind := .ack, op := 1 } else m)
  let keep := s.coh.lines.filter (fun e => !inHalves halves (e.1 / 2 ^ 46) (sliceOf (e.1 % 2 ^ 46)) && !homedOn s d (e.1 % 2 ^ 46))
  let (lines, s) := keep.foldl (fun (a : SMap SEntry × State) e => let (x, s) := trimEntry a.2 halves e.1 e.2; (a.1 ++ [(e.1, x)], s)) ([], s)
  let here := fun (k : Nat) => inHalves halves (k / 2 ^ 46) (sliceOf (k % 2 ^ 46)) || homedOn s d (k % 2 ^ 46)
  { s with coh := { s.coh with
    net := net
    lines := lines
    tickets := (SMap.mapV (s.coh.tickets.filter (fun e => !here e.1)) (fun _ (l : List Ticket) => l.filter (fun t => !agentLost halves t.agent))).filter (fun (e : Nat × List Ticket) => !e.2.isEmpty)
    refused := s.coh.refused.filter (fun r => !agentLost halves r.msg.req && !homedOn s d r.msg.line)
    victims := s.coh.victims.filter (fun e => !here e.1)
    streams := s.coh.streams.filter (fun e => !inHalves halves (e.1 / 96) (e.1 % 96))
    pendInv := s.coh.pendInv.filter (fun p => !inHalves halves p.die (sliceOf p.line)) } }

/-- Whether an event in flight is lost with halves (R273, R275): it is pending at a boundary of theirs, or has only to reach its receiver there. -/
def flightLost (halves : List Nat) (f : WmFlight) : Bool :=
  match f.pend with
  | [] => halves.contains (evDest f.ev)
  | b :: _ => halves.contains (boundaryEnds b).1 || halves.contains (boundaryEnds b).2

/-- Take the Waymark events that are lost with the halves out of flight, with their pending counts; the banks' waymarks are zero, no watch is set. -/
def wmLose (s : State) (halves : List Nat) : State :=
  let s := each (s.wm.flight.filter (flightLost halves)) (fun s f => each (f.pend.take 1) pendLess s) s
  let clearWatch := fun (w : Waymark) => { w with watch := halves.foldl (fun (m : BitVec 8) h => m &&& ~~~(bit 8 h)) w.watch }
  { s with wm := { s.wm with
    marks := (SMap.mapV (s.wm.marks.filter (fun e => !halves.contains (e.1 / 512))) (fun _ w => clearWatch w)).filter (fun (e : Nat × Waymark) => e.2 ≠ {})
    flight := s.wm.flight.filter (fun f => !flightLost halves f)
    reads := s.wm.reads.filter (fun r => !halves.contains (coreHalf r.core)) } }

/-- The channels of the halves lose their write-combining entries and the descriptors of their cores, and a ZERO of the Turnpike's begins its portion again (R225); walks
and caches of the halves go. -/
def chanLose (s : State) (d : Nat) (halves : List Nat) : State :=
  { s with
    deck := { s.deck with
      chans := (s.deck.chans.mapV (fun ch c => if halves.contains (chanHalf ch) then
        { c with wcb := [], queue := (c.queue.filter (·.turnpike)).map (fun q => { q with awaiting := [], asked := [], read := [], passed := false }), sub := [],
                 refBusy := none, refKind := 0, forced := false, critTurn := false } else c)).filter (fun (e : Nat × Chan) => e.2 ≠ {})
      res := s.deck.res.filter (fun e => chanHalf (chanOf (e.1 * 65536)) / 2 ≠ d)
      engTlb := s.deck.engTlb.filter (fun e => !halves.contains (chanHalf (4 * e.1)))
      walkTlb := s.deck.walkTlb.filter (fun e => !halves.contains e.1)
      wins := s.deck.wins.filter (fun e => !halves.contains e.1)
      walks := s.deck.walks.filter (fun w => !halves.contains w.half && !agentLost halves w.agent) } }

/-- Everything that the named halves of a die hold is lost. -/
def loseHalves (s : State) (d : Nat) (halves : List Nat) : State :=
  let s := wmLose (cohLose s d halves) halves
  let s := chanLose s d halves
  each ((s.cores.filter (fun e => halves.contains (coreHalf e.1))).map (·.1)) loseCore s

/-! ### The fatal path (R26) -/

/-- DIE_DOWN shows a die that is held in reset. -/
def setDown (s : State) (d : Nat) (b : Bool) : State :=
  let m := rd s .PS_STATUS_DIE_DOWN
  wr0 s .PS_STATUS_DIE_DOWN (if b = tb m d then m else if b then m + 2 ^ d else m - 2 ^ d)

/-- The die steward's course for a fatal fault, up to the reset (R26 steps 1 to 3, R430 steps 1 and 2). -/
def dieLost (s : State) (d : Nat) (r : Option ErrRec) : State :=
  let halves := dieHalves d
  let s := each (doomed s d halves) killLost s
  let s := match r with | some r => logErr s r | none => s
  let s := if testing s && coreDie (rd s .RL_TEST_STATUS_CORE) = d then abortTest s 2 else s
  let s := loseHalves s d halves
  let s := { s with
    die := { s.die with down := s.die.down ++ [d], isolated := (s.die.isolated.del (2 * d)).del (2 * d + 1),
                         resync := (bridgesOf d).foldl (fun r b => SMap.del r (8 + b)) (s.die.resync.del d) }
    pow := { s.pow with target := s.pow.target.del d, wantReq := s.pow.wantReq.filter (· ≠ d), cur := s.pow.cur.del d
                        stretch := s.pow.stretch.filter (fun e => e.1 / 2 ≠ d), tripped := s.pow.tripped.filter (fun q => q / 16 ≠ d)
                        samples := s.pow.samples.filter (fun e => e.1 / 2 ≠ d) } }
  let s := wr s .PW_DIE_STATUS_TRANSITION d 0
  setDown (each (List.range 8) (fun s p => wakeTags p s) s) d true

/-- A die that answers, in a device that runs. -/
def dieRuns (s : State) (d : Nat) : Bool := d < 4 && diesRun s && !s.die.down.contains d && !s.die.dead.contains d

/-- A router faults (R266): fatal to the die, and the next self-test closes the stop. -/
def execRouterFault (die stop : Nat) (s : State) : Out :=
  .next (if !dieRuns s die || stop ≥ 208 then s else
    let k := die * 208 + stop
    let s := if s.die.faulted.contains k then s else { s with die := { s.die with faulted := s.die.faulted ++ [k] } }
    dieLost s die (some { mst := 0, code := 0x0301, sev := 3, loc := die, detail := detail2 (stop % 104) (stop / 104) }))

/-- A slice domain or always-on slice loses power (R26); which of the two is not an operand, so the record's domain is open. -/
def execDomainPowerLoss (die quad : Nat) (s : State) : Out :=
  .next (if !dieRuns s die || quad ≥ 16 then s else
    let (v, s) := free s
    dieLost s die (some { mst := 0, code := 0x0601, sev := 3, loc := die, detail := detail2 quad v }))

/-- A deck sensor has stood at 98 °C or above for 100 µs (R234). -/
def execThermalTrip (die quad : Nat) (s : State) : Out :=
  .next (match s.deck.hotSince.get (quadKey die quad) with
    | some t =>
      if !dieRuns s die || quad ≥ 16 || s.now < t + 100000 then s else
        dieLost { s with deck := { s.deck with hotSince := s.deck.hotSince.del (quadKey die quad) } } die
          (some { mst := 0, code := 0x0602, sev := 3, loc := die, detail := rd s .DK_TEMP_MAX die })
    | none => s)

/-! ### Self-test, closed stops and routes (R263-R265) -/

/-- The stop at a column of the die's 26 and a row. -/
def stopAt (col row : Nat) : Nat := col / 13 * 104 + row * 13 + col % 13
def dieCol (t : Nat) : Nat := t / 104 * 13 + t % 104 % 13
def dieRow (t : Nat) : Nat := t % 104 / 13

/-- Numbers from one end to the other. -/
def span (a b : Nat) : List Nat := if a ≤ b then List.range' a (b - a + 1) else List.range' b (a - b + 1)

/-- The stops of an X-first and of a Y-first path. -/
def xyPath (a b : Nat) : List Nat := (span (dieCol a) (dieCol b)).map (fun c => stopAt c (dieRow a)) ++ (span (dieRow a) (dieRow b)).map (stopAt (dieCol b))
def yxPath (a b : Nat) : List Nat := (span (dieRow a) (dieRow b)).map (stopAt (dieCol a)) ++ (span (dieCol a) (dieCol b)).map (fun c => stopAt c (dieRow b))

/-- A path passes no closed stop. -/
def pathOpen (closed l : List Nat) : Bool := l.all (fun t => !closed.contains t)

/-- The ports of a stop (0 W, 1 E, 2 N, 3 S) with the neighbours that they lead to. -/
def portsOf (a : Nat) : List (Nat × Nat) :=
  let c := dieCol a
  let r := dieRow a
  (if c > 0 then [(0, stopAt (c - 1) r)] else []) ++ (if c < 25 then [(1, stopAt (c + 1) r)] else []) ++
    (if r > 0 then [(2, stopAt c (r - 1))] else []) ++ (if r < 7 then [(3, stopAt c (r + 1))] else [])

/-- The output port of a detour entry (R263): the lowest that leads to a neighbour whose YX path is open (log 106, DEDUCED). -/
def detourPort (closed : List Nat) (a b : Nat) : Option Nat :=
  ((portsOf a).find? (fun q => pathOpen closed (yxPath q.2 b))).map (·.1)

/-- The first port of an XY path. -/
def xyPort (a b : Nat) : Option Nat :=
  if dieCol b < dieCol a then some 0 else if dieCol a < dieCol b then some 1
  else if dieRow b < dieRow a then some 2 else if dieRow a < dieRow b then some 3 else none

/-- The bypass attachment of a closed stop's slice and controllers (R265): the neighbour in its row toward column 6, that of column 6 toward column 7. -/
def bypassStop (t : Nat) : Nat := if t % 13 < 7 then t + 1 else t - 1

/-- The nearest of several rows or columns, in rising order; ties go to the lower (R264). -/
def nearestOpen (r : Nat) (l : List Nat) : Option Nat :=
  l.foldl (fun b x => match b with
    | none => some x
    | some y => if (x - r) + (r - x) < (y - r) + (r - y) then some x else b) none

/-- The row in which traffic of a row crosses the ridge (R262, R264): its own, else the nearest whose crossings have both end stops open. -/
def crossRow (closed : List Nat) (r : Nat) : Option Nat :=
  nearestOpen r ((List.range 8).filter (fun q => !closed.contains (stopAt 12 q) && !closed.contains (stopAt 13 q)))

/-- The end of a row's crossings on the side of a stop. -/
def crossEnd (a row : Nat) : Nat := stopAt (if a < 104 then 12 else 13) row

/-- The stops with attachment lanes of a bridge's end on a die (R274), along the edge. A lane on the edge to an I/O die is at each of the twelve stops nearest to it:
those away from the die's outer corner (log 106, DEDUCED). -/
def laneStops (d b : Nat) : List Nat :=
  match d, b with
  | 0, 0 => (List.range 8).map (stopAt 25) | 1, 0 => (List.range 8).map (stopAt 0)
  | 3, 2 => (List.range 8).map (stopAt 0) | 2, 2 => (List.range 8).map (stopAt 25)
  | 1, 1 => (List.range' 13 13).map (stopAt · 7) | 3, 1 => (List.range' 13 13).map (stopAt · 0)
  | 2, 3 => (List.range 13).map (stopAt · 0) | 0, 3 => (List.range 13).map (stopAt · 7)
  | 0, 4 => (List.range' 14 12).map (stopAt · 0) | 1, 5 => (List.range 12).map (stopAt · 0)
  | 2, 6 => (List.range' 14 12).map (stopAt · 7) | 3, 7 => (List.range 12).map (stopAt · 7)
  | _, _ => []

/-- A stop reaches another without a move to another crossing: by its XY path, or by a detour entry (R263). -/
def direct (closed : List Nat) (a b : Nat) : Bool := pathOpen closed (xyPath a b) || (detourPort closed a b).isSome

/-- A pair is joined (R263, R264): directly, or across the ridge in the row to which its crossings have moved. -/
def routeOk (closed : List Nat) (a b : Nat) : Bool :=
  if a / 104 = b / 104 || crossRow closed (dieRow a) = some (dieRow a) then direct closed a b
  else (crossRow closed (dieRow a)).any (fun r => direct closed a (crossEnd a r) && direct closed (crossEnd b r) b)

/-- The destinations of a router's table with the stop to which each leads, and whether that is another than its own place (R263-R265): stops; the rows' ridge
crossings, from 208; lanes of the die's three bridges, from 216, 13 to a bridge. -/
def detourDests (closed : List Nat) (d a : Nat) : List (Nat × Nat × Bool) :=
  (List.range 208).filterMap (fun b =>
    if closed.contains b then (if closed.contains (bypassStop b) then none else some (b, bypassStop b, true))
    else if a / 104 = b / 104 || crossRow closed (dieRow a) = some (dieRow a) then some (b, b, false)
    else (crossRow closed (dieRow a)).map (fun r => (b, crossEnd a r, true))) ++
  (List.range 8).filterMap (fun r => (crossRow closed r).map (fun q => (208 + r, crossEnd a q, q != r))) ++
  (List.range 3).flatMap (fun i =>
    let l := laneStops d ((bridgesOf d).getD i 8)
    (List.range l.length).filterMap (fun n =>
      (nearestOpen n ((List.range l.length).filter (fun m => !closed.contains (l.getD m 0)))).map (fun m => (216 + 13 * i + n, l.getD m 0, m != n))))

/-- The detour tables that the die steward computes for a die (R20, R263): at each open stop an entry for each destination whose XY path passes a closed stop. -/
def detourTable (closed : List Nat) (d : Nat) : SMap Nat :=
  if closed.isEmpty then [] else
    ((List.range 208).filter (fun t => !closed.contains t)).flatMap (fun a => (detourDests closed d a).filterMap (fun (key, b, moved) =>
      if a = b || (!moved && pathOpen closed (xyPath a b)) then none
      else ((detourPort closed a b).or (if pathOpen closed (xyPath a b) then xyPort a b else none)).map (fun p => ((d * 208 + a) * 512 + key, p))))

/-- The die steward writes a die's tables through the scan chain (R20). -/
def writeDetours (s : State) (d : Nat) (t : SMap Nat) : State :=
  let lo := d * 208 * 512
  let hi := (d + 1) * 208 * 512
  { s with die := { s.die with detour := s.die.detour.filter (fun e => e.1 < lo) ++ t ++ s.die.detour.filter (fun e => hi ≤ e.1) } }

/-- No set of detour entries joins every open stop to every other (R264; log 106, DEDUCED). -/
def unroutable (closed : List Nat) : Bool :=
  if closed.isEmpty then false else
    let live := (List.range 208).filter (fun t => !closed.contains t)
    live.isEmpty || live.any (fun a => live.any (fun b => a ≠ b && !routeOk closed a b))

/-- A field of one copy returns to its default. -/
def resetFld (s : State) (f : Fld) (i : Nat) : State := { s with flds := s.flds.del (f.key i) }

/-- A field of the `n` copies from `i` returns to its default. -/
def resetFlds (s : State) (f : Fld) (i n : Nat) : State := { s with flds := s.flds.filter (fun e => !(f.key i ≤ e.1 && e.1 < f.key (i + n))) }

/-- The compute die at end A of a bridge (R274). -/
def bridgeDie (b : Nat) : Nat := [0, 1, 3, 2, 0, 1, 2, 3].getD b 0

/-- The fields of class DIE of one die (R282, R432). -/
def resetDieFlds (s : State) (d : Nat) : State :=
  let s := each ((List.range 4).map (· + 4 * d)) (fun s i => resetFld s .NET_CLOSED_CLOSED i) s
  let s := each [Fld.NET_RIDGE_CW_OPEN, .NET_RIDGE_FP_OPEN, .NET_RIDGE_WM_OPEN, .NET_RIDGE_ISOLATED, .NET_RIDGE_RESYNC, .NET_RIDGE_RATIO_W,
    .NET_RIDGE_RATIO_E, .NET_RIDGE_RESYNCS] (fun s f => resetFld s f d) s
  let s := each [Fld.NET_WMX_PEND_0, .NET_WMX_PEND_1, .NET_WMX_OVR_0, .NET_WMX_OVR_1, .NET_WMX_DROP_0, .NET_WMX_DROP_1] (fun s f =>
    each ((List.range 4).map (· + 4 * d)) (fun s i => resetFld s f i) s) s
  each [Fld.NET_WMB_PEND_0, .NET_WMB_PEND_1, .NET_WMB_OVR_0, .NET_WMB_OVR_1, .NET_WMB_DROP_0, .NET_WMB_DROP_1] (fun s f =>
    each ((List.range 8).filter (fun b => bridgeDie b = d)) (fun s i => resetFld s f i) s) s

/-- A stop is closed (R265, R264): its bit, its core's liveness, the crossings that end there, a record. -/
def closeStop (d : Nat) (s : State) (t : Nat) : State :=
  let h := 2 * d + t / 104
  let i := t % 104
  let w := rd s .NET_CLOSED_CLOSED (h * 2 + i / 64)
  let s := if w.testBit (i % 64) then s else wr s .NET_CLOSED_CLOSED (h * 2 + i / 64) (w + 2 ^ (i % 64))
  let s := setLive s (d * 208 + t) false
  let s := if dieCol t = 12 || dieCol t = 13 then
      let r := dieRow t
      let cw := rd s .NET_RIDGE_CW_OPEN d
      let fp := rd s .NET_RIDGE_FP_OPEN d
      wr (wr s .NET_RIDGE_CW_OPEN d (cw - bits cw (4 * r) 4 * 2 ^ (4 * r))) .NET_RIDGE_FP_OPEN d (fp - bits fp r 1 * 2 ^ r)
    else s
  logErr s { mst := 0, code := 0x0303, sev := 2, loc := d, detail := detail2 i (t / 104) }

/-- Router self-test of a die, with further stops that it finds faulty (R263, R264): true when the die may be admitted, with its detour tables written (R20). -/
def selfTest (s : State) (d : Nat) (found : List Nat) : Bool × State :=
  let s := { s with die := { s.die with faulted := s.die.faulted ++ (distinct found).filter (fun k => k / 208 = d && !s.die.faulted.contains k) } }
  let closed := (s.die.faulted.filter (fun k => k / 208 = d)).map (· % 208)
  let s := each closed (closeStop d) (resetDieFlds (writeDetours s d []) d)
  if unroutable closed then
    (false, setDown (logErr { s with die := { s.die with dead := s.die.dead.filter (· ≠ d) ++ [d], down := s.die.down.filter (· ≠ d) } }
      { mst := 0, code := 0x0302, sev := 3, loc := d, detail := closed.length }) d true)
  else (true, setDown (writeDetours { s with die := { s.die with dead := s.die.dead.filter (· ≠ d), down := s.die.down.filter (· ≠ d) } } d (detourTable closed d)) d false)

/-- A die whose self-test has passed runs at code 0 and raises its code (R430 steps 3 to 5, R407). -/
def raiseDie (s : State) (d : Nat) : State :=
  let s := resetFlds (resetFlds s .DK_CHAN_STATUS_OWED (512 * d) 512) .DK_CHAN_STATUS_AHEAD (512 * d) 512
  let s := { s with pow := { s.pow with cur := s.pow.cur.del d } }
  let s := putCode s d 0
  let s := if shedding s then { s with pow := { s.pow with cur := s.pow.cur.put d (0, 4) } } else s
  let s := each (dieHalves d) (fun s h => if shedding s then setRatio s h 15 (some .shed) else setRatio s h (wantedN s h) none) s
  syncPow (requestCode s d)

/-- A handshake begins, of a die's ridge or of a bridge (R273, R275): the crossing's PEND is zero and its OVERRUN clear in both directions. -/
def beginResync (s : State) (key : Nat) : State :=
  let s := { s with die := { s.die with resync := s.die.resync.put key 0 } }
  if key < 8 then
    each [Fld.NET_WMX_PEND_0, .NET_WMX_PEND_1, .NET_WMX_OVR_0, .NET_WMX_OVR_1] (fun s f =>
      each ((List.range 4).map (· + 4 * key)) (fun s i => wr s f i 0) s) s
  else each [Fld.NET_WMB_PEND_0, .NET_WMB_PEND_1, .NET_WMB_OVR_0, .NET_WMB_OVR_1] (fun s f => wr s f (key - 8) 0) s

/-- Sixty-four periods of the slower clock have passed (R273). -/
def resyncOver (s : State) (key : Nat) : Bool := (s.die.resync.get key).any (fun n => 64 * cycUnit ≤ n)

/-- The reset of a die in a device that runs (R430). -/
def dieRestart (s : State) (d : Nat) : State :=
  let (ok, s) := selfTest s d []
  if !ok then s else
    let s := each (dieHalves d) startRestart s
    raiseDie (each ((bridgesOf d).map (8 + ·)) beginResync s) d

/-- A die reset: it ends the course of R26, or is commanded on a die that runs; in Hold it waits for the wake (R446). -/
def execDieReset (die : Nat) (s : State) : Out :=
  .next (
    if die ≥ 4 then s
    else if rd s .PS_STATUS_STATE = 3 then (if s.boot.dieLater.contains die then s else { s with boot := { s.boot with dieLater := s.boot.dieLater ++ [die] } })
    else if !diesRun s then s
    else dieRestart (if dieRuns s die then dieLost s die none else s) die)

/-! ### A half alone (R27, R273) -/

/-- The record of a half that is lost as a whole (R27 step 3, R468): the code is 0x0603 whatever the cause, its phase group open (log 139, DESIGN CHOICE: R468
names no code for the clock generator or the HPC's self-check). -/
def halfRecord (s : State) (half sev : Nat) : ErrRec × State :=
  let (v, s) := free s
  ({ mst := 0, code := 0x0603, sev := sev, loc := half, detail := v % 2 ^ 64 }, s)

/-- An HPC isolates its half after a fault of the whole half; the fault of the second half takes the die's course. -/
def execHalfIsolation (half : Nat) (s : State) : Out :=
  .next (
    let d := half / 2
    if half ≥ 8 || !dieRuns s d || (s.die.isolated.get half).isSome then s
    else
      let (r, s) := halfRecord s half 2
      if (s.die.isolated.get (half + 1 - 2 * (half % 2))).isSome then dieLost s d (some { r with sev := 3 }) else
        let s := each (doomed s d [half]) killLost s
        let s := logErr s r
        let s := loseHalves s d [half]
        let s := { s with die := { s.die with isolated := s.die.isolated.put half s.now, resync := s.die.resync.del d } }
        let s := each (List.range 8) (fun s p => wakeTags p s) s
        wr (wr s .NET_RIDGE_ISOLATED d (1 + half % 2)) .NET_RIDGE_RESYNC d 0)

/-- The half's rail and clock are back and its stops have passed self-test: the ridge resynchronises. -/
def execHalfReturn (half : Nat) (s : State) : Out :=
  .next (
    let d := half / 2
    match s.die.isolated.get half with
    | some _ =>
      if half ≥ 8 || !dieRuns s d then s else
        let s := beginResync { s with die := { s.die with isolated := s.die.isolated.del half } } d
        startRestart (wr (wr s .NET_RIDGE_ISOLATED d 0) .NET_RIDGE_RESYNC d 1) half
    | none => s)

/-- The half is not back within 20 ms: the die takes the course of R26, with its record (log 139, DESIGN CHOICE: the code). -/
def execHalfReturnTimeout (half : Nat) (s : State) : Out :=
  .next (match s.die.isolated.get half with
    | some t =>
      if half ≥ 8 || !dieRuns s (half / 2) || s.now < t + 20000000 then s else
        let (r, s) := halfRecord s half 3
        dieLost s (half / 2) (some r)
    | none => s)

/-- The handshakes of a die that have had their 64 periods end: the ridge's crossings, or those of its bridges, open (R273, R275), and the requests that were
turned away go (R196). -/
def execResyncComplete (die : Nat) (s : State) : Out :=
  .next (
    let done := (die :: (bridgesOf die).map (8 + ·)).filter (resyncOver s)
    if done.isEmpty then s else
      let s := { s with die := { s.die with resync := done.foldl SMap.del s.die.resync } }
      let s := if done.contains die then bumpSat (wr s .NET_RIDGE_RESYNC die 0) .NET_RIDGE_RESYNCS die else s
      each (List.range 8) (fun s p => wakeTags p s) s)

end Sys2Proof.Machine
end

