-- ==== Sys2Proof/Machine/Migrate.lean ====
section
/-! DEFINITION. Migration (R374-R379, R459-R461): the blob's sections, SAVE, WRAP, UNWRAP, RESTORE, THAW. Log 99, DESIGN CHOICE (parts of a save image whose layout
the spec does not give), 100 (sections and addresses out of range), 101 (which launch a restored image belongs to, the join order of a restored
batch), 102 (what of the control section the target takes over), 103 (when page tables are rewritten; whose the mapped pages are). -/

namespace Sys2Proof.Machine

/-! ### The plaintext of section 0 (R376, R377) -/

/-- `n` bytes at an offset of a list, as a number. -/
def bn (p : List Byte) (off n : Nat) : Nat := leNat ((p.drop off).take n)

/-- Pad to a multiple of 8. -/
def pad8 (l : List Byte) : List Byte := l ++ natLe ((8 - l.length % 8) % 8) 0

/-- A record: header, body, padding. -/
def secRec (ty count : Nat) (body : List Byte) : List Byte := natLe 2 ty ++ natLe 2 0 ++ natLe 4 count ++ natLe 8 body.length ++ pad8 body

/-- The fields of a register as its 64-bit value. -/
def regValue (s : State) (fl : List Fld) (i : Nat) : Nat := fl.foldl (fun a f => a + rd s f i * 2 ^ f.spec.lo) 0

/-- Give the fields of a register their parts of a 64-bit value. -/
def putReg (s : State) (fl : List Fld) (i v : Nat) : State := each fl (fun s f => wr s f i (bits v f.spec.lo f.spec.w)) s

def cfgFlds : List Fld := [.IN_CFG_ATTACH, .IN_CFG_SCRUB_ON_RESET, .IN_CFG_DRAIN_US, .IN_CFG_POOL_GIB]
def resFlds : List Fld := [.IN_RES_WAYS, .IN_RES_LINK_WEIGHT, .IN_RES_SEQ_QUOTA]
def wmFlds : List Fld := [.IN_WM_BASE, .IN_WM_LOG2]

/-- The seven registers of a ring, in the order of the RINGS record. -/
def ringFlds : List (List Fld) :=
  [[.RING_BASE_BASE], [.RING_CFG_EN, .RING_CFG_SIZE, .RING_CFG_CQ_SIZE], [.CQ_BASE_BASE],
   [.RING_STATUS_ACTIVE, .RING_STATUS_DOORBELL_AHEAD, .RING_STATUS_DOORBELL_RANGE, .RING_STATUS_CFG_ERR, .RING_STATUS_DETACHED, .RING_STATUS_CQ_FULL,
    .RING_STATUS_FETCH_ERR, .RING_STATUS_AHEAD_EVENTS, .RING_STATUS_DB_PI],
   [.RING_CI_CI], [.CQ_HEAD_HEAD], [.CQ_TAIL_TAIL]]

/-- The 64 bytes of a context descriptor as the Turnpike holds it (R337). -/
def descriptorBytes (n : Nat) (x : Ctx) : List Byte :=
  natLe 2 n ++ natLe 1 x.inst ++ natLe 1 (x.stripPoison.toNat + 2 * x.farEn.toNat + 4 * x.batch.toNat) ++ natLe 2 x.weight ++ natLe 1 x.policy ++
    natLe 1 x.wmLog2 ++ natLe 3 (x.budget.getD 0) ++ natLe 1 (if x.budget.isNone then 1 else 0) ++ natLe 2 x.wmBase ++ natLe 1 x.convoy ++
    natLe 1 x.convoyEn.toNat ++ natLe 8 x.seed ++ natLe 8 x.ptRoot ++ natLe 8 x.faultAddr ++ natLe 24 0

/-- TP_CTX_STATUS.STATE of a live context. -/
def ctxCode : CtxSt → Nat
  | .ready => 1 | .suspended => 2 | .killing => 3 | .dead => 4

/-- The mailbox of an instance (R372), its device-written word included. -/
def mailByte (s : State) (n k : Nat) : Byte :=
  let st := instState s n + 256 * rd s .IN_STATUS_GEN n + 65536 * rd s .IN_STATUS_RESET_DONE n
  if 0x818 ≤ k && k < 0x820 then BitVec.ofNat 8 (st / 2 ^ (8 * (k - 0x818))) else readByte s.inst.mail (n * 4096 + k)

/-- Instance `n`'s contexts, images and commands. -/
def instCtxs (s : State) (n : Nat) : List (Nat × Ctx) := s.sched.ctxs.filter (fun e => e.2.inst = n)
def instImages (s : State) (n : Nat) : List (Nat × Block × SaveImg) :=
  (s.sched.images.filterMap (fun e => (s.sched.blocks.get e.1).bind (fun b =>
    if ((getCtx s b.ctx).map (·.inst)) = some n then some (e.1, b, e.2) else none)))

/-- The number of a slot within the instance's pool (R364, R377). -/
def poolPlace (s : State) (n slot : Nat) : Nat := ((unitsIn s n [3]).filter (· < slot / 341)).length * 341 + slot % 341

/-- Progress of a command (R377). -/
def cmdProgress (s : State) (c : Cmd) : Nat :=
  match c.op with
  | 0x01 => ((s.sched.launches.find? (fun e => e.2.cmd = some c.ref)).map (·.2.ended)).getD 0
  | 0x22 => ((s.sched.loops.find? (fun e => e.2.cmd = c.ref)).map (·.2.step)).getD 0
  -- a COPY that reads the device, and a FILL, send their writes together
  | 0x02 => if c.fld 32 1 = 0 then c.part else if c.fin.isSome then c.copyLen else 0
  | 0x03 => if c.fin.isSome then c.fld 16 8 else 0
  | _ => 0

/-- The plaintext of section 0. -/
def controlPlain (s : State) (n : Nat) : List Byte :=
  let owned := unitsIn s n [1]
  let held := fun t => (s.inst.cores.filter (fun e => e.2 = n && coreType e.1 = t)).length
  let cs := instCtxs s n
  let wms := List.range (2 ^ rd s .IN_WM_LOG2 n)
  let seqs := seqUsed s n
  let fid := instFn s n
  let cmds := s.host.cmds.filter (fun c => fnNum c.ref.fid = n)
  let imgs := instImages s n
  let x := instX s n
  secRec 1 1 (natLe 8 (regValue s cfgFlds n) ++ natLe 8 (regValue s resFlds n) ++ natLe 8 (regValue s wmFlds n) ++ natLe 2 (held 1) ++
      natLe 2 (held 2) ++ natLe 2 (held 3) ++ natLe 2 owned.length ++ natLe 2 (unitsIn s n [3]).length ++ natLe 1 (rd s .IN_STATUS_GEN n) ++ natLe 29 0) ++
    secRec 2 owned.length (owned.flatMap (natLe 2)) ++
    secRec 3 cs.length (cs.flatMap (fun e => descriptorBytes e.1 e.2 ++ natLe 1 (ctxCode e.2.st) ++ natLe 7 0 ++ natLe 8 e.2.charge ++
      e.2.tolls.flatMap (natLe 8) ++ natLe 16 0)) ++
    secRec 4 1 (tollRecord s n) ++
    secRec 5 wms.length (wms.flatMap (fun k => let w := getWm s (rd s .IN_WM_BASE n + k); natLe 4 w.count.toNat ++ natLe 4 0 ++ natLe 8 w.rel.toNat)) ++
    secRec 6 seqs.length (seqs.flatMap (fun q => natLe 4 q ++ natLe 4 0 ++ orderBytes s (seqAt s q) 64)) ++
    secRec 7 x.mts.length (x.mts.flatMap (fun e => e.2.flatMap (natLe 8) ++ natLe 1 e.1 ++ natLe 7 0)) ++
    secRec 8 32 ((List.range 32).flatMap (fun r => ringFlds.flatMap (fun fl => natLe 8 (regValue s fl (rkey fid r))))) ++
    secRec 9 1 ((List.range 4096).map (mailByte s n)) ++
    secRec 10 cmds.length (cmds.flatMap (fun c => natLe 1 c.ref.ring ++ natLe 3 0 ++ natLe 4 c.ref.index ++ natLe 64 c.raw.toNat ++
      natLe 8 (cmdProgress s c) ++ natLe 16 0)) ++
    secRec 11 imgs.length (imgs.flatMap (fun e =>
      let b := imageOut e.2.2 e.2.1.resumes
      natLe 4 (poolPlace s n e.2.1.slot) ++ natLe 2 e.2.1.ctx ++ natLe 2 0 ++ natLe 4 e.2.1.number ++ natLe 4 b.length ++ pad8 b)) ++
    secRec 0xFFFF 0 []

/-! ### SAVE (R375) -/

/-- A section's plaintext header. -/
def secHeader (kind blob sec secs records bytes dev unit : Nat) : List Byte :=
  natLe 4 0x424C4F42 ++ natLe 1 1 ++ natLe 1 kind ++ natLe 2 0 ++ natLe 4 blob ++ natLe 4 sec ++ natLe 4 secs ++ natLe 4 records ++ natLe 8 bytes ++
    natLe 2 dev ++ natLe 2 unit ++ natLe 28 0

/-- Records of a section: ciphertext pieces with their tags; their bytes are the cipher's. -/
def sealed (key blob sec : Nat) (h plain : List Byte) : List Byte :=
  let n := (plain.length + 65535) / 65536
  (List.range (plain.length + 16 * n)).map (fun k => (Config.seal key blob sec h plain).getD k 0)

/-- SAVE: the first one after a FREEZE makes the blob key and BLOB_ID. A section or an address that does not exist: RESULT is free (log 100, DESIGN CHOICE). -/
def execSave (who : Who) (n sec : Nat) (s : State) : Out :=
  .next (instCmd s who n [5] false (fun s =>
    let x := instX s n
    let (k, s) := free s
    let (b, s) := free s
    let key := x.key.getD (k, b % 2 ^ 32)
    let s := setInstX s n { x with key := some key }
    let owned := unitsIn s n [1]
    let at_ := rd s .IN_ARG_ARG n
    let plain := if sec = 0 then controlPlain s n else
      orderBytes s (myDev s * 2 ^ 40 + owned.getD (sec - 1) 0 * 2 ^ 30) (2 ^ 30)
    let recs := (plain.length + 65535) / 65536
    if sec > owned.length || at_ + 64 + plain.length + 16 * recs > deckBytes then
      let (f, s) := free s
      inResult s n f
    else
      let h := secHeader (if sec = 0 then 0 else 1) key.2 sec (owned.length + 1) recs plain.length (myDev s) (if sec = 0 then 0 else owned.getD (sec - 1) 0)
      inResult (orderWriteBytes s (myDev s * 2 ^ 40 + at_) (h ++ sealed key.1 key.2 sec h plain) turnpikeWriter) n 0))

/-- WRAP (R378, R460): the bundle's checks, then debug locked; the wrapped key is written behind the bundle. What cryptography makes is free. -/
def execWrap (who : Who) (n : Nat) (bundleOk : Bool) (s : State) : Out :=
  .next (instCmd s who n [5] false (fun s =>
    let x := instX s n
    match x.key with
    | none => inResult s n 2
    | some (_, blob) =>
      if !bundleOk || flag s .SEC_STATUS_DEBUG then inResult s n 6 else
        let at_ := rd s .IN_ARG_ARG n
        let (r, s) := freeBytes s 1216
        let b := natLe 4 0x50415257 ++ natLe 1 1 ++ natLe 3 0 ++ natLe 4 blob ++ natLe 2 (myDev s) ++ natLe 2 0 ++ r ++ natLe 48 0
        if at_ + 16384 > deckBytes then
          let (f, s) := free s
          inResult s n f
        else inResult (orderWriteBytes s (myDev s * 2 ^ 40 + at_ + 12288) b turnpikeWriter) n 0))

/-- UNWRAP (R461): the instance is FROZEN, debug is locked, and `keyOk`: the digest is that of the MC's own subject key and the tag verifies. -/
def execUnwrap (who : Who) (n : Nat) (keyOk : Bool) (s : State) : Out :=
  .next (
    let res := fun (s : State) v => wr0 (wr0 s .SEC_RESULT_RESULT v) .SEC_RESULT_BUSY 0
    let may := match who with | .mc => true | .pf _ => true | _ => false
    if !may || flag s .SEC_RESULT_BUSY || n = 0 || n > 64 then s
    else if instState s n ≠ 5 then res s 3
    else
      let b := orderBytes s (myDev s * 2 ^ 40 + rd s .SEC_ARG_ARG) 12
      if flag s .SEC_STATUS_DEBUG || !keyOk || bn b 0 4 ≠ 0x50415257 then res s 2
      else
        let x := instX s n
        res (setInstX s n { x with unwrapped := some (bn b 8 4), restored := [], incomplete := x.incomplete }) 0)

/-! ### RESTORE (R379) -/

/-- Walk the records of a plaintext: type, count, body. -/
def records : Nat → List Byte → List (Nat × Nat × List Byte)
  | 0, _ => []
  | f + 1, p =>
    let len := bn p 8 8
    if bn p 0 2 = 0xFFFF || p.length < 16 then [] else
      (bn p 0 2, bn p 4 4, (p.drop 16).take len) :: records f (p.drop (16 + (len + 7) / 8 * 8))

/-- Elements of a record of a fixed size. -/
def recElems (l : List (Nat × Nat × List Byte)) (ty size : Nat) : List (List Byte) :=
  match l.find? (fun r => r.1 = ty) with
  | none => []
  | some (_, n, b) => (List.range n).map (fun k => (b.drop (k * size)).take size)

/-- Elements of the IMAGES record: context, block number, image. -/
def imageElems : Nat → List Byte → List (Nat × Nat × List Byte)
  | 0, _ => []
  | n + 1, b =>
    let len := bn b 12 4
    (bn b 4 2, bn b 8 4, (b.drop 16).take len) :: imageElems n (b.drop (16 + (len + 7) / 8 * 8))

/-- An image from its bytes (R349). -/
def imageIn_ (b : List Byte) : SaveImg :=
  let saved := bn b 12 4
  let body := (b.drop 64).take (b.length - 64 - saved)
  let loft := (b.drop (b.length - saved)).zipIdx.filter (fun e => e.1 ≠ 0)
  { Config.imageOf body with ctype := bn b 4 1, source := bn b 6 2, loft := loft.map (fun e => (e.2, e.1)), loftSaved := saved }

/-- A local address under a unit map; none outside the source's units. -/
def mapAddr (m : List (Nat × Nat)) (a : Nat) : Option Nat :=
  (m.find? (fun e => e.1 = a / 2 ^ 30)).map (fun e => e.2 * 2 ^ 30 + a % 2 ^ 30)

/-- The restored contexts with their new numbers: the lowest free ones. -/
def newNumbers (s : State) (k : Nat) : List Nat := (((List.range 4096).filter (fun c => c ≠ 0 && (getCtx s c).isNone)).take k)

/-- The lowest free far tags. -/
def newTags (s : State) (k : Nat) : List Nat := ((List.range 256).filter (fun t => s.sched.ctxs.all (fun e => e.2.farTag ≠ some t))).take k

/-- State of a context from its code. -/
def ctxStOf (c : Nat) : CtxSt := match c with | 2 => .suspended | 3 => .killing | 4 => .dead | _ => .ready

/-- Put the control section into place; the checks of R379 have passed. `m` maps units, `nums` context numbers. -/
def putControl (s : State) (n : Nat) (rs : List (Nat × Nat × List Byte)) (m nums : List (Nat × Nat)) : State :=
  let i := (recElems rs 1 64).headD []
  let base := rd s .IN_WM_BASE n
  let src := bn i 16 8 % 4096
  let s := putReg s resFlds n (bn i 8 8)
  let s := wr (wr s .IN_CFG_SCRUB_ON_RESET n (bits (bn i 0 8) 1 1)) .IN_CFG_DRAIN_US n (bits (bn i 0 8) 16 16)
  -- contexts: numbers, far tags and convoy entries afresh
  let s := each (recElems rs 3 160) (fun s e =>
    let d := leNat (e.take 64)
    let x := ctxOf d
    let c := ((nums.find? (fun p => p.1 = bits d 0 16)).map (·.2)).getD 0
    let (v, s) := free s
    let tag := if x.farEn then (newTags s 1).head? else none
    let s := match tag with
      | some t => freshTag s t
      | none => s
    setCtx s c { x with inst := n, wmBase := (x.wmBase - src + base) % 4096, convoy := if x.convoyEn then v % 256 else x.convoy,
                        ptRoot := (mapAddr m x.ptRoot).getD 0, faultAddr := if x.faultAddr % 2 = 1 then x.faultAddr else (mapAddr m x.faultAddr).getD x.faultAddr,
                        farTag := tag, st := ctxStOf (bn e 64 1), charge := bn e 72 8, tolls := (List.range 8).map (fun k => bn e (80 + 8 * k) 8) }) s
  let tl := ((recElems rs 4 64).headD [])
  let s := { s with sched := { s.sched with instTolls := s.sched.instTolls.put n ((List.range 8).map (fun k => bn tl (8 * k) 8)) } }
  let s := each (recElems rs 5 16).zipIdx (fun s e => setWm s (base + e.2) { count := BitVec.ofNat 32 (bn e.1 0 4), rel := BitVec.ofNat 64 (bn e.1 8 8) }) s
  let ctxNew := fun c => ((nums.find? (fun p => p.1 = c)).map (·.2)).getD c
  let fid := instFn s n
  -- rings, mailbox, commands
  let s := each (recElems rs 8 56).zipIdx (fun s e => each ringFlds.zipIdx (fun s f => putReg s f.1 (rkey fid e.2) (bn e.1 (8 * f.2) 8)) s) s
  let s := each (List.range 32) (fun s r => let k := rkey fid r
                                            if flag s .RING_STATUS_FETCH_ERR k then setRingX s k { ringX s k with stopped := true } else s) s
  let mb := (recElems rs 9 4096).headD []
  let s := { s with inst := { s.inst with mail := writeBytes s.inst.mail (n * 4096) mb } }
  let s := each (recElems rs 10 96) (fun s e =>
    let raw := leNat ((e.drop 8).take 64)
    let raw := raw - bits raw 16 16 * 65536 + ctxNew (bits raw 16 16) * 65536
    let c : Cmd := { ref := { fid := fid, ring := bn e 0 1, index := bn e 4 4 }, raw := BitVec.ofNat 512 raw, part := if bn e 8 1 = 2 || bn e 8 1 = 3 then 0 else bn e 72 8 }
    let work := c.op = 0x01 || c.op = 0x20 || c.op = 0x22
    { s with host := { s.host with cmds := s.host.cmds ++ [{ c with started := work && (c.op ≠ 1 || c.part ≠ 0) }] } }) s
  -- sequences, with the SEQ_ADD that each ends; running ones rejoin their loop (log 101, DEDUCED)
  let s := each (recElems rs 6 72) (fun s e =>
    let q := bn e 0 4
    let c := ctxNew (bn e 32 2)
    let s := orderWriteBytes s (seqAt s q) (e.drop 8) turnpikeWriter
    let s := seqPut (seqPut s q 1 1 n) q 24 2 c
    let s := if bn e 8 1 = 2 then { s with sched := { s.sched with batches := s.sched.batches.put c (s.sched.batches.getD c [] ++ [q]) } } else s
    match s.host.cmds.find? (fun k => k.ref.fid = fid && k.op = 0x20 && k.fld 8 4 = q) with
    | some k => { s with sched := { s.sched with seqCmds := s.sched.seqCmds.put q k.ref } }
    | none => s) s
  -- a SEQ_ADD without an entry, and a BATCH_START: the one starts again, the other's loop goes on
  let s := each (s.host.cmds.filter (fun k => k.ref.fid = fid)) (fun s k =>
    if k.op = 0x20 && (s.sched.seqCmds.get (k.fld 8 4)) ≠ some k.ref then setCmd s { k with started := false }
    else if k.op = 0x22 then
      let l : Loop := { cmd := k.ref, entry := k.fld 8 8, args := k.fld 16 8, maxBatch := k.fld 24 4, groups := k.fld 28 2, perBlock := k.fld 30 2, list := k.fld 32 8, step := k.part }
      { s with sched := { s.sched with loops := s.sched.loops.put k.ctx l } }
    else s) s
  -- save images
  let im := match rs.find? (fun r => r.1 = 11) with | some (_, k, b) => imageElems k b | none => []
  let s := each im (fun s e =>
    let id := s.sched.nextId
    let img := imageIn_ e.2.2
    let slot := (freeSlot s n).getD 0
    let b : Block := { ctx := ctxNew e.1, launch := 0, number := e.2.1, st := .saved, resumes := bn e.2.2 8 4, left := 1024, loftTop := img.loftSaved, slot := slot }
    let s := orderWriteBytes s (slotAt s slot) e.2.2 turnpikeWriter
    { s with sched := { s.sched with nextId := id + 1, images := s.sched.images.put id img, blocks := s.sched.blocks.put id b } }) s
  -- milestone entries wait for the THAW, in the target's waymarks
  let mts := (recElems rs 7 64).map (fun e =>
    let r := (List.range 7).map (fun k => bn e (8 * k) 8)
    let a := r.getD 3 0
    let a := if bits (r.getD 2 0) 4 4 = 1 then a - a % 4096 + (a % 4096 - src + base) % 4096 else a
    (bn e 56 1, r.set 3 a))
  setInstX s n { instX s n with mts := mts, unitMap := m }

/-- Tables that a walk from one at a level reaches, by their source addresses (R489); `none` when one lies outside the source's units. -/
def ptTables (s : State) (m : List (Nat × Nat)) : Nat → Nat → Nat → List (Nat × Nat × Option Nat)
  | 0, _, _ => []
  | f + 1, lvl, a =>
    match mapAddr m a with
    | none => [(lvl, a, none)]
    | some t =>
      (lvl, a, some t) :: (if lvl = 3 then [] else (List.range 512).flatMap (fun i =>
        let e := orderNat s (myDev s * 2 ^ 40 + t + 8 * i) 8
        if tb e 0 && !tb e 1 then ptTables s m f (lvl + 1) (pteAddr e) else []))

/-- An entry rewritten for the target (R379); none when it names a local address outside the source's units. -/
def rewriteEntry (m : List (Nat × Nat)) (srcDev dev e : Nat) : Option Nat :=
  let a := pteAddr e
  let put := fun b => e - bits e 8 44 * 256 + b
  if !tb e 0 then some e
  else if !tb e 1 then (mapAddr m a).map put
  else if devOf a ≠ srcDev then some e
  else if locOf a < deckBytes then (mapAddr m (locOf a)).map (fun b => put (dev * 2 ^ 40 + b))
  else some (put (dev * 2 ^ 40 + locOf a))

/-- Every section is there: the page tables are rewritten, each table once, and the pages that they map at L0 are their contexts' (log 103, DEDUCED). -/
def finishRestore (s : State) (n : Nat) : State :=
  let x := instX s n
  let m := x.unitMap
  let back := m.map (fun e => (e.2, e.1))
  let tables := (instCtxs s n).map (fun e => (e.1, ptTables s m 4 0 ((mapAddr back e.2.ptRoot).getD 0)))
  let all := distinct (tables.flatMap (fun t => t.2.filterMap (fun e => e.2.2.map (fun a => a * 4 + e.1))))
  let ents := all.flatMap (fun t => (List.range (if t % 4 = 3 then 32 else 512)).map (fun i => (t % 4, t / 4 + 8 * i)))
  let news := ents.map (fun e => (e.2, rewriteEntry m x.srcDev (myDev s) (orderNat s (myDev s * 2 ^ 40 + e.2) 8)))
  if tables.any (fun t => t.2.any (fun e => e.2.2.isNone)) || news.any (fun e => e.2.isNone) then inResult s n 8 else
    let s := each news (fun s e => orderWriteBytes s (myDev s * 2 ^ 40 + e.1) (natLe 8 (e.2.getD 0)) turnpikeWriter) s
    let s := each tables (fun s t => each t.2 (fun s e =>
      match e.1, e.2.2 with
      | 3, some a => each (List.range 32) (fun s i =>
          let v := orderNat s (myDev s * 2 ^ 40 + a + 8 * i) 8
          let p := pteAddr v
          if tb v 0 && devOf p = myDev s && locOf p < deckBytes then { s with deck := { s.deck with owner := s.deck.owner.put (pageOf (locOf p)) t.1 } } else s) s
      | _, _ => s) s) s
    inResult (setInstX s n { instX s n with incomplete := false }) n 0

/-- RESTORE of section 0: the checks of R379, then the contents. -/
def restoreControl (s : State) (n sections dev : Nat) (plain : List Byte) : State :=
  let rs := records 16 plain
  let units := (recElems rs 2 2).map leNat
  let owned := unitsIn s n [1]
  let m := units.zip owned
  let cs := recElems rs 3 160
  let nums := (cs.map (fun e => bn e 0 2)).zip (newNumbers s cs.length)
  let far := (cs.filter (fun e => (ctxOf (leNat (e.take 64))).farEn)).length
  let im := match rs.find? (fun r => r.1 = 11) with | some (_, k, b) => imageElems k b | none => []
  let types := im.map (fun e => bn e.2.2 4 1)
  let has_ := fun t => s.inst.cores.any (fun e => e.2 = n && coreType e.1 = t)
  let seqs := recElems rs 6 72
  let wmN := (recElems rs 5 16).length
  let short := owned.length < units.length || nums.length < cs.length || (newTags s far).length < far || im.length > poolSlots s n ||
    types.any (fun t => !has_ t) || wmN > 2 ^ rd s .IN_WM_LOG2 n || seqs.any (fun e => seqGet s (bn e 0 4) 0 1 ≠ 0) ||
    (recElems rs 7 64).length > ((List.range 256).filter (fun e => !flag s .MT_CTRL_ARMED e)).length
  let x := instX s n
  let s := setInstX s n { x with incomplete := true, sections := sections, srcDev := dev }
  if short then inResult s n 7
  else if cs.any (fun e => (mapAddr m (ctxOf (leNat (e.take 64))).ptRoot).isNone) then inResult s n 8
  else
    let s := putControl s n rs m nums
    let s := setInstX s n { instX s n with restored := [0] }
    if sections ≤ 1 then finishRestore s n else inResult s n 0

/-- RESTORE: reads a section at IN_ARG. `plain`: what the decryption gives, none when a tag does not verify. -/
def execRestore (who : Who) (n : Nat) (plain : Option (List Byte)) (s : State) : Out :=
  .next (instCmd s who n [5] false (fun s =>
    let x := instX s n
    let h := orderBytes s (myDev s * 2 ^ 40 + rd s .IN_ARG_ARG n) 64
    let sec := bn h 12 4
    let fail := fun (s : State) c => inResult (setInstX s n { instX s n with incomplete := true }) n c
    match x.unwrapped, plain with
    | some blob, some p =>
      if bn h 0 4 ≠ 0x424C4F42 || bn h 8 4 ≠ blob || bn h 24 8 ≠ p.length then fail s 6
      else if bn h 4 1 ≠ 1 || x.restored.contains sec || (x.restored.isEmpty && sec ≠ 0) || (sec ≠ 0 && sec ≥ x.sections) then fail s 7
      else if sec = 0 then restoreControl s n (bn h 16 4) (bn h 32 2) p
      else
        let u := (x.unitMap.getD (sec - 1) (0, 0)).2
        let s := orderWriteBytes s (myDev s * 2 ^ 40 + u * 2 ^ 30) p turnpikeWriter
        let s := setInstX s n { x with restored := x.restored ++ [sec] }
        if x.restored.length + 1 < x.sections then inResult s n 0 else finishRestore s n
    | _, _ => fail s 6))

/-! ### THAW -/

/-- Work that a RESTORE brought goes on: launches of commands, and the step that a loop was in. -/
def rebuild (s : State) (n : Nat) : State :=
  let cmds := s.host.cmds.filter (fun c => fnNum c.ref.fid = n && c.op = 1 && c.fin.isNone && !launchUp s c.ref)
  let s := each cmds (fun s c =>
    if c.part = 0 && !orphans s c.ctx then s else relaunchCmd (setCmd s { c with started := true }) { c with started := true }) s
  each (s.sched.loops.filter (fun e => ((getCtx s e.1).map (·.inst)) = some n && e.2.launch.isNone)) (fun s e =>
    if orphans s e.1 then relaunchLoop s e.1 e.2 else s) s

/-- A recorded entry is armed again: in its own place, or in the lowest free one. -/
def rearmEntry (s : State) (n : Nat) (e : Nat × List Nat) : State :=
  let at_ := if !flag s .MT_CTRL_ARMED e.1 then some e.1 else (List.range 256).find? (fun k => !flag s .MT_CTRL_ARMED k)
  match at_ with
  | none => s
  | some k =>
    let r := fun j => e.2.getD j 0
    let s := wr (wr (wr (wr s .MT_TIME_TIME k (r 0)) .MT_ANGLE_ANGLE k (r 1)) .MT_ARG0_ARG k (r 3)) .MT_ARG1_ARG k (r 4)
    let s := wr s .MT_FIRE_MST_FIRE_MST k (r 5)
    let s := wr s .MT_CTRL_MISSED k (bits (r 2) 16 8)
    let s := each mtFlags.zipIdx (fun s f => wr s f.1 k (bits (r 2) (24 + f.2) 1)) s
    mtArmNew s k (r 2) n

/-- THAW: FREEZE reversed. Of an incomplete restore it fails (R379); the blob key goes (R459). -/
def execThaw (who : Who) (n : Nat) (s : State) : Out :=
  .next (instCmd s who n [5] false (fun s =>
    let x := instX s n
    if x.incomplete then inResult s n 7 else
      let s := setInst (setInstX s n { x with key := none, unwrapped := none, mts := [], restored := [], unitMap := [] }) n 1
      let s := each x.mts (fun s e => rearmEntry s n e) s
      let s := rebuild s n
      let fid := instFn s n
      inResult (each (List.range 32) (fun s r => if flag s .RING_CFG_EN (rkey fid r) then startFetch s fid r else s) s) n 0))

end Sys2Proof.Machine
end

