-- ==== Sys2Proof/Machine/Boot.lean ====
section
/-! DEFINITION. Resets, retention, power states, boot and verge mode (chapters 17 and 21; R448-R455 where they act in a start). Log 113, DESIGN CHOICE: Off and
what the standby counter counts; log 114, DESIGN CHOICE: what of the two records that R308 writes a cold reset finds; log 115, DESIGN CHOICE: a start's steps are those that wait
for something; log 116, DEDUCED: when a bus that was never lost wakes the device; log 117, DESIGN CHOICE: what a power loss leaves of combining buffers and waymark copies;
log 118, DESIGN CHOICE: a wake is one step; log 119, DEDUCED: pages that no zeroing reaches; log 120, DEDUCED: ports when VIO or the islands go down; log 121, DESIGN CHOICE: a failed start's
reason and DETAIL; log 122, DEDUCED: a pending fence at a warm reset, PENDING pages at a reset; log 123, DESIGN CHOICE: RESET_N between 100 ns and 1 µs. -/

namespace Sys2Proof.Machine

/-! ### Retention (R432-R434) -/

/-- Every register field. -/
def allFlds : List Fld := (regTable ++ regsFn).flatMap (·.flds)

/-- The reset class of the field that a key of `flds` belongs to. -/
def keyCls (k : Nat) : Cls := ((allFlds.find? (fun f => f.ctorIdx = k / 4194304)).map (·.spec.cls)).getD .none

/-- Fields of the named classes return to their defaults. -/
def dropCls (s : State) (cs : List Cls) : State := { s with flds := s.flds.filter (fun e => !cs.contains (keyCls e.1)) }

/-- What a warm reset and Watch return to default (R432). -/
def warmCls : List Cls := [.warm, .host, .flr, .die, .core]

/-- Deck bytes of retired pages: no zeroing writes them (R434, log 119, DEDUCED). -/
def retiredOnly (s : State) : List Host.Cell := s.mem.filter (fun c => c.1 < deckBytes && s.deck.retired.contains (pageOf c.1))

/-- Fenced cores stay gated; everything else that a core holds goes. -/
def coresLost (s : State) : SMap Core :=
  (SMap.mapV s.cores (fun _ (k : Core) => { gated := k.gated, nextOp := k.nextOp, resumes := k.resumes })).filter (fun (e : Nat × Core) => e.2 ≠ {})

/-- What a warm reset and Watch clear: the dies, the I/O dies, the deck, everything of contexts and instances (R432-R434). A planned fence that
waited finds its core idle; PENDING pages, whose units are now FREE, are removed (log 122, DEDUCED). -/
def clearDevice (s : State) : State :=
  let s := each (s.deck.pendingPages.map (·.1)) pageFreed s
  let fence := s.rel.fencing
  let s := each (List.range 8) (fun s p => leaveUp s p 0) s
  let s := dropCls s warmCls
  let s := { s with
    mem := retiredOnly s
    cores := coresLost s
    coh := {}
    deck := { retired := s.deck.retired, temps := s.deck.temps, quads := s.deck.quads, hotSince := s.deck.hotSince, errs := s.deck.errs, scrubbed := s.deck.scrubbed, scrubStart := s.deck.scrubStart }
    wm := {}
    die := { faulted := s.die.faulted }
    sched := { periodStart := s.now, periodUj := rd s .PW_ENERGY_UJ }
    pow := {}
    link := {}
    host := { modeWr := s.host.modeWr, left := s.host.left, nextTag := s.host.nextTag, reply := s.host.reply }
    inst := {}
    rel := { s.rel with fencing := none } }
  let s := wr0 s .RL_FENCE_STATUS_BUSY 0
  let s := match fence with | some (c, cause) => fenceCore s c cause false | none => s
  syncLimit { s with sched := { s.sched with agents := [] } }

/-! ### Failed starts (R442-R444) -/

/-- A start is under way. -/
def starting (s : State) : Bool := s.boot.began.isSome

/-- A report of a failed start goes to the front of the three. -/
def putReport (s : State) (reason step detail startS : Nat) : State :=
  let fs : List Fld := [.PS_REPORT_REASON, .PS_REPORT_STEP, .PS_REPORT_DETAIL, .PS_REPORT_START_S]
  let s := each fs (fun s f => wr (wr s f 2 (rd s f 1)) f 1 (rd s f 0)) s
  wr (wr (wr (wr s .PS_REPORT_REASON 0 reason) .PS_REPORT_STEP 0 step) .PS_REPORT_DETAIL 0 detail) .PS_REPORT_START_S 0 startS

/-- Standby seconds since manufacture (log 113, DESIGN CHOICE). -/
def standbyS (s : State) : Nat := s.boot.stbyNs / 1000000000

/-! ### Firmware banks (R450, R451, R455) -/

/-- The image of a bank; bank A holds the factory's until it is written, bank B nothing (log 10, DESIGN CHOICE). -/
def getBank (s : State) (b : Nat) : Option BankImg :=
  match s.boot.banks.get b with
  | some x => some x
  | none => if b = 0 then some { img := { version := 1, svn := 0, slot := 0, structOk := true, keysOk := true, edOk := true, mldsaOk := true, bodyOk := true, digest := 0 } } else none

/-- The step of R450 at which a bank fails; 0: it is verified. -/
def imageStep (s : State) (x : BankImg) : Nat :=
  let i := x.img
  if !i.structOk then 1
  else if i.slot > 1 || tb (rd s .SEC_STATUS_REVOKED) i.slot || !i.keysOk then 2
  else if i.svn < rd s .SEC_STATUS_MIN_SVN then 3
  else if !i.edOk then 4
  else if !i.mldsaOk then 5
  else if !i.bodyOk then 6
  else 0

/-- Change the bits of a bank in PS_BANK. -/
def bankBits (s : State) (b : Nat) (f : Nat → Nat) : State :=
  let fld : Fld := if b = 0 then .PS_BANK_BANK_A else .PS_BANK_BANK_B
  wr0 s fld (f (rd s fld))

/-- PS_BANK shows what a bank holds. -/
def showBank (s : State) (b : Nat) : State :=
  match getBank s b with
  | none => bankBits s b (fun _ => 0)
  | some x => wr0 (bankBits s b (fun v => v / 2 * 2 + 1)) (if b = 0 then .PS_BANK_VER_A else .PS_BANK_VER_B) x.img.version

/-- Check a bank: VERIFIED, and the step at which it failed. -/
def checkBank (s : State) (b : Nat) : Bool × State :=
  match getBank s b with
  | none => (false, s)
  | some x =>
    let k := imageStep s x
    let s := bankBits s b (fun v => v % 2 + v / 4 * 4 + (if k = 0 then 2 else 0))
    (k = 0, if k = 0 then s else wr0 s (if b = 0 then .SEC_STATUS_FAIL_A else .SEC_STATUS_FAIL_B) k)

/-- ORG_FACTORY_LIVE as one number. -/
def factoryLive (s : State) : Nat := (List.range 13).foldr (fun j a => rd s .ORG_FACTORY_LIVE_LIVE j + 2 ^ 64 * a) 0

/-- The measurement log of a start that runs a bank, as labels (R455). -/
def measure (s : State) (b : Nat) : State :=
  let d := ((getBank s b).map (·.img.digest)).getD 0
  { s with boot := { s.boot with running := b, meas :=
      [(1, 0), (2, rd s .SEC_STATUS_REVOKED * 128 + rd s .SEC_STATUS_MIN_SVN), (3, d * 2 + b), (4, d), (5, d), (6, d), (7, rd s .HA_MODE_SPLIT_NEXT + 2 * rd s .HA_MODE_MAX_RATE_NEXT + 8 * factoryLive s)] } }

/-- Run a verified bank: steps 3 and 4 (R441). A report that a watchdog or a power loss left is written at step 3. -/
def runBank (s : State) (b : Nat) : State :=
  let s := measure (bankBits s b (fun v => v % 4 + v / 8 * 8 + 4)) b
  let s := match s.boot.lateReport with
    | some (reason, step, detail, at_) => putReport { s with boot := { s.boot with lateReport := none } } reason step detail at_
    | none => s
  wr0 s .PS_BOOT_LAST_STEP 4

/-! ### Keys and certificates (R454; log 162, DESIGN CHOICE: the label of the Alias keys, keys of a start that runs no bank) -/

/-- A pair derived from the UDS by HKDF-SHA-384. -/
def derivePair (role : KeyRole) (label : String) (ctx alg : Nat) : KeyPair :=
  let p := Config.hkdf Config.uds label ctx
  { role := role, alg := alg, priv := some p, pub := Config.pubKey alg p }

/-- The DeviceID pairs, Ed25519 and ML-DSA-65, and the Wrap pairs, X25519 and ML-KEM-768: the same at every start. -/
def deviceIdKeys : List KeyPair := [0, 1].map (derivePair .deviceId "GM4 devid" 0)
def wrapKeys : List KeyPair := [2, 3].map (derivePair .wrap "GM4 wrap" 0)

/-- The Alias pairs, with the digest of measurement 3 as context. -/
def aliasKeys (meas3 : Nat) : List KeyPair := [0, 1].map (derivePair .alias_ "GM4 alias" meas3)

/-- A certificate of public keys under a DeviceID key. -/
def certUnder (role : KeyRole) (subject : List Nat) (k : KeyPair) : Cert :=
  { role := role, subject := subject, signer := k.alg, sig := Config.sign k.alg (k.priv.getD 0) subject }

/-- The certificates that flash holds: the identity CA's of each DeviceID key, and the Wrap keys' under each. -/
def flashCerts : List Cert :=
  deviceIdKeys.map (fun k => { role := .deviceId, subject := [k.pub], signer := k.alg, sig := Config.caSign k.alg k.pub }) ++
    deviceIdKeys.map (certUnder .wrap (wrapKeys.map (·.pub)))

/-- The certificates of the Alias keys, each under the DeviceID key of its algorithm. -/
def aliasCerts (meas3 : Nat) : List Cert :=
  (deviceIdKeys.zip (aliasKeys meas3)).map (fun e => certUnder .alias_ [e.2.pub] e.1)

/-- The ROM's last work with the UDS: the firmware finds the Alias and Wrap keys in the key store, the private DeviceID keys erased. -/
def romKeys (s : State) : State :=
  let ids := deviceIdKeys.map (fun k => { k with priv := none })
  match s.boot.meas.get 3 with
  | some m => { s with boot := { s.boot with keys := ids ++ wrapKeys ++ aliasKeys m, certs := flashCerts ++ aliasCerts m } }
  | none => { s with boot := { s.boot with keys := ids ++ wrapKeys, certs := flashCerts } }

/-- A key pair of the store. -/
def keyOf (s : State) (role : KeyRole) (alg : Nat) : Option KeyPair := s.boot.keys.find? (fun k => k.role = role && k.alg = alg)

/-! ### Steps 1 to 4 (R441, R445, R451) -/

/-- Step 1 raises the counter; a fourth start in a row enters verge mode, else step 2 finds a bank. -/
def bootRom (s : State) : State :=
  let s := bumpSat (wr0 s .PS_BOOT_LAST_STEP 1) .PS_BOOT_FAILS
  let s := showBank (showBank s 0) 1
  if rd s .PS_BOOT_FAILS ≥ 4 then
    let s := (checkBank (checkBank s 0).2 1).2
    let s := wr0 (wr0 s .PS_STATUS_STATE 5) .PS_BOOT_VERGE 1
    wr (wr s .HA_LINK_VERGE 0 1) .HA_LINK_VERGE 128 1
  else
    let s := { s with boot := { s.boot with began := some s.time.mst, beganNs := s.boot.stbyNs, heldNs := 0, startS := standbyS s } }
    let s := wr0 s .PS_BOOT_LAST_STEP 2
    let p := rd s .SEC_STATUS_PREFERRED
    let s := if flag s .SEC_STATUS_TRIAL && rd s .PS_BOOT_FAILS ≥ 2 then wr0 (wr0 s .SEC_STATUS_TRIAL 0) .SEC_STATUS_PREFERRED (1 - p) else s
    let p := rd s .SEC_STATUS_PREFERRED
    let (ok, s) := checkBank s p
    if ok then runBank s p else
      let (ok, s) := checkBank s (1 - p)
      if ok then runBank s (1 - p) else s

/-- What a cold reset finds in the record of HA_MODE: of the updates less than 100 ms old the newest, a free number of them, may not have ended (R308,
log 114, DESIGN CHOICE); the settings before the first of these are in flash. -/
def modeRecord (s : State) : State :=
  let open_ := s.host.modeWr.filter (fun w => s.now < w.1 + 100000000)
  let (f, s) := free s
  match open_[f % (open_.length + 1)]? with
  | some (_, sp, mr) => wr0 (wr0 s .HA_MODE_SPLIT_NEXT sp) .HA_MODE_MAX_RATE_NEXT mr
  | none => s

/-- What outlives every reset (R432, R433): PERSIST fields and the records in flash, with the queue and what is outside the device. -/
def coldState (s : State) : State :=
  let s := dropCls (modeRecord s) [.cold, .warm, .host, .flr, .die, .core, .none]
  let s : State := { pending := s.pending, now := s.now, freeCtr := s.freeCtr, flds := s.flds, mem := retiredOnly s
                     deck := { retired := s.deck.retired, temps := s.deck.temps, scrubStart := s.boot.hourMark }
                     die := { faulted := s.die.faulted }
                     sup := { busMv := s.sup.busMv, busDa := s.sup.busDa, stbyMv := s.sup.stbyMv, stbyMa := s.sup.stbyMa, last1ms := s.sup.last1ms
                              sum := s.sup.flash, flash := s.sup.flash, sumAt := s.boot.hourMark }
                     rel := { age := s.rel.age }
                     sched := { periodStart := s.now }
                     boot := { banks := s.boot.banks, stbyNs := s.boot.stbyNs, runNs := s.boot.hourMark, hourMark := s.boot.hourMark
                               lateReport := s.boot.lateReport } }
  wr0 (wr0 s .HA_MODE_SPLIT (rd s .HA_MODE_SPLIT_NEXT)) .HA_MODE_MAX_RATE (rd s .HA_MODE_MAX_RATE_NEXT)

/-- A cold reset and a start from step 1, with the derivation of the keys; `cause` is what LAST_RESET shows. -/
def coldReset (s : State) (cause : Nat) : State := romKeys <| bootRom (wr0 (coldState s) .PS_STATUS_LAST_RESET cause)

/-- COLD_RESET: standby power rising or PS_CTRL (1), the watchdog (3), activation (4). -/
def execColdReset (cause : Nat) (s : State) : Out := .next (coldReset s (if cause = 3 || cause = 4 then cause else 1))

/-- The start in progress leaves a report for step 3 of the next one. -/
def lateReport (s : State) (reason : Nat) : State :=
  if !starting s then s else
    let k := rd s .PS_BOOT_LAST_STEP
    { s with boot := { s.boot with lateReport := some (reason, k, k, s.boot.startS) } }

/-- The MC watchdog: a start that it ends has failed with reason 0x02. -/
def execMcWatchdog (s : State) : Out := .next (if rd s .PS_BOOT_LAST_STEP = 0 then s else coldReset (lateReport s 2) 3)

/-- Standby power is lost: Off, until the next cold reset (R435, R499). -/
def execStandbyLoss (s : State) : Out :=
  .next (let s := coldState (lateReport s 0x0B)
         { s with sup := { s.sup with stbyMv := 0, stbyMa := 0 } })

/-- Step 8 is not reached within 30 s, time in Hold excluded: a report and a cold reset (log 121, DESIGN CHOICE). -/
def execStartTimeout (reason detail : Nat) (s : State) : Out :=
  .next (match s.boot.began with
    | none => s
    | some b =>
      if rd s .PS_STATUS_STATE ≠ 0 || s.time.mst < b + s.boot.heldNs + 30000000000 then s else
        let k := rd s .PS_BOOT_LAST_STEP
        let (r, d) :=
          if k = 2 then (1, rd s .PS_BANK_BANK_A + 256 * rd s .PS_BANK_BANK_B)
          else if k = 5 then (5, rd s .PS_STATUS_DIE_DOWN)
          else if k = 7 then (8, ((List.range 8).find? (fun h => (liveS s h).isEmpty)).getD 0)
          else if reason = 3 && !(40000 ≤ s.sup.busMv && s.sup.busMv ≤ 60000) then (3, s.sup.busMv / 10)
          else if [4, 6, 7, 8, 9].contains reason then (reason, detail % 65536)
          else (0x0A, k)
        coldReset (putReport s r k d s.boot.startS) 1)

/-- CLEAR_FAILS. -/
def execClearFails (s : State) : Out := .next (wr0 s .PS_BOOT_FAILS 0)

/-! ### Starts from step 4 and the warm reset -/

/-- A start from step 4, with the firmware running. -/
def startStep4 (s : State) : State :=
  let s := wr0 (wr0 (wr0 s .PS_STATUS_STATE 0) .PS_STATUS_TRANSITION 0) .PS_BOOT_LAST_STEP 4
  { s with boot := { s.boot with
    began := some s.time.mst, beganNs := s.boot.stbyNs, heldNs := 0, startS := standbyS s, hold := .awake, holdReq := false, watchReq := false
    wakeReq := none, resume := false, dieLater := [], flrLater := [], lost := [], lostPages := [], vio := true } }

/-- The attachments that there are. -/
def attachments (s : State) : List Nat := [0, 1].filter (fun a => fnPresent s (a * 128))

/-- A warm reset: everything but the standby island, and a start from step 4 (R429). The I/O dies go through reset, which is host loss. -/
def warmReset (s : State) : State :=
  if !mcRuns s then s else
    let s := abortTest s 2
    let s := each (attachments s) (fun s a => hostLoss s a 2) s
    let s := each ((List.range 256).filter (fun e => rd s .MT_CTRL_OWNER e ≠ 0 && flag s .MT_CTRL_ARMED e)) mtOff s
    startStep4 (wr0 (clearDevice s) .PS_STATUS_LAST_RESET 2)

def execWarmReset (s : State) : Out := .next (warmReset s)

/-- RESET_N low for 1 µs or more; pulses under 100 ns are ignored, what lies between is open (R503, log 123, DESIGN CHOICE). -/
def execResetNLow (ns : Nat) (s : State) : Out :=
  .next (if ns < 100 then s else if ns ≥ 1000 then warmReset s else
    let (f, s) := free s
    if f % 2 = 1 then warmReset s else s)

/-- A hot reset (kind 0), secondary bus reset (1), link disable (2) or PERST (3) of an attachment: a host loss, and but for PERST, which is a
link-down, the reset of its functions (R331, R429, R432, R501). -/
def execHostHotReset (att kind : Nat) (s : State) : Out :=
  .next (if kind > 3 || !(attachments s).contains att then s else
    let cause := if kind = 0 then 3 else if kind = 3 then 2 else 4
    let s := { s with host := { s.host with left := s.host.left.put att (((s.host.left.get att).map (·.1)).getD s.time.mst, true) } }
    let s := hostLoss s att cause
    if kind = 3 then s else flrReset { s with host := { s.host with cfg := s.host.cfg.del att } } (attFns att))

/-! ### Steps 4 to 8 -/

/-- The samples of the last millisecond lie within 40 to 60 V, and stage one may run. -/
def inputGood (s : State) : Bool := s.sup.last1ms.all (fun v => 40000 ≤ v && v ≤ 60000) && !s.sup.stageOff

/-- Snapshots captured in standby go to their addresses (R49); one whose die is held in reset by then is lost. -/
def copySnaps (s : State) : State :=
  each s.time.snaps (fun s e => if dieDown s (e.1 / dieBytes) || dieDown s ((e.1 + e.2.length - 1) / dieBytes) then s else putSnap s e.1 e.2)
    { s with time := { s.time with snaps := [] } }

/-- Run is reached (step 8; R453). -/
def startDone (s : State) : State :=
  let s := wr0 (wr0 (wr0 s .PS_STATUS_STATE 1) .PS_BOOT_LAST_STEP 8) .PS_BOOT_FAILS 0
  let s := wr0 s .PS_BOOT_BOOT_MS (divOpen (s.boot.stbyNs - s.boot.beganNs) 1000000)
  let s := { s with boot := { s.boot with began := none } }
  if flag s .SEC_STATUS_TRIAL && s.boot.running = rd s .SEC_STATUS_PREFERRED then
    let svn := ((getBank s s.boot.running).map (·.img.svn)).getD 0
    wr0 (wr0 s .SEC_STATUS_TRIAL 0) .SEC_STATUS_MIN_SVN (max (rd s .SEC_STATUS_MIN_SVN) svn)
  else s

/-- The dies that take part. -/
def upDies (s : State) : List Nat := (List.range 4).filter (fun d => !s.die.down.contains d && !s.die.dead.contains d)

/-- Steps 4 to 8 for a good input (R441, R395): `closed` are stops (die * 208 + stop) that self-test finds faulty, `deadCores` cores that fail
theirs, `badDies` dies that do not come up. The start waits while a shed holds. -/
def execBootInputGood (deadCores closed badDies : List Nat) (s : State) : Out :=
  .next (
    if rd s .PS_STATUS_STATE ≠ 0 || rd s .PS_BOOT_LAST_STEP ≠ 4 || !starting s || !inputGood s || flag s .KB_STATUS_SHED then s else
      let s := { s with boot := { s.boot with vio := true } }
      -- step 5
      let s := wr0 s .PS_BOOT_LAST_STEP 5
      let s := each (List.range 4) (fun s d =>
        let s := (selfTest s d closed).2
        if badDies.contains d && !s.die.dead.contains d then setDown { s with die := { s.die with dead := s.die.dead ++ [d] } } d true else s) s
      let s := each (deadCores.filter (fun c => coreLive s c && (upDies s).contains (coreDie c))) (fun s c =>
        setLive (setCore s c { getCore s c with gated := true, halted := true }) c false) s
      if (upDies s).isEmpty then s else
        -- steps 6 and 7
        let s := { s with mem := retiredOnly s }
        let s := wr0 s .PS_BOOT_LAST_STEP 7
        if (upDies s).any (fun d => (dieHalves d).any (fun h => (liveS s h).isEmpty)) then s else
          let s := each (List.range 4) (fun s d =>
            wr s .PW_DIE_STATUS_AGE_CEIL d ((dieHalves d).foldl (fun m h => min m (rd s .RL_AGE_STATUS_CEIL h)) 56)) s
          copySnaps (syncPow (each (upDies s) raiseDie (startDone s))))

/-! ### Hold (R436-R438) -/

/-- A reset of an instance has not reached its report (R371). -/
def resetting (s : State) : Bool := (List.range 64).any (fun i => [2, 3, 4].contains (instState s (i + 1)))

/-- The device is in Hold. A start that was interrupted resumes at the wake (R446). -/
def fallAsleep (s : State) : State :=
  let s := { s with
    cores := coresLost s
    coh := { epochs := s.coh.epochs }
    mem := s.mem.filter (fun c => c.1 < deckBytes)
    deck := { s.deck with chans := (SMap.mapV s.deck.chans (fun _ (c : Chan) => { lanePages := c.lanePages })).filter (fun (e : Nat × Chan) => e.2 ≠ {})
                          res := [], walks := [], engTlb := [], walkTlb := [], wins := [] }
    wm := { marks := (SMap.mapV s.wm.marks (fun _ (w : Waymark) => { w with watch := 0 })).filter (fun (e : Nat × Waymark) => e.2 ≠ {}) }
    sched := { s.sched with wantPre := [], agents := [] }
    pow := { s.pow with target := [], wantReq := [], stretch := [], tripped := [], samples := [] }
    boot := { s.boot with hold := .asleep, holdAt := s.now, holdReq := false } }
  let s := each (List.range 4) (fun s d => wr s .PW_DIE_STATUS_TRANSITION d 0) s
  saveSummary (bumpSat (wr0 (wr0 (windowStop s) .PS_STATUS_STATE 3) .PS_STATUS_TRANSITION 0) .PS_STATUS_HOLD_COUNT)

/-- Entry to Hold begins (R437 steps 1 and 2); in a start the dies that are down stay down (R446); a reset of an instance delays it (R371). -/
def beginHold (s : State) : State :=
  if rd s .PS_STATUS_STATE = 0 && mcRuns s && starting s then
    fallAsleep { s with boot := { s.boot with resume := true, holdFrom := s.now } }
  else if !diesRun s || s.boot.hold ≠ .awake || resetting s then s
  else
    let s := wr0 { s with boot := { s.boot with hold := .entering, holdFrom := s.now } } .PS_STATUS_TRANSITION 1
    let s := powShedBegin (abortTest s 1)
    each ((s.cores.filter (fun e => e.2.ctx.isSome)).map (·.1)) askPreempt s

/-- Home lines whose data the deck does not have. -/
def dirtyHome (s : State) : List (Nat × SEntry) :=
  s.coh.lines.filter (fun e => isLocal s (e.1 % 2 ^ 46) && homeDie (e.1 % 2 ^ 46) = e.1 / 2 ^ 46 && (e.2.st = .hd || e.2.st = .hg))

/-- Combining buffers and Thatches are flushed to the deck (R437 step 3). -/
def flushDeck (s : State) : State :=
  let ls := (dirtyHome s).map (fun e => (e.1 % 2 ^ 46, orderLine s (e.1 % 2 ^ 46), e.2.bad))
  let s := each (s.deck.chans.flatMap (fun c => c.2.wcb.map (·.line))) flushWcb s
  each ls (fun s l =>
    let s := putDeck s (locLine l.1) l.2.1
    if l.2.2 then setMark s (locLine l.1) (some .poison) else s) s

/-- PARTIAL lines that no push is under way for. -/
def partials (s : State) : List (Nat × Nat) :=
  (s.coh.lines.filter (fun e => e.2.st = .part && (s.coh.busy.get e.1).isNone)).map (fun e => (e.1 / 2 ^ 46, e.1 % 2 ^ 46))

/-- Every core is empty and the deck engines are idle (R437 steps 2 and 3). -/
def coresEmpty (s : State) : Bool := s.cores.all (fun e => e.2.ctx.isNone) && s.deck.chans.all (fun e => e.2.queue.isEmpty)

/-- No traffic is left. -/
def fabricQuiet (s : State) : Bool :=
  s.coh.net.isEmpty && s.coh.busy.isEmpty && s.coh.refused.isEmpty && s.wm.flight.isEmpty && s.coh.lines.all (fun e => e.2.st ≠ .part)

/-- VIO and what it feeds are down: host loss by link-down, the ports DOWN (R436, R440; log 120, DEDUCED). -/
def vioDown (s : State) : State :=
  let s := each (attachments s) (fun s a => hostLoss { s with host := { s.host with left := s.host.left.put a (s.time.mst, true) } } a 2) s
  let s := each (List.range 8) (fun s p =>
    let s := wr (leaveUp s p 0) .LK_STATUS_WIDTH p 0
    setPort s p { getPort s p with tries := 0, full := false }) s
  { s with boot := { s.boot with vio := false } }

/-- Watch (R440): self-refresh and the islands stop; what R432 and R433 keep is kept, the blob keys too (R459). -/
def enterWatch (s : State) : State :=
  let s := saveSummary s
  let s := if s.boot.vio then vioDown s else s
  let keys := (SMap.mapV s.inst.x (fun _ (x : InstX) => { key := x.key })).filter (fun (e : Nat × InstX) => e.2 ≠ {})
  let s := clearDevice s
  let s := wr0 { s with inst := { s.inst with x := keys } } .PS_STATUS_STATE 4
  { s with boot := { s.boot with hold := .awake, began := none, resume := false, watchReq := false, wakeReq := none, dieLater := [], flrLater := [], lost := [],
                                 lostPages := [], vio := false } }

/-- Entry to Hold goes on: it begins when nothing delays it; PARTIAL lines are pushed once the cores are empty; with the fabric quiet it ends. -/
def execHoldEntry (s : State) : Out :=
  .next (
    if s.boot.hold = .awake then (if s.boot.holdReq then beginHold s else s)
    else if s.boot.hold ≠ .entering || !coresEmpty s then s
    else if !(partials s).isEmpty then each (partials s) (fun s p => pushPartial s p.1 p.2 []) s
    else if !fabricQuiet s then s
    else
      let w := s.boot.watchReq && s.boot.wakeReq.isNone
      let s := fallAsleep (flushDeck s)
      if w then enterWatch s else { s with boot := { s.boot with watchReq := false } })

/-- VCORE fails before the entry is complete (R438): incomplete images and unwritten lines are lost; the contexts and pages wait for the wake. Which
combining entries and which banks' copies were complete is open (log 117, DESIGN CHOICE). -/
def powerLoss (s : State) : State :=
  let s := abortTest s 1
  let busy := distinct (s.cores.filterMap (fun e => if e.2.blocks.isEmpty then none else e.2.ctx))
  let pages := distinct ((dirtyHome s).map (fun e => pageOf (locLine (e.1 % 2 ^ 46) * 64)) ++
    (s.coh.lines.filter (fun e => e.2.st = .part && isLocal s (e.1 % 2 ^ 46))).map (fun e => pageOf (locLine (e.1 % 2 ^ 46) * 64)) ++
    -- evictions whose write-back has not been performed
    (s.coh.busy.filter (fun e => e.2.step = 4 && homeDie (e.1 % 2 ^ 46) = e.1 / 2 ^ 46)).map (fun e => pageOf (locLine (e.1 % 2 ^ 46) * 64)) ++
    (s.coh.net.filter (fun m => m.kind = .writeBack)).map (fun m => pageOf (locLine m.line * 64)))
  let s := each (s.deck.chans.flatMap (fun c => c.2.wcb.map (·.line))) (fun s l =>
    let (f, s) := free s
    if f % 2 = 0 then flushWcb s l else dropWcb s l) s
  let (f, s) := free s
  let gone := (List.range 8).filter (fun h => tb f h)
  let mine := (s.sched.ctxs.filter (fun e => gone.any (fun h => e.2.wmBase < 512 * (h + 1) && 512 * h < e.2.wmBase + 2 ^ e.2.wmLog2))).map (·.1)
  let s := { s with
    wm := { s.wm with marks := s.wm.marks.filter (fun e => !gone.contains (e.1 / 512)) }
    boot := { s.boot with lost := busy ++ mine.filter (fun n => !busy.contains n), lostPages := pages, holdFrom := s.now } }
  let w := s.boot.watchReq && s.boot.wakeReq.isNone
  let s := fallAsleep (bumpSat s .PS_STATUS_HOLD_LOSS)
  if w then enterWatch s else { s with boot := { s.boot with watchReq := false } }

/-- The 54 V input is below 36 V. -/
def inputLow (s : State) : Bool := s.sup.busMv < 36000

/-- The input falls below 36 V before the entry is complete. -/
def execHoldEntryPowerLoss (s : State) : Out := .next (if diesRun s && inputLow s then powerLoss s else s)

/-- The input falls below 36 V in Hold. -/
def execVioLoss (s : State) : Out := .next (if rd s .PS_STATUS_STATE = 3 && s.boot.vio && inputLow s then vioDown s else s)

/-- Ten samples above 63 V: stage one stops, and VCORE and VIO fail (R497). -/
def execStage1OvStop (s : State) : Out :=
  .next (if s.sup.ov < 10 || s.sup.stageOff || !mcRuns s then s else
    let s := { s with sup := { s.sup with stageOff := true } }
    let s := if diesRun s then powerLoss s else s
    if s.boot.vio then vioDown s else s)

/-! ### Waking (R439) -/

/-- A wake: from Watch at once a start from step 4; in Hold, or in an entry to it, a request for the wake. -/
def requestWake (s : State) (cause : Nat) : State :=
  let st := rd s .PS_STATUS_STATE
  if st = 4 then startStep4 (wr0 s .PS_STATUS_WAKE_CAUSE cause)
  else if st = 3 || s.boot.hold = .entering then
    (if s.boot.wakeReq.isSome then s else { s with boot := { s.boot with wakeReq := some cause } })
  else s

/-- PS_CTRL.REQ = RUN: a wake, or the return from Trim. -/
def execReqRun (s : State) : Out :=
  .next (if rd s .PS_STATUS_STATE = 2 && s.boot.hold = .awake then syncPow (each (upDies s) requestCode (wr0 s .PS_STATUS_STATE 1)) else requestWake s 1)

/-- PS_CTRL.REQ = TRIM, in Run: the dies keep to TRIM_CEIL. -/
def execReqTrim (s : State) : Out :=
  .next (if rd s .PS_STATUS_STATE = 1 && s.boot.hold = .awake then syncPow (each (upDies s) settleDie (wr0 s .PS_STATUS_STATE 2)) else s)

/-- PS_CTRL.REQ = HOLD; a second request is merged. -/
def execReqHold (s : State) : Out :=
  .next (if (diesRun s || (rd s .PS_STATUS_STATE = 0 && starting s && mcRuns s)) && s.boot.hold = .awake then
    beginHold { s with boot := { s.boot with holdReq := true } } else s)

/-- PS_CTRL.REQ = WATCH: from Hold at once, else through Hold. A wake that has been requested goes first (R446). -/
def execReqWatch (s : State) : Out :=
  .next (if rd s .PS_STATUS_STATE = 3 then (if s.boot.wakeReq.isSome then s else enterWatch s)
    else if !diesRun s then s
    else
      let s := { s with boot := { s.boot with watchReq := true } }
      if s.boot.hold = .awake then beginHold { s with boot := { s.boot with holdReq := true } } else s)

/-- Hold has lasted HOLD_MAX_S; during a wake the request is dropped. -/
def execHoldMaxExpiry (s : State) : Out :=
  .next (let m := rd s .PS_CFG_HOLD_MAX_S
         if rd s .PS_STATUS_STATE = 3 && m ≠ 0 && s.boot.holdAt + m * 1000000000 ≤ s.now && s.boot.wakeReq.isNone then enterWatch s else s)

/-- The bus has come back since the entry to Hold began and has been good for WAKE_DELAY (log 116, DEDUCED). -/
def execAutoWake (s : State) : Out :=
  .next (match s.sup.goodSince with
    | some t => if flag s .PS_CFG_AUTO_WAKE && !s.sup.stageOff && s.boot.holdFrom ≤ t && t + rd s .PS_CFG_WAKE_DELAY * 10000000 ≤ s.now then requestWake s 2 else s
    | none => s)

/-- A wake detector: it watches a port while VIO is down, and in Watch. -/
def execLinkWake (port : Nat) (s : State) : Out :=
  .next (if port < 8 && flag s .PS_CFG_LINK_WAKE && !s.boot.vio then requestWake s 3 else s)

/-- Stage one restarts after 100 ms at or below 60 V, and the device wakes. -/
def execStage1Restart (s : State) : Out :=
  .next (match s.sup.okSince with
    | some t =>
      if s.sup.stageOff && t + 100000000 ≤ s.now then requestWake { s with sup := { s.sup with stageOff := false } } 2 else s
    | none => s)

/-- Ports that are enabled train once VIO is up again. -/
def portsTrain (s : State) : State :=
  each ((List.range 8).filter (fun p => flag s .LK_CTRL_EN p && rd s .LK_STATUS_STATE p = 0)) (fun s p =>
    setPort (wr (wr s .LK_STATUS_STATE p 1) .LK_STATUS_FAULTY p 0) p (fullCredits { getPort s p with tries := 0, full := true })) s

/-- The manager's KILL of a context that lost its image or its waymarks (R438). -/
def killLostCtx (s : State) (n : Nat) : State :=
  match getCtx s n with
  | some x => if x.st = .killing || x.st = .dead then s else setCtx s n { x with st := .killing, mgr := true }
  | none => s

/-- A page with a lost line is retired; the reason is open (log 117, DESIGN CHOICE). -/
def retireLost (s : State) (page : Nat) : State :=
  if s.deck.retired.contains page then s else
    let (f, s) := free s
    retirePage s page (1 + f % 4)

/-- Far epochs are advanced (R206). -/
def epochsOn (s : State) : State :=
  let tags := s.sched.ctxs.filterMap (fun e => e.2.farTag)
  { s with coh := { s.coh with epochs := tags.foldl (fun m t =>
    (List.range 384).foldl (fun m k => m.set (k * 256 + t) 0 ((m.getD (k * 256 + t) 0 + 1) % 65536)) m) s.coh.epochs } }

/-- The wake (log 118, DESIGN CHOICE): with a start that was interrupted, the return to its step. -/
def execWakeFromHold (s : State) : Out :=
  .next (match s.boot.wakeReq with
    | none => s
    | some c =>
      if rd s .PS_STATUS_STATE ≠ 3 || s.boot.hold ≠ .asleep || inputLow s || s.sup.stageOff then s else
        let b := s.boot
        let s := if b.vio then s else portsTrain s
        let s := wr0 { s with boot := { b with hold := .awake, wakeReq := none, watchReq := false, vio := true, resume := false, dieLater := [], flrLater := [], lost := [], lostPages := [] } } .PS_STATUS_WAKE_CAUSE c
        if b.resume then wr0 { s with boot := { s.boot with heldNs := s.boot.heldNs + (s.now - b.holdFrom) } } .PS_STATUS_STATE 0 else
          let s := epochsOn (wr0 s .PS_STATUS_STATE 1)
          let s := each (upDies s) raiseDie s
          let s := if flag s .KB_STATUS_SHED then powShedBegin s else s
          let s := each b.lostPages retireLost s
          -- zeroing that the power loss cut short begins again
          let s := each (s.deck.zeroing.filter (fun p => !s.deck.retired.contains p)) (fun s p => zeroDesc s 65536 p) s
          let s := each b.lost killLostCtx s
          let s := each (b.dieLater.filter (fun d => (upDies s).contains d)) (fun s d => dieRestart (dieLost s d none) d) s
          let s := each (b.flrLater.filter (fun n => instState s n ≠ 0 && (instX s n).kind ≠ 4)) (fun s n =>
            startReset (if (instX s n).freezing then inResult s n 2 else s) n 2) s
          copySnaps (syncPow s))

end Sys2Proof.Machine
end

