-- ==== Sys2Proof/Machine/Security.lean ====
section
/-! DEFINITION. Firmware updates, attestation and debug unlock (R448-R458). Log 124, DESIGN CHOICE: an update is one step; log 125, DESIGN CHOICE: the bytes and the course of SPDM
messages, which the spec leaves to SPDM. -/

namespace Sys2Proof.Machine

/-! ### Updates (R452, R445) -/

/-- The bank that an update is written to: the one that does not run; in verge mode one that did not verify (an open choice when neither did),
or the one that PREFERRED does not name. -/
def updateBank (s : State) : Nat × State :=
  if rd s .PS_STATUS_STATE ≠ 5 then (1 - s.boot.running, s) else
    match tb (rd s .PS_BANK_BANK_A) 1, tb (rd s .PS_BANK_BANK_B) 1 with
    | true, true => (1 - rd s .SEC_STATUS_PREFERRED, s)
    | true, false => (1, s)
    | false, true => (0, s)
    | false, false => let (f, s) := free s; (f % 2, s)

/-- A PLDM firmware update: refused while TRIAL is 1; checked after the write; in verge mode a good one is activated at once. -/
def execFirmwareUpdate (img : Image) (s : State) : Out :=
  .next (
    let verge := rd s .PS_STATUS_STATE = 5
    if !(mcRuns s || verge) || flag s .SEC_STATUS_TRIAL then s else
      let (b, s) := updateBank s
      let s := showBank { s with boot := { s.boot with banks := s.boot.banks.put b { img := img } } } b
      let (ok, s) := checkBank s b
      if !ok then s else
        let s := wr0 (wr0 s .SEC_STATUS_PREFERRED b) .SEC_STATUS_TRIAL 1
        if verge then coldReset (wr0 s .PS_BOOT_FAILS 0) 4 else s)

/-- The PLDM activate request, for an update that waits: a cold reset. -/
def execFirmwareActivate (s : State) : Out := .next (if mcRuns s && flag s .SEC_STATUS_TRIAL then coldReset s 4 else s)

/-! ### Attestation (R455, R457, R458) -/

/-- An SPDM response: its code and what it carries; `conn` is how far the connection has come (log 125, DESIGN CHOICE). -/
def spdmAnswer (s : State) (code : Nat) (content : List Nat) : State :=
  answer s (.data (Config.spdm code (s.boot.spdm.1 :: s.boot.spdm.2 :: content)))

/-- The two signatures of a signed response, by the Alias keys (R458). -/
def aliasSigs (s : State) (content : List Nat) : List Nat :=
  [0, 1].filterMap (fun a => (keyOf s .alias_ a).bind (fun k => k.priv.map (fun p => Config.sign a p content)))

/-- A signed response. -/
def spdmSigned (s : State) (code : Nat) (content : List Nat) : State := spdmAnswer s code (content ++ aliasSigs s content)

/-- The chain of a slot below the identity CA (R457): the certificates of DeviceID and Alias in its algorithm. -/
def slotChain (s : State) (slot : Nat) : List Nat :=
  (s.boot.certs.filter (fun c => c.signer = slot && c.role ≠ .wrap)).flatMap (fun c => c.sig :: c.subject)

/-- A request to the responder. -/
def spdm (s : State) (body : State → State) : Out := .next (if mcRuns s then body s else s)

/-- The connection takes a stage and algorithms. -/
def setSpdm (s : State) (stage algs : Nat) : State := { s with boot := { s.boot with spdm := (stage, algs) } }

/-- A measurement by index: entry 8 is live (R455). -/
def measurement (s : State) (i : Nat) : List Nat :=
  if i = 8 then [8, rd s .SEC_STATUS_DEBUG] else match s.boot.meas.get i with | some v => [i, v] | none => []

def execGetVersion (s : State) : Out := spdm s (fun s => spdmAnswer (setSpdm s 1 0) 0x04 [])
def execGetCapabilities (s : State) : Out := spdm s (fun s => spdmAnswer (setSpdm s (if s.boot.spdm.1 = 0 then 0 else 2) 0) 0x61 [])

/-- Ed25519 (bit 9 of SPDM's base asymmetric algorithms) and SHA-384 (bit 1 of its hashes) are chosen where they are offered (R457). -/
def execNegotiateAlgorithms (asym hash : Nat) (s : State) : Out :=
  spdm s (fun s => spdmAnswer (setSpdm s (if s.boot.spdm.1 < 2 then s.boot.spdm.1 else 3) ((tb asym 9).toNat + 2 * (tb hash 1).toNat)) 0x63 [])

/-- Digests of the chains of slots 0 and 1. -/
def execGetDigests (s : State) : Out := spdm s (fun s => spdmAnswer s 0x01 ([0, 1] ++ slotChain s 0 ++ slotChain s 1))

/-- A part of a slot's chain; slots other than 0 and 1 hold none. -/
def execGetCertificate (slot off len : Nat) (s : State) : Out :=
  spdm s (fun s => if slot > 1 then spdmAnswer s 0x7F [slot] else spdmAnswer s 0x02 ([slot, off, len] ++ slotChain s slot))

/-- CHALLENGE_AUTH: both signatures, over the nonce, the measurements and the debug state (R456, R458). -/
def execChallenge (slot nonce : Nat) (s : State) : Out :=
  spdm s (fun s => if slot > 1 then spdmAnswer s 0x7F [slot] else spdmSigned s 0x03 ([slot, nonce] ++ (List.range' 1 8).flatMap (measurement s)))

/-- MEASUREMENTS: their number (index 0), one, or all (255); the debug state in each (R456). -/
def execGetMeasurements (index : Nat) (signed : Bool) (s : State) : Out :=
  spdm s (fun s =>
    let l := if index = 0 then [8] else if index = 255 then (List.range' 1 8).flatMap (measurement s) else measurement s index
    let l' := [signed.toNat, rd s .SEC_STATUS_DEBUG] ++ l
    if l.isEmpty then spdmAnswer s 0x7F [index] else if signed then spdmSigned s 0x60 l' else spdmAnswer s 0x60 l')

/-! ### Debug (R456) -/

/-- An unlock token whose two signatures verify. -/
def execDebugUnlock (edOk mldsaOk : Bool) (s : State) : Out := .next (if mcRuns s && edOk && mldsaOk then wr0 s .SEC_STATUS_DEBUG 1 else s)

end Sys2Proof.Machine
end

