-- ==== Sys2Proof/Machine/RegWrite.lean ====
section
/-! DEFINITION. The register space (R4-R9, R305, R312, R372, R483, R487, R488, R494): decoding of offsets, availability, what a write does to
each register and what a read of the whole space shows, MGMT, the invalidation of translations, the opcode check (R109). Log 126, DESIGN CHOICE: offsets of a
function block in REGISTER_WRITE; log 127, DESIGN CHOICE: writes that have a row of their own; log 128, DEDUCED: 4-byte writes; log 129, DESIGN CHOICE: what shows where the spec names
no source (LINE_ACK, PQ_SUM, the answer of MGMT); log 130, DEDUCED: AT_INVALIDATE twice. -/

namespace Sys2Proof.Machine

/-- The state after a meaning that has completed. -/
def thenDo (o : Out) (s : State) : State := match o with | .next t => t | _ => s

/-! ### Offsets (R487, R312) -/

/-- The copy of a register that an offset from its first one names, the dimensions flattened. -/
def copyAt : List (Nat × Nat) → Nat → Option Nat
  | [], o => if o = 0 then some 0 else none
  | (st, n) :: t, o => if o / st < n then (copyAt t (o % st)).map (fun i => o / st * (t.foldl (fun a e => a * e.2) 1) + i) else none

/-- The register at an aligned offset, and its copy. -/
def regAt : List RegRow → Nat → Option (RegRow × Nat)
  | [], _ => none
  | r :: t, o =>
    if r.off ≤ o then
      match copyAt r.dims (o - r.off) with
      | some i => some (r, i)
      | none => regAt t o
    else regAt t o

/-- The first field of a register, which names it. -/
def RegRow.name (r : RegRow) : Fld := r.flds.headD .RG_ID_PART

/-- Registers that are 8-byte-only (R7, R46, R312, R428). -/
def wideOnly (f : Fld) : Bool := [.MST_NOW_MST, .MT_FIRE_MST_FIRE_MST, .HDM_FLUSH_ATTACH_GEN, .DOORBELL_PI, .PW_ENERGY_UJ, .PW_CONVOY_WAIT_NS].contains f

/-- An access that R7 allows: 4 or 8 bytes, aligned. -/
def accessOk (off size : Nat) : Bool := (size = 4 || size = 8) && off % size = 0

/-- A compute die is served: in Run or Trim and not in reset (R487). -/
def dieServed (s : State) (d : Nat) : Bool := refreshed s d

/-- The die of a register of a D block; none where the block's register is the device's. -/
def regDie (s : State) (f : Fld) (i : Nat) : Option Nat :=
  match f with
  | .MX_RAMP_CTRL_LANES => some (i / 2)
  | .MX_RAMP_MAP_LANES => some (i / 8)
  | .MX_RAMP_STATUS_PENDING => some (i / 2)
  | .TH_NACK_COUNT => some i | .TH_TICKET_COUNT => some i | .TH_TICKET_WAIT_MAX_COUNT => some i | .TH_PUSH_COUNT => some i
  | .TH_GUTTER_COUNT => some i | .TH_EPOCH_SWEEP_COUNT => some i
  | .DK_CHAN_STATUS_OWED => some (rd s .DK_CHAN_SEL_CHAN / 512)
  | .DK_TEMP_LAYER => some i | .DK_ECC_CORRECTED => some i
  | .NET_CLOSED_CLOSED => some (i / 4)
  | .NET_RIDGE_CW_OPEN => some i
  | .NET_WMX_PEND_0 => some (i / 4)
  | .NET_WMB_PEND_0 => some (bridgeDie i)
  | _ => none

/-- Whether the block of a register is served (R487). -/
def served (s : State) (off : Nat) (f : Fld) (i : Nat) : Bool :=
  let st := rd s .PS_STATUS_STATE
  let always := rd s .PS_BOOT_LAST_STEP ≠ 0
  if 0x30000 ≤ off && off < 0x70000 then
    (f = .DK_RETIRE_COUNT_COUNT || f = .DK_RETIRE_DATA_PAGE) && always ||
      (match regDie s f i with | some d => dieServed s d | none => (List.range 4).any (dieServed s))
  else if (0x70000 ≤ off && off < 0x90000) || (0x100000 ≤ off && off < 0x200000) then st = 1 || st = 2 || (st = 3 && s.boot.vio)
  else always

/-! ### Windows: registers that an index register steers -/

/-- The index under which a register of the register space is kept. -/
def regIndex (s : State) (f : Fld) (i : Nat) : Nat :=
  match f with
  | .DK_RETIRE_DATA_PAGE => rd s .DK_RETIRE_IDX_IDX
  | .DK_CHAN_STATUS_OWED => rd s .DK_CHAN_SEL_CHAN
  | .LK_ROUTE_DATA_PORT => rd s .LK_ROUTE_IDX_IDX
  | .TP_CONVOY_DATA_BASE => rd s .TP_CONVOY_IDX_IDX
  | .IN_CMD_OP => rd s .IN_SEL_INSTANCE
  | .IN_ARG_ARG => rd s .IN_SEL_INSTANCE
  | .IN_RESULT_RESULT => rd s .IN_SEL_INSTANCE
  | .IN_STATUS_STATE => rd s .IN_SEL_INSTANCE
  | .IN_CFG_ATTACH => rd s .IN_SEL_INSTANCE
  | .IN_RES_WAYS => rd s .IN_SEL_INSTANCE
  | .IN_WM_BASE => rd s .IN_SEL_INSTANCE
  | .IN_CORES_CORES => rd s .IN_SEL_INSTANCE * 16 + i
  | .IN_UNIT_DATA_OWNER => rd s .IN_UNIT_IDX_UNIT
  | .RL_AGE_STATUS_D_MAX => rd s .RL_AGE_SEL_HALF
  | _ => i

/-! ### Reads -/

/-- TP_CTX_STATUS of the selected context. -/
def ctxStatus (s : State) (f : Fld) : Nat :=
  let n := rd s .TP_CTX_SEL_CONTEXT
  match getCtx s n with
  | none => if f = .TP_CTX_STATUS_SLOWDOWN then 256 else 0
  | some x => match f with
    | .TP_CTX_STATUS_STATE => ctxCode x.st
    | .TP_CTX_STATUS_INSTANCE => x.inst
    | .TP_CTX_STATUS_FAR_TAG => x.farTag.getD 0
    | .TP_CTX_STATUS_FAR_EN => x.farTag.isSome.toNat
    | .TP_CTX_STATUS_SLOWDOWN => x.slowdown
    | _ => (ctxCores s n).length

/-- A counter of the selected client, with what its cores have run since they were last settled (R344). -/
def tollOf (s : State) (k : Nat) : Nat :=
  let s := each s.cores.keys settle_ s
  let n := rd s .TP_TOLL_SEL_NUMBER
  if flag s .TP_TOLL_SEL_KIND then (((getCtx s n).map (·.tolls)).getD []).getD k 0
  else if n > 64 then 0 else (s.sched.instTolls.getD n []).getD k 0

/-- A word of IN_CORES without the bits of the agents' S-cores (R360). -/
def noAgents (s : State) (j v : Nat) : Nat :=
  (List.range 64).foldl (fun v b => if v.testBit b && isAgent s (64 * j + b) then v - 2 ^ b else v) v

/-- M-cores of a half. -/
def mCores (h : Nat) : List Nat := (List.range 64).map (· + h * 104)

/-- A field as a read shows it: what is kept, or what follows from the rest of the state. `x` is an open value (log 129, DESIGN CHOICE). -/
def showFld (s : State) (f : Fld) (i x : Nat) : Nat :=
  match f with
  | .MST_NOW_MST => mstNow s
  | .MAINS_ANGLE_ANGLE => mainsAngle s
  | .MX_RAMP_STATUS_PENDING => ((mCores i).any (fun c => (getCore s c).gate > s.time.mst)).toNat
  | .MX_RAMP_STATUS_HELD => rd s .KB_STATUS_SHED
  | .MX_RAMP_STATUS_WARM_ENG => ((mCores i).map (fun c => ((getCore s c).engines.filter (fun e => e.2.warm)).length)).sum
  | .DK_CHAN_STATUS_WCB => (getChan s i).wcb.length
  | .DK_CHAN_STATUS_SELF_REFRESH => (!refreshed s (i / 512)).toNat
  | .TP_CTX_STATUS_STATE => ctxStatus s f | .TP_CTX_STATUS_INSTANCE => ctxStatus s f | .TP_CTX_STATUS_FAR_TAG => ctxStatus s f
  | .TP_CTX_STATUS_FAR_EN => ctxStatus s f | .TP_CTX_STATUS_SLOWDOWN => ctxStatus s f | .TP_CTX_STATUS_CORES => ctxStatus s f
  | .TP_TOLL_COUNT => tollOf s i
  | .IN_STATUS_STATE => instState s i
  | .IN_CORES_CORES => noAgents s (i % 16) (rd s f i)
  | .IN_UNIT_DATA_RETIRED => (s.deck.retired.filter (fun p => unitOfPage p = i)).length
  | .PQ_DATA_DATA => leNat ((((s.sup.log.get (rd s .PQ_IDX_SLOT)).map PqEntry.bytes).getD []).drop (8 * i) |>.take 8)
  | .PQ_SUM_DATA => leNat ((s.sup.flash.bytes.drop (8 * i)).take 8)
  | .KB_STATUS_LINE_ACK => if flag s .KB_STATUS_ACK then 1 else x % 2
  | .RL_ERR_DATA_DATA => bits (errBytes s (rd s .RL_ERR_IDX_SLOT)) (64 * i) 64
  | _ => rd s f i

/-- The 64 bits of a register: write-only and reserved bits read as zero (R4, R6). -/
def readReg (s : State) (r : RegRow) (i x : Nat) : Nat :=
  let j := regIndex s r.name i
  r.flds.foldl (fun a f => if f.spec.acc = .wo then a else a + showFld s f j x % 2 ^ f.spec.w * 2 ^ f.spec.lo) 0

/-- The instance and offset of a mailbox in the instance block (R372). -/
def mailAt (off : Nat) : Option (Nat × Nat) :=
  if 0x110000 ≤ off && off < 0x150000 then some ((off - 0x110000) / 4096 + 1, off % 4096) else none

/-- Read the register space: zero from what is not served, from gaps and from accesses that R7 does not allow. -/
def readSpace (s : State) (off size x : Nat) : Nat :=
  if !accessOk off size then 0
  else match mailAt off with
  | some (n, k) =>
    if !served s off .IN_SEL_INSTANCE 0 || (size = 4 && (k / 8 * 8 = 0 || k / 8 * 8 = 0x800)) then 0
    else leNat ((List.range size).map (fun j => mailByte s n (k + j)))
  | none =>
    match regAt regTable (off / 8 * 8) with
    | none => 0
    | some (r, i) =>
      if !served s off r.name i || (size = 4 && wideOnly r.name) then 0
      else if size = 8 then readReg s r i x else bits (readReg s r i x) (8 * (off % 8)) 32

/-! ### Limits of fields -/

/-- Whether a value may be written to a field; else the field is unchanged. -/
def fldOk (f : Fld) (v : Nat) : Bool :=
  match f with
  | .MX_RAMP_CTRL_SPACING => v ≠ 0
  | .DK_QOS_W_NORM => v ≠ 0 | .DK_QOS_W_BULK => v ≠ 0 | .DK_QOS_W_BACK => v ≠ 0
  | .DK_QOS_CRIT_CAP => v ≤ 30
  | .DK_SCRUB_CTRL_PERIOD_H => 1 ≤ v && v ≤ 24
  | .LK_CTRL_MAX_RATE => v ≠ 3
  | .TP_CFG_PERIOD => v ≠ 0
  | .TP_CONVOY_DATA_LOG2 => v ≤ 12
  | .IN_SEL_INSTANCE => v ≤ 64
  | .IN_RES_WAYS => v ≠ 0
  | .IN_RES_SEQ_QUOTA => v ≤ 2097152
  | .IN_WM_LOG2 => v ≤ 12
  | .IN_UNIT_IDX_UNIT => v < 384
  | .KB_CTRL_LEVEL => 10 ≤ v && v ≤ 75
  | .KB_CTRL_EXIT_EDGES => v ≠ 0
  | .FR_POINT_CAP_PM => v ≤ 1000
  | .PW_LIMIT_TRIP_FAST => v ≤ 1650
  | .PW_LIMIT_I_CONT => v ≤ 1300
  | .PW_LIMIT_GRANT_PCT => 50 ≤ v && v ≤ 95
  | .PW_CONVOY_CTRL_PERIOD => v ≠ 0 | .PW_CONVOY_CTRL_STALE => v ≠ 0
  | .PS_CFG_WAKE_DELAY => v ≠ 0
  | .RL_CFG_CE_TEST => v ≠ 0
  | .RL_AGE_CFG_INTERVAL_H => v ≠ 0
  | .RL_AGE_CFG_G_BASE_MV => 5 ≤ v && v ≤ 50
  | _ => true

/-- Write one field as its access code says (R4). -/
def writeFld (s : State) (j v : Nat) (f : Fld) : State :=
  let x := bits v f.spec.lo f.spec.w
  match f.spec.acc with
  | .rw => if fldOk f x then wr s f j x else s
  | .w1c => if x ≠ 0 then wr s f j 0 else s
  | _ => s

/-- Write every field of a register. -/
def writeFlds (s : State) (r : RegRow) (j v : Nat) : State := r.flds.foldl (fun s f => writeFld s j v f) s

/-- What a 4-byte write amounts to as a write of 64 bits: RW fields keep the bits of the other half, the others see zeros there (log 128, DEDUCED). -/
def widen (s : State) (r : RegRow) (j off size v : Nat) : Nat :=
  if size = 8 then v % 2 ^ 64 else
    let lo := 8 * (off % 8)
    let keep := r.flds.foldl (fun a f => if f.spec.acc = .rw then a + rd s f j % 2 ^ f.spec.w * 2 ^ f.spec.lo else a) 0
    keep - bits keep lo 32 * 2 ^ lo + v % 2 ^ 32 * 2 ^ lo

/-! ### Invalidations (R494) -/

/-- Accesses that a dropped translation has translated and that have not been performed; of a context being killed, the drain of its kill (R494). A length
of zero waits for nothing (R8). -/
def invalPending (s : State) (n lo hi : Nat) : Bool :=
  lo < hi && ((getCtx s n).map (·.st) = some .killing ||
    s.cores.any (fun e => e.2.ctx = some n && e.2.outs.any (fun o => o.parts.any (fun p => p.va < hi && lo < p.va + max 1 p.size))) ||
    s.deck.chans.any (fun e => e.2.queue.any (fun d => d.ctx = n && d.phase = 1)))

/-- Step 3, once nothing is pending. -/
def invalEnd (s : State) : State :=
  match s.sched.inval with
  | none => s
  | some (n, lo, hi) =>
    if invalPending s n lo hi then s
    else wr0 (bump { s with sched := { s.sched with inval := none } } .AT_INV_STATUS_DONE) .AT_INV_STATUS_BUSY 0

/-- AT_INV_CMD.GO: step 1 at once; steps 2 and 3 at once or, while BUSY, at a later AT_INVALIDATE (log 130, DEDUCED). A length of zero drops nothing (R8). -/
def execAtInvalidate (v : W64) (s : State) : Out :=
  .next (if flag s .AT_INV_STATUS_BUSY then invalEnd s
    else if !tb v.toNat 15 then s
    else
      let n := bits v.toNat 0 12
      let lo := rd s .AT_INV_VA_VA * 65536
      let hi := lo + rd s .AT_INV_LEN_LEN * 65536
      let (lo, hi) := if tb v.toNat 12 then (0, 2 ^ 48) else (lo, hi)
      let s := if lo < hi then dropTrans s n lo hi else s
      invalEnd (wr0 { s with sched := { s.sched with inval := some (n, lo, hi) } } .AT_INV_STATUS_BUSY 1))

/-! ### Writes to the register space -/

/-- MST_CTRL: a source that is no longer enabled is left (R31). -/
def mstCtrl (s : State) (r : RegRow) (v : Nat) : State :=
  let s := writeFlds s r 0 v
  let s := setFlag s .MST_STATUS_LINK_OK 0 (flag s .LK_TT_VALID (rd s .MST_CTRL_LINK_PORT))
  let src := rd s .MST_STATUS_SOURCE
  if (src = 1 && !flag s .MST_CTRL_REF_EN) || (src = 2 && !linkTimeOk s) then mstFall s
  else if src = 2 then mstSource s 2 (linkUnc s) else s

/-- A milestone entry's own fields: ignored, with ARM_ERR, while it is armed (R39). -/
def mtField (s : State) (r : RegRow) (n v : Nat) : State :=
  if flag s .MT_CTRL_ARMED n then wr s .MT_CTRL_ARM_ERR n 1 else writeFlds s r n v

/-- LK_CTRL (R285, R286). -/
def linkCtrl (s : State) (r : RegRow) (p v : Nat) : State :=
  let was := flag s .LK_CTRL_EN p
  let s := writeFlds s r p v
  let s := if tb v 2 && !was then thenDo (execLinkEnable p s) s else if !tb v 2 && was then portDown s p 8 else s
  if tb v 3 then thenDo (execRetrain p s) s else s

/-- TP_CTX_CMD (R338). -/
def ctxCommand (s : State) (v : Nat) : State :=
  let n := bits v 0 12
  match bits v 16 4 with
  | 1 => thenDo (execCreate n s) s
  | 2 => thenDo (execSuspend n s) s
  | 3 => thenDo (execResume n s) s
  | 4 => thenDo (execKill n s) s
  | 5 => thenDo (execDestroy n s) s
  | 6 => thenDo (execSetWeight n (bits v 32 16) s) s
  | _ => s

/-- IN_CMD (R358). WRAP and RESTORE need what only their rows carry (log 127, DESIGN CHOICE). -/
def instCommand (s : State) (who : Who) (n v : Nat) : State :=
  let arg := rd s .IN_ARG_ARG n
  match bits v 0 4 with
  | 1 => thenDo (execEnable who n s) s
  | 2 => thenDo (execDisable who n s) s
  | 3 => thenDo (execReset who n s) s
  | 4 => thenDo (execFreeze who n s) s
  | 5 => thenDo (execSave who n (bits v 16 16) s) s
  | 8 => thenDo (execThaw who n s) s
  | 9 => thenDo (execAddUnit who n arg s) s
  | 10 => thenDo (execRemoveUnit who n arg s) s
  | 11 => thenDo (execSetCores who n s) s
  | _ => s

/-- PS_CTRL (R447): the failed-start counter, dies, the state requested, then the resets. -/
def psCtrl (s : State) (v : Nat) : State :=
  let s := if tb v 10 then thenDo (execClearFails s) s else s
  let s := each ((List.range 4).filter (fun d => tb v (16 + d))) (fun s d => thenDo (execDieReset d s) s) s
  let s := match bits v 0 3 with
    | 1 => thenDo (execReqRun s) s
    | 2 => thenDo (execReqTrim s) s
    | 3 => thenDo (execReqHold s) s
    | 4 => thenDo (execReqWatch s) s
    | _ => s
  if tb v 9 then coldReset s 1 else if tb v 8 then warmReset s else s

/-- KB_CTRL (R389, R402). -/
def kerbCtrl (s : State) (r : RegRow) (v : Nat) : State :=
  let s := writeFlds s r 0 v
  syncLimit (if tb v 0 then s else thenDo (execKerbDisable s) s)

/-- What a write does to a register of the register space; `lo` and `hi` tell which halves were written. -/
def writeReg (s : State) (who : Who) (r : RegRow) (i v : Nat) (lo hi : Bool) : State :=
  let j := regIndex s r.name i
  match r.name with
  | .MST_STATUS_SOURCE => writeFlds s r 0 v
  | .MST_NEXT_PPS_NEXT => thenDo (execMstNextPpsWrite (BitVec.ofNat 64 v) s) s
  | .MST_CTRL_REF_EN => mstCtrl s r v
  | .MT_TIME_TIME => mtField s r i v
  | .MT_ANGLE_ANGLE => mtField s r i v
  | .MT_ARG0_ARG => mtField s r i v
  | .MT_ARG1_ARG => mtField s r i v
  | .MT_CTRL_ARMED => if tb v 0 then thenDo (execMtArm i (BitVec.ofNat 64 v) 0 s) s else thenDo (execMtDisarm i (BitVec.ofNat 64 v) s) s
  | .DK_RETIRE_REQ_PAGE => thenDo (execDkRetireReq (bits v 0 23) s) s
  | .LK_DEVNUM_DEV => if (List.range 8).any (portUp s) then s else writeFlds s r 0 v
  | .LK_CTRL_MAX_RATE => linkCtrl s r i v
  | .TP_CTX_CMD_CONTEXT => ctxCommand s v
  | .TP_SEQ_BASE_BASE => if s.sched.loops.isEmpty then writeFlds s r 0 v else s
  | .IN_CMD_OP => if instWriter s who j then instCommand s who j v else s
  | .IN_CFG_ATTACH => if instWriter s who j && j ≠ 0 && instState s j = 0 then writeFlds s r j v else s
  | .IN_WM_BASE => if instWriter s who j && j ≠ 0 && instState s j = 0 then writeFlds s r j v else s
  | .IN_SEL_INSTANCE => writeFlds s r 0 v
  | .IN_UNIT_IDX_UNIT => writeFlds s r 0 v
  | .IN_RES_WAYS => if instWriter s who j then writeFlds s r j v else s
  | .IN_ARG_ARG => if instWriter s who j then writeFlds s r j v else s
  | .IN_CORES_CORES => if instWriter s who (j / 16) then writeFlds s r j (noAgents s (j % 16) v) else s
  | .IN_STATUS_STATE => if instWriter s who j then writeFlds s r j v else s
  | .SUP_CTRL_SHED_V => supCtrl s v lo hi
  | .KB_CTRL_EN => kerbCtrl s r v
  | .FR_CTRL_MODE => thenDo (execFrModeWrite (BitVec.ofNat 64 v) s) s
  | .FR_POINT_OFFSET => if rd s .FR_CTRL_MODE = 0 then writeFlds s r i v else s
  | .PW_DIE_CTRL_REQ_CODE => thenDo (execReqCodeWrite i (BitVec.ofNat 64 v) s) s
  | .PW_HALF_CTRL_REQ_RATIO => thenDo (execReqRatioWrite i (BitVec.ofNat 64 v) s) s
  | .PS_CTRL_REQ => psCtrl s v
  | .PS_CORE_RESET_CORE => if tb v 15 then thenDo (execCoreReset (bits v 0 10) s) s else s
  | .SEC_ARG_ARG => (match who with | .mgmt => s | _ => writeFlds s r 0 v)
  | .RL_FENCE_CORE =>
    if !tb v 15 || flag s .RL_FENCE_STATUS_BUSY then s
    else if tb v 12 then thenDo (execFenceForced (bits v 0 10) 2 s) s else thenDo (execFencePlanned (bits v 0 10) 1 s) s
  | .RL_TEST_CTRL_CORE =>
    let s := if tb v 16 then thenDo (execTestAbort s) s else s
    if tb v 15 then thenDo (execOnlineTest (bits v 0 10) false s) s else s
  | .RL_AGE_CTRL_GO => if tb v 0 then wr0 s .RL_AGE_CTRL_BUSY 1 else s
  | .AT_INV_CMD_CONTEXT => if flag s .AT_INV_STATUS_BUSY then s else thenDo (execAtInvalidate (BitVec.ofNat 64 v) s) s
  | _ => writeFlds s r j v

/-! ### Mailboxes (R372) -/

/-- The bytes of a direction that its producer writes; SEQ as a whole. -/
def mailProducer (k size : Nat) : List Nat :=
  ((List.range size).map (· + k)).filter (fun b => (b < 8 && size = 8) || (8 ≤ b && b < 12) || (0x40 ≤ b && b < 0x800))

/-- A write to the mailbox of instance `n` by the tenant or the manager: its own direction, and ACK of the other's (offset 0x10). -/
def writeMail (s : State) (n k size v : Nat) (tenant : Bool) : State :=
  let own := if tenant then 0 else 0x800
  let mine := own ≤ k && k < own + 0x800
  let bs := if mine then (mailProducer (k - own) size).map (· + own)
    else ((List.range size).map (· + k)).filter (fun b => 0x10 ≤ b % 0x800 && b % 0x800 < 0x18)
  let b := natLe size v
  { s with inst := { s.inst with mail := bs.foldl (fun m a => writeByte m (n * 4096 + a) (b.getD (a - k) 0)) s.inst.mail } }

/-! ### Function blocks (R312) -/

/-- The key of a register of a function block: per ring, or per attachment; the journal's and HA_MODE's are the device's. -/
def fnIndex (fid : Nat) (f : Fld) (i : Nat) : Nat :=
  match f with
  | .HA_ID_INSTANCE => fid
  | .HA_ATTACH_ATTACH_GEN => fnAtt fid * 128
  | .HDM_FLUSH_ATTACH_GEN => fnAtt fid * 128
  | .HA_LINK_MODE => fnAtt fid * 128
  | .HA_JNL_HEAD => 0
  | .HA_MODE_SPLIT_NEXT => 0
  | _ => rkey fid i

/-- A field of a function block as a read shows it (R312): what a VF does not serve reads zero. -/
def showFn (s : State) (fid : Nat) (f : Fld) (k : Nat) : Nat :=
  match f with
  | .HA_ID_INSTANCE => fnNum fid
  | .HA_ID_ATTACHMENT => fnAtt fid
  | .HA_ID_SPLIT => rd s .HA_MODE_SPLIT
  | _ => rd s f k

/-- A read of a function block: of an absent function zero (R310); HA_JNL and HA_MODE zero in a VF; a VF's mailbox lies in it (R311, R312). HDM_FLUSH is
read by its own command (R315). -/
def readBlock (s : State) (fid off size : Nat) : Nat :=
  let n := fnNum fid
  if !accessOk off size || !fnPresent s fid then 0
  else if n ≠ 0 && 0xF000 ≤ off && off < 0x10000 then leNat ((List.range size).map (fun j => mailByte s n (off - 0xF000 + j)))
  else match regAt regsFn (off / 8 * 8) with
  | none => 0
  | some (r, i) =>
    if (size = 4 && wideOnly r.name) || (n ≠ 0 && (r.name = .HA_JNL_HEAD || r.name = .HA_MODE_SPLIT_NEXT)) then 0
    else
      let v := r.flds.foldl (fun a f => if f.spec.acc = .wo then a else a + showFn s fid f (fnIndex fid r.name i) % 2 ^ f.spec.w * 2 ^ f.spec.lo) 0
      if size = 8 then v else bits v (8 * (off % 8)) 32

/-- Bytes of the journal window of a PF's BAR0, from 0x80_0000 (R311, R332): zero in verge mode, when the deck is unpowered (R309). -/
def readJournal (s : State) (att off n : Nat) : List Byte :=
  (List.range n).map (fun j =>
    if !fnPresent s (att * 128) || flag s .HA_LINK_VERGE (att * 128) then 0
    else ((s.host.journal.get ((off + j) / 128 % 65536)).getD []).getD ((off + j) % 128) 0)

/-- A write of an attachment's configuration space (log 173, DESIGN CHOICE): the size of the VF BAR4 while VF Memory Space Enable is 0 (R314), that enable, and
the HDM decoder (R313). -/
def writeCfg (s : State) (att off v : Nat) : State :=
  let c := attCfg s att
  let put := fun (c : AttCfg) => { s with host := { s.host with cfg := s.host.cfg.put att c } }
  if off = 0 then (if c.vfMse || v > 9 then s else put { c with vfBar := v })
  else if off = 8 then put { c with vfMse := tb v 0 }
  else if off = 16 then put { c with hdmBase := v }
  else if off = 24 then put { c with hdmSize := v }
  else s

/-- HA_JNL.TAIL: not past HEAD − 65,536; room ends FULL. -/
def jnlTail (s : State) (v : Nat) : State :=
  let t := bits v 17 17
  let n := (rd s .HA_JNL_HEAD + 131072 - t) % 131072
  if n > 65536 then s else
    let s := wr0 s .HA_JNL_TAIL t
    if n < 65536 then wr0 s .HA_JNL_FULL 0 else s

/-- A base address of a ring: ignored, with CFG_ERR, while the ring is enabled. -/
def ringBase (s : State) (r : RegRow) (k v : Nat) : State :=
  if flag s .RING_CFG_EN k then wr s .RING_STATUS_CFG_ERR k 1 else writeFlds s r k v

/-- What a write does to a register of a function block. -/
def writeFn (s : State) (fid : Nat) (r : RegRow) (i v : Nat) : State :=
  let pf := fnNum fid = 0
  let k := fnIndex fid r.name i
  match r.name with
  | .HA_ATTACH_ATTACH_GEN => if pf then thenDo (execAttachAck (fnAtt fid) (fnAtt fid) (bits v 32 16) s) s else s
  | .HA_JNL_HEAD => if pf then jnlTail s v else s
  | .HA_MODE_SPLIT_NEXT => if pf then thenDo (execHaModeWrite (fnAtt fid) (BitVec.ofNat 64 v) s) s else s
  | .RING_BASE_BASE => ringBase s r k v
  | .CQ_BASE_BASE => ringBase s r k v
  | .RING_CFG_EN => thenDo (execRingEnable fid i (BitVec.ofNat 64 v) s) s
  | .RING_STATUS_ACTIVE => writeFlds s r k v
  | .CQ_HEAD_HEAD => thenDo (execCqHeadWrite fid i (BitVec.ofNat 64 v) s) s
  | .DOORBELL_PI => thenDo (execDoorbell fid (BitVec.ofNat 64 v) s) s
  | _ => s

/-! ### Commands -/

/-- A write at an offset of the register space. -/
def writeSpace (s : State) (who : Who) (off size v : Nat) : State :=
  if !accessOk off size then s
  else match mailAt off with
  | some (n, k) => if served s off .IN_SEL_INSTANCE 0 && instWriter s who n then writeMail s n k size v false else s
  | none =>
    match regAt regTable (off / 8 * 8) with
    | none => s
    | some (r, i) =>
      if !served s off r.name i || (size = 4 && wideOnly r.name) then s
      else writeReg s who r i (widen s r (regIndex s r.name i) off size v) (off % 8 = 0) (size = 8 || off % 8 = 4)

/-- A write at an offset of a function block; a VF's mailbox lies in it (R311, R372, R373). -/
def writeBlock (s : State) (fid off size v : Nat) : State :=
  let n := fnNum fid
  if !accessOk off size || !fnPresent s fid then s
  else if n ≠ 0 && 0xF000 ≤ off && off < 0x10000 then
    -- the tenant's writes during a reset, not during a FREEZE or the scrub of an ENABLE, are ignored (R370, R373)
    (if [2, 3, 4].contains (instState s n) && [1, 2, 3].contains (instX s n).kind then s else writeMail s n (off - 0xF000) size v true)
  else
    match regAt regsFn (off / 8 * 8) with
    | none => s
    | some (r, i) => if size = 4 && wideOnly r.name then s else writeFn s fid r i (widen s r (fnIndex fid r.name i) off size v)

/-- A register write (R4-R7, R488). Offsets of a PF from 16 MiB on are its function block's, from 32 MiB on its configuration space's; a VF has a function
block alone; the MC reaches HA_MODE of the function block too (log 126, DESIGN CHOICE). -/
def execRegisterWrite (who : Who) (off size : Nat) (v : W64) (s : State) : Out :=
  .next (match who with
    | .mc => if off = 0x1000028 then writeBlock s 0 0x28 size v.toNat else writeSpace s .mc off size v.toNat
    | .pf att =>
      if !(attachments s).contains att then s
      else if 0x2000000 ≤ off then (if size = 8 then writeCfg s att (off - 0x2000000) v.toNat else s)
      else if 0x1000000 ≤ off then writeBlock s (att * 128) (off - 0x1000000) size v.toNat
      else writeSpace s who off size v.toNat
    | .vf att n => if n = 0 then s else writeBlock s (att * 128 + n) off size v.toNat
    | .mgmt => s)

/-- The register response to an MGMT request (R289, R300): with a value for a read. -/
def mgmtAnswer (s : State) (m : LMsg) (v : Option Nat) : State :=
  (linkSend s { op := 0x82, dest := m.src, src := myDev s, tag := m.tag, gen := m.gen, param := v.isSome.toNat, data := BitVec.ofNat 512 (v.getD 0) }).2

/-- An MGMT read that has arrived (R300, R488): refused ones are answered ERROR. -/
def execMgmtRead (port off size : Nat) (s : State) : Out :=
  .next (match takeIn s port (fun m => m.op = 0x80 && m.addr = off && m.param = size) with
    | none => s
    | some (m, s) =>
      let s := freeSlots s port m
      if !flag s .RG_MGMT_RD_EN then answerError s m
      else
        let (x, s) := free s
        mgmtAnswer s m (some (readSpace s off size x)))

/-- An MGMT write that has arrived: never to the address-map, instance or security block. -/
def execMgmtWrite (port off size : Nat) (v : W64) (s : State) : Out :=
  .next (match takeIn s port (fun m => m.op = 0x81 && m.addr = off && m.param = size && m.data.toNat = v.toNat) with
    | none => s
    | some (m, s) =>
      let s := freeSlots s port m
      if !flag s .RG_MGMT_WR_EN || off < 0x10000 || (0xC0000 ≤ off && off < 0xD0000) || (0x100000 ≤ off && off < 0x200000) then answerError s m
      else mgmtAnswer (writeSpace s .mgmt off size v.toNat) m none)

/-! ### INVALID_OPCODE (R109, R125) -/

/-- The operations that chapters 05 and 06 define, by FORM. -/
def definedOps (form : Nat) : List Nat :=
  match form with
  | 0 => [0x000, 0x001, 0x002, 0x003, 0x004, 0x005, 0x006, 0x008, 0x009, 0x00A, 0x00B, 0x00C, 0x00D, 0x00E, 0x00F, 0x010, 0x080, 0x081, 0x082, 0x083,
          0x084, 0x085, 0x086, 0x088, 0x089, 0x08A, 0x08B, 0x08C, 0x100, 0x101, 0x102, 0x103, 0x140, 0x141, 0x142, 0x183, 0x184, 0x186, 0x187, 0x188,
          0x189, 0x2C0, 0x2C1, 0x2C2, 0x2C3, 0x2C4, 0x2C5, 0x300, 0x301, 0x302, 0x340]
  | 1 => [0x040, 0x041, 0x042, 0x043, 0x044, 0x045, 0x046, 0x180, 0x182, 0x185, 0x1C0, 0x1C1, 0x364]
  | 2 => [0x200, 0x201, 0x202, 0x280, 0x281, 0x283, 0x2E0, 0x2E1]
  | _ => [0x047, 0x181, 0x282, 0x360, 0x361, 0x362, 0x363]

/-- Whether a core type provides an operation. -/
def providedOp (ct op : Nat) : Bool :=
  if ct = 1 then true
  else !(0x340 ≤ op && op ≤ 0x3BF) && !(ct = 3 && (op = 0x102 || op = 0x103))

/-- The running path of a group reaches a word that is defined on its core type by no operation. -/
def execInvalidOpcode (g : Grp) (w : W64) (s : State) : Out :=
  .next (
    let form := bits w.toNat 4 2
    let op := bits w.toNat 6 10
    let ct := coreType g.core
    match env? s g 0 false with
    | none => s
    | some _ => if (definedOps form).contains op && providedOp ct op then s else groupFault s g 0x0101 0 (some (bits w.toNat 0 32)) none)

end Sys2Proof.Machine
end

