-- ==== Sys2Proof/Machine/Dispatch.lean ====
section
/-! DEFINITION. One arm per constructor of Instr, each one call of its meaning. -/

namespace Sys2Proof.Machine

def exec (i : Instr) (s : State) : Host.Outcome State Fault Refusal :=
  match i with
  | .iadd g f => Sys2Proof.Machine.execIadd g f s
  | .isub g f => Sys2Proof.Machine.execIsub g f s
  | .imul g f => Sys2Proof.Machine.execImul g f s
  | .imulh g f => Sys2Proof.Machine.execImulh g f s
  | .imad g f => Sys2Proof.Machine.execImad g f s
  | .imin g f => Sys2Proof.Machine.execImin g f s
  | .imax g f => Sys2Proof.Machine.execImax g f s
  | .and g f => Sys2Proof.Machine.execAnd g f s
  | .or g f => Sys2Proof.Machine.execOr g f s
  | .xor g f => Sys2Proof.Machine.execXor g f s
  | .not g f => Sys2Proof.Machine.execNot g f s
  | .shl g f => Sys2Proof.Machine.execShl g f s
  | .shr g f => Sys2Proof.Machine.execShr g f s
  | .popc g f => Sys2Proof.Machine.execPopc g f s
  | .clz g f => Sys2Proof.Machine.execClz g f s
  | .pick g f => Sys2Proof.Machine.execPick g f s
  | .iaddi g f => Sys2Proof.Machine.execIaddi g f s
  | .andi g f => Sys2Proof.Machine.execAndi g f s
  | .ori g f => Sys2Proof.Machine.execOri g f s
  | .xori g f => Sys2Proof.Machine.execXori g f s
  | .shli g f => Sys2Proof.Machine.execShli g f s
  | .shri g f => Sys2Proof.Machine.execShri g f s
  | .movi g f => Sys2Proof.Machine.execMovi g f s
  | .movl g f => Sys2Proof.Machine.execMovl g f s
  | .fadd g f => Sys2Proof.Machine.execFadd g f s
  | .fmul g f => Sys2Proof.Machine.execFmul g f s
  | .ffma g f => Sys2Proof.Machine.execFfma g f s
  | .fmin g f => Sys2Proof.Machine.execFmin g f s
  | .fmax g f => Sys2Proof.Machine.execFmax g f s
  | .fdiv g f => Sys2Proof.Machine.execFdiv g f s
  | .fsqrt g f => Sys2Proof.Machine.execFsqrt g f s
  | .frcp g f => Sys2Proof.Machine.execFrcp g f s
  | .frsq g f => Sys2Proof.Machine.execFrsq g f s
  | .fexp2 g f => Sys2Proof.Machine.execFexp2 g f s
  | .flog2 g f => Sys2Proof.Machine.execFlog2 g f s
  | .ftanh g f => Sys2Proof.Machine.execFtanh g f s
  | .cvt g f => Sys2Proof.Machine.execCvt g f s
  | .mov g f => Sys2Proof.Machine.execMov g f s
  | .xlane g f => Sys2Proof.Machine.execXlane g f s
  | .tally g f => Sys2Proof.Machine.execTally g f s
  | .icmp g f => Sys2Proof.Machine.execIcmp g f s
  | .fcmp g f => Sys2Proof.Machine.execFcmp g f s
  | .pbool g f => Sys2Proof.Machine.execPbool g f s
  | .bra g f => Sys2Proof.Machine.execBra g f s
  | .bri g f => Sys2Proof.Machine.execBri g f s
  | .call g f => Sys2Proof.Machine.execCall g f s
  | .ret g f => Sys2Proof.Machine.execRet g f s
  | .exit g f => Sys2Proof.Machine.execExit g f s
  | .trap g f => Sys2Proof.Machine.execTrap g f s
  | .yield g f => Sys2Proof.Machine.execYield g f s
  | .waypoint g f => Sys2Proof.Machine.execWaypoint g f s
  | .wait g f => Sys2Proof.Machine.execWait g f s
  | .nop g f => Sys2Proof.Machine.execNop g f s
  | .srd g f => Sys2Proof.Machine.execSrd g f s
  | .swr g f => Sys2Proof.Machine.execSwr g f s
  | .ld g f e => Sys2Proof.Machine.execLd g f e s
  | .st g f => Sys2Proof.Machine.execSt g f s
  | .gather g f => Sys2Proof.Machine.execGather g f s
  | .atom g f => Sys2Proof.Machine.execAtom g f s
  | .red g f => Sys2Proof.Machine.execRed g f s
  | .acquireY g f => Sys2Proof.Machine.execAcquireY g f s
  | .release g f => Sys2Proof.Machine.execRelease g f s
  | .fenceCoreRel g f => Sys2Proof.Machine.execFenceCoreRel g f s
  | .fenceCoreAcq g f => Sys2Proof.Machine.execFenceCoreAcq g f s
  | .fenceDeviceRel g f => Sys2Proof.Machine.execFenceDeviceRel g f s
  | .fenceDeviceAcq g f => Sys2Proof.Machine.execFenceDeviceAcq g f s
  | .fenceSystemRel g f => Sys2Proof.Machine.execFenceSystemRel g f s
  | .fenceSystemAcq g f => Sys2Proof.Machine.execFenceSystemAcq g f s
  | .fenceRetire g => Sys2Proof.Machine.execFenceRetire g s
  | .strip g f => Sys2Proof.Machine.execStrip g f s
  | .prefetch g f => Sys2Proof.Machine.execPrefetch g f s
  | .wmAdd g f => Sys2Proof.Machine.execWmAdd g f s
  | .wmSet g f => Sys2Proof.Machine.execWmSet g f s
  | .wmRead g f => Sys2Proof.Machine.execWmRead g f s
  | .desc g f => Sys2Proof.Machine.execDesc g f s
  | .mma g f e => Sys2Proof.Machine.execMma g f e s
  | .tload g f => Sys2Proof.Machine.execTload g f s
  | .tstore g f => Sys2Proof.Machine.execTstore g f s
  | .tcollect g f => Sys2Proof.Machine.execTcollect g f s
  | .crgn g f => Sys2Proof.Machine.execCrgn g f s
  | .pathRotate g => Sys2Proof.Machine.execPathRotate g s
  | .yieldRetake g => Sys2Proof.Machine.execYieldRetake g s
  | .noWaypoint g => Sys2Proof.Machine.execNoWaypoint g s
  | .flagReread g thread => Sys2Proof.Machine.execFlagReread g thread s
  | .matrixCmdComplete core eng mover => Sys2Proof.Machine.execMatrixCmdComplete core eng mover s
  | .matrixCmd core eng mover addr => Sys2Proof.Machine.execMatrixCmd core eng mover addr s
  | .engineCold core eng => Sys2Proof.Machine.execEngineCold core eng s
  | .rampGateOpen core => Sys2Proof.Machine.execRampGateOpen core s
  | .coreKill core ctx => Sys2Proof.Machine.execCoreKill core ctx s
  | .contextKill ctx => Sys2Proof.Machine.execContextKill ctx s
  | .killDrainDone ctx => Sys2Proof.Machine.execKillDrainDone ctx s
  | .preempt core => Sys2Proof.Machine.execPreempt core s
  | .preemptSave core => Sys2Proof.Machine.execPreemptSave core s
  | .blockResume core block => Sys2Proof.Machine.execBlockResume core block s
  | .coreFree core => Sys2Proof.Machine.execCoreFree core s
  | .agentRestart half => Sys2Proof.Machine.execAgentRestart half s
  | .accountingPeriod => Sys2Proof.Machine.execAccountingPeriod s
  | .gets m e => Sys2Proof.Machine.execGets m e s
  | .getm m => Sys2Proof.Machine.execGetm m s
  | .wr m => Sys2Proof.Machine.execWr m s
  | .atomMsg m => Sys2Proof.Machine.execAtomMsg m s
  | .redMsg m => Sys2Proof.Machine.execRedMsg m s
  | .redw m => Sys2Proof.Machine.execRedw m s
  | .putm m => Sys2Proof.Machine.execPutm m s
  | .stripMsg m => Sys2Proof.Machine.execStripMsg m s
  | .clean m => Sys2Proof.Machine.execClean m s
  | .claim m => Sys2Proof.Machine.execClaim m s
  | .fwdShare m => Sys2Proof.Machine.execFwdShare m s
  | .fwdOwn m => Sys2Proof.Machine.execFwdOwn m s
  | .fwdRecall m => Sys2Proof.Machine.execFwdRecall m s
  | .fwdDrop m => Sys2Proof.Machine.execFwdDrop m s
  | .inv m => Sys2Proof.Machine.execInv m s
  | .ack m => Sys2Proof.Machine.execAck m s
  | .data m => Sys2Proof.Machine.execData m s
  | .nack m => Sys2Proof.Machine.execNack m s
  | .nackRetry m => Sys2Proof.Machine.execNackRetry m s
  | .ticket m => Sys2Proof.Machine.execTicket m s
  | .go m => Sys2Proof.Machine.execGo m s
  | .putack m => Sys2Proof.Machine.execPutack m s
  | .epoch e => Sys2Proof.Machine.execEpoch e s
  | .epochSweepDone e => Sys2Proof.Machine.execEpochSweepDone e s
  | .streamTimeout die slice req range => Sys2Proof.Machine.execStreamTimeout die slice req range s
  | .thatchScrub die slice line out => Sys2Proof.Machine.execThatchScrub die slice line out s
  | .firstTouch half ctx va => Sys2Proof.Machine.execFirstTouch half ctx va s
  | .walk half ctx va acc => Sys2Proof.Machine.execWalk half ctx va acc s
  | .deckRead m out => Sys2Proof.Machine.execDeckRead m out s
  | .writeBack m => Sys2Proof.Machine.execWriteBack m s
  | .residencyNote m => Sys2Proof.Machine.execResidencyNote m s
  | .critWindow chan => Sys2Proof.Machine.execCritWindow chan s
  | .wcbTimeout chan line => Sys2Proof.Machine.execWcbTimeout chan line s
  | .refreshDue chan => Sys2Proof.Machine.execRefreshDue chan s
  | .refreshWindowExpiry half => Sys2Proof.Machine.execRefreshWindowExpiry half s
  | .deckTempChange die quad layer temp => Sys2Proof.Machine.execDeckTempChange die quad layer temp s
  | .thermalTrip die quad => Sys2Proof.Machine.execThermalTrip die quad s
  | .patrolScrubRead out => Sys2Proof.Machine.execPatrolScrubRead out s
  | .dkRetireReq page => Sys2Proof.Machine.execDkRetireReq page s
  | .copy chan => Sys2Proof.Machine.execCopy chan s
  | .fill chan => Sys2Proof.Machine.execFill chan s
  | .zero chan => Sys2Proof.Machine.execZero chan s
  | .convert chan => Sys2Proof.Machine.execConvert chan s
  | .reduce chan => Sys2Proof.Machine.execReduce chan s
  | .gatherReduce chan => Sys2Proof.Machine.execGatherReduce chan s
  | .scatterAdd chan => Sys2Proof.Machine.execScatterAdd chan s
  | .topk chan => Sys2Proof.Machine.execTopk chan s
  | .crc32c chan => Sys2Proof.Machine.execCrc32c chan s
  | .descComplete chan => Sys2Proof.Machine.execDescComplete chan s
  | .add e => Sys2Proof.Machine.execAdd e s
  | .set e => Sys2Proof.Machine.execSet e s
  | .read e => Sys2Proof.Machine.execRead e s
  | .value e => Sys2Proof.Machine.execValue e s
  | .update e => Sys2Proof.Machine.execUpdate e s
  | .gate halves mst spacing lanes => Sys2Proof.Machine.execGate halves mst spacing lanes s
  | .waitReread g thread => Sys2Proof.Machine.execWaitReread g thread s
  | .routerFault die stop => Sys2Proof.Machine.execRouterFault die stop s
  | .domainPowerLoss die quad => Sys2Proof.Machine.execDomainPowerLoss die quad s
  | .halfIsolation half => Sys2Proof.Machine.execHalfIsolation half s
  | .halfReturn half => Sys2Proof.Machine.execHalfReturn half s
  | .halfReturnTimeout half => Sys2Proof.Machine.execHalfReturnTimeout half s
  | .resyncComplete die => Sys2Proof.Machine.execResyncComplete die s
  | .dieReset die => Sys2Proof.Machine.execDieReset die s
  | .mstNextPpsWrite v => Sys2Proof.Machine.execMstNextPpsWrite v s
  | .refPpsEdge => Sys2Proof.Machine.execRefPpsEdge s
  | .refPpsLoss => Sys2Proof.Machine.execRefPpsLoss s
  | .ref10mLoss => Sys2Proof.Machine.execRef10mLoss s
  | .ref10mQualified => Sys2Proof.Machine.execRef10mQualified s
  | .halfCycleEnd intervalNs halfUv cycleUv positive => Sys2Proof.Machine.execHalfCycleEnd intervalNs halfUv cycleUv positive s
  | .mainsLockLoss => Sys2Proof.Machine.execMainsLockLoss s
  | .flywheelExpiry => Sys2Proof.Machine.execFlywheelExpiry s
  | .mainsNoCrossing => Sys2Proof.Machine.execMainsNoCrossing s
  | .mtArm entry v owner => Sys2Proof.Machine.execMtArm entry v owner s
  | .mtDisarm entry v => Sys2Proof.Machine.execMtDisarm entry v s
  | .mtFire entry => Sys2Proof.Machine.execMtFire entry s
  | .linkEnable port => Sys2Proof.Machine.execLinkEnable port s
  | .retrain port => Sys2Proof.Machine.execRetrain port s
  | .linkUp port rate width partner tt gen => Sys2Proof.Machine.execLinkUp port rate width partner tt gen s
  | .trainFail port step => Sys2Proof.Machine.execTrainFail port step s
  | .frameReceive port good corr flits e => Sys2Proof.Machine.execFrameReceive port good corr flits e s
  | .nak port seq => Sys2Proof.Machine.execNak port seq s
  | .replayTimeout port => Sys2Proof.Machine.execReplayTimeout port s
  | .idleAck port => Sys2Proof.Machine.execIdleAck port s
  | .laneFault port lane => Sys2Proof.Machine.execLaneFault port lane s
  | .egressDiscard port => Sys2Proof.Machine.execEgressDiscard port s
  | .linkRead port r => Sys2Proof.Machine.execLinkRead port r s
  | .linkWr port r => Sys2Proof.Machine.execLinkWr port r s
  | .linkAtom port r => Sys2Proof.Machine.execLinkAtom port r s
  | .linkRed port r => Sys2Proof.Machine.execLinkRed port r s
  | .linkStrip port r => Sys2Proof.Machine.execLinkStrip port r s
  | .linkResponse port tag gen ans => Sys2Proof.Machine.execLinkResponse port tag gen ans s
  | .linkWmAdd port convoy index count lead => Sys2Proof.Machine.execLinkWmAdd port convoy index count lead s
  | .mgmtRead port off size => Sys2Proof.Machine.execMgmtRead port off size s
  | .mgmtWrite port off size v => Sys2Proof.Machine.execMgmtWrite port off size v s
  | .ttExchange port t1 t2 t3 t4 epoch => Sys2Proof.Machine.execTtExchange port t1 t2 t3 t4 epoch s
  | .ttReq port t1 => Sys2Proof.Machine.execTtReq port t1 s
  | .ttRsp port t2 t3 => Sys2Proof.Machine.execTtRsp port t2 t3 s
  | .broadcastLapse src => Sys2Proof.Machine.execBroadcastLapse src s
  | .beacon b p => Sys2Proof.Machine.execBeacon b p s
  | .beaconSend => Sys2Proof.Machine.execBeaconSend s
  | .beaconStale dev => Sys2Proof.Machine.execBeaconStale dev s
  | .powerBroadcast b p => Sys2Proof.Machine.execPowerBroadcast b p s
  | .powerSend => Sys2Proof.Machine.execPowerSend s
  | .capApply => Sys2Proof.Machine.execCapApply s
  | .capRise => Sys2Proof.Machine.execCapRise s
  | .leaderTimeout => Sys2Proof.Machine.execLeaderTimeout s
  | .frModeWrite v => Sys2Proof.Machine.execFrModeWrite v s
  | .busSample busMv busDa stbyMv stbyMa => Sys2Proof.Machine.execBusSample busMv busDa stbyMv stbyMa s
  | .busShedStart => Sys2Proof.Machine.execBusShedStart s
  | .busShedEnd => Sys2Proof.Machine.execBusShedEnd s
  | .holdRequest => Sys2Proof.Machine.execHoldRequest s
  | .stage1OvStop => Sys2Proof.Machine.execStage1OvStop s
  | .stage1Restart => Sys2Proof.Machine.execStage1Restart s
  | .pqSummaryUpdate => Sys2Proof.Machine.execPqSummaryUpdate s
  | .kerbShedStart => Sys2Proof.Machine.execKerbShedStart s
  | .kerbShedEnd => Sys2Proof.Machine.execKerbShedEnd s
  | .kerbDisable => Sys2Proof.Machine.execKerbDisable s
  | .kerbClkLost => Sys2Proof.Machine.execKerbClkLost s
  | .kerbClkRestored => Sys2Proof.Machine.execKerbClkRestored s
  | .hpcSample half amps => Sys2Proof.Machine.execHpcSample half amps s
  | .ratioReturn half => Sys2Proof.Machine.execRatioReturn half s
  | .budgetTick watts deciAmps => Sys2Proof.Machine.execBudgetTick watts deciAmps s
  | .codeStep die => Sys2Proof.Machine.execCodeStep die s
  | .codeGrant die => Sys2Proof.Machine.execCodeGrant die s
  | .vfTransitionDone die => Sys2Proof.Machine.execVfTransitionDone die s
  | .reqCodeWrite die v => Sys2Proof.Machine.execReqCodeWrite die v s
  | .reqRatioWrite half v => Sys2Proof.Machine.execReqRatioWrite half v s
  | .thermalCeilStep die => Sys2Proof.Machine.execThermalCeilStep die s
  | .droopTrip half quad => Sys2Proof.Machine.execDroopTrip half quad s
  | .stretchLimit half => Sys2Proof.Machine.execStretchLimit half s
  | .hintPhaseEnable hint => Sys2Proof.Machine.execHintPhaseEnable hint s
  | .hintBasis hint => Sys2Proof.Machine.execHintBasis hint s
  | .peakWindowExpiry => Sys2Proof.Machine.execPeakWindowExpiry s
  | .peakRecoveryEnd => Sys2Proof.Machine.execPeakRecoveryEnd s
  | .doorbell fid v => Sys2Proof.Machine.execDoorbell fid v s
  | .entryRead fid ring entries => Sys2Proof.Machine.execEntryRead fid ring entries s
  | .sealReread fid ring entry => Sys2Proof.Machine.execSealReread fid ring entry s
  | .ringEnable fid ring v => Sys2Proof.Machine.execRingEnable fid ring v s
  | .cqHeadWrite fid ring v => Sys2Proof.Machine.execCqHeadWrite fid ring v s
  | .hdmWrite fid addr bytes => Sys2Proof.Machine.execHdmWrite fid addr bytes s
  | .hdmRead fid addr len => Sys2Proof.Machine.execHdmRead fid addr len s
  | .hdmFlush fid => Sys2Proof.Machine.execHdmFlush fid s
  | .hostReadCompletion att tag ans => Sys2Proof.Machine.execHostReadCompletion att tag ans s
  | .haModeWrite att v => Sys2Proof.Machine.execHaModeWrite att v s
  | .linkRecovery att => Sys2Proof.Machine.execLinkRecovery att s
  | .linkL0 att => Sys2Proof.Machine.execLinkL0 att s
  | .hostLoss att cause => Sys2Proof.Machine.execHostLoss att cause s
  | .attachAck pfAtt att gen => Sys2Proof.Machine.execAttachAck pfAtt att gen s
  | .cmdNop r => Sys2Proof.Machine.execCmdNop r s
  | .launch r => Sys2Proof.Machine.execLaunch r s
  | .copyCommand r => Sys2Proof.Machine.execCopyCommand r s
  | .fillCommand r => Sys2Proof.Machine.execFillCommand r s
  | .waymarkWait r => Sys2Proof.Machine.execWaymarkWait r s
  | .waymarkAdd r => Sys2Proof.Machine.execWaymarkAdd r s
  | .heavyHint r => Sys2Proof.Machine.execHeavyHint r s
  | .lightHint r => Sys2Proof.Machine.execLightHint r s
  | .seqAdd r => Sys2Proof.Machine.execSeqAdd r s
  | .seqCancel r => Sys2Proof.Machine.execSeqCancel r s
  | .batchStart r => Sys2Proof.Machine.execBatchStart r s
  | .batchStop r => Sys2Proof.Machine.execBatchStop r s
  | .seqPriority r => Sys2Proof.Machine.execSeqPriority r s
  | .batchStep ctx => Sys2Proof.Machine.execBatchStep ctx s
  | .commandEnd r => Sys2Proof.Machine.execCommandEnd r s
  | .create ctx => Sys2Proof.Machine.execCreate ctx s
  | .suspend ctx => Sys2Proof.Machine.execSuspend ctx s
  | .resume ctx => Sys2Proof.Machine.execResume ctx s
  | .kill ctx => Sys2Proof.Machine.execKill ctx s
  | .destroy ctx => Sys2Proof.Machine.execDestroy ctx s
  | .setWeight ctx weight => Sys2Proof.Machine.execSetWeight ctx weight s
  | .enable who n => Sys2Proof.Machine.execEnable who n s
  | .disable who n => Sys2Proof.Machine.execDisable who n s
  | .reset who n => Sys2Proof.Machine.execReset who n s
  | .flr n => Sys2Proof.Machine.execFlr n s
  | .drainDeadline n => Sys2Proof.Machine.execDrainDeadline n s
  | .freeze who n => Sys2Proof.Machine.execFreeze who n s
  | .save who n sec => Sys2Proof.Machine.execSave who n sec s
  | .wrap who n bundleOk => Sys2Proof.Machine.execWrap who n bundleOk s
  | .restore who n plain => Sys2Proof.Machine.execRestore who n plain s
  | .thaw who n => Sys2Proof.Machine.execThaw who n s
  | .addUnit who n unit => Sys2Proof.Machine.execAddUnit who n unit s
  | .removeUnit who n unit => Sys2Proof.Machine.execRemoveUnit who n unit s
  | .setCores who n => Sys2Proof.Machine.execSetCores who n s
  | .unitScrubDone unit => Sys2Proof.Machine.execUnitScrubDone unit s
  | .unwrap who n keyOk => Sys2Proof.Machine.execUnwrap who n keyOk s
  | .coldReset cause => Sys2Proof.Machine.execColdReset cause s
  | .warmReset => Sys2Proof.Machine.execWarmReset s
  | .resetNLow ns => Sys2Proof.Machine.execResetNLow ns s
  | .hostHotReset att kind => Sys2Proof.Machine.execHostHotReset att kind s
  | .coreReset core => Sys2Proof.Machine.execCoreReset core s
  | .clearFails => Sys2Proof.Machine.execClearFails s
  | .reqRun => Sys2Proof.Machine.execReqRun s
  | .reqTrim => Sys2Proof.Machine.execReqTrim s
  | .reqHold => Sys2Proof.Machine.execReqHold s
  | .reqWatch => Sys2Proof.Machine.execReqWatch s
  | .holdEntry => Sys2Proof.Machine.execHoldEntry s
  | .holdEntryPowerLoss => Sys2Proof.Machine.execHoldEntryPowerLoss s
  | .vioLoss => Sys2Proof.Machine.execVioLoss s
  | .wakeFromHold => Sys2Proof.Machine.execWakeFromHold s
  | .autoWake => Sys2Proof.Machine.execAutoWake s
  | .linkWake port => Sys2Proof.Machine.execLinkWake port s
  | .holdMaxExpiry => Sys2Proof.Machine.execHoldMaxExpiry s
  | .standbyLoss => Sys2Proof.Machine.execStandbyLoss s
  | .bootInputGood deadCores closed badDies => Sys2Proof.Machine.execBootInputGood deadCores closed badDies s
  | .startTimeout reason detail => Sys2Proof.Machine.execStartTimeout reason detail s
  | .mcWatchdog => Sys2Proof.Machine.execMcWatchdog s
  | .firmwareUpdate img => Sys2Proof.Machine.execFirmwareUpdate img s
  | .firmwareActivate => Sys2Proof.Machine.execFirmwareActivate s
  | .getVersion => Sys2Proof.Machine.execGetVersion s
  | .getCapabilities => Sys2Proof.Machine.execGetCapabilities s
  | .negotiateAlgorithms asym hash => Sys2Proof.Machine.execNegotiateAlgorithms asym hash s
  | .getDigests => Sys2Proof.Machine.execGetDigests s
  | .getCertificate slot off len => Sys2Proof.Machine.execGetCertificate slot off len s
  | .challenge slot nonce => Sys2Proof.Machine.execChallenge slot nonce s
  | .getMeasurements index signed => Sys2Proof.Machine.execGetMeasurements index signed s
  | .debugUnlock edOk mldsaOk => Sys2Proof.Machine.execDebugUnlock edOk mldsaOk s
  | .fencePlanned core cause => Sys2Proof.Machine.execFencePlanned core cause s
  | .fenceForced core cause => Sys2Proof.Machine.execFenceForced core cause s
  | .onlineTest core auto => Sys2Proof.Machine.execOnlineTest core auto s
  | .testAbort => Sys2Proof.Machine.execTestAbort s
  | .testComplete failPhase us => Sys2Proof.Machine.execTestComplete failPhase us s
  | .resurvey ppm => Sys2Proof.Machine.execResurvey ppm s
  | .ageMeasure ppm => Sys2Proof.Machine.execAgeMeasure ppm s
  | .atInvalidate v => Sys2Proof.Machine.execAtInvalidate v s
  | .registerWrite who off size v => Sys2Proof.Machine.execRegisterWrite who off size v s
  | .invalidOpcode g w => Sys2Proof.Machine.execInvalidOpcode g w s
  | .waitMstReached g thread => Sys2Proof.Machine.execWaitMstReached g thread s
  | .atomicResult m => Sys2Proof.Machine.execAtomicResult m s
  | .fencedRsp m => Sys2Proof.Machine.execFencedRsp m s
  | .droopDetectorClear half => Sys2Proof.Machine.execDroopDetectorClear half s
  | .exitCountRestart => Sys2Proof.Machine.execExitCountRestart s
  | .refreshDone chan => Sys2Proof.Machine.execRefreshDone chan s
  | .supCtrlWrite v => Sys2Proof.Machine.execSupCtrlWrite v s

end Sys2Proof.Machine
end

