-- ==== Sys2Proof/Safety.lean ====
section
/-! DEFINITION. What a good state and a safe run are: the canonical form of every sparse map that stands for hardware storage, and steps that
end in no stop; and the words in which the statements are put. -/

namespace Sys2Proof.Machine

/-- Register fields stand in canonical form, each value within its field's width. -/
def FldsOk (s : State) : Prop := SMap.wf s.flds ∧ ∀ f i, rd s f i < 2 ^ f.spec.w

/-- The canonical forms: register fields and memory. -/
def Inv (s : State) : Prop := FldsOk s ∧ Memory.wf s.mem

/-- A command's outcome is a next state. -/
def Goes (o : Out) : Prop := ∃ t, o = .next t

/-- A command completes: its outcome is a next state, of which `P` holds. -/
def Does (i : Instr) (s : State) (P : State → Prop) : Prop := ∃ t, exec i s = .next t ∧ P t

/-! ### Instructions of a group -/

/-- A group's running path can issue an instruction under this guard with these operand fields (R100-R103, R110, R125): it is neither blocked nor
stopped (`env?`), the guard is not the reserved one, the operands are legal, and no earlier write of their registers is outstanding. -/
def CanIssue (s : State) (g : Grp) (pr : BitVec 3) (pn : Bool) (e : Env) (ops : List OField) : Prop :=
  env? s g pr pn = some e ∧ ¬(pr = 0 ∧ pn = true) ∧ (∀ o ∈ ops, o.ok e.sc = true ∧ o.range e.sc e.x.n = none) ∧ regsReady s e ops = true

/-- The four operand fields of an R-form instruction (R105). -/
def rOps (f : RForm) (d a b c : OKind) : List OField := [⟨16, f.d, d⟩, ⟨24, f.a, a⟩, ⟨32, f.b, b⟩, ⟨40, f.c, c⟩]

/-- The operand fields of an I-form instruction (R106). -/
def iOps (f : IForm) (d a : OKind) : List OField := [⟨16, f.d, d⟩, ⟨24, f.a, a⟩]

/-- RM, SAT, SUB zero (R105). -/
def PlainTail (f : RForm) : Prop := f.rm = 0 ∧ f.sat = false ∧ f.sub = 0

/-- The path stands outside any divergence and any collective region. -/
def Straight (e : Env) : Prop := e.x.region = none ∧ e.p.entry = none

/-- In `t` the group's running path stands at `pc`, otherwise as it issued. -/
def RunsAt (t : State) (e : Env) (pc : W64) : Prop := ∃ x, getGroup t e.g = some x ∧ x.run = some { e.p with pc := pc }

/-- The registers of two groups agree: X, U, P, ARITH. -/
def SameRegs (x y : Group) : Prop := y.xs = x.xs ∧ y.us = x.us ∧ y.preds = x.preds ∧ y.arith = x.arith

/-- In `t` the group's registers are as the instruction found them. -/
def KeepsRegs (t : State) (e : Env) : Prop := ∃ y, getGroup t e.g = some y ∧ SameRegs e.x y

/-- Operand `d` of a group holds `v` for the threads that executed: each thread's X register, the lowest thread's value in a U register
(R103); ZERO takes nothing. -/
def ResultIs (e : Env) (x : Group) (w : Nat) (d : BitVec 8) (v : Nat → Nat) : Prop :=
  (d.toNat < 0x80 → ∀ k < 32, has e.ex k = true → x.opnd e.sc w d k = v k) ∧
  (0x80 ≤ d.toNat → d.toNat < 0xC0 → ∀ k, (threads e.ex).head? = some k → ∀ j, x.opnd e.sc w d j = v k) ∧
  (d = 0xC8 → SameRegs { e.x with arith := x.arith } x)

/-- P register `d` holds `v` for the threads that executed and its old value for the others; writes to P0 are ignored (R74). -/
def PredIs (e : Env) (x : Group) (d : BitVec 8) (v : Nat → Bool) : Prop :=
  (d = 0xC0 → SameRegs { e.x with arith := x.arith } x) ∧
  (d ≠ 0xC0 → ∀ k < 32, has (x.pmask (d.toNat - 0xC0)) k = if has e.ex k then v k else has (e.x.pmask (d.toNat - 0xC0)) k)

/-- What a register instruction may change: cores and, for a fault, the faults sent; of its core, its own group and the halt. `dest` is the
operand field that it writes. -/
def RegFrame (s t : State) (e : Env) (dest : OField) : Prop :=
  t = { s with cores := t.cores, sched := { s.sched with faults := t.sched.faults }, freeCtr := t.freeCtr } ∧
  (∀ c, c ≠ e.g.core → getCore t c = getCore s c) ∧
  getCore t e.g.core = { getCore s e.g.core with groups := (getCore t e.g.core).groups, halted := (getCore t e.g.core).halted } ∧
  (∀ h : Grp, gkey h ≠ gkey e.g → getGroup t h = getGroup s h) ∧
  (∀ a, readByte t.mem a = readByte s.mem a) ∧
  ∃ y, getGroup t e.g = some y ∧
    (∀ r k, k < 32 → (r ∉ dest.regs e.sc ∨ has e.ex k = false) → y.xreg r k = e.x.xreg r k) ∧
    (∀ u, 0x80 + u ∉ dest.regs e.sc → y.ureg u = e.x.ureg u) ∧
    (∀ p, 0xC0 + p ∉ dest.regs e.sc → y.pmask p = e.x.pmask p) ∧
    y.arith.rm = e.x.arith.rm ∧ y.arith.sat = e.x.arith.sat ∧ y.arith.flags &&& e.x.arith.flags = e.x.arith.flags

/-- Operand `c` of thread `k`, as a bit vector. -/
def argOf (e : Env) (w : Nat) (c : BitVec 8) (k : Nat) : BitVec w := BitVec.ofNat w (e.x.opnd e.sc w c k)

/-- A fault record was sent for the group's context, with this code and DETAIL, and its core has stopped the context's groups (R94, R95 step 1). -/
def Faulted (s t : State) (e : Env) (code detail : Nat) : Prop :=
  ∃ r, t.sched.faults = s.sched.faults ++ [r] ∧ r.ctx = e.ctx ∧ r.code = code ∧ r.detail = detail ∧ r.core = e.g.core ∧ r.pc = e.p.pc ∧
    (getCore t e.g.core).halted = true ∧ t.mem = s.mem ∧ t.flds = s.flds ∧ KeepsRegs t e

/-- The applied cap after one step toward a target from `base` (R397): down at once, up by at most half of RISE. -/
def capStep (s : State) (base target : Nat) : Nat := if target ≤ base then target else min target (base + rd s .FR_CTRL_RISE / 2)

/-- Only these register fields differ. -/
def FldFrame (s t : State) (fs : List Fld) (more : List Fld := []) : Prop := ∀ f i, f ∉ fs → f ∉ more → rd t f i = rd s f i

/-- Register fields that power control keeps up to date (R401, R405-R427). -/
def powFlds : List Fld :=
  [.PW_HALF_STATUS_RATIO, .PW_HALF_STATUS_PEAK, .NET_RIDGE_RATIO_W, .NET_RIDGE_RATIO_E, .PW_DIE_STATUS_CODE, .PW_DIE_STATUS_GRANT_HI,
   .PW_DIE_STATUS_TRANSITION, .PW_DIE_STATUS_CAUSE, .PW_CONVOY_STATUS_THROTTLED, .PW_CONVOY_STATUS_PACED, .PW_INPUT_PEAK_OPEN, .PW_INPUT_P_LIM,
   .PW_INPUT_RECOVERY]

/-- Register fields that the power-quality log keeps (R386). -/
def pqFlds : List Fld := [.PQ_HEAD_COUNT, .PQ_HEAD_WRAPPED]

/-- Counts of Waymark events pending at the boundaries (R271). -/
def wmPendFlds : List Fld := [.NET_WMX_PEND_0, .NET_WMX_PEND_1, .NET_WMB_PEND_0, .NET_WMB_PEND_1]

/-- An event can be sent: the first boundary on its way passes events and has fewer than 255 pending (R271, R273). -/
def CanSend (s : State) (ev : WmEvent) : Prop := ∀ b ∈ (evRoute ev).head?, boundaryOpen s b = true ∧ rd s (pendFld b).1 b.2.1 < 255

/-- The event has been sent, behind those in flight; only pending counts moved. -/
def Sent (s t : State) (ev : WmEvent) : Prop := t.wm.flight = s.wm.flight ++ [{ ev := ev, pend := evRoute ev }] ∧ FldFrame s t [] wmPendFlds

/-- The command `r` names may start (R319) and passes its checks (R328): its entry, and its context. -/
def Starts (s : State) (r : CmdRef) (c : Cmd) (x : Ctx) : Prop :=
  startable s r = some c ∧ c.fin = none ∧ malformed c = none ∧ cmdCtx s c = some x ∧ x.st ≠ .killing

/-- The work of the command `r` names has ended with this status and DETAIL; its record follows at COMMAND_END (R325). -/
def Ended (t : State) (r : CmdRef) (status detail : Nat) : Prop := ∃ c : Cmd, getCmd t r = some c ∧ c.fin = some (status, detail)

/-- Bytes at an address lie in a loft window or in this device's memory. -/
def Here (s : State) (a : Nat) (bs : List Byte) : Prop := isLoft s a = true ∨ ∀ p ∈ linePieces a bs, isLocal s p.1 = true

/-- The Turnpike has sent the writes of bytes to an address: WR to the home slice of each line, or into the loft window that is there. `s2`: what the translation left. -/
def TpWrote (s s2 t : State) (a : Nat) (bs : List Byte) : Prop :=
  (isLoft s a = true → t.mem = (orderWriteBytes s2 a bs turnpikeWriter).mem) ∧
  (isLoft s a = false → (∀ p ∈ linePieces a bs, isLocal s p.1 = true) → t.mem = s2.mem ∧ ∀ p ∈ linePieces a bs, ∃ m ∈ t.coh.net,
    m.kind = .wr ∧ m.req = .turnpike ∧ m.line = p.1 ∧ m.die = homeDie p.1 ∧ m.slice = sliceOf p.1 ∧ m.mask = p.2.1 ∧ m.data = p.2.2)

/-- A step of a ratio may follow the last increase (R411). -/
def upFree (s : State) (h : Nat) : Prop := ∀ a, s.pow.upAt.get h = some a → a + 10000 ≤ s.now

/-! ### Coherence -/

/-- A message has arrived: it is in the networks, with none ahead of it on its path (R261). -/
def Arrived (s : State) (m : Msg) : Prop := s.coh.net.find? (aheadOf s m) = some m

/-- A request stands at a slice, first of its requester's for its line, with no crossing on its way in a handshake (R171, R193, R273). -/
def AtSlice (s : State) (m : Msg) : Prop := Arrived s m ∧ isFirst s m = true ∧ resyncing s m = false ∧ isLocal s m.line = true

/-- The line is not BUSY at the slice, awaits no INV, and has no ticket (R185, R196, R197). -/
def LineFree (s : State) (die line : Nat) : Prop :=
  s.coh.busy.get (lkey die line) = none ∧ s.coh.victims.get (lkey die line) = none ∧ s.coh.tickets.get (lkey die line) = none ∧ invOut s die line = false

/-- The slice takes the request: it is there, its line is free, every half on its way answers, and the request queue has room (R195, R196). -/
def Taken (s : State) (m : Msg) : Prop :=
  AtSlice s m ∧ LineFree s m.die m.line ∧ (reqHalves m).all (halfUp s) = true ∧
    queueFull { s with coh := { s.coh with net := s.coh.net.erase m } } m = false

/-- A way that the request's instance holds is free in its line's set (R209): no line is in it, and none is set aside there. -/
def FreeWay (s : State) (m : Msg) : Prop :=
  ∃ w ∈ waysOf s (agentInst s m.req m.line), (∀ x ∈ setMates s m.die m.line, x.2.way ≠ w) ∧ ∀ x ∈ s.coh.busy, x.2.way ≠ some w

/-- A request that its home slice takes. -/
def AtHome (s : State) (m : Msg) : Prop := Taken s m ∧ m.die = homeDie m.line ∧ dieUp s m.die = true

/-- A request that a guest slice takes. -/
def AtGuest (s : State) (m : Msg) : Prop := Taken s m ∧ m.die ≠ homeDie m.line

/-- PARTIAL lines in a line's slice (R201). -/
def partLines (s : State) (die line : Nat) : List (Nat × SEntry) :=
  s.coh.lines.filter (fun x => x.1 / 2 ^ 46 = die && x.2.st = .part && sliceOf (x.1 % 2 ^ 46) = sliceOf line)

/-- The message is gone from the network and its requester's answer is in it. -/
def Answered (s t : State) (m : Msg) (kind : MsgKind) (data : Option Line) : Prop :=
  t.mem = s.mem ∧ ∃ a : Msg, t.coh.net = s.coh.net.erase m ++ [a] ∧ a.kind = kind ∧ a.req = m.req ∧ a.id = m.id ∧ a.line = m.line ∧ a.thread = m.thread ∧
    ∀ l, data = some l → a.data = l

/-- In `t` the slice of a die holds a line in this state with this data. -/
def LineIs (t : State) (die line : Nat) (st : LSt) (l : Line) : Prop := ∃ e, getLine t die line = some e ∧ e.st = st ∧ e.data = l

/-! ### Deck engines -/

/-- The engine of a channel can work on the descriptor at the head of its queue, with its fields (R246-R249): not done, the engine's own turn, no answer
awaited, its core neither stopped nor gated, its die up, its class served, the scoreboard clear. -/
def AtEngine (s : State) (ch : Nat) (d : DDesc) (rest : List DDesc) (v : Dv) : Prop :=
  (getChan s ch).queue = d :: rest ∧ (∀ q ∈ rest, q.id ≠ d.id) ∧ v = { dview d.raw with rm := d.rm, sat := d.sat } ∧ d.phase ≠ 2 ∧
    engineWork s ch = some (ch, d) ∧ d.passed = false ∧ d.awaiting = [] ∧
    ((getCore s (chanCore ch)).halted = false ∨ (getCore s (chanCore ch)).ctx ≠ some d.ctx) ∧ ((getCore s (chanCore ch)).preempting = false ∨ d.turnpike = true) ∧
    (getCore s (chanCore ch)).gated = false ∧ dieUp s (ch / 512) = true ∧ serves s ch v.cls v.half = true ∧ descReady s (chanCore ch) d = true

/-- The descriptor is legal (R246). -/
def DescOk (ch : Nat) (d : DDesc) (v : Dv) : Prop := (dview d.raw).ok d.turnpike = true ∧ (v.stEn = true → v.stOff + 16 ≤ loftSize (chanCore ch))

/-- The portion of a descriptor that is next (R252; log 45, DESIGN CHOICE): CRC32C goes on from the result so far. -/
def descWork (d : DDesc) (v : Dv) (rows : Rows) : Work := portionOf (if v.op = 9 && d.unit ≠ 0 then { v with param := d.result } else v) rows d.unit

/-- The deck lines of that portion that a slice may hold and that are not ready, each with whether it is written (R230, R247). -/
def descAsks (s : State) (ch : Nat) (d : DDesc) (v : Dv) (rows : Rows) : List (Nat × Bool) :=
  (mergeLines (runLines s ch d.ctx ((descWork d v rows).runs v) ++ if v.phys then physLines s (descWork d v rows).v else [])).filter
    (fun p => resOf s (pageOf (locLine p.1 * 64)) ≠ 0 && !(d.asked.contains p.1 && lineReady s p.1 p.2))

/-- The lines of that portion that have not been read at their channels (R249). -/
def descLeft (s : State) (ch : Nat) (d : DDesc) (v : Dv) (rows : Rows) : List EngLine :=
  (portionReads s ch d.ctx (v.op = 7) ((descWork d v rows).runs v)).filter (fun p => !d.read.contains p.line)

/-- Nothing stops it: its operands and the table rows it names can be accessed. -/
def DescClear (s : State) (ch : Nat) (d : DDesc) (v : Dv) (rows : Rows) : Prop :=
  (∀ r ∈ v.runs, runStop s ch d.ctx r = none) ∧ tableRows s ch d.ctx v = .ok rows ∧ ∀ r ∈ rows.runs, runStop s ch d.ctx r = none

end Sys2Proof.Machine
end

