-- ==== Sys2Proof/Certificates/Slice0/Obligations.lean ====
section
/-! DEFINITION. The statements for the provers. -/

open Sys2Proof Sys2Proof.Machine

/-- With `c` at the front of the queue a step is exec of `c` with the queue's rest. -/
def Obligations.StepRunsFront : Prop :=
  ∀ (s : State) (c : Instr) (rest : List Instr), s.pending = c :: rest → step s = exec c { s with pending := rest }

/-- On an empty queue a step lets a nanosecond pass (log 1, DESIGN CHOICE): wall time advances by one, MST with it while no correction is due, and
neither memory, cores nor the queue change. -/
def Obligations.IdleStepIsATick : Prop :=
  ∀ s : State, s.pending = [] → ∃ t, step s = .next t ∧ t.now = s.now + 1 ∧ t.pending = [] ∧ t.mem = s.mem ∧ t.cores = s.cores ∧
    (rd s .PS_BOOT_LAST_STEP ≠ 0 → s.time.slew = 0 → t.time.mst = s.time.mst + 1)

/-- The state at reset is in canonical form. -/
def Obligations.ResetInv : Prop := Inv State.reset

/-- Every step keeps the canonical forms: register fields in order and within their widths, memory in order and without zero entries. -/
def Obligations.EveryStepKeepsInv : Prop := ∀ s t : State, Inv s → step s = .next t → Inv t

/-- The value of each integer R-form operation of two or three register operands (R111), as arithmetic of the TYPE's width. -/
def Obligations.IntegerResults : Prop :=
  ∀ (s : State) (g : Grp) (f : RForm) (e : Env) (w : Nat) (sg : Bool),
    ((f.ty = 12 ∧ w = 32 ∧ sg = true) ∨ (f.ty = 13 ∧ w = 32 ∧ sg = false) ∨ (f.ty = 14 ∧ w = 64 ∧ sg = true) ∨ (f.ty = 15 ∧ w = 64 ∧ sg = false)) →
    PlainTail f →
    (CanIssue s g f.pr f.pn e (rOps f (wk w) (wk w) (wk w) .z) →
      ∀ p ∈ ([(.iadd g f, fun a b => a + b), (.isub g f, fun a b => a - b), (.imul g f, fun a b => a * b),
          (.imulh g f, fun a b => if sg then BitVec.ofInt w (a.toInt * b.toInt / 2 ^ w) else BitVec.ofNat w (a.toNat * b.toNat / 2 ^ w)),
          (.imin g f, fun a b => if (if sg then b.slt a else b.ult a) then b else a),
          (.imax g f, fun a b => if (if sg then a.slt b else a.ult b) then b else a),
          (.and g f, fun a b => a &&& b), (.or g f, fun a b => a ||| b), (.xor g f, fun a b => a ^^^ b),
          (.shl g f, fun a b => a <<< (b.toNat % w)),
          (.shr g f, fun a b => if sg then a.sshiftRight (b.toNat % w) else a >>> (b.toNat % w))] :
          List (Instr × (BitVec w → BitVec w → BitVec w))),
        Does p.1 s (fun t => ∃ x : Group, getGroup t g = some x ∧
          ResultIs e x w f.d (fun k => (p.2 (argOf e w f.a k) (argOf e w f.b k)).toNat))) ∧
    (CanIssue s g f.pr f.pn e (rOps f (wk w) (wk w) .z .z) →
      ∀ p ∈ ([(.not g f, fun a => ~~~a), (.popc g f, fun a => BitVec.ofNat w ((List.range w).countP a.getLsbD)), (.clz g f, fun a => a.clz)] :
          List (Instr × (BitVec w → BitVec w))),
        Does p.1 s (fun t => ∃ x : Group, getGroup t g = some x ∧ ResultIs e x w f.d (fun k => (p.2 (argOf e w f.a k)).toNat))) ∧
    (CanIssue s g f.pr f.pn e (rOps f (wk w) (wk w) (wk w) (wk w)) →
      Does (.imad g f) s (fun t => ∃ x : Group, getGroup t g = some x ∧
        ResultIs e x w f.d (fun k => (argOf e w f.a k * argOf e w f.b k + argOf e w f.c k).toNat))) ∧
    (CanIssue s g f.pr f.pn e (rOps f (wk w) (wk w) (wk w) .p) →
      Does (.pick g f) s (fun t => ∃ x : Group, getGroup t g = some x ∧
        ResultIs e x w f.d (fun k => if has (e.x.pmask (f.c.toNat - 0xC0)) k then (argOf e w f.a k).toNat else (argOf e w f.b k).toNat)))

/-- The value of each I-form operation, of MOVI, MOVL and MOV (R106, R111); a 64-bit destination takes a 32-bit result sign-extended. -/
def Obligations.ImmediateResults : Prop :=
  ∀ (s : State) (g : Grp) (e : Env),
    (∀ f : IForm, CanIssue s g f.pr f.pn e (iOps f .r .r) →
      ∀ p ∈ ([(.iaddi g f, fun a => a + f.imm), (.andi g f, fun a => a &&& f.imm), (.ori g f, fun a => a ||| f.imm),
          (.xori g f, fun a => a ^^^ f.imm), (.shli g f, fun a => a <<< (f.imm.toNat % 32)), (.shri g f, fun a => a >>> (f.imm.toNat % 32))] :
          List (Instr × (W32 → W32))),
        Does p.1 s (fun t => ∃ x : Group, getGroup t g = some x ∧ ResultIs e x 32 f.d (fun k => (p.2 (argOf e 32 f.a k)).toNat) ∧
          (e.sc = true ∨ 0x80 ≤ f.d.toNat → ResultIs e x 64 f.d (fun k => ((p.2 (argOf e 32 f.a k)).signExtend 64).toNat)))) ∧
    (∀ f : IForm, CanIssue s g f.pr f.pn e (iOps f .r .z) →
      Does (.movi g f) s (fun t => ∃ x : Group, getGroup t g = some x ∧ ResultIs e x 32 f.d (fun _ => f.imm.toNat) ∧
        (e.sc = true ∨ 0x80 ≤ f.d.toNat → ResultIs e x 64 f.d (fun _ => (f.imm.signExtend 64).toNat)))) ∧
    (∀ f : LForm, f.r.ty = 0 → PlainTail f.r → CanIssue s g f.r.pr f.r.pn e (rOps f.r .w .z .z .z) →
      Does (.movl g f) s (fun t => ∃ x : Group, getGroup t g = some x ∧ ResultIs e x 64 f.r.d (fun _ => f.w2.toNat))) ∧
    (∀ f : RForm, f.ty = 0 → PlainTail f → CanIssue s g f.pr f.pn e (rOps f .r .r .z .z) →
      Does (.mov g f) s (fun t => ∃ x : Group, getGroup t g = some x ∧ ResultIs e x 32 f.d (fun k => (argOf e 32 f.a k).toNat) ∧
        (e.sc = true ∨ (0x80 ≤ f.d.toNat ∧ 0x80 ≤ f.a.toNat) → ResultIs e x 64 f.d (fun k => (argOf e 64 f.a k).toNat))))

/-- The cross-thread operations (R112): the source lane of each mode of XLANE, and the four modes of TALLY. -/
def Obligations.CrossThreadResults : Prop :=
  ∀ (s : State) (g : Grp) (f : RForm) (e : Env), e.ct ≠ 3 → f.ty = 0 → f.rm = 0 → f.sat = false →
    (CanIssue s g f.pr f.pn e (rOps f .r .r .r .z) →
      ∀ p ∈ ([(0, fun _ b => (b : Int)), (1, fun k b => (k : Int) - b), (2, fun k b => (k : Int) + b), (3, fun k b => ((k ^^^ b : Nat) : Int)),
          (4, fun k b => (((k + b) % 32 : Nat) : Int))] : List (BitVec 8 × (Nat → Nat → Int))), f.sub = p.1 →
        Does (.xlane g f) s (fun t => ∃ x : Group, getGroup t g = some x ∧ ResultIs e x 32 f.d (fun k =>
          let q := p.2 k (e.x.opnd false 32 f.b k)
          if 0 ≤ q ∧ q < 32 ∧ has e.ex q.toNat = true then e.x.opnd false 32 f.a q.toNat else e.x.opnd false 32 f.a k))) ∧
    (CanIssue s g f.pr f.pn e (rOps f .p .p .z .z) →
      ∀ p ∈ ([(0, fun m => decide (m ≠ 0)), (1, fun m => decide (m = e.ex))] : List (BitVec 8 × (W32 → Bool))), f.sub = p.1 →
        Does (.tally g f) s (fun t => ∃ x : Group, getGroup t g = some x ∧ PredIs e x f.d (fun _ => p.2 (e.x.pmask (f.a.toNat - 0xC0) &&& e.ex)))) ∧
    (CanIssue s g f.pr f.pn e (rOps f .r .p .z .z) →
      ∀ p ∈ ([(2, fun m => m.toNat), (3, fun m => (List.range 32).countP (has m))] : List (BitVec 8 × (W32 → Nat))), f.sub = p.1 →
        Does (.tally g f) s (fun t => ∃ x : Group, getGroup t g = some x ∧ ResultIs e x 32 f.d (fun _ => p.2 (e.x.pmask (f.a.toNat - 0xC0) &&& e.ex))))

/-- Compares and PBOOL write P register D for the executing threads alone, joined with its old value by JOIN (R111). -/
def Obligations.CompareResults : Prop :=
  ∀ (s : State) (g : Grp) (f : RForm) (e : Env), f.rm = 0 → f.sat = false →
    (∀ (w : Nat) (sg : Bool), ((f.ty = 12 ∧ w = 32 ∧ sg = true) ∨ (f.ty = 13 ∧ w = 32 ∧ sg = false) ∨ (f.ty = 14 ∧ w = 64 ∧ sg = true) ∨
        (f.ty = 15 ∧ w = 64 ∧ sg = false)) →
      CanIssue s g f.pr f.pn e (rOps f .p (wk w) (wk w) .z) →
      ∀ p ∈ ([(0, fun a b => a == b), (1, fun a b => a != b), (2, fun a b => if sg then a.slt b else a.ult b),
          (3, fun a b => if sg then a.sle b else a.ule b), (4, fun a b => if sg then b.slt a else b.ult a),
          (5, fun a b => if sg then b.sle a else b.ule a)] : List (Nat × (BitVec w → BitVec w → Bool))),
      ∀ j ∈ ([(0, fun _ n => n), (1, fun o n => o && n), (2, fun o n => o || n)] : List (Nat × (Bool → Bool → Bool))),
        f.sub = BitVec.ofNat 8 (p.1 + 16 * j.1) →
        Does (.icmp g f) s (fun t => ∃ x : Group, getGroup t g = some x ∧ PredIs e x f.d (fun k =>
          j.2 (has (e.x.pmask (f.d.toNat - 0xC0)) k) (p.2 (argOf e w f.a k) (argOf e w f.b k))))) ∧
    (f.ty = 0 → CanIssue s g f.pr f.pn e (rOps f .p .p .p .z) →
      ∀ p ∈ ([(0, fun a b => a && b), (1, fun a b => a || b), (2, fun a b => a ^^ b), (3, fun a b => a && !b)] :
          List (BitVec 8 × (Bool → Bool → Bool))), f.sub = p.1 →
        Does (.pbool g f) s (fun t => ∃ x : Group, getGroup t g = some x ∧ PredIs e x f.d (fun k =>
          p.2 (has (e.x.pmask (f.a.toNat - 0xC0)) k) (has (e.x.pmask (f.b.toNat - 0xC0)) k))))

/-- Each floating instruction completes, under R105's conditions on its fields alone. D gets, for each executing thread, `floatReg`'s element (the
two of a packed pair): the exact result rounded once by RM and SAT, which DYN takes from ARITH (R59, R60, R111); its flags join ARITH's (R66). The
approximate functions give `approxElem`'s value and flags (log 14, DESIGN CHOICE); CVT converts each element, SR with a draw of 16 bits for each
(R62; which pairs of types: logs 17, DEDUCED, and 148, DESIGN CHOICE); FCMP writes a predicate, and a signalling NaN sets INVALID. -/
def Obligations.FloatResults : Prop :=
  ∀ (s : State) (g : Grp) (f : RForm) (e : Env),
    let m := resolveRm e.x.arith f.rm.toNat f.sat
    let w := regW f.ty
    (∀ p ∈ ([(.fadd g f, 0), (.fmul g f, 1), (.ffma g f, 2), (.fmin g f, 3), (.fmax g f, 4), (.fdiv g f, 5), (.fsqrt g f, 6)] : List (Instr × Nat)),
      f.rm ≠ 5 → f.rm ≠ 7 → ¬(f.rm = 6 ∧ f.sat = true) → f.sub.toNat < 16 → floatTy e.ct f.ty = true →
      (p.2 = 5 ∨ p.2 = 6 → f.ty.toNat ≤ 1) → (p.2 = 3 ∨ p.2 = 4 → f.rm = 0 ∧ f.sat = false) →
      CanIssue s g f.pr f.pn e (rOps f (wk w) (wk w) (if p.2 = 6 then .z else wk w) (if p.2 = 2 then wk w else .z)) →
      let r := fun k => floatReg f.ty.toNat p.2 (rmodeOf (arithRm m.1) 0) m.2 f.sub (e.x.opnd e.sc w f.a k) (e.x.opnd e.sc w f.b k) (e.x.opnd e.sc w f.c k)
      ∃ t, exec p.1 s = .next t ∧ ∃ x : Group, getGroup t g = some x ∧ ResultIs e x w f.d (fun k => (r k).1 % 2 ^ w) ∧
        x.arith = { e.x.arith with flags := e.x.arith.flags ||| orFlags e.ex (fun k => (r k).2) }) ∧
    (∀ p ∈ ([(.frcp g f, 0), (.frsq g f, 1), (.fexp2 g f, 2), (.flog2 g f, 3), (.ftanh g f, 4)] : List (Instr × Nat)),
      f.ty = 1 → f.rm = 0 → f.sat = false → f.sub.toNat < 16 → CanIssue s g f.pr f.pn e (rOps f .r .r .z .z) →
      let abs := fun a => if has f.sub 2 then a % 2 ^ 31 else a
      let r := fun k => approxElem p.2 e.ct (if has f.sub 0 then (abs (e.x.opnd e.sc 32 f.a k) + 2 ^ 31) % 2 ^ 32 else abs (e.x.opnd e.sc 32 f.a k))
      ∃ t, exec p.1 s = .next t ∧ ∃ x : Group, getGroup t g = some x ∧ ResultIs e x 32 f.d (fun k => (r k).1 % 2 ^ 32) ∧
        x.arith = { e.x.arith with flags := e.x.arith.flags ||| orFlags e.ex (fun k => (r k).2) }) ∧
    (f.rm ≠ 7 → ¬(f.rm = 6 ∧ f.sat = true) → f.sub.toNat < 16 → cvtDst e.ct f.ty.toNat = true → cvtOk e.ct f.ty.toNat f.sub.toNat = true →
      let ws := regW (BitVec.ofNat 4 f.sub.toNat)
      CanIssue s g f.pr f.pn e (rOps f (wk w) (wk ws) .z .z) →
      ∃ (t : State) (draw : Nat → Nat → Nat) (x : Group), exec (.cvt g f) s = .next t ∧ (∀ k j, draw k j < 65536) ∧
        let r := fun k => cvtReg f.sub.toNat f.ty.toNat (fun j => rmodeOf m.1 (draw k j)) m.2 (e.x.opnd e.sc ws f.a k)
        getGroup t g = some x ∧ ResultIs e x w f.d (fun k => (r k).1 % 2 ^ w) ∧
        x.arith = { e.x.arith with flags := e.x.arith.flags ||| orFlags e.ex (fun k => (r k).2) }) ∧
    (f.rm = 0 → f.sat = false → floatTy e.ct f.ty = true → CanIssue s g f.pr f.pn e (rOps f .p (wk w) (wk w) .z) →
      let val := fun (c : BitVec 8) k => decTy f.ty.toNat (e.x.opnd e.sc w c k % 2 ^ tyBits f.ty.toNat)
      ∀ p ∈ ([(0, fun a b => vEq a b), (1, fun a b => !vEq a b), (2, fun a b => vLt a b), (3, fun a b => vLt a b || vEq a b), (4, fun a b => vLt b a),
          (5, fun a b => vLt b a || vEq a b), (6, fun a b => a.isNan || b.isNan)] : List (BitVec 8 × (Val → Val → Bool))),
      ∀ j ∈ ([(0, fun _ n => n), (1, fun o n => o && n), (2, fun o n => o || n)] : List (BitVec 8 × (Bool → Bool → Bool))), f.sub = p.1 + 16 * j.1 →
        ∃ t, exec (.fcmp g f) s = .next t ∧ ∃ x : Group, getGroup t g = some x ∧
          PredIs e x f.d (fun k => j.2 (has (e.x.pmask (f.d.toNat - 0xC0)) k) (p.2 (val f.a k).1 (val f.b k).1)) ∧
          x.arith = { e.x.arith with flags := e.x.arith.flags ||| orFlags e.ex (fun k => fIf ((val f.a k).2 || (val f.b k).2) fInvalid) })

/-- Laws of the formats and of rounding (R51-R53, R59, R65): a NaN operand of an addition, product, fused product, quotient or root gives
the format's canonical NaN; a value that the format represents rounds to itself, with no flag, in every mode; addition and multiplication
commute. -/
def Obligations.FloatLaws : Prop :=
  ∀ ty < 4, ∀ f, fmtOf ty = some f → ∀ (md : RMode) (sat : Bool),
    (∀ (op a b c : Nat) (sub : BitVec 8), op ∈ [0, 1, 2, 5, 6] → (f.dec a).1 = .nan → (fElem f op md sat sub a b c).1 = f.nanBits) ∧
    (∀ v < 2 ^ (f.eb + f.mb + 1), (f.dec v).1 ≠ .nan → f.round md sat (f.dec v).1 = (v, 0)) ∧
    (∀ (op a b c : Nat), op ∈ [0, 1] → fElem f op md sat 0 a b c = fElem f op md sat 0 b a c)

/-- What the register instructions of the arithmetic family leave alone: everything but the destination, ARITH's flags and the path; the
integer, cross-thread and predicate operations leave ARITH's flags too. -/
def Obligations.RegisterOpsFrame : Prop :=
  ∀ (s t : State) (g : Grp) (e : Env),
    (∀ f : RForm, env? s g f.pr f.pn = some e →
      (∀ p ∈ ([(.iadd g f, wk (tyBits f.ty.toNat)), (.isub g f, wk (tyBits f.ty.toNat)), (.imul g f, wk (tyBits f.ty.toNat)),
          (.imulh g f, wk (tyBits f.ty.toNat)), (.imad g f, wk (tyBits f.ty.toNat)), (.imin g f, wk (tyBits f.ty.toNat)),
          (.imax g f, wk (tyBits f.ty.toNat)), (.and g f, wk (tyBits f.ty.toNat)), (.or g f, wk (tyBits f.ty.toNat)),
          (.xor g f, wk (tyBits f.ty.toNat)), (.not g f, wk (tyBits f.ty.toNat)), (.shl g f, wk (tyBits f.ty.toNat)),
          (.shr g f, wk (tyBits f.ty.toNat)), (.popc g f, wk (tyBits f.ty.toNat)), (.clz g f, wk (tyBits f.ty.toNat)),
          (.pick g f, wk (tyBits f.ty.toNat)), (.mov g f, .r), (.xlane g f, .r), (.tally g f, .r), (.icmp g f, .p), (.pbool g f, .p)] :
          List (Instr × OKind)),
        exec p.1 s = .next t → RegFrame s t e ⟨16, f.d, p.2⟩ ∧ ∀ y, getGroup t g = some y → y.arith = e.x.arith) ∧
      (∀ p ∈ ([(.fadd g f, wk (regW f.ty)), (.fmul g f, wk (regW f.ty)), (.ffma g f, wk (regW f.ty)), (.fmin g f, wk (regW f.ty)),
          (.fmax g f, wk (regW f.ty)), (.fdiv g f, wk (regW f.ty)), (.fsqrt g f, wk (regW f.ty)), (.frcp g f, .r), (.frsq g f, .r),
          (.fexp2 g f, .r), (.flog2 g f, .r), (.ftanh g f, .r), (.cvt g f, wk (regW f.ty)), (.fcmp g f, .p)] : List (Instr × OKind)),
        exec p.1 s = .next t → RegFrame s t e ⟨16, f.d, p.2⟩)) ∧
    (∀ f : IForm, env? s g f.pr f.pn = some e →
      ∀ i ∈ ([.iaddi g f, .andi g f, .ori g f, .xori g f, .shli g f, .shri g f, .movi g f] : List Instr),
        exec i s = .next t → RegFrame s t e ⟨16, f.d, .r⟩ ∧ ∀ y, getGroup t g = some y → y.arith = e.x.arith) ∧
    (∀ f : LForm, env? s g f.r.pr f.r.pn = some e →
      exec (.movl g f) s = .next t → RegFrame s t e ⟨16, f.r.d, .w⟩ ∧ ∀ y, getGroup t g = some y → y.arith = e.x.arith)

/-- A group that cannot issue (its path is blocked, its core halted or gated, nothing resident) is left as it is, and so is one whose registers
are awaited (R81, R110); a reserved guard, a reserved field, a register beyond N and an operation that the core type lacks fault with the
code and DETAIL of R98 and R125, with no effect on registers or memory. -/
def Obligations.IssueChecks : Prop :=
  ∀ (s : State) (g : Grp) (f : RForm),
    (env? s g f.pr f.pn = none → ∀ i ∈ ([.iadd g f, .fadd g f, .cvt g f, .xlane g f, .icmp g f, .nop g f, .exit g f, .wait g f, .wmAdd g f,
        .desc g f] : List Instr), Does i s (fun t => t = s)) ∧
    (∀ e, env? s g f.pr f.pn = some e →
      (e.ct = 3 → ∀ i ∈ ([.xlane g f, .tally g f] : List Instr), Does i s (fun t => Faulted s t e 0x0101 0)) ∧
      (f.pr = 0 → f.pn = true → Does (.iadd g f) s (fun t => Faulted s t e 0x0102 0)) ∧
      (∀ ops, ops = rOps f .r .r .r .z → ¬(f.pr = 0 ∧ f.pn = true) → f.ty = 13 →
        ((∀ o ∈ ops, o.ok e.sc = true) → f.rm = 0 → f.sat = false → f.sub ≠ 0 → Does (.iadd g f) s (fun t => Faulted s t e 0x0102 56)) ∧
        (f.d.toNat < 0x80 → (if e.sc then 32 else e.x.n) ≤ f.d.toNat → (∀ o ∈ ops, o.ok e.sc = true) → PlainTail f →
          Does (.iadd g f) s (fun t => Faulted s t e 0x0103 f.d.toNat)) ∧
        ((∀ o ∈ ops, o.ok e.sc = true ∧ o.range e.sc e.x.n = none) → PlainTail f → regsReady s e ops = false →
          Does (.iadd g f) s (fun t => t = s)))) ∧
    (∀ (w : W64) (e : Env), env? s g 0 false = some e →
      (∀ op ∈ definedOps (w.extractLsb' 4 2).toNat, (w.extractLsb' 6 10).toNat = op → providedOp e.ct op = false) →
      Does (.invalidOpcode g w) s (fun t => Faulted s t e 0x0101 0))
/-- Where the control instructions send a path that stands outside divergences and regions (R83, R90, R106, R113): NOP and WAYPOINT go on, BRA and
BRI with every thread executing go to their target, CALL links in U63 and RET returns to it, a YIELD with no other runnable path goes on and
with one gives up the pipe; none changes a register but U63, which CALL and RET wait for as for any operand (R110). -/
def Obligations.ControlTransfers : Prop :=
  ∀ (s : State) (g : Grp) (e : Env), Straight e →
    (∀ f : RForm, f.ty = 0 → PlainTail f → CanIssue s g f.pr f.pn e (rOps f .z .z .z .z) →
      Does (.nop g f) s (fun t => RunsAt t e (e.p.pc + 8) ∧ KeepsRegs t e ∧ t.mem = s.mem ∧ t.flds = s.flds) ∧
      Does (.waypoint g f) s (fun t => RunsAt t e (e.p.pc + 8) ∧ KeepsRegs t e ∧ t.mem = s.mem ∧ t.flds = s.flds ∧
        ∃ x : Group, getGroup t g = some x ∧ x.wpCyc = cycles s (coreHalf g.core) ∧ x.stopped = (getCore s g.core).preempting) ∧
      (e.x.others.any Path.runnable = false →
        Does (.yield g f) s (fun t => RunsAt t e (e.p.pc + 8) ∧ KeepsRegs t e ∧ t.mem = s.mem)) ∧
      (∀ q : Path, e.x.others = [q] → q.stat = .ready → q.yielding = false → e.ex ≠ 0 →
        Does (.yield g f) s (fun t => ∃ x : Group, getGroup t g = some x ∧ SameRegs e.x x ∧
          x.run = some { q with ran := true } ∧ x.others = [{ e.p with pc := e.p.pc + 8, yielding := true }])) ∧
      (f.pr = 0 → e.x.others = [] → e.x.entries = [] →
        Does (.exit g f) s (fun t => ∃ x : Group, getGroup t g = some x ∧ x.run = none ∧ x.others = [] ∧ SameRegs e.x x)) ∧
      (f.pr = 0 → regsReady s e [linkReg] = true → targetFault s e.ctx (BitVec.ofNat 64 (e.x.ureg 63)) = none →
        Does (.ret g f) s (fun t => RunsAt t e (BitVec.ofNat 64 (e.x.ureg 63)) ∧ KeepsRegs t e))) ∧
    (∀ f : BForm, CanIssue s g f.pr f.pn e [] →
      let tgt := e.p.pc + (f.target.signExtend 64) * 8
      targetFault s e.ctx tgt = none →
      (e.p.mask ≠ 0 → e.ex = e.p.mask → ((f.pr = 0 ∧ f.pn = false) ∨ f.rpc ≠ 0) → Does (.bra g f) s (fun t => RunsAt t e tgt ∧ KeepsRegs t e ∧ t.mem = s.mem)) ∧
      (e.ex = 0 → f.rpc ≠ 0 → Does (.bra g f) s (fun t => RunsAt t e (e.p.pc + 8) ∧ KeepsRegs t e)) ∧
      (f.pr = 0 → f.pn = false → f.rpc = 0 → regsReady s e [linkReg] = true →
        Does (.call g f) s (fun t => RunsAt t e tgt ∧ ∃ x : Group, getGroup t g = some x ∧ x.ureg 63 = (e.p.pc + 8).toNat ∧
          (∀ u, u ≠ 63 → x.ureg u = e.x.ureg u) ∧ x.xs = e.x.xs ∧ x.preds = e.x.preds))) ∧
    (∀ (f : LForm) (tgt : W64), f.r.ty = 0 → PlainTail f.r → f.w2.toNat / 2 ^ 24 = 0 → f.w2 ≠ 0 → CanIssue s g f.r.pr f.r.pn e (rOps f.r .z .wr .z .z) →
      e.p.mask ≠ 0 → e.ex = e.p.mask → (∀ k < 32, has e.ex k = true → BitVec.ofNat 64 (e.x.opnd e.sc 64 f.r.a k) = tgt) → targetFault s e.ctx tgt = none →
      Does (.bri g f) s (fun t => RunsAt t e tgt ∧ KeepsRegs t e ∧ t.mem = s.mem))

/-- A BRA that divides the active threads (R77, R78): it uses one entry of the stack, the executing threads stand at the target and the others
after the branch, each side with the branch's RPC; with sixteen entries in use it faults instead (R79) and leaves the stack as it was. -/
def Obligations.BranchDiverges : Prop :=
  ∀ (s : State) (g : Grp) (f : BForm) (e : Env), Straight e → CanIssue s g f.pr f.pn e [] → f.rpc ≠ 0 →
    let tgt := e.p.pc + (f.target.signExtend 64) * 8
    let rpc := e.p.pc + (f.rpc.signExtend 64) * 8
    let rest := e.p.mask &&& ~~~e.ex
    targetFault s e.ctx tgt = none → tgt ≠ e.p.pc + 8 → rpc ≠ tgt → rpc ≠ e.p.pc + 8 → e.ex ≠ 0 → rest ≠ 0 →
    (e.x.entries.length < 16 → (∀ n ∈ e.x.entries, n.members &&& ~~~n.arrived ≠ 0 ∧ n.id < e.x.nextEntry) → e.x.others = [] →
      Does (.bra g f) s (fun t => ∃ (x : Group) (n : REntry), getGroup t g = some x ∧ SameRegs e.x x ∧ x.entries = e.x.entries ++ [n] ∧ n.rpc = rpc ∧
        n.members = e.ex ||| rest ∧ n.arrived = 0 ∧
        (∃ p ∈ allPaths x, p.pc = tgt ∧ p.mask = e.ex ∧ p.entry = some n.id) ∧ (∃ p ∈ allPaths x, p.pc = e.p.pc + 8 ∧ p.mask = rest ∧ p.entry = some n.id))) ∧
    (e.x.entries.length = 16 →
      Does (.bra g f) s (fun t => ∃ (r : FaultRec) (x : Group), t.sched.faults = s.sched.faults ++ [r] ∧ r.code = 0x0104 ∧ r.pc = e.p.pc ∧ (getCore t g.core).halted = true ∧
        getGroup t g = some x ∧ x.entries = e.x.entries))

/-- TRAP faults with IMM32 as DETAIL when a thread executes it (R113); CRGN opens a region of the running path's threads from the next
instruction to its end, and faults when one is open (R142). -/
def Obligations.TrapsAndRegions : Prop :=
  ∀ (s : State) (g : Grp) (f : IForm) (e : Env), CanIssue s g f.pr f.pn e (iOps f .z .z) →
    (e.ex ≠ 0 → Does (.trap g f) s (fun t => Faulted s t e 0x0107 f.imm.toNat)) ∧
    (e.ct = 1 → f.pr = 0 → 0 < f.imm.toInt → e.x.region = none →
      Does (.crgn g f) s (fun t => t.mem = s.mem ∧ ∃ x : Group, getGroup t g = some x ∧ x.xs = e.x.xs ∧ x.us = e.x.us ∧
        (f.imm.toInt ≠ 1 → ∃ r : Region, x.region = some r ∧ r.entry = e.p.mask ∧ r.start = e.p.pc + 8 ∧ r.stop = e.p.pc + (f.imm.signExtend 64) * 8 ∧
          r.gone = 0 ∧ r.counts = []))) ∧
    (e.ct = 1 → f.pr = 0 → 0 < f.imm.toInt → e.x.region.isSome = true → Does (.crgn g f) s (fun t => ∃ r : FaultRec, t.sched.faults = s.sched.faults ++ [r] ∧ r.code = 0x0105))

/-- SRD reads, and SWR writes, the special registers by their numbers (R66, R76, R121); any other number is a reserved encoding with
DETAIL 32. -/
def Obligations.SpecialRegisters : Prop :=
  ∀ (s : State) (g : Grp) (f : IForm) (e : Env),
    (∀ p ∈ ([(0, 64, fun _ => (e.g.slot + 16 * e.g.pipe + 256 * e.g.core + 2 ^ 18 * (if e.sc then 0 else e.x.entries.length) +
          2 ^ 23 * ((allPaths e.x).any (·.yielding)).toNat + 2 ^ 32 * e.p.mask.toNat) % 2 ^ 64),
        (5, 32, fun _ => ((s.sched.blocks.get e.x.block).map (·.number)).getD 0 % 2 ^ 32),
        (7, 32, fun _ => if e.ct = 1 then rampLane s g.core else 0), (2, 64, fun _ => mstNow s), (3, 32, fun _ => mainsAngle s), (4, 32, fun k => if e.sc then 0 else k), (6, 32, fun _ => e.ctx % 2 ^ 32),
        (8, 32, fun _ => if e.sc then e.x.signal.toNat else 0),
        (1, 64, fun _ => e.x.arith.rm.toNat + 8 * e.x.arith.sat.toNat + 256 * e.x.arith.flags.toNat)] : List (W32 × Nat × (Nat → Nat))),
      f.imm = p.1 → CanIssue s g f.pr f.pn e (iOps f (if p.2.1 = 64 then .wr else .r) .z) →
      Does (.srd g f) s (fun t => t.mem = s.mem ∧ ∃ x : Group, getGroup t g = some x ∧ ResultIs e x p.2.1 f.d p.2.2)) ∧
    (CanIssue s g f.pr f.pn e (iOps f .z .w) → f.imm = 1 → e.ex ≠ 0 →
      Does (.swr g f) s (fun t => ∃ x : Group, getGroup t g = some x ∧
        let v := e.x.opnd e.sc 64 f.a (lowest e.ex)
        x.arith.rm = (if v % 8 < 6 then BitVec.ofNat 3 v else e.x.arith.rm) ∧ x.arith.sat = v.testBit 3 ∧
        x.arith.flags = e.x.arith.flags &&& ~~~BitVec.ofNat 6 (v / 256) ∧ x.xs = e.x.xs ∧ x.us = e.x.us ∧ x.preds = e.x.preds)) ∧
    (CanIssue s g f.pr f.pn e (iOps f .z .r) → e.ct = 3 → f.imm = 8 → e.ex ≠ 0 →
      Does (.swr g f) s (fun t => ∃ x : Group, getGroup t g = some x ∧ SameRegs e.x x ∧ x.signal = BitVec.ofNat 32 (e.x.opnd e.sc 32 f.a (lowest e.ex)))) ∧
    (CanIssue s g f.pr f.pn e (iOps f .r .z) → 9 ≤ f.imm.toNat → Does (.srd g f) s (fun t => Faulted s t e 0x0102 32))

/-- The rotation of a group's paths (R81, R83) and the waypoint budget (R91): a path that has issued 64 instructions while another yields gives up
the pipe; a yielding path alone takes it again after 64 cycles; a group without waypoint for its budget faults. -/
def Obligations.PipeEvents : Prop :=
  ∀ (s : State) (g : Grp) (x : Group), getGroup s g = some x →
    (∀ p q : Path, x.run = some p → x.others = [q] → q.stat = .ready → q.yielding = true → p.yielding = false → 64 ≤ x.issued → p.stat = .ready →
      Does (.pathRotate g) s (fun t => ∃ y : Group, getGroup t g = some y ∧ SameRegs x y ∧ y.run = some { q with yielding := false, ran := true } ∧ y.others = [p])) ∧
    (∀ p : Path, x.run = none → x.others = [p] → p.stat = .ready → x.yieldCyc + 64 ≤ cycles s (coreHalf g.core) →
      Does (.yieldRetake g) s (fun t => ∃ y : Group, getGroup t g = some y ∧ SameRegs x y ∧ y.run = some { p with yielding := false, ran := true } ∧ y.others = [])) ∧
    (∀ (n : Nat) (c : Ctx), (getCore s g.core).ctx = some n → getCtx s n = some c → (getCore s g.core).halted = false → anyWaiting x = false →
      x.done = false → x.wpCyc + budgetOf s c ≤ cycles s (coreHalf g.core) →
      Does (.noWaypoint g) s (fun t => ∃ r : FaultRec, t.sched.faults = s.sched.faults ++ [r] ∧ r.ctx = n ∧ r.code = 0x0106 ∧ r.detail = budgetOf s c - 1 ∧
        (getCore t g.core).halted = true ∧ t.mem = s.mem))
/-- Loads and stores of the loft (R87, R89, R115): a load gives each executing thread its little-endian bytes, extended as SIGN says; a store
writes them, later threads over earlier ones; every other byte of memory stays. -/
def Obligations.LoftAccess : Prop :=
  ∀ (s : State) (g : Grp) (f : MForm) (e : Env) (n : Nat),
    f.space = 1 → f.size.toNat ≤ 3 → n = 2 ^ f.size.toNat → f.hint.toNat ≤ 4 → f.aop.toNat ≤ 1 → f.ty = 0 → e.p.fences = [] → heldRanges s g.core = [] →
    let at_ := fun k => (e.x.opnd e.sc 32 f.a k + e.x.opnd e.sc 32 f.c k) % 2 ^ 32
    (∀ k < 32, has e.ex k = true → at_ k < loftSize g.core ∧ at_ k % n = 0) →
    let w := if n = 8 then 64 else 32
    (CanIssue s g f.pr f.pn e [⟨16, f.d, dataKind f.size.toNat⟩, ⟨24, f.a, baseKind f.space⟩, ⟨32, f.b, .z⟩, ⟨40, f.c, .r⟩] →
      Does (.ld g f .ok) s (fun t => RegFrame s t e ⟨16, f.d, dataKind f.size.toNat⟩ ∧ ∃ x : Group, getGroup t g = some x ∧
        ResultIs e x w f.d (fun k =>
          let v := readNat s.mem (loftAt g.core + at_ k) n
          if f.aop = 1 ∧ n < 4 then ((BitVec.ofNat (8 * n) v).signExtend 32).toNat else v))) ∧
    (CanIssue s g f.pr f.pn e [⟨16, f.d, .z⟩, ⟨24, f.a, baseKind f.space⟩, ⟨32, f.b, dataKind f.size.toNat⟩, ⟨40, f.c, .r⟩] →
      Does (.st g f) s (fun t => KeepsRegs t e ∧ t.flds = s.flds ∧
        (∀ a, (∀ k < 32, has e.ex k = true → a < loftAt g.core + at_ k ∨ loftAt g.core + at_ k + n ≤ a) → readByte t.mem a = readByte s.mem a) ∧
        (∀ k < 32, has e.ex k = true → (∀ j < 32, k < j → has e.ex j = true → at_ j ≠ at_ k) →
          readNat t.mem (loftAt g.core + at_ k) n = e.x.opnd e.sc (8 * n) f.b k)))

/-- Accesses of cacheable memory of this device (R183, R184): a load that hits L1 takes its bytes there, where its context has not stripped the line (R212); one that misses sends GETS to the slice
of its own die that the hash names and waits for DATA; a store sends WR with its bytes' mask. None changes a byte
of memory. -/
def Obligations.CacheableAccess : Prop :=
  ∀ (s : State) (g : Grp) (f : MForm) (e : Env) (n : Nat) (sa : Nat → Nat),
    f.space = 0 → f.size.toNat ≤ 3 → n = 2 ^ f.size.toNat → f.hint.toNat ≤ 4 → f.ty = 0 → e.p.fences = [] → heldRanges s g.core = [] → farCount e.k ≤ 256 →
    e.ex ≠ 0 → (∀ k < 32, isLoft s (sa k) = false ∧ isLocal s (sa k / 64) = true ∧ sa k % n = 0) →
    let va := fun k => wrap 64 ((e.x.opnd e.sc 64 f.a k : Int) + sext 32 (e.x.opnd e.sc 32 f.c k))
    let toSlice := fun (m : Msg) (kind : MsgKind) k =>
      m.kind = kind ∧ m.req = .core g.core ∧ m.die = coreDie g.core ∧ m.slice = sliceOf (sa k / 64) ∧ m.line = sa k / 64
    let w := if n = 8 then 64 else 32
    ((∀ k < 32, has e.ex k = true → va k < 2 ^ 48 ∧ va k % n = 0 ∧ transl s e (va k) .read = .ok (sa k) false) → f.aop = 0 →
      CanIssue s g f.pr f.pn e [⟨16, f.d, dataKind f.size.toNat⟩, ⟨24, f.a, baseKind f.space⟩, ⟨32, f.b, .z⟩, ⟨40, f.c, .r⟩] →
      (f.hint ≠ 2 → ∀ ln : Nat → Line, (∀ k < 32, has e.ex k = true → e.k.l1.get (sa k / 64) = some (ln k) ∧
          getMark s (locLine (sa k / 64)) ≠ some (.strip e.ctx)) →
        Does (.ld g f .ok) s (fun t => t.mem = s.mem ∧ t.coh = s.coh ∧ ∃ x : Group, getGroup t g = some x ∧
          ResultIs e x w f.d (fun k => lineNat (ln k) (sa k % 64) n))) ∧
      ((∀ k < 32, has e.ex k = true → e.k.l1.get (sa k / 64) = none) →
        Does (.ld g f .ok) s (fun t => t.mem = s.mem ∧ KeepsRegs t e ∧
          (∀ k < 32, has e.ex k = true → ∃ m ∈ t.coh.net, toSlice m .gets k ∧ m.id = e.k.nextOp) ∧
          ∃ o ∈ (getCore t g.core).outs, o.id = e.k.nextOp ∧ o.pipe = g.pipe ∧ o.slot = g.slot ∧ o.kind = .load f.d false false ∧
            ∀ k < 32, has e.ex k = true → ∃ p ∈ o.parts, p.thread = k ∧ p.addr = sa k ∧ p.size = n))) ∧
    ((∀ k < 32, has e.ex k = true → va k < 2 ^ 48 ∧ va k % n = 0 ∧ transl s e (va k) .write = .ok (sa k) false) → f.aop = 0 →
      CanIssue s g f.pr f.pn e [⟨16, f.d, .z⟩, ⟨24, f.a, baseKind f.space⟩, ⟨32, f.b, dataKind f.size.toNat⟩, ⟨40, f.c, .r⟩] →
      Does (.st g f) s (fun t => t.mem = s.mem ∧ KeepsRegs t e ∧
        (∀ k < 32, has e.ex k = true → ∃ m ∈ t.coh.net, toSlice m .wr k ∧ m.id = e.k.nextOp ∧ (∀ j < n, has m.mask (sa k % 64 + j) = true) ∧
          (threads e.ex = [k] → (∀ j < 64, has m.mask j = true → sa k % 64 ≤ j ∧ j < sa k % 64 + n) ∧
            lineNat m.data (sa k % 64) n = e.x.opnd e.sc (8 * n) f.b k))))

/-- GATHER: for each executing thread a GETS for the line of its granule, under one outstanding operation that names the destination's
four registers. STRIP sends STRIP for the line of a range of one, and a zero length or a range of the loft does nothing (the latter log 25, DEDUCED); PREFETCH asks for
the line it lacks, and with a zero length for nothing (R8, R116, R118, R210; any other length fetches the one line, log 151, DEDUCED). -/
def Obligations.GatherStripAndPrefetch : Prop :=
  (∀ (s : State) (g : Grp) (f : MForm) (e : Env) (sa : Nat → Nat),
      f.space = 0 → f.size = 4 → f.hint.toNat ≤ 4 → f.aop = 0 → f.ty = 0 → e.p.fences = [] → heldRanges s g.core = [] → farCount e.k ≤ 256 → e.ex ≠ 0 →
      (∀ k < 32, isLoft s (sa k) = false ∧ isLocal s (sa k / 64) = true) →
      let ga := fun k => (e.x.opnd e.sc 64 f.a k + 16 * e.x.opnd e.sc 32 f.c k) % 2 ^ 64
      (∀ k < 32, has e.ex k = true → e.x.opnd e.sc 64 f.a k % 16 = 0 ∧ ga k < 2 ^ 48 ∧ transl s e (ga k) .read = .ok (sa k) false) →
      CanIssue s g f.pr f.pn e [⟨16, f.d, .q⟩, ⟨24, f.a, .wr⟩, ⟨32, f.b, .z⟩, ⟨40, f.c, .r⟩] →
      Does (.gather g f) s (fun t => t.mem = s.mem ∧ KeepsRegs t e ∧
        (∀ k < 32, has e.ex k = true → ∃ m ∈ t.coh.net, m.kind = .gets ∧ m.req = .core g.core ∧ m.line = sa k / 64 ∧ m.slice = sliceOf (sa k / 64) ∧
          m.id = e.k.nextOp) ∧
        ∃ o ∈ (getCore t g.core).outs, o.id = e.k.nextOp ∧ o.kind = .load f.d false true ∧ o.regs = destRegs e.sc 16 f.d)) ∧
  (∀ (s : State) (g : Grp) (f : MForm) (e : Env) (k sa : Nat), Straight e →
      f.size.toNat ≤ 4 → f.hint.toNat ≤ 4 → f.aop = 0 → f.ty = 0 → e.p.fences = [] → heldRanges s g.core = [] → threads e.ex = [k] →
      isLoft s sa = false → isLocal s (sa / 64) = true →
      let len := e.x.opnd e.sc (if e.sc = true ∨ 0x80 ≤ f.b.toNat then 64 else 32) f.b k
      (CanIssue s g f.pr f.pn e [⟨16, f.d, .z⟩, ⟨24, f.a, baseKind f.space⟩, ⟨32, f.b, .r⟩, ⟨40, f.c, .z⟩] →
        (f.space.toNat ≤ 1 → len = 0 → Does (.strip g f) s (fun t => RunsAt t e (e.p.pc + 8) ∧ KeepsRegs t e ∧ t.mem = s.mem ∧ t.coh = s.coh)) ∧
        (f.space = 0 → len = 64 →
          let va := e.x.opnd e.sc 64 f.a k
          va < 2 ^ 48 → va % 64 = 0 → transl s e va .atomic = .ok sa false →
          Does (.strip g f) s (fun t => RunsAt t e (e.p.pc + 8) ∧ KeepsRegs t e ∧ t.mem = s.mem ∧
            ∃ m : Msg, t.coh.net = s.coh.net ++ [m] ∧ m.kind = .strip ∧ m.req = .core g.core ∧ m.line = sa / 64 ∧ m.slice = sliceOf (sa / 64) ∧ m.id = e.k.nextOp))) ∧
      (CanIssue s g f.pr f.pn e [⟨16, f.d, .z⟩, ⟨24, f.a, baseKind f.space⟩, ⟨32, f.b, .r⟩, ⟨40, f.c, .r⟩] → f.space = 0 →
        (len = 0 → Does (.prefetch g f) s (fun t => RunsAt t e (e.p.pc + 8) ∧ KeepsRegs t e ∧ t.mem = s.mem ∧ t.coh = s.coh)) ∧
        let va := wrap 64 ((e.x.opnd e.sc 64 f.a k : Int) + sext 32 (e.x.opnd e.sc 32 f.c k))
        ∀ q, len ≠ 0 → va < 2 ^ 48 → tlbFind e.k.tlb e.ctx va = some q → rightsOk q.leaf.toNat .read = true → tb q.leaf.toNat 5 = false → leafAddr q.leaf q.log2 va = sa →
          (getCtx s e.ctx).isSome = true → dieUp s (homeDie (sa / 64)) = true →
          (e.k.l1.get (sa / 64) = none →
            Does (.prefetch g f) s (fun t => RunsAt t e (e.p.pc + 8) ∧ KeepsRegs t e ∧ t.mem = s.mem ∧
              ∃ m : Msg, t.coh.net = s.coh.net ++ [m] ∧ m.kind = .gets ∧ m.req = .core g.core ∧ m.line = sa / 64)) ∧
          ((e.k.l1.get (sa / 64)).isSome = true →
            Does (.prefetch g f) s (fun t => RunsAt t e (e.p.pc + 8) ∧ KeepsRegs t e ∧ t.mem = s.mem ∧ t.coh = s.coh))))

/-- Atomics and reductions (R117, R184): one on the loft gives the old word and writes the new one at once; one on cacheable memory of this
device goes to the slice as ATOM or RED with its operation and operand. -/
def Obligations.AtomicAccess : Prop :=
  ∀ (s : State) (g : Grp) (f : MForm) (e : Env) (n k : Nat),
    (f.size = 2 ∧ n = 4 ∧ f.ty = 13 ∨ f.size = 3 ∧ n = 8 ∧ f.ty = 15) → f.hint.toNat ≤ 4 → f.aop.toNat ≤ 6 → e.p.fences = [] → heldRanges s g.core = [] →
    threads e.ex = [k] →
    let b := BitVec.ofNat (8 * n) (e.x.opnd e.sc (8 * n) f.b k)
    let ops (d : OKind) : List OField := [⟨16, f.d, d⟩, ⟨24, f.a, baseKind f.space⟩, ⟨32, f.b, wk (8 * n)⟩, ⟨40, f.c, .r⟩]
    (f.space = 1 →
      let at_ := (e.x.opnd e.sc 32 f.a k + e.x.opnd e.sc 32 f.c k) % 2 ^ 32
      let old := BitVec.ofNat (8 * n) (readNat s.mem (loftAt g.core + at_) n)
      at_ < loftSize g.core → at_ % n = 0 →
      ∀ p ∈ ([(0, old + b), (1, if b.ult old then b else old), (2, if old.ult b then b else old), (3, old &&& b), (4, old ||| b), (5, old ^^^ b), (6, b)] :
          List (BitVec 4 × BitVec (8 * n))), f.aop = p.1 →
        let done := fun (t : State) => readNat t.mem (loftAt g.core + at_) n = p.2.toNat ∧
          (∀ a, a < loftAt g.core + at_ ∨ loftAt g.core + at_ + n ≤ a → readByte t.mem a = readByte s.mem a)
        (CanIssue s g f.pr f.pn e (ops (wk (8 * n))) →
          Does (.atom g f) s (fun t => done t ∧ ∃ x : Group, getGroup t g = some x ∧ ResultIs e x (8 * n) f.d (fun _ => old.toNat))) ∧
        (f.aop.toNat ≤ 4 → CanIssue s g f.pr f.pn e (ops .z) → Does (.red g f) s (fun t => done t ∧ KeepsRegs t e))) ∧
    (f.space = 0 → ∀ sa : Nat, isLoft s sa = false → isLocal s (sa / 64) = true → farCount e.k ≤ 256 →
      let va := wrap 64 ((e.x.opnd e.sc 64 f.a k : Int) + sext 32 (e.x.opnd e.sc 32 f.c k))
      va < 2 ^ 48 → va % n = 0 → transl s e va .atomic = .ok sa false →
      let sent := fun (t : State) (kind : MsgKind) => t.mem = s.mem ∧ KeepsRegs t e ∧ ∃ m : Msg, t.coh.net = s.coh.net ++ [m] ∧ m.kind = kind ∧ m.req = .core g.core ∧
        m.line = sa / 64 ∧ m.slice = sliceOf (sa / 64) ∧ m.op = f.aop.toNat ∧ m.ty = f.ty.toNat ∧ m.thread = k ∧ m.data.toNat % 2 ^ 64 = b.toNat
      (CanIssue s g f.pr f.pn e (ops (wk (8 * n))) → Does (.atom g f) s (fun t => sent t .atom)) ∧
      (f.aop.toNat ≤ 4 → CanIssue s g f.pr f.pn e (ops .z) → Does (.red g f) s (fun t => sent t .red)))

/-- The misaligned and out-of-range accesses of R87, R89 and R115: ALIGNMENT with the access's size as DETAIL, LOFT_RANGE, and an address beyond 48
bits as a translation fault; nothing is stored. -/
def Obligations.AccessFaults : Prop :=
  ∀ (s : State) (g : Grp) (f : MForm) (e : Env) (n k : Nat),
    f.size.toNat ≤ 3 → n = 2 ^ f.size.toNat → f.hint.toNat ≤ 4 → f.aop = 0 → f.ty = 0 → e.p.fences = [] → threads e.ex = [k] →
    CanIssue s g f.pr f.pn e [⟨16, f.d, .z⟩, ⟨24, f.a, baseKind f.space⟩, ⟨32, f.b, dataKind f.size.toNat⟩, ⟨40, f.c, .r⟩] →
    let lo := (e.x.opnd e.sc 32 f.a k + e.x.opnd e.sc 32 f.c k) % 2 ^ 32
    let va := wrap 64 ((e.x.opnd e.sc 64 f.a k : Int) + sext 32 (e.x.opnd e.sc 32 f.c k))
    (f.space = 1 → loftSize g.core ≤ lo → Does (.st g f) s (fun t => Faulted s t e 0x0204 lo)) ∧
    (f.space = 1 → lo < loftSize g.core → lo % n ≠ 0 → Does (.st g f) s (fun t => Faulted s t e 0x0203 n)) ∧
    (f.space = 0 → 2 ^ 48 ≤ va → Does (.st g f) s (fun t => Faulted s t e 0x0201 0)) ∧
    (f.space = 0 → va < 2 ^ 48 → va % n ≠ 0 → Does (.st g f) s (fun t => Faulted s t e 0x0203 n)) ∧
    (f.space = 0 → va < 2 ^ 48 → va % n = 0 → heldRanges s g.core = [] → transl s e va .write = .fault 0x0202 1 →
      Does (.st g f) s (fun t => Faulted s t e 0x0202 1)) ∧
    (f.space = 0 → va < 2 ^ 48 → va % n = 0 → heldRanges s g.core = [] → tlbFind e.k.tlb e.ctx va = none →
      Does (.st g f) s (fun t => t.mem = s.mem ∧ t.cores = s.cores ∧
        (∀ v ∈ s.deck.walks, ¬(v.ctx = e.ctx ∧ v.va / 65536 = va / 65536 ∧ v.agent = .core g.core)) →
        ∃ q : WalkReq, t.deck.walks = s.deck.walks ++ [q] ∧ q.ctx = e.ctx ∧ q.va = va ∧ q.acc = .write ∧ q.agent = .core g.core ∧ q.half = coreHalf g.core))

/-- Fences and locks (R82, R117, R118, R160): a fence becomes pending on its path, which goes on, waiting for exactly the operations of its
kind that are outstanding; it retires when none of them is and the core has no contribution to push (R202); ACQUIRE.Y sends its compare-and-swap of 0 and holds the path; RELEASE of
scope CORE with nothing outstanding writes 0. -/
def Obligations.FencesAndLocks : Prop :=
  ∀ (s : State) (g : Grp) (e : Env), Straight e →
    (∀ f : RForm, f.ty = 0 → PlainTail f → CanIssue s g f.pr f.pn e (rOps f .z .z .z .z) → e.ex ≠ 0 → contributed s g.core = [] →
      (∀ c ∈ s.deck.chans, ∀ w ∈ c.2.wcb, g.core ∉ w.writers) → (getCtx s e.ctx).bind (·.farTag) = none →
      ∀ p ∈ ([(.fenceCoreRel g f, 1, false), (.fenceCoreAcq g f, 1, true), (.fenceDeviceRel g f, 2, false), (.fenceDeviceAcq g f, 2, true),
          (.fenceSystemRel g f, 3, false), (.fenceSystemAcq g f, 3, true)] : List (Instr × Nat × Bool)),
        Does p.1 s (fun t => t.mem = s.mem ∧ KeepsRegs t e ∧ ∃ (x : Group) (r : FenceRec), getGroup t g = some x ∧
          x.run = some { e.p with pc := e.p.pc + 8, fences := e.p.fences ++ [r] } ∧ r.acquire = p.2.2 ∧ r.scope = p.2.1 ∧
          r.ops = if p.2.2 then acqOps e.k g e.p else relOps s e.k p.2.1)) ∧
    (∀ x p, getGroup s g = some x → x.run = some p → (getCore s g.core).halted = false → contributed s g.core = [] →
      (∀ c ∈ s.deck.chans, ∀ w ∈ c.2.wcb, g.core ∉ w.writers) →
      (∀ r ∈ p.fences, r.advance = false ∧ r.lines = [] ∧ ∀ o ∈ (getCore s g.core).outs, o.id ∉ r.ops) →
      Does (.fenceRetire g) s (fun t => t.mem = s.mem ∧ ∃ y : Group, getGroup t g = some y ∧ SameRegs x y ∧ y.run = some { p with fences := [] })) ∧
    (∀ (f : LForm) (k sa : Nat), f.r.ty = 13 → PlainTail f.r → f.w2.extractLsb' 0 32 ≠ 0 → f.w2.toNat / 2 ^ 34 = 0 → e.ct ≠ 3 → e.p.fences = [] →
      heldRanges s g.core = [] → threads e.ex = [k] → CanIssue s g f.r.pr f.r.pn e (rOps f.r .z .wr .rn .r) → farCount e.k ≤ 256 →
      isLoft s sa = false → isLocal s (sa / 64) = true →
      let va := wrap 64 ((e.x.opnd e.sc 64 f.r.a k : Int) + sext 32 (e.x.opnd e.sc 32 f.r.c k))
      va < 2 ^ 48 → va % 4 = 0 → transl s e va .atomic = .ok sa false →
      Does (.acquireY g f) s (fun t => t.mem = s.mem ∧ (∃ m : Msg, t.coh.net = s.coh.net ++ [m] ∧ m.kind = .atom ∧ m.req = .core g.core ∧ m.line = sa / 64 ∧
        m.op = 7 ∧ m.data.toNat % 2 ^ 64 = 0 ∧ m.data.toNat / 2 ^ 64 = e.x.opnd e.sc 32 f.r.b k) ∧
        ∃ x : Group, getGroup t g = some x ∧ SameRegs e.x x ∧ x.run = some { e.p with stat := .locking e.k.nextOp })) ∧
    (∀ (f : MForm) (k : Nat), f.space = 1 → f.size = 2 → f.hint.toNat ≤ 4 → f.aop = 0 → f.ty = 0 → e.p.fences = [] → heldRanges s g.core = [] →
      threads e.ex = [k] → CanIssue s g f.pr f.pn e [⟨16, f.d, .z⟩, ⟨24, f.a, baseKind f.space⟩, ⟨32, f.b, .z⟩, ⟨40, f.c, .r⟩] →
      let at_ := (e.x.opnd e.sc 32 f.a k + e.x.opnd e.sc 32 f.c k) % 2 ^ 32
      at_ < loftSize g.core → at_ % 4 = 0 →
      Does (.release g f) s (fun t => readNat t.mem (loftAt g.core + at_) 4 = 0 ∧ RunsAt t e (e.p.pc + 8) ∧ KeepsRegs t e ∧
        ∀ a, a < loftAt g.core + at_ ∨ loftAt g.core + at_ + 4 ≤ a → readByte t.mem a = readByte s.mem a))

/-- WAIT (R119): on MST it goes on at once when every thread's comparand has come, else it blocks the path, which gives up the pipe; on a
waymark it asks the bank for each waymark it names. A blocked WAIT on MST ends when MST comes. -/
def Obligations.WaitsBlockAndEnd : Prop :=
  ∀ (s : State) (g : Grp) (e : Env), Straight e →
    (∀ f : RForm, f.ty = 0 → PlainTail f → f.c = 0 → f.d = 0x25 → e.ex ≠ 0 → CanIssue s g f.pr f.pn e [⟨24, f.a, .z⟩, ⟨32, f.b, .w⟩] → e.x.others = [] →
      (getCore s g.core).preempting = false → e.x.entries = [] →
      ((∀ k < 32, has e.ex k = true → e.x.opnd e.sc 64 f.b k ≤ s.time.mst) →
        Does (.wait g f) s (fun t => RunsAt t e (e.p.pc + 8) ∧ KeepsRegs t e ∧ t.mem = s.mem)) ∧
      (∀ k < 32, has e.ex k = true → s.time.mst < e.x.opnd e.sc 64 f.b k →
        Does (.wait g f) s (fun t => KeepsRegs t e ∧ t.mem = s.mem ∧ ∃ (x : Group) (w : WaitRec), getGroup t g = some x ∧ x.run = none ∧
          x.others = [{ e.p with stat := .waiting w }] ∧ w.kind = 5 ∧ w.cond = 2 ∧ has w.left k = true))) ∧
    (∀ (f : RForm) (k : Nat) (cx : Ctx), f.ty = 0 → PlainTail f → f.c.toNat < 4 → f.d = 0x20 → threads e.ex = [k] →
      CanIssue s g f.pr f.pn e [⟨24, f.a, .r⟩, ⟨32, f.b, .r⟩] → e.x.others = [] → getCtx s e.ctx = some cx →
      (let m := (cx.wmBase + e.x.opnd e.sc 32 f.a k % 2 ^ cx.wmLog2) % 4096
       let ev : WmEvent := { kind := .read, wm := m, half := coreHalf g.core, core := g.core }
       CanSend s ev →
       Does (.wait g f) s (fun t => KeepsRegs t e ∧ t.mem = s.mem ∧ Sent s t ev ∧
         ∃ (x : Group) (w : WaitRec), getGroup t g = some x ∧ x.run = none ∧ x.others = [{ e.p with stat := .waiting w }] ∧ w.left = e.ex))) ∧
    (∀ (x : Group) (p : Path) (w : WaitRec) (k : Nat), getGroup s g = some x → x.run = none → x.others = [p] → x.region = none → x.entries = [] → p.entry = none →
      p.stat = .waiting w → p.yielding = false → has p.mask k = true → w.acq = 0 →
      (w.kind = 5 → w.cond = 2 → w.left ≠ 0 → (∀ j < 32, has w.left j = true → ∃ q ∈ w.target, q.1 = j) →
        (∀ q ∈ w.target, q.1 < 32 ∧ q.2.2.toNat ≤ s.time.mst) → w.notBefore ≤ s.time.mst →
        Does (.waitMstReached g k) s (fun t => ∃ y : Group, getGroup t g = some y ∧ SameRegs x y ∧ y.run = some { p with stat := .ready, pc := p.pc + 8, ran := true } ∧
          y.others = [])) ∧
      (w.kind = 0 → w.left = 0 → w.notBefore ≤ s.time.mst →
        Does (.waitMstReached g k) s (fun t => ∃ y : Group, getGroup t g = some y ∧ SameRegs x y ∧ y.run = some { p with stat := .ready, pc := p.pc + 8, ran := true } ∧
          y.others = [])) ∧
      (w.kind = 1 → w.left = bit 32 k → ∀ a : Nat, w.target = [(k, BitVec.ofNat 64 a, 7)] → w.cond = 0 → a < 2 ^ 64 → devOf a = myDev s → isLoft s a = true → coreLive s ((locOf a - loftBase) / loftStride) = true →
        readNat s.mem (locOf a) 4 = 7 → w.notBefore ≤ s.time.mst →
        Does (.flagReread g k) s (fun t => ∃ (y : Group) (q : Path), getGroup t g = some y ∧ SameRegs x y ∧ y.run = some q ∧ q.pc = p.pc + 8 ∧ q.mask = p.mask ∧ q.stat = .ready)) ∧
      (w.kind = 0 → w.left = bit 32 k → ∀ m : Nat, w.target = [(k, BitVec.ofNat 64 m, 7)] → m < 4096 → w.lastRead + (if w.inUnit then 16000 else 1000) ≤ s.now →
        let ev : WmEvent := { kind := .read, wm := m, half := coreHalf g.core, core := g.core }
        CanSend s ev → Does (.waitReread g k) s (fun t => t.mem = s.mem ∧ Sent s t ev)))

/-- The waymark instructions (R120, R277): WM.ADD, WM.SET and WM.READ send their event, of the lowest executing thread's operands, to the bank of
the waymark that the context's window names; an increment of zero sends nothing (R8). -/
def Obligations.WaymarkInstructions : Prop :=
  ∀ (s : State) (g : Grp) (f : RForm) (e : Env) (cx : Ctx) (k : Nat), Straight e → f.ty = 0 → PlainTail f → e.p.fences = [] → (threads e.ex).head? = some k →
    getCtx s e.ctx = some cx →
    let m := (cx.wmBase + e.x.opnd e.sc 32 f.a k % 2 ^ cx.wmLog2) % 4096
    let ev : WmEvent := { kind := .read, wm := m, half := coreHalf g.core, core := g.core }
    CanSend s ev →
    (CanIssue s g f.pr f.pn e (rOps f .z .r .r .r) →
      (e.x.opnd e.sc 32 f.b k ≠ 0 → Does (.wmAdd g f) s (fun t => RunsAt t e (e.p.pc + 8) ∧ KeepsRegs t e ∧ t.mem = s.mem ∧
        Sent s t { ev with kind := .add, count := BitVec.ofNat 32 (e.x.opnd e.sc 32 f.b k), lead := e.x.opnd e.sc 32 f.c k })) ∧
      (e.x.opnd e.sc 32 f.b k = 0 → Does (.wmAdd g f) s (fun t => RunsAt t e (e.p.pc + 8) ∧ KeepsRegs t e ∧ t.wm = s.wm ∧ t.mem = s.mem))) ∧
    (CanIssue s g f.pr f.pn e (rOps f .z .r .r .z) →
      Does (.wmSet g f) s (fun t => RunsAt t e (e.p.pc + 8) ∧ KeepsRegs t e ∧ t.mem = s.mem ∧
        Sent s t { ev with kind := .set, count := BitVec.ofNat 32 (e.x.opnd e.sc 32 f.b k) })) ∧
    (CanIssue s g f.pr f.pn e (rOps f .r .r .z .z) →
      Does (.wmRead g f) s (fun t => RunsAt t e (e.p.pc + 8) ∧ KeepsRegs t e ∧ t.mem = s.mem ∧
        (∃ tag : Nat, Sent s t { ev with lead := tag }) ∧
        ∃ r : WmRd, t.wm.reads = s.wm.reads ++ [r] ∧ r.core = g.core ∧ r.key = gkey g ∧ r.d = f.d ∧ r.mask = e.ex ∧ r.wm = m))

/-- An event in flight (R269, R271, R273, R280): its row moves it across the boundary where it is pending, which counts one event less, to the next on its way, which
counts one more; that one drops it at 255 pending, with OVERRUN and DROP, and discards it, with neither, where it passes nothing. An event behind another of its
lane that is no further on does not move. An UPDATE replaces in place one that is pending for its waymark and half at the same boundary, and nothing is counted; with
another event of the lane behind that one it is pending by itself (log 33, DEDUCED). -/
def Obligations.WaymarkCrossings : Prop :=
  (∀ (s : State) (ev : WmEvent) (b : Nat × Nat × Nat) (l : List (Nat × Nat × Nat)) (rest : List WmFlight),
      ∀ p ∈ ([(.add, .add ev), (.set, .set ev), (.read, .read ev), (.value, .value ev), (.update, .update ev)] : List (EvKind × Instr)), ev.kind = p.1 →
      (s.wm.flight = { ev := ev, pend := b :: l } :: rest → 0 < rd s (pendFld b).1 b.2.1 → rd s (pendFld b).1 b.2.1 < 256 → b.2.1 < 16 →
        (l = [] → Does p.2 s (fun t => t.wm.flight = { ev := ev, pend := [] } :: rest ∧ t.wm.marks = s.wm.marks ∧ t.mem = s.mem ∧ t.cores = s.cores ∧
          rd t (pendFld b).1 b.2.1 + 1 = rd s (pendFld b).1 b.2.1 ∧ FldFrame s t [(pendFld b).1])) ∧
        (∀ (c : Nat × Nat × Nat) (k : List (Nat × Nat × Nat)), l = c :: k → c.2.1 < 16 → ((pendFld c).1, c.2.1) ≠ ((pendFld b).1, b.2.1) →
          (boundaryOpen s c = false → Does p.2 s (fun t => t.wm.flight = rest ∧ rd t (pendFld b).1 b.2.1 + 1 = rd s (pendFld b).1 b.2.1 ∧ FldFrame s t [(pendFld b).1])) ∧
          (boundaryOpen s c = true → rd s (pendFld c).1 c.2.1 = 255 →
            Does p.2 s (fun t => t.wm.flight = rest ∧ rd t (pendFld c).2.1 c.2.1 = 1 ∧ FldFrame s t [(pendFld b).1, (pendFld c).2.1, (pendFld c).2.2] ∧
              rd t (pendFld c).2.2 c.2.1 = min (rd s (pendFld c).2.2 c.2.1 + 1) (2 ^ (pendFld c).2.2.spec.w - 1))) ∧
          (boundaryOpen s c = true → rd s (pendFld c).1 c.2.1 < 255 →
            Does p.2 s (fun t => t.wm.flight = { ev := ev, pend := l } :: rest ∧ rd t (pendFld b).1 b.2.1 + 1 = rd s (pendFld b).1 b.2.1 ∧
              rd t (pendFld c).1 c.2.1 = rd s (pendFld c).1 c.2.1 + 1 ∧ FldFrame s t [(pendFld b).1, (pendFld c).1])))) ∧
      (∀ f : WmFlight, s.wm.flight = [f, { ev := ev, pend := b :: l }] → f.ev ≠ ev → evLane f.ev = evLane ev → (b :: l).length ≤ f.pend.length → Does p.2 s (fun t => t = s))) ∧
  (∀ (s : State) (old new : WmEvent) (b : Nat × Nat × Nat) (l : List (Nat × Nat × Nat)), old.kind = .update → new.kind = .update → new.wm = old.wm → new.half = old.half →
      evRoute new = b :: l → boundaryOpen s b = true →
      (∀ (pre post : List WmFlight), s.wm.flight = pre ++ { ev := old, pend := b :: l } :: post → (∀ f ∈ post, evLane f.ev ≠ evLane old) →
        sendWm s new = { s with wm := { s.wm with flight := pre ++ { ev := new, pend := b :: l } :: post } }) ∧
      (∀ val : WmEvent, val.kind = .value → val.wm = old.wm → val.half = old.half → s.wm.flight = [{ ev := old, pend := b :: l }, { ev := val, pend := b :: l }] →
        rd s (pendFld b).1 b.2.1 < 255 → (sendWm s new).wm.flight = s.wm.flight ++ [{ ev := new, pend := b :: l }]))

/-- A waymark bank (R120, R276-R278): an ADD raises COUNT and, with a lead or an absolute time, never lowers RELEASE_MST; a SET gives COUNT and
clears RELEASE_MST and the watch; a READ answers VALUE and watches for the half. -/
def Obligations.WaymarkBank : Prop :=
  ∀ (s : State) (ev : WmEvent) (rest : List WmFlight), s.wm.flight = { ev := ev, pend := [] } :: rest →
    let old := getWm s ev.wm
    (ev.kind = .add → old.watch = 0 → mstNow s + ev.lead < 2 ^ 64 →
      Does (.add ev) s (fun t => (getWm t ev.wm).count = old.count + ev.count ∧ (getWm t ev.wm).watch = 0 ∧ old.rel.toNat ≤ (getWm t ev.wm).rel.toNat ∧
        (ev.abs = none → ev.lead = 0 → (getWm t ev.wm).rel = old.rel) ∧
        (∀ a : W64, ev.abs = some a → (getWm t ev.wm).rel.toNat = max old.rel.toNat a.toNat) ∧
        (∀ w, w ≠ ev.wm → getWm t w = getWm s w) ∧ t.wm.flight = rest ∧ t.mem = s.mem ∧ t.cores = s.cores)) ∧
    (ev.kind = .set → old.watch = 0 →
      Does (.set ev) s (fun t => getWm t ev.wm = { count := ev.count, rel := 0, watch := 0 } ∧ (∀ w, w ≠ ev.wm → getWm t w = getWm s w) ∧
        t.wm.flight = rest ∧ t.mem = s.mem ∧ t.cores = s.cores)) ∧
    (let val : WmEvent := { kind := .value, wm := ev.wm, half := ev.half, core := ev.core, count := old.count, rel := old.rel, lead := ev.lead }
     ev.kind = .read → ev.half < 8 → CanSend s val →
      Does (.read ev) s (fun t => getWm t ev.wm = { old with watch := old.watch ||| bit 8 ev.half } ∧ (∀ w, w ≠ ev.wm → getWm t w = getWm s w) ∧
        t.mem = s.mem ∧ t.cores = s.cores ∧ t.wm.flight = rest ++ [{ ev := val, pend := evRoute val }] ∧ FldFrame s t [] wmPendFlds))

/-- What the stops do with waymark events (R152, R267, R277, R278): a VALUE gives a WM.READ its count; an UPDATE ends the WAITs of its half whose
condition the waymark now meets; a GATE sets the ramp gate of the named M-cores, each by its lane. -/
def Obligations.WaymarkStops : Prop :=
  ∀ (s : State) (ev : WmEvent) (rest : List WmFlight) (g : Grp) (x : Group), getGroup s g = some x → gkey g / 16 = g.pipe → gkey g % 16 = g.slot →
    coreLive s g.core = true → (getCore s g.core).gated = false →
    (s.wm.flight = { ev := ev, pend := [] } :: rest →
      (ev.kind = .value → ev.core = g.core → ∀ r, s.wm.reads = [r] → r.id = ev.lead → r.core = g.core → r.wm = ev.wm → r.key = gkey g → r.d.toNat < 0x80 →
        Does (.value ev) s (fun t => t.wm.reads = [] ∧ t.wm.flight = rest ∧ t.mem = s.mem ∧ ∃ y : Group, getGroup t g = some y ∧
          (∀ k < 32, has r.mask k = true → y.xreg r.d.toNat k % 2 ^ 32 = ev.count.toNat) ∧
          (∀ q k, k < 32 → (q ≠ r.d.toNat ∨ has r.mask k = false) → y.xreg q k = x.xreg q k) ∧ y.us = x.us ∧ y.preds = x.preds)) ∧
      (ev.kind = .update → ev.half = coreHalf g.core → s.cores.keys = [g.core] → (getCore s g.core).groups.keys = [gkey g] →
        ∀ (p : Path) (w : WaitRec) (k : Nat), x.run = none → x.others = [p] → x.region = none → x.entries = [] → p.entry = none → p.yielding = false →
          p.stat = .waiting w → w.kind = 0 → w.cond = 2 → w.acq = 0 → w.left = bit 32 k → k < 32 → w.notBefore = 0 →
          w.target = [(k, BitVec.ofNat 64 ev.wm, ev.count.setWidth 64)] → ev.wm < 4096 → ev.rel.toNat ≤ s.time.mst →
          Does (.update ev) s (fun t => t.wm.flight = rest ∧ t.mem = s.mem ∧ ∃ (y : Group) (q : Path), getGroup t g = some y ∧ SameRegs x y ∧ y.run = some q ∧ q.pc = p.pc + 8 ∧
            q.mask = p.mask ∧ q.stat = .ready))) ∧
    (∀ (halves : BitVec 8) (mst spacing lanes : Nat), s.wm.gates = [⟨halves, mst, spacing, lanes, 0⟩] → coreType g.core = 1 → g.core < 832 →
      has halves (coreHalf g.core) = true →
      let lane := rd s .MX_RAMP_MAP_LANES (coreHalf g.core * 4 + coreLocal g.core / 16) / 2 ^ (4 * (coreLocal g.core % 16)) % 16 % lanes
      Does (.gate halves mst spacing lanes) s (fun t => t.wm.gates = [] ∧ t.mem = s.mem ∧
        (getCore t g.core).gate = max (getCore s g.core).gate (mst + lane * spacing)))

/-- A WM_ADD of another device (R302, R339): the convoy window's table gives the waymark, and an entry that is not valid counts a discard. A
REMOTE WM.ADD of a context that is not in a convoy is a reserved encoding with DETAIL 56; one whose route is valid and whose port holds credits for
its two slots leaves there at once (log 34, DESIGN CHOICE). -/
def Obligations.ConvoyAdds : Prop :=
  ∀ (s : State) (port convoy index : Nat) (count : W32) (lead : Nat) (q : LMsg) (rest : List LMsg), port < 8 → convoy < 256 → count ≠ 0 →
    (getPort s port).inbox = q :: rest → q.op = 0x60 → q.param = convoy → q.data.toNat = wmAddBody index count.toNat lead →
    let Taken : State → Prop := fun t => getPort t port = { getPort s port with inbox := rest }.owe (vcOf 0x60 q.sub) q.slots ∧ t.mem = s.mem ∧ t.cores = s.cores
    let m := (rd s .TP_CONVOY_DATA_BASE convoy + index % 2 ^ rd s .TP_CONVOY_DATA_LOG2 convoy) % 4096
    (flag s .TP_CONVOY_DATA_VALID convoy = true →
      let ev : WmEvent := { kind := .add, wm := m, half := 8, core := port + 1, count := count, lead := lead }
      CanSend s ev → Does (.linkWmAdd port convoy index count lead) s (fun t => Sent s t ev ∧ Taken t)) ∧
    (flag s .TP_CONVOY_DATA_VALID convoy = false →
      Does (.linkWmAdd port convoy index count lead) s (fun t => t.wm = s.wm ∧ Taken t ∧
        rd t .TP_CONVOY_DATA_DISCARDS convoy = min (rd s .TP_CONVOY_DATA_DISCARDS convoy + 1) (2 ^ Fld.TP_CONVOY_DATA_DISCARDS.spec.w - 1)))
  ∧
    (∀ (g : Grp) (f : RForm) (e : Env) (cx : Ctx) (k : Nat), f.ty = 0 → f.rm = 0 → f.sat = false → f.sub = 1 → e.p.fences = [] → (threads e.ex).head? = some k →
      getCtx s e.ctx = some cx → CanIssue s g f.pr f.pn e (rOps f .r .r .r .r) →
      (cx.convoyEn = false → Does (.wmAdd g f) s (fun t => Faulted s t e 0x0102 56)) ∧
      (cx.convoyEn = true → e.x.opnd e.sc 32 f.b k ≠ 0 →
        let dev := e.x.opnd e.sc 32 f.d k % 4096
        let p := rd s .LK_ROUTE_DATA_PORT dev
        flag s .LK_ROUTE_DATA_VALID dev = true → portUp s p = true → (getPort s p).egress = [] → (getPort s p).replay = [] → 2 ≤ (getPort s p).shared →
        Does (.wmAdd g f) s (fun t => t.mem = s.mem ∧ KeepsRegs t e ∧ ∃ (n : Nat) (q : LMsg), (getPort t p).replay = [(n, q)] ∧ q.op = 0x60 ∧ q.dest = dev ∧ q.src = myDev s ∧
          q.param = cx.convoy ∧ q.data = BitVec.ofNat 512 (wmAddBody (e.x.opnd e.sc 32 f.a k) (e.x.opnd e.sc 32 f.b k) (e.x.opnd e.sc 32 f.c k)))))
/-- The reference inputs and Milestone Time (R31-R34): MST_NEXT_PPS arms the next edge, which loads MST with it and sets EPOCH; an edge of a device
whose MST is set never steps it back; REF_PPS and REF_10M are lost and qualified, and without another source MST goes on in holdover. -/
def Obligations.MilestoneTimeInputs : Prop :=
  ∀ s : State,
    (∀ v : W64, Does (.mstNextPpsWrite v) s (fun t => rd t .MST_NEXT_PPS_NEXT = v.toNat ∧ rd t .MST_STATUS_NEXT_ARMED = 1 ∧ t.time = s.time ∧ t.mem = s.mem)) ∧
    (flag s .MST_CTRL_REF_EN = true → flag s .MST_STATUS_REF10_OK = true →
      (flag s .MST_STATUS_NEXT_ARMED = true → (s.time.isSet = true → s.time.mst ≤ rd s .MST_NEXT_PPS_NEXT) →
        Does .refPpsEdge s (fun t => t.time.mst = rd s .MST_NEXT_PPS_NEXT ∧ t.time.isSet = true ∧ rd t .MST_STATUS_EPOCH = 1 ∧ rd t .MST_STATUS_SOURCE = 1 ∧
          rd t .MST_STATUS_NEXT_ARMED = 0 ∧ rd t .MST_STATUS_PPS_OK = 1 ∧ t.time.ppsAt = some s.now ∧ t.mem = s.mem)) ∧
      (flag s .MST_STATUS_NEXT_ARMED = true → s.time.isSet = true → rd s .MST_NEXT_PPS_NEXT < s.time.mst →
        Does .refPpsEdge s (fun t => s.time.mst ≤ t.time.mst ∧ rd t .MST_STATUS_EPOCH_ERR = 1 ∧ rd t .MST_STATUS_NEXT_ARMED = 0)) ∧
      (flag s .MST_STATUS_NEXT_ARMED = false → s.time.isSet = true → flag s .MST_CTRL_STEP_OK = false →
        Does .refPpsEdge s (fun t => t.time.mst = s.time.mst ∧ rd t .MST_STATUS_SOURCE = 1 ∧ t.time.slew.natAbs ≤ 500000000))) ∧
    (∀ p : Nat, s.time.ppsAt = some p → p + 1100000000 ≤ s.now → flag s .MST_STATUS_PPS_OK = true → s.time.isSet = true → rd s .MST_STATUS_SOURCE = 1 →
      linkTimeOk s = false →
      Does .refPpsLoss s (fun t => rd t .MST_STATUS_PPS_OK = 0 ∧ rd t .MST_STATUS_SOURCE = 3 ∧ t.time.holdSince = some s.now ∧ t.time.mst = s.time.mst)) ∧
    (flag s .MST_STATUS_REF10_OK = true → s.time.isSet = true → rd s .MST_STATUS_SOURCE = 1 → linkTimeOk s = true →
      Does .ref10mLoss s (fun t => rd t .MST_STATUS_REF10_OK = 0 ∧ rd t .MST_STATUS_SOURCE = 2 ∧ t.time.mst = s.time.mst)) ∧
    Does .ref10mQualified s (fun t => rd t .MST_STATUS_REF10_OK = 1 ∧ t.time = s.time ∧ t.mem = s.mem)

/-- Arming and disarming a milestone entry (R39, R43): a sound write of ARMED sets the entry's fields, its owner, ARM_MST and its basis; an unsound
one sets ARM_ERR and arms nothing; a disarm at least 2,000 ns ahead takes effect at once, a later one after the firing. -/
def Obligations.MilestoneArming : Prop :=
  ∀ (s : State) (n owner : Nat) (v : W64), n < 256 → owner ≤ 64 → bits v.toNat 24 8 = 0 →
    let a := rd s .MT_ARG0_ARG n
    let b := rd s .MT_ARG1_ARG n
    let ok := actionOk owner (bits v.toNat 4 4) a b = true ∧ ¬(tb v.toNat 2 = true ∧ bits v.toNat 32 32 = 0) ∧ ownerMay s owner (bits v.toNat 4 4) a b = true
    (tb v.toNat 0 = true → flag s .MT_CTRL_ARMED n = false → s.time.due.get n = none →
      (ok → tb v.toNat 1 = false → s.time.mst + 2000 ≤ rd s .MT_TIME_TIME n →
        Does (.mtArm n v owner) s (fun t => rd t .MT_CTRL_ARMED n = 1 ∧ rd t .MT_CTRL_OWNER n = owner ∧ rd t .MT_CTRL_KIND n = 0 ∧
          rd t .MT_CTRL_REPEAT n = (tb v.toNat 2).toNat ∧ rd t .MT_CTRL_ACTION n = bits v.toNat 4 4 ∧ rd t .MT_CTRL_PERIOD n = bits v.toNat 32 32 ∧
          rd t .MT_ARM_MST_ARM_MST n = mstNow s ∧ t.time.basis.get n = some (rd s .MT_TIME_TIME n) ∧ t.time.due = s.time.due ∧ t.mem = s.mem)) ∧
      (¬ok → Does (.mtArm n v owner) s (fun t => rd t .MT_CTRL_ARMED n = 0 ∧ rd t .MT_CTRL_ARM_ERR n = 1 ∧ t.time = s.time ∧ t.mem = s.mem))) ∧
    (tb v.toNat 0 = false → flag s .MT_CTRL_ARMED n = true → flag s .MT_CTRL_KIND n = false → s.time.due.get n = none →
      (∀ at_, s.time.basis.get n = some at_ →
        (s.time.mst + 2000 ≤ at_ → Does (.mtDisarm n v) s (fun t => rd t .MT_CTRL_ARMED n = 0 ∧ t.time.basis.get n = none ∧ n ∉ t.time.disarm ∧ t.mem = s.mem)) ∧
        (at_ < s.time.mst + 2000 → Does (.mtDisarm n v) s (fun t => flag t .MT_CTRL_ARMED n = true ∧ t.time.basis.get n = some at_ ∧ n ∈ t.time.disarm ∧ t.mem = s.mem))))

/-- The firing of an entry (R41, R44, R47): of those due in one instant the lowest number first; FIRED, FIRE_MST and LATE are set, an entry
that does not repeat is disarmed, and so is one whose disarm came too late (R43); a repeating KIND 0 entry takes its next basis one PERIOD on (R42); RELEASE_WAYMARK adds to its waymark with an
absolute release time of the basis plus its lead. -/
def Obligations.MilestoneFiring : Prop :=
  ∀ (s : State) (n : Nat) (d : Due), n < 256 → s.time.due.get n = some d →
    ((∃ e ∈ s.time.due, e.2.at_ = d.at_ ∧ e.1 < n) → Does (.mtFire n) s (fun t => t = s)) ∧
    ((∀ e ∈ s.time.due, e.2.at_ = d.at_ → n ≤ e.1) → n ∈ s.time.disarm → Does (.mtFire n) s (fun t => rd t .MT_CTRL_FIRED n = 1 ∧ rd t .MT_CTRL_ARMED n = 0 ∧ n ∉ t.time.disarm ∧ t.time.basis.get n = none)) ∧
    ((∀ e ∈ s.time.due, e.2.at_ = d.at_ → n ≤ e.1) → n ∉ s.time.disarm → flag s .MT_CTRL_ARMED n = true → d.at_ < 2 ^ 64 →
      (rd s .MT_CTRL_ACTION n = 0 → flag s .MT_CTRL_REPEAT n = false →
        Does (.mtFire n) s (fun t => rd t .MT_CTRL_FIRED n = 1 ∧ rd t .MT_FIRE_MST_FIRE_MST n = d.at_ ∧ (d.late = true → rd t .MT_CTRL_LATE n = 1) ∧
          (d.late = false → rd t .MT_CTRL_LATE n = rd s .MT_CTRL_LATE n) ∧ (d.noMains = true → rd t .MT_CTRL_NO_MAINS n = 1) ∧
          rd t .MT_CTRL_ARMED n = 0 ∧ t.time.due.get n = none ∧ t.time.basis.get n = none ∧ t.mem = s.mem ∧ t.cores = s.cores)) ∧
      (rd s .MT_CTRL_ACTION n = 0 → flag s .MT_CTRL_REPEAT n = true → flag s .MT_CTRL_KIND n = false →
        ∀ at_, s.time.basis.get n = some at_ → s.time.mst < at_ + rd s .MT_CTRL_PERIOD n →
        Does (.mtFire n) s (fun t => rd t .MT_CTRL_FIRED n = 1 ∧ flag t .MT_CTRL_ARMED n = true ∧ t.time.basis.get n = some (at_ + rd s .MT_CTRL_PERIOD n) ∧
          t.time.due.get n = none)) ∧
      (rd s .MT_CTRL_ACTION n = 1 → flag s .MT_CTRL_REPEAT n = false → rd s .PS_STATUS_STATE ≠ 3 → rd s .PS_STATUS_STATE ≠ 4 → rd s .MT_CTRL_OWNER n = 0 →
        let a := rd s .MT_ARG0_ARG n
        dieDown s (bits a 0 12 / 1024) = false → bits a 16 16 ≠ 0 → CanSend s { kind := .add, wm := bits a 0 12, half := 8 } →
        Does (.mtFire n) s (fun t => rd t .MT_CTRL_FIRED n = 1 ∧ rd t .MT_CTRL_ARMED n = 0 ∧ ∃ f : WmFlight, t.wm.flight = s.wm.flight ++ [f] ∧ f.ev.kind = .add ∧
          f.ev.wm = bits a 0 12 ∧ f.ev.count = BitVec.ofNat 32 (bits a 16 16) ∧ f.ev.abs = some (BitVec.ofNat 64 (d.at_ + bits a 32 32)))))

/-- The 54 V and 12 V inputs (R381, R382, R393): a sample shows in SUP_BUS and SUP_STBY and moves the comparators' counts; ten samples below SHED_V begin a
bus shed, which leaves SHED_ACK_N alone; a hundred at or above SHED_V + 1 V end it; two hundred below HOLD_V request Hold once; a write of a threshold
restarts its counts, and one outside 38-50 V is not taken. -/
def Obligations.SupplyInputs : Prop :=
  ∀ s : State,
    (∀ bv ba sv sa : Nat, mcRuns s = true →
      Does (.busSample bv ba sv sa) s (fun t => rd t .SUP_BUS_VOLT = min bv 65535 ∧ rd t .SUP_BUS_CURR = min ba 65535 ∧ rd t .SUP_STBY_VOLT = min sv 65535 ∧
        rd t .SUP_STBY_CURR = min sa 65535 ∧ t.sup.lowShed = (if bv < rd s .SUP_CTRL_SHED_V then s.sup.lowShed + 1 else 0) ∧
        t.sup.okShed = (if rd s .SUP_CTRL_SHED_V + 1000 ≤ bv then s.sup.okShed + 1 else 0) ∧
        (s.sup.held = false → t.sup.lowHold = if bv < rd s .SUP_CTRL_HOLD_V then s.sup.lowHold + 1 else 0) ∧ (s.sup.held = true → t.sup.lowHold = 0) ∧
        (t.sup.held = true ↔ s.sup.held = true ∧ t.sup.okHold < 100) ∧
        FldFrame s t [.SUP_BUS_VOLT, .SUP_BUS_CURR, .SUP_BUS_POWER, .SUP_STBY_VOLT, .SUP_STBY_CURR, .PW_ENERGY_UJ] pqFlds ∧
        t = { s with sup := t.sup, flds := t.flds })) ∧
    (flag s .SUP_CTRL_AUTO_SHED = true → flag s .KB_STATUS_BUS = false →
      (s.sup.lowShed < 10 → Does .busShedStart s (fun t => t = s)) ∧
      (10 ≤ s.sup.lowShed → Does .busShedStart s (fun t => rd t .KB_STATUS_BUS = 1 ∧ rd t .KB_STATUS_SHED = 1 ∧ t.sup.okShed = 0 ∧
        (diesRun s = true → flag s .KB_STATUS_SHED = false → (∀ h < 8, rd t .PW_HALF_STATUS_RATIO h = 15) ∧ ∀ d < 4, rd t .PW_DIE_STATUS_CODE d = 0) ∧
        FldFrame s t [.KB_STATUS_BUS, .KB_STATUS_SHED, .KB_STATUS_COUNT] (powFlds ++ pqFlds) ∧ t.mem = s.mem))) ∧
    (flag s .KB_STATUS_BUS = true → 100 ≤ s.sup.okShed →
      Does .busShedEnd s (fun t => rd t .KB_STATUS_BUS = 0 ∧ (flag s .KB_STATUS_KERB = false → rd t .KB_STATUS_SHED = 0 ∨ flag s .KB_STATUS_SHED = false) ∧
        (flag s .KB_STATUS_KERB = true → rd t .KB_STATUS_SHED = rd s .KB_STATUS_SHED) ∧
        FldFrame s t [.KB_STATUS_BUS, .KB_STATUS_SHED] (powFlds ++ pqFlds) ∧ t.mem = s.mem)) ∧
    (flag s .SUP_CTRL_AUTO_HOLD = true → s.sup.held = false → 200 ≤ s.sup.lowHold →
      Does .holdRequest s (fun t => t.boot.holdReq = true ∧ t.sup.held = true ∧ t.sup.lowHold = 0 ∧ t.sup.okHold = 0 ∧ t.flds = s.flds ∧ t.mem = s.mem)) ∧
    (s.sup.held = true → Does .holdRequest s (fun t => t = s)) ∧
    (∀ v : W64, let x := bits v.toNat 0 16; let y := bits v.toNat 32 16
      Does (.supCtrlWrite v) s (fun t => rd t .SUP_CTRL_AUTO_SHED = bits v.toNat 16 1 ∧ rd t .SUP_CTRL_AUTO_HOLD = bits v.toNat 48 1 ∧
        (38000 ≤ x → x ≤ 50000 → rd t .SUP_CTRL_SHED_V = x ∧ t.sup.lowShed = 0 ∧ t.sup.okShed = 0) ∧
        (¬(38000 ≤ x ∧ x ≤ 50000) → rd t .SUP_CTRL_SHED_V = rd s .SUP_CTRL_SHED_V) ∧
        (38000 ≤ y → y ≤ 50000 → rd t .SUP_CTRL_HOLD_V = y ∧ t.sup.lowHold = 0 ∧ t.sup.okHold = 0) ∧
        (¬(38000 ≤ y ∧ y ≤ 50000) → rd t .SUP_CTRL_HOLD_V = rd s .SUP_CTRL_HOLD_V) ∧
        FldFrame s t [.SUP_CTRL_SHED_V, .SUP_CTRL_AUTO_SHED, .SUP_CTRL_HOLD_V, .SUP_CTRL_AUTO_HOLD] ∧ t = { s with sup := t.sup, flds := t.flds }))

/-- Kerb sheds (R389, R390, R392, R394, R413, R417): the first low sample drives SHED_ACK_N, records the time, slows every half to a sixteenth, takes
every die to code 0 and makes every engine cold; with EN at 0 it is ignored. The shed ends after EXIT_EDGES high samples or when EN is cleared: SHED_ACK_N is released
and, unless a bus shed holds, the ramp gates are armed 2 µs and a lane's stagger from now. The loss of the clock changes nothing else. -/
def Obligations.KerbSheds : Prop :=
  ∀ s : State,
    (flag s .KB_CTRL_EN = false → Does .kerbShedStart s (fun t => t = s)) ∧
    (mcRuns s = true → flag s .KB_CTRL_EN = true → flag s .KB_STATUS_KERB = false →
      Does .kerbShedStart s (fun t => rd t .KB_STATUS_KERB = 1 ∧ rd t .KB_STATUS_ACK = 1 ∧ rd t .KB_STATUS_SHED = 1 ∧ rd t .KB_LAST_MST = mstNow s ∧
        rd t .KB_STATUS_BUS = rd s .KB_STATUS_BUS ∧ t.sup.kerbLow = s.now ∧
        (flag s .KB_STATUS_SHED = false → diesRun s = true → (∀ h < 8, rd t .PW_HALF_STATUS_RATIO h = 15) ∧ (∀ d < 4, rd t .PW_DIE_STATUS_CODE d = 0) ∧
          ∀ c < 832, ∀ e x, (getCore t c).engines.get e = some x → x.warm = false) ∧
        FldFrame s t [.KB_STATUS_KERB, .KB_STATUS_ACK, .KB_STATUS_SHED, .KB_STATUS_COUNT, .KB_LAST_MST] (powFlds ++ pqFlds) ∧ t.mem = s.mem)) ∧
    (flag s .KB_STATUS_KERB = true →
      Does .exitCountRestart s (fun t => t.sup.kerbLow = s.now ∧ t.flds = s.flds ∧ t.mem = s.mem) ∧
      ((s.now - s.sup.kerbLow) * 1000 < rd s .KB_CTRL_EXIT_EDGES * 9999 → Does .kerbShedEnd s (fun t => t = s)) ∧
      (flag s .KB_STATUS_BUS = true →
        (rd s .KB_CTRL_EXIT_EDGES * 9999 ≤ (s.now - s.sup.kerbLow) * 1000 →
          Does .kerbShedEnd s (fun t => rd t .KB_STATUS_KERB = 0 ∧ rd t .KB_STATUS_ACK = 0 ∧ FldFrame s t [.KB_STATUS_KERB, .KB_STATUS_ACK] ∧ t = { s with flds := t.flds })) ∧
        Does .kerbDisable s (fun t => rd t .KB_CTRL_EN = 0 ∧ rd t .KB_STATUS_KERB = 0 ∧ rd t .KB_STATUS_ACK = 0 ∧
          FldFrame s t [.KB_CTRL_EN, .KB_STATUS_KERB, .KB_STATUS_ACK] ∧ t = { s with flds := t.flds })) ∧
      (flag s .KB_STATUS_BUS = false → flag s .KB_STATUS_SHED = true → diesRun s = true → s.boot.hold = .awake →
        let P : State → Prop := fun t => rd t .KB_STATUS_KERB = 0 ∧ rd t .KB_STATUS_ACK = 0 ∧ rd t .KB_STATUS_SHED = 0 ∧ t.mem = s.mem ∧
          (∀ c < 832, coreType c = 1 →
            (getCore t c).gate = max (getCore s c).gate (s.time.mst + 2000 + rampLane s c * rd s .MX_RAMP_CTRL_SPACING (coreHalf c) * 10)) ∧
          FldFrame s t [.KB_CTRL_EN, .KB_STATUS_KERB, .KB_STATUS_ACK, .KB_STATUS_SHED] (powFlds ++ pqFlds)
        (rd s .KB_CTRL_EXIT_EDGES * 9999 ≤ (s.now - s.sup.kerbLow) * 1000 → Does .kerbShedEnd s P) ∧ Does .kerbDisable s P)) ∧
    (flag s .KB_STATUS_KERB = false → Does .kerbDisable s (fun t => rd t .KB_CTRL_EN = 0 ∧ FldFrame s t [.KB_CTRL_EN] ∧ t = { s with flds := t.flds })) ∧
    Does .kerbClkLost s (fun t => rd t .KB_STATUS_CLK_LOST = 1 ∧ FldFrame s t [.KB_STATUS_CLK_LOST] ∧ t = { s with flds := t.flds }) ∧
    Does .kerbClkRestored s (fun t => rd t .KB_STATUS_CLK_LOST = 0 ∧ FldFrame s t [.KB_STATUS_CLK_LOST] ∧ t = { s with flds := t.flds })

/-- Frequency response (R396-R399): MODE leaves 0 only with a curve that ascends; a cap applies when its MST comes; the cap rises one step every 10 ms; a follower
that has not heard its leader for TIMEOUT goes on alone; a leader's POWER message goes out on the ports of LK_BCAST.ORIG that hold credits for it (R292), and a follower keeps a received one until
its APPLY_MST. A source's sequence number lapses after a second (R302). -/
def Obligations.FrequencyResponse : Prop :=
  ∀ s : State,
    (∀ v : W64,
      (rd s .FR_CTRL_MODE = 0 → bits v.toNat 0 2 ≠ 0 → frAscending s = false →
        Does (.frModeWrite v) s (fun t => rd t .FR_CTRL_MODE = 0 ∧ rd t .FR_STATUS_CFG_ERR = 1 ∧ rd t .FR_STATUS_CAP_PM = rd s .FR_STATUS_CAP_PM ∧ t.mem = s.mem)) ∧
      (bits v.toNat 0 2 ≠ rd s .FR_CTRL_MODE → (rd s .FR_CTRL_MODE = 0 → frAscending s = true) →
        Does (.frModeWrite v) s (fun t => rd t .FR_CTRL_MODE = bits v.toNat 0 2 ∧ rd t .FR_CTRL_NOMINAL = bits v.toNat 8 16 ∧
          rd t .FR_CTRL_RISE = (if bits v.toNat 24 8 = 0 then rd s .FR_CTRL_RISE else bits v.toNat 24 8) ∧ rd t .FR_CTRL_LEADER = bits v.toNat 32 12 ∧
          rd t .FR_CTRL_TIMEOUT = (if bits v.toNat 44 8 = 0 then rd s .FR_CTRL_TIMEOUT else bits v.toNat 44 8) ∧
          rd t .FR_CTRL_LEAD = (if bits v.toNat 52 12 = 0 then rd s .FR_CTRL_LEAD else bits v.toNat 52 12) ∧ (bits v.toNat 0 2 = 0 → t.sup.target = 1000) ∧
          FldFrame s t [.FR_CTRL_MODE, .FR_CTRL_NOMINAL, .FR_CTRL_RISE, .FR_CTRL_LEADER, .FR_CTRL_TIMEOUT, .FR_CTRL_LEAD] ∧ t.mem = s.mem))) ∧
    (∀ (a c : Nat) (rest : List (Nat × Nat)), s.sup.applyQ = (a, c) :: rest → a ≤ s.time.mst → c < 1024 →
      (rd s .FR_CTRL_MODE = 2 → Does .capApply s (fun t => rd t .FR_STATUS_CAP_PM = c ∧ t.sup.applyQ = rest ∧ FldFrame s t [.FR_STATUS_CAP_PM] powFlds ∧ t.mem = s.mem)) ∧
      (rd s .FR_CTRL_MODE = 3 → flag s .FR_STATUS_LEADER_LOST = false →
        Does .capApply s (fun t => rd t .FR_STATUS_CAP_PM = capStep s (rd s .FR_STATUS_CAP_PM) c ∧ t.sup.applyQ = rest ∧ t.sup.leadCap = c ∧
          FldFrame s t [.FR_STATUS_CAP_PM] powFlds ∧ t.mem = s.mem))) ∧
    (rd s .FR_CTRL_MODE ≠ 2 → rd s .FR_STATUS_CAP_PM < s.sup.target → s.sup.target < 1024 →
      (s.sup.stepAt + 10000000 ≤ s.time.mst →
        Does .capRise s (fun t => rd t .FR_STATUS_CAP_PM = min s.sup.target (rd s .FR_STATUS_CAP_PM + rd s .FR_CTRL_RISE / 2) ∧ t.sup.stepAt = s.time.mst ∧
          FldFrame s t [.FR_STATUS_CAP_PM] powFlds ∧ t.mem = s.mem)) ∧
      (s.time.mst < s.sup.stepAt + 10000000 → Does .capRise s (fun t => t = s))) ∧
    (rd s .FR_CTRL_MODE = 3 → flag s .FR_STATUS_LEADER_LOST = false → s.sup.heard + rd s .FR_CTRL_TIMEOUT * 10000000 ≤ s.time.mst →
      Does .leaderTimeout s (fun t => rd t .FR_STATUS_LEADER_LOST = 1 ∧
        t.sup.target = (if flag s .MAINS_STATUS_LOCK = true then rd s .FR_STATUS_CURVE_PM else rd s .FR_STATUS_CAP_PM) ∧
        FldFrame s t [.FR_STATUS_LEADER_LOST] ∧ t = { s with sup := t.sup, flds := t.flds })) ∧
    (∀ (b : Bcast) (p : PowerBody) (q : LMsg) (rest : List LMsg), b.port < 8 → (getPort s b.port).inbox = q :: rest → q.op = 0x62 → q.src = b.src →
      q.data.toNat = leNat (natLe 2 b.seq ++ natLe 1 b.convoy ++ natLe 1 1 ++ powerBytes p.capPm p.offset p.applyMst) →
      bcastNewer s b.src b.seq = true → flag s .LK_CONVOY_LOCAL b.port = true →
      b.convoy = rd s .LK_BCAST_CONVOY → rd s .FR_CTRL_MODE = 3 → b.src = rd s .FR_CTRL_LEADER → mstNow s ≤ p.applyMst →
      Does (.powerBroadcast b p) s (fun t => rd t .FR_STATUS_LEADER_LOST = 0 ∧ t.sup.heard = s.time.mst ∧ t.sup.applyQ = s.sup.applyQ ++ [(p.applyMst, p.capPm)] ∧
        t.link.bcast.get b.src = some (b.seq, s.time.mst) ∧ FldFrame s t [.FR_STATUS_LEADER_LOST] ∧ t.mem = s.mem)) ∧
    (∀ (b : Bcast) (p : PowerBody), (bcastNewer s b.src b.seq = false →
      Does (.powerBroadcast b p) s (fun t => t = { s with link := t.link } ∧ t.link.bcast = s.link.bcast)) ∧
      ((∀ q ∈ (getPort s b.port).inbox, q.op ≠ 0x62 ∨ q.src ≠ b.src) → Does (.powerBroadcast b p) s (fun t => t = s))) ∧
    (rd s .FR_CTRL_MODE = 2 → s.sup.sendDue = true →
      Does .powerSend s (fun t => t.sup.sendDue = false ∧ t.sup.sent = s.time.mst ∧ t.link.ownSeq = (s.link.ownSeq + 1) % 65536 ∧ t.flds = s.flds ∧ t.mem = s.mem ∧
        ∀ p < 8, tb (rd s .LK_BCAST_ORIG) p = true → portUp s p = true → (getPort s p).egress = [] → (getPort s p).replay = [] → 2 ≤ (getPort s p).shared →
          ∃ (n : Nat) (q : LMsg), (getPort t p).replay = [(n, q)] ∧ q.op = 0x62 ∧ q.src = rd s .LK_DEVNUM_DEV ∧ bits q.data.toNat 32 16 = s.sup.computed % 65536)) ∧
    (∀ (src seq at_ : Nat), s.link.bcast.get src = some (seq, at_) → at_ + 1000000000 ≤ s.time.mst →
      Does (.broadcastLapse src) s (fun t => t.link.bcast.get src = none ∧ t = { s with link := t.link } ∧ t.link.ports = s.link.ports))

/-- The mains (R36, R383, R384, R396, R397, R401): a locked half-cycle's end gives the frequencies, their average over two half-cycles (an even sum: the rounding is log 77, DESIGN CHOICE,
DESIGN CHOICE) and the curve's cap, and the applied cap takes its step; the second
failing half-cycle in a row loses the lock, which MEAS.VALID follows; two seconds later VALID clears, waiting angle entries fall due with LATE and NO_MAINS
(R44), and a device on its own curve aims at full power. Fifty milliseconds without a crossing open an INTERRUPTION (R385); the summary is saved (R387). -/
def Obligations.MainsMeasurement : Prop :=
  ∀ s : State,
    (∀ (d half cyc : Nat) (pos : Bool), mcRuns s = true → d ≠ 0 → flag s .MAINS_STATUS_LOCK = true → flag s .MAINS_STATUS_VALID = true →
      rd s .FR_CTRL_MODE = 1 → let f := nearest (10 ^ 12) (2 * d); let prev := rd s .MAINS_MEAS_HALF
      40000 ≤ f → f ≤ 70000 → prev ≤ 70000 → (f + prev) % 2 = 0 →
      let c := frCurveCap s ((((f + prev) / 2 : Nat) : Int) - rd s .FR_CTRL_NOMINAL)
      c < 1024 →
      Does (.halfCycleEnd d half cyc pos) s (fun t => rd t .MAINS_MEAS_HALF = f ∧ rd t .MAINS_MEAS_AVG = (f + prev) / 2 ∧ rd t .FR_STATUS_CURVE_PM = c ∧
        rd t .FR_STATUS_CAP_PM = capStep s (rd s .FR_STATUS_CAP_PM) c ∧ (pos = true → rd t .MAINS_STATUS_CYCLES = (rd s .MAINS_STATUS_CYCLES + 1) % 2 ^ 32) ∧
        (pos = false → rd t .MAINS_STATUS_CYCLES = rd s .MAINS_STATUS_CYCLES) ∧ t.time.mhz = f ∧ t.time.mst = s.time.mst ∧
        FldFrame s t [.MAINS_STATUS_LOCK, .MAINS_STATUS_FLYWHEEL, .MAINS_STATUS_CYCLES, .MAINS_MEAS_HALF, .MAINS_MEAS_AVG, .MAINS_MEAS_VALID, .MAINS_RMS_HALF,
          .MAINS_RMS_CYCLE, .MAINS_RMS_SENSE, .FR_STATUS_CURVE_PM, .FR_STATUS_CAP_PM] (powFlds ++ pqFlds) ∧ t.mem = s.mem ∧ t.cores = s.cores)) ∧
    (s.time.mhz ≠ 0 → flag s .MAINS_STATUS_LOCK = true → 3 * 10 ^ 12 ≤ (s.now - s.time.missAt) * 4 * s.time.mhz →
      (s.time.badHalves = 0 → Does .mainsLockLoss s (fun t => flag t .MAINS_STATUS_LOCK = true ∧ t.time.badHalves = 1 ∧ t.flds = s.flds ∧ t.mem = s.mem)) ∧
      (1 ≤ s.time.badHalves → Does .mainsLockLoss s (fun t => rd t .MAINS_STATUS_LOCK = 0 ∧ rd t .MAINS_STATUS_FLYWHEEL = 1 ∧ rd t .MAINS_MEAS_VALID = 0 ∧
        t.time.lossAt = some s.now ∧ FldFrame s t [.MAINS_STATUS_LOCK, .MAINS_STATUS_FLYWHEEL, .MAINS_MEAS_VALID] pqFlds ∧ t.mem = s.mem))) ∧
    (∀ at_ : Nat, s.time.lossAt = some at_ → flag s .MAINS_STATUS_FLYWHEEL = true → at_ + 2000000000 ≤ s.now →
      Does .flywheelExpiry s (fun t => rd t .MAINS_STATUS_FLYWHEEL = 0 ∧ rd t .MAINS_STATUS_VALID = 0 ∧
        (rd s .FR_CTRL_MODE = 1 ∨ rd s .FR_CTRL_MODE = 2 → rd t .FR_STATUS_NO_MAINS = 1 ∧ t.sup.target = 1000) ∧
        (∀ n b, s.time.basis.get n = some b → rd s .MT_CTRL_KIND n = 1 → s.time.due.get n = none →
          ∃ u : Due, t.time.due.get n = some u ∧ u.late = true ∧ u.noMains = true ∧ u.at_ = s.time.mst) ∧
        FldFrame s t [.MAINS_STATUS_FLYWHEEL, .MAINS_STATUS_VALID, .FR_STATUS_NO_MAINS] ∧ t.mem = s.mem)) ∧
    (mcRuns s = true → s.time.lastCross + 50000000 ≤ s.now → s.sup.open_.get 3 = none →
      Does .mainsNoCrossing s (fun t => (t.sup.open_.get 3).isSome = true ∧ t.sup.open_.get 1 = none ∧ FldFrame s t [] pqFlds ∧ t.mem = s.mem)) ∧
    (diesRun s = true → s.sup.sumAt + 3600000000000 ≤ s.boot.runNs →
      Does .pqSummaryUpdate s (fun t => t.sup.flash = { (countShed s).sup.sum with mst := mstNow s } ∧ t.sup.sumAt = s.boot.runNs ∧ t = { s with sup := t.sup }))

/-- Ratios and budgets (R410, R411, R417, R418): a current sample shows in I_NOW; one above TRIP_FAST, or ten above 110% of B on average, raise n by one; a rise
of more than 250 A counts DIDT and moves the half's waiting ramp gates one SPACING on; n comes back one step at a time; a request for a slower half
applies at once, for a faster one step by step; each 100 µs the budgets fall with the input power's excess or rise by 2%. -/
def Obligations.RatiosAndBudgets : Prop :=
  ∀ s : State,
    (∀ half amps : Nat, half < 8 → halfRuns s half = true →
      let l := (amps :: s.pow.samples.getD half []).take 10
      Does (.hpcSample half amps) s (fun t => rd t .PW_HALF_STATUS_I_NOW half = min amps 2047 ∧
        (amps ≤ rd s .PW_LIMIT_TRIP_FAST → l.sum * 10 ≤ powBudget s half * 110 → rd t .PW_HALF_STATUS_RATIO half = rd s .PW_HALF_STATUS_RATIO half) ∧
        (rd s .PW_LIMIT_TRIP_FAST < amps ∨ (l.length = 10 ∧ powBudget s half * 110 < l.sum * 10) → upFree s half → rd s .PW_HALF_STATUS_RATIO half < 15 →
          rd t .PW_HALF_STATUS_RATIO half = rd s .PW_HALF_STATUS_RATIO half + 1) ∧
        (∀ (p : Nat) (old : List Nat), s.pow.samples.get half = some (p :: old) → p + 250 < amps →
          rd t .PW_HALF_STATUS_DIDT half = min (rd s .PW_HALF_STATUS_DIDT half + 1) 63 ∧
          ∀ c, coreHalf c = half → coreType c = 1 → s.time.mst < (getCore s c).gate →
            (getCore t c).gate = (getCore s c).gate + rd s .MX_RAMP_CTRL_SPACING half * 10) ∧
        (∀ (p : Nat) (old : List Nat), s.pow.samples.get half = some (p :: old) → amps ≤ p + 250 → rd t .PW_HALF_STATUS_DIDT half = rd s .PW_HALF_STATUS_DIDT half ∧ t.cores = s.cores) ∧
        (∀ c, (shedding s = false ∧ (getCore s c).gate ≤ s.time.mst) ∨ coreHalf c ≠ half → (getCore t c).gate = (getCore s c).gate) ∧
        (∀ g < 8, g ≠ half → rd t .PW_HALF_STATUS_RATIO g = rd s .PW_HALF_STATUS_RATIO g) ∧
        FldFrame s t [.PW_HALF_STATUS_I_NOW, .PW_HALF_STATUS_I_1MS, .PW_HALF_STATUS_I_100MS, .PW_HALF_STATUS_DIDT, .PW_HALF_STATUS_ALL_PHASES] powFlds ∧ t.mem = s.mem)) ∧
    (∀ half : Nat, half < 8 → halfRuns s half = true → shedding s = false →
      let n := rd s .PW_HALF_STATUS_RATIO half
      (n ≤ wantedN s half → Does (.ratioReturn half) s (fun t => t = s)) ∧
      (wantedN s half < n → n ≤ 15 → s.pow.raised.get half ≠ some .limit → (∀ a, s.pow.ratioAt.get half = some a → a + 1000 ≤ s.now) →
        Does (.ratioReturn half) s (fun t => rd t .PW_HALF_STATUS_RATIO half = n - 1 ∧ t.pow.ratioAt.get half = some s.now ∧ FldFrame s t [] powFlds ∧ t.mem = s.mem)) ∧
      (wantedN s half < n → n ≤ 15 → s.pow.raised.get half = some .limit → ∀ a, s.pow.ratioAt.get half = some a →
        (a + 100000 ≤ s.now → s.pow.samples.get half = none →
          Does (.ratioReturn half) s (fun t => rd t .PW_HALF_STATUS_RATIO half = n - 1 ∧ FldFrame s t [] powFlds ∧ t.mem = s.mem)) ∧
        (s.now < a + 100000 → Does (.ratioReturn half) s (fun t => t = s)))) ∧
    (∀ (half : Nat) (v : W64), half < 8 → s.pow.paceN.getD (half / 2) 0 = 0 →
      let q := bits v.toNat 0 4
      Does (.reqRatioWrite half v) s (fun t => rd t .PW_HALF_CTRL_REQ_RATIO half = q ∧ rd t .PW_HALF_CTRL_PHASE_SHED half = bits v.toNat 16 1 ∧
        (20 ≤ bits v.toNat 8 8 → bits v.toNat 8 8 ≤ 80 → rd t .PW_HALF_CTRL_DROOP_MV half = bits v.toNat 8 8) ∧
        (¬(20 ≤ bits v.toNat 8 8 ∧ bits v.toNat 8 8 ≤ 80) → rd t .PW_HALF_CTRL_DROOP_MV half = rd s .PW_HALF_CTRL_DROOP_MV half) ∧
        (rd s .PW_HALF_STATUS_RATIO half < q → rd t .PW_HALF_STATUS_RATIO half = q) ∧
        (q < rd s .PW_HALF_STATUS_RATIO half → rd t .PW_HALF_STATUS_RATIO half = rd s .PW_HALF_STATUS_RATIO half ∧ t.pow.raised.get half ≠ none) ∧
        FldFrame s t [.PW_HALF_CTRL_REQ_RATIO, .PW_HALF_CTRL_DROOP_MV, .PW_HALF_CTRL_PHASE_SHED] powFlds ∧ t.mem = s.mem)) ∧
    (∀ watts amps : Nat,
      let lim := if flag s .PW_INPUT_PEAK_OPEN = true then 11000 else rd s .PW_INPUT_P_LIM
      (watts ≤ lim → amps ≤ 2500 → Does (.budgetTick watts amps) s (fun t => t = { s with pow := t.pow } ∧ t.pow.watts = watts ∧
        ∀ h < 8, powBudget t h = min (baseB s h) (powBudget s h * 102 / 100))) ∧
      (lim < watts → amps ≤ 2500 → Does (.budgetTick watts amps) s (fun t => t = { s with pow := t.pow } ∧ t.pow.watts = watts ∧
        ∀ h < 8, powBudget s h * lim / watts ≤ powBudget t h ∧ powBudget t h ≤ powBudget s h * lim / watts + 1)))

/-- The code of a die (R406-R408, R412): a request for a lower code applies at once and one for a higher code starts a transition, after which the code is the new one;
a request of 57-63 is not taken; the steward steps down by one for current, counting STEPS_DOWN, and up by one toward the bounds; above 42 each
step is granted; the thermal ceiling falls by two while CEIL90 holds and rises by one after it. -/
def Obligations.DieCodes : Prop :=
  ∀ (s : State) (d : Nat), d < 4 →
    let c := rd s .PW_DIE_STATUS_CODE d
    (∀ v : W64, let q := bits v.toNat 0 6
      (57 ≤ q → Does (.reqCodeWrite d v) s (fun t => rd t .PW_DIE_CTRL_REQ_CODE d = rd s .PW_DIE_CTRL_REQ_CODE d ∧ FldFrame s t [.PW_DIE_CTRL_TRIM_CEIL] powFlds ∧ t.mem = s.mem)) ∧
      (q < c → q < rd s .PW_DIE_CTRL_REQ_CODE d → q ≤ 56 →
        Does (.reqCodeWrite d v) s (fun t => rd t .PW_DIE_CTRL_REQ_CODE d = q ∧ rd t .PW_DIE_STATUS_CODE d ≤ q ∧ rd t .PW_DIE_STATUS_TRANSITION d = 1 ∧
          FldFrame s t [.PW_DIE_CTRL_REQ_CODE, .PW_DIE_CTRL_TRIM_CEIL] powFlds ∧ t.mem = s.mem)) ∧
      (inTrim s = false → c < q → rd s .PW_DIE_CTRL_REQ_CODE d < q → q ≤ 42 → q ≤ ceilOf s d → flag s .PW_DIE_STATUS_TRANSITION d = false → s.pow.target.get d = none →
        Does (.reqCodeWrite d v) s (fun t => rd t .PW_DIE_CTRL_REQ_CODE d = q ∧ rd t .PW_DIE_STATUS_CODE d = c ∧ rd t .PW_DIE_STATUS_TRANSITION d = 1 ∧
          t.pow.target.get d = some q ∧ FldFrame s t [.PW_DIE_CTRL_REQ_CODE, .PW_DIE_CTRL_TRIM_CEIL] powFlds ∧ t.mem = s.mem))) ∧
    (∀ q : Nat, flag s .PW_DIE_STATUS_TRANSITION d = true → s.pow.target.get d = some q → q ≤ boundOf s d → d ∉ s.pow.wantReq →
      Does (.vfTransitionDone d) s (fun t => rd t .PW_DIE_STATUS_CODE d = q ∧ rd t .PW_DIE_STATUS_TRANSITION d = 0 ∧ rd t .PW_DIE_STATUS_GRANT_HI d = (decide (42 < q)).toNat ∧
        t.pow.target.get d = none ∧ FldFrame s t [] powFlds ∧ t.mem = s.mem)) ∧
    (diesRun s = true → dieUp s d = true → shedding s = false →
      (s.pow.stepAt.getD d 0 + 100000 ≤ s.now →
        ((∃ h ∈ dieHalves d, i1msAbove s h 100 100 = true) → c ≠ 0 → c ≤ boundOf s d → s.pow.target.get d = none →
          Does (.codeStep d) s (fun t => rd t .PW_DIE_STATUS_CODE d = c - 1 ∧ rd t .PW_DIE_STATUS_STEPS_DOWN d = min (rd s .PW_DIE_STATUS_STEPS_DOWN d + 1) 65535 ∧
            t.pow.stepAt.get d = some s.now ∧ t.pow.downAt.get d = some s.now ∧ FldFrame s t [.PW_DIE_STATUS_STEPS_DOWN] powFlds ∧ t.mem = s.mem)) ∧
        ((∀ h ∈ dieHalves d, s.pow.samples.get h = none ∧ rd s .PW_HALF_STATUS_RATIO h ≤ wantedN s h) → s.pow.cur.get d = none → c < allowedOf s d →
          flag s .PW_DIE_STATUS_TRANSITION d = false →
          Does (.codeStep d) s (fun t => rd t .PW_DIE_STATUS_CODE d = c ∧ rd t .PW_DIE_STATUS_TRANSITION d = 1 ∧ t.pow.target.get d = some (c + 1) ∧
            FldFrame s t [] powFlds ∧ t.mem = s.mem))) ∧
      (42 ≤ c → c < boundOf s d → flag s .PW_DIE_STATUS_TRANSITION d = false → (∀ a, s.pow.downAt.get d = some a → a + 10000000 ≤ s.now) →
        (∀ a, s.pow.grantAt.get d = some a → a + 100000 ≤ s.now) →
        ((∀ h ∈ dieHalves d, (∀ a, s.pow.above.get h = some a → a + 1000000 ≤ s.now) ∧ i1msAbove s h (rd s .PW_LIMIT_GRANT_PCT) 100 = false) →
          Does (.codeGrant d) s (fun t => rd t .PW_DIE_STATUS_CODE d = c ∧ rd t .PW_DIE_STATUS_TRANSITION d = 1 ∧ t.pow.target.get d = some (c + 1) ∧
            t.pow.grantAt.get d = some s.now ∧ FldFrame s t [] powFlds ∧ t.mem = s.mem)) ∧
        ((∃ h ∈ dieHalves d, i1msAbove s h (rd s .PW_LIMIT_GRANT_PCT) 100 = true) → Does (.codeGrant d) s (fun t => t = s)))) ∧
    (∀ a : Nat, s.pow.thermAt.get d = some a → a + 10000000 ≤ s.now → rd s .PW_DIE_STATUS_THERM_CEIL d ≤ 56 →
      (flag s .DK_TEMP_CEIL90 d = true → Does (.thermalCeilStep d) s (fun t => rd t .PW_DIE_STATUS_THERM_CEIL d = rd s .PW_DIE_STATUS_THERM_CEIL d - 2 ∧
        rd t .PW_DIE_STATUS_CODE d ≤ rd s .PW_DIE_STATUS_THERM_CEIL d - 2 ∧ t.pow.thermAt.get d = some (a + 10000000) ∧
        FldFrame s t [.PW_DIE_STATUS_THERM_CEIL] powFlds ∧ t.mem = s.mem)) ∧
      (flag s .DK_TEMP_CEIL90 d = false → Does (.thermalCeilStep d) s (fun t => rd t .PW_DIE_STATUS_THERM_CEIL d = min 56 (rd s .PW_DIE_STATUS_THERM_CEIL d + 1) ∧
        rd t .PW_DIE_STATUS_CODE d = c ∧ FldFrame s t [.PW_DIE_STATUS_THERM_CEIL] powFlds ∧ t.mem = s.mem)))

/-- Droop, hints and peak windows (R414-R416): a trip starts a stretch and counts it, and the stretch's limit raises n; a HINT command stores its work and is done (when it ends: log 88, DEDUCED); 20 µs before a HEAVY
basis every phase is on; at the basis each named half opens its window unless a cap, a shed or peak recovery denies it, and the ramp gates of its M-cores are
set to the basis plus the lane's stagger; a LIGHT basis closes windows; ten milliseconds after the first opened, all windows close and recovery begins, which ends 90 ms later. -/
def Obligations.DroopHintsPeaks : Prop :=
  ∀ s : State,
    (∀ half quad : Nat, half < 8 → quad < 8 → halfRuns s half = true → half * 8 + quad ∉ s.pow.tripped → s.pow.stretch.get half = none →
      Does (.droopTrip half quad) s (fun t => t.pow.stretch.get half = some (cycles s half) ∧ half * 8 + quad ∈ t.pow.tripped ∧
        rd t .PW_HALF_STATUS_STRETCH half = min (rd s .PW_HALF_STATUS_STRETCH half + 1) 65535 ∧ FldFrame s t [.PW_HALF_STATUS_STRETCH] ∧
        t = { s with pow := t.pow, flds := t.flds })) ∧
    (∀ half c : Nat, half < 8 → s.pow.stretch.get half = some c →
      (c + 256 ≤ cycles s half → upFree s half → rd s .PW_HALF_STATUS_RATIO half < 15 →
        Does (.stretchLimit half) s (fun t => rd t .PW_HALF_STATUS_RATIO half = rd s .PW_HALF_STATUS_RATIO half + 1 ∧ t.pow.stretch.get half = none ∧
          FldFrame s t [] powFlds ∧ t.mem = s.mem)) ∧
      (cycles s half < c + 256 → Does (.stretchLimit half) s (fun t => t = s))) ∧
    (∀ half : Nat, Does (.droopDetectorClear half) s (fun t => t.pow.stretch.get half = none ∧ (∀ q ∈ t.pow.tripped, q / 8 ≠ half) ∧ t = { s with pow := t.pow })) ∧
    (∀ (r : CmdRef) (c : Cmd) (x : Ctx), Starts s r c x → c.op = 5 →
      let P : Bool → State → Prop := fun heavy t => Ended t r 0 0 ∧ t.pow.nextHint = s.pow.nextHint + 1 ∧ t.flds = s.flds ∧ t.mem = s.mem ∧
        t.pow.hints.get s.pow.nextHint = some { heavy := heavy, halves := c.fld 9 1, basis := s.time.mst + c.fld 12 4 }
      (c.fld 8 1 = 0 → Does (.heavyHint r) s (P true)) ∧ (c.fld 8 1 = 1 → Does (.lightHint r) s (P false))) ∧
    (∀ (n : Nat) (h : Hint), s.pow.hints.get n = some h →
      (h.heavy = true → h.phased = false → h.basis ≤ s.time.mst + 20000 →
        Does (.hintPhaseEnable n) s (fun t => (∀ k < 8, tb h.halves k = true → rd t .PW_HALF_STATUS_ALL_PHASES k = 1 ∧ k ∈ t.pow.heavy) ∧
          FldFrame s t [.PW_HALF_STATUS_ALL_PHASES] ∧ t = { s with pow := t.pow, flds := t.flds })) ∧
      (s.time.mst < h.basis → Does (.hintBasis n) s (fun t => t = s)) ∧
      (h.basis ≤ s.time.mst → h.heavy = true →
        Does (.hintBasis n) s (fun t => t.pow.hints.get n = none ∧ t.mem = s.mem ∧
          (∀ k < 8, tb h.halves k = true → rd t .PW_HALF_STATUS_ALL_PHASES k = 1 ∧
            (pLimit s = 9000 → shedding s = false → flag s .PW_INPUT_RECOVERY = false → flag t .PW_HALF_STATUS_PEAK k = true)) ∧
          (pLimit s ≠ 9000 ∨ shedding s = true ∨ flag s .PW_INPUT_RECOVERY = true → ∀ k < 8, rd t .PW_HALF_STATUS_PEAK k = rd s .PW_HALF_STATUS_PEAK k) ∧
          (∀ c < 832, coreType c = 1 → tb h.halves (coreHalf c) = true →
            (getCore t c).gate = max (getCore s c).gate (h.basis + rampLane s c * rd s .MX_RAMP_CTRL_SPACING (coreHalf c) * 10)) ∧
          FldFrame s t [.PW_HALF_STATUS_ALL_PHASES, .PW_INPUT_PEAK_COUNT, .PW_INPUT_PEAK_DENIED] powFlds)) ∧
      (h.basis ≤ s.time.mst → h.heavy = false →
        Does (.hintBasis n) s (fun t => t.pow.hints.get n = none ∧ (∀ k < 8, tb h.halves k = true → flag t .PW_HALF_STATUS_PEAK k = false ∧ k ∉ t.pow.heavy) ∧
          FldFrame s t [] powFlds ∧ t.mem = s.mem ∧ t.cores = s.cores))) ∧
    (∀ a : Nat, s.pow.peakSince = some a → a + 10000000 ≤ s.now → (∃ h < 8, flag s .PW_HALF_STATUS_PEAK h = true) →
      Does .peakWindowExpiry s (fun t => (∀ h < 8, flag t .PW_HALF_STATUS_PEAK h = false) ∧ rd t .PW_INPUT_RECOVERY = 1 ∧ t.pow.recovery = some s.now ∧ t.pow.peakSince = none ∧
        FldFrame s t [] powFlds ∧ t.mem = s.mem)) ∧
    (∀ a : Nat, s.pow.recovery = some a → a + 90000000 ≤ s.now →
      Does .peakRecoveryEnd s (fun t => rd t .PW_INPUT_RECOVERY = 0 ∧ t.pow.recovery = none ∧ FldFrame s t [.PW_INPUT_RECOVERY] ∧ t = { s with pow := t.pow, flds := t.flds }))

/-- Convoy beacons (R419-R423): a taken beacon is kept with its time; a throttled one that is the only one becomes the slowest member, with the last one's record moved to PW_CONVOY_PREV;
without PACE_EN nothing paces; the device's own goes out on the ports of LK_BCAST.ORIG that hold credits for it (R292); one not heard again within STALE periods is dropped. -/
def Obligations.ConvoyBeacons : Prop :=
  ∀ s : State,
    (∀ (b : Bcast) (p : BeaconBody) (q : LMsg) (rest : List LMsg), b.port < 8 → (getPort s b.port).inbox = q :: rest → q.op = 0x61 → q.src = b.src →
      q.data.toNat = leNat (natLe 2 b.seq ++ natLe 1 b.convoy ++ natLe 1 1 ++ beaconBytes p) → bcastNewer s b.src b.seq = true → flag s .LK_CONVOY_LOCAL b.port = true → b.convoy = rd s .LK_BCAST_CONVOY →
      Does (.beacon b p) s (fun t => t.pow.beacons.get b.src = some { pace := p.paceKhz, throttled := p.throttled, at_ := s.now } ∧ t.mem = s.mem ∧
        (flag s .PW_CONVOY_CTRL_PACE_EN = false → ∀ d < 4, rd t .PW_DIE_STATUS_PACE_CEIL d = 56) ∧
        (s.pow.beacons = [] → flag s .PW_CONVOY_STATUS_THROTTLED = false → p.throttled = true → b.src < 4096 → b.src ≠ rd s .LK_DEVNUM_DEV → p.paceKhz < 2 ^ 32 →
          0 < rd s .PW_CONVOY_CTRL_STALE * rd s .PW_CONVOY_CTRL_PERIOD →
          rd t .PW_CONVOY_STATUS_SLOW_VALID = 1 ∧ rd t .PW_CONVOY_STATUS_SLOW_DEV = b.src ∧ rd t .PW_CONVOY_STATUS_SLOW_PACE = p.paceKhz ∧
          (b.src ≠ rd s .PW_CONVOY_STATUS_SLOW_DEV → rd s .PW_CONVOY_STATUS_SLOW_DEV < 4096 →
            rd t .PW_CONVOY_PREV_DEV = rd s .PW_CONVOY_STATUS_SLOW_DEV ∧ rd t .PW_CONVOY_PREV_NS = min (rd s .PW_CONVOY_WAIT_NS) (2 ^ 48 - 1) ∧ rd t .PW_CONVOY_WAIT_NS = 0)) ∧
        FldFrame s t [.PW_CONVOY_STATUS_SLOW_VALID, .PW_CONVOY_STATUS_SLOW_DEV, .PW_CONVOY_STATUS_SLOW_PACE, .PW_CONVOY_PREV_DEV, .PW_CONVOY_PREV_NS, .PW_CONVOY_WAIT_NS,
          .PW_DIE_STATUS_PACE_CEIL] powFlds)) ∧
    (∀ (b : Bcast) (p : BeaconBody), ((∀ q ∈ (getPort s b.port).inbox, q.op ≠ 0x61 ∨ q.src ≠ b.src) → Does (.beacon b p) s (fun t => t = s)) ∧
      (bcastNewer s b.src b.seq = false → Does (.beacon b p) s (fun t => t = { s with link := t.link } ∧ t.link.bcast = s.link.bcast))) ∧
    (flag s .PW_CONVOY_CTRL_BEACON_EN = true → s.pow.beaconAt + rd s .PW_CONVOY_CTRL_PERIOD * 10000 ≤ s.now →
      Does .beaconSend s (fun t => t.pow.beaconAt = s.now ∧ t.link.ownSeq = (s.link.ownSeq + 1) % 65536 ∧ t.mem = s.mem ∧
        ∀ p < 8, tb (rd s .LK_BCAST_ORIG) p = true → portUp s p = true → (getPort s p).egress = [] → (getPort s p).replay = [] → 2 ≤ (getPort s p).shared →
          ∃ (n : Nat) (q : LMsg), (getPort t p).replay = [(n, q)] ∧ q.op = 0x61 ∧ q.src = rd s .LK_DEVNUM_DEV)) ∧
    (∀ (dev : Nat) (r : BeaconRec), s.pow.beacons.get dev = some r → r.at_ + rd s .PW_CONVOY_CTRL_STALE * rd s .PW_CONVOY_CTRL_PERIOD * 10000 ≤ s.now →
      Does (.beaconStale dev) s (fun t => t.pow.beacons.get dev = none ∧ t.mem = s.mem ∧ t.link = s.link))

/-- The matrix instructions (R132-R141, R144): with their fields, operands and addresses in order, outside any collective region, each puts one command on the queue of the engine
it names and its path goes on; a full queue holds the instruction; a misplaced address faults. TCOLLECT takes one row address from each thread of the path. -/
def Obligations.MatrixIssue : Prop :=
  ∀ (s : State) (g : Grp) (i : LForm) (e : Env), Straight e → coreType g.core = 1 →
    let q := (getEng e.k (engOf i)).queue
    let Queued : MOp → State → Prop := fun op t => RunsAt t e (e.p.pc + 16) ∧ KeepsRegs t e ∧ t.mem = s.mem ∧ t.flds = s.flds ∧
      ∃ m : MCmd, (getEng (getCore t g.core) (engOf i)).queue = q ++ [m] ∧ m.op = op ∧ m.pipe = g.pipe ∧ m.slot = g.slot ∧ m.id = e.k.nextOp
    (e.ex ≠ 0 → fenceHolds e.p false = false →
      (CanIssue s g i.r.pr i.r.pn e (mmaOps i) → (∀ f ∈ mmaFields i, f.2 = true) →
        (8 ≤ q.length → Does (.mma g i .ok) s (fun t => t = s)) ∧
        (q.length < 8 → loftFault g.core ((mmaTiles i e).map (fun x => (x.1, x.2.1))) = none → Does (.mma g i .ok) s (Queued (mmaOp i e))) ∧
        (q.length < 8 → ∀ a b c, loftFault g.core ((mmaTiles i e).map (fun x => (x.1, x.2.1))) = some (a, b, c) → Does (.mma g i .ok) s (fun t => Faulted s t e a b))) ∧
      (CanIssue s g i.r.pr i.r.pn e (tloadOps i) → (∀ f ∈ tloadFields i, f.2 = true) →
        (8 ≤ q.length → Does (.tload g i) s (fun t => t = s)) ∧
        (q.length < 8 → tloadFault i e = none → Does (.tload g i) s (Queued (tloadOp i e))) ∧
        (q.length < 8 → ∀ a b c, tloadFault i e = some (a, b, c) → Does (.tload g i) s (fun t => Faulted s t e a b))) ∧
      (CanIssue s g i.r.pr i.r.pn e (tstoreOps i) → (∀ f ∈ tstoreFields i, f.2 = true) →
        (8 ≤ q.length → Does (.tstore g i) s (fun t => t = s)) ∧
        (q.length < 8 → tstoreFault i e = none → Does (.tstore g i) s (Queued (tstoreOp i e))) ∧
        (q.length < 8 → ∀ a b c, tstoreFault i e = some (a, b, c) → Does (.tstore g i) s (fun t => Faulted s t e a b)))) ∧
    (∀ (k : Nat) (rest : List Nat), threads e.p.mask = k :: rest → i.r.pr = 0 → i.r.pn = false → fenceHolds e.p false = false → CanIssue s g 0 false e (rOps i.r .r .xp .z .z) →
      i.r.rm = 0 → i.r.sat = false → i.r.sub.toNat % 16 = 0 → i.r.sub.toNat < 128 → bits i.w2.toNat 21 3 ≤ 4 → i.w2.toNat < 2 ^ 24 →
      let rows := bits i.w2.toNat 0 5 + 1
      let cols := bits i.w2.toNat 5 16 + 1
      let d := e.x.opnd e.sc 32 i.r.d k
      (∀ j ∈ threads e.p.mask, j < rows → e.x.opnd e.sc 64 i.r.a j % 16 = 0 ∧ e.x.opnd e.sc 64 i.r.a j + rowBytes i.r.ty.toNat cols ≤ 2 ^ 48) →
      (q.length < 8 → d % 64 = 0 → d + tileLen i.r.ty.toNat rows cols ≤ loftSize g.core →
        Does (.tcollect g i) s (Queued (.tcollect d i.r.ty.toNat rows cols (bits i.w2.toNat 21 3)
          (((threads e.p.mask).filter (fun j => j < rows)).map (fun j => (j, e.x.opnd e.sc 64 i.r.a j)))))) ∧
      (8 ≤ q.length → Does (.tcollect g i) s (fun t => t = s)))

/-- The matrix engines at work (R58, R59, R129, R133, R137, R140, R151, R152, R154; that a command goes on in the events of MATRIX_CMD_COMPLETE is log 29, DESIGN CHOICE): an INT8 product without OUT leaves in each bank element the sum of the products along K, saturated to 32 bits, and
makes the engine warm, and goes one step of 32 along K at a time where the event says so; a tile move between lofts copies the rows; the command leaves the queue, and registers stand. While a shed holds, or a cold engine's ramp gate is shut, the array does not start. A command
whose far side is in trouble faults, with the engine as DETAIL where the fault is MATRIX_CMD; 512 idle cycles make an engine cold; a gate opens at its time. -/
def Obligations.MatrixExecution : Prop :=
  ∀ (s : State) (c eng ctx : Nat) (mover : Bool) (m : MCmd), c < 832 → eng < 8 → (getCore s c).ctx = some ctx → unitHead (getEng (getCore s c) eng) mover = some m →
    (getCore s c).halted = false →
    let Done : State → Prop := fun t =>
      (getEng (getCore t c) eng).queue = (getEng (getCore s c) eng).queue.filter (fun q => q.id ≠ m.id) ∧
      ∀ h x, getGroup s h = some x → ∃ y : Group, getGroup t h = some y ∧ y.xs = x.xs ∧ y.us = x.us ∧ y.preds = x.preds
    ((getCore s c).gated = false → (getCore s c).preempting = false → sbReady s c m = true →
      (∀ part, mover = false → arrayGo s c eng = false → Does (.matrixCmdComplete c eng ⟨mover, part⟩) s (fun t => t = s)) ∧
      (∀ dO aO bO outTy mm n k bank j : Nat, mover = false → arrayGo s c eng = true → m.asked = [] → m.prog + 1 < (k + 31) / 32 →
        m.op = .mma dO aO bO 0 0 9 9 outTy mm n k bank false false false false false false false →
        Does (.matrixCmdComplete c eng ⟨mover, some j⟩) s (fun t => unitHead (getEng (getCore t c) eng) mover = some { m with prog := m.prog + 1 } ∧ (getEng (getCore t c) eng).warm = true ∧
          t = { s with cores := t.cores })) ∧
      (m.asked = [] → m.wrote = [] → m.prog = 0 → (∀ o ∈ (getCore s c).outs, o.kind ≠ .move eng m.id) →
      (∀ dO aO bO outTy mm n k bank : Nat, mover = false → arrayGo s c eng = true → mm ≤ 64 → n ≤ 64 → bank < 4 → 1 ≤ k → k ≤ 4096 →
        m.op = .mma dO aO bO 0 0 9 9 outTy mm n k bank false false false false false false false →
        Does (.matrixCmdComplete c eng ⟨mover, none⟩) s (fun t => Done t ∧ t.mem = s.mem ∧ (getEng (getCore t c) eng).warm = true ∧
          ∀ i < mm, ∀ j < n, (getEng (getCore t c) eng).banks.getD (bankKey bank i j) 0 =
            wrap 32 (max (-2 ^ 31) (min (2 ^ 31 - 1) ((List.range k).map (fun kk =>
              sext 8 (readByte s.mem (loftAt c + aO + i * ((k + 63) / 64 * 64) + kk)).toNat *
              sext 8 (readByte s.mem (loftAt c + bO + j * ((k + 63) / 64 * 64) + kk)).toNat)).sum)))) ∧
      (∀ dst src stride ty rows cols bank hint : Nat, mover = true → m.op = .tload dst src stride ty rows cols bank false true hint →
        Does (.matrixCmdComplete c eng ⟨mover, none⟩) s (fun t => Done t ∧
          (∀ r < rows, ∀ j < rowBytes ty cols, readByte t.mem (loftAt c + dst + r * pitch ty cols + j) = readByte s.mem (loftAt c + src + r * stride + j)) ∧
          ∀ a, (∀ r < rows, a < loftAt c + dst + r * pitch ty cols ∨ loftAt c + dst + r * pitch ty cols + rowBytes ty cols ≤ a) → readByte t.mem a = readByte s.mem a)) ∧
      (∀ dst src stride ty rows cols bank hint : Nat, mover = true → rowBytes ty cols ≤ stride → m.op = .tstore dst src stride 0 ty rows cols bank false true false hint →
        Does (.matrixCmdComplete c eng ⟨mover, none⟩) s (fun t => Done t ∧
          (∀ r < rows, ∀ j < rowBytes ty cols, readByte t.mem (loftAt c + dst + r * stride + j) = readByte s.mem (loftAt c + src + r * pitch ty cols + j)) ∧
          ∀ a, (∀ r < rows, a < loftAt c + dst + r * stride ∨ loftAt c + dst + r * stride + rowBytes ty cols ≤ a) → readByte t.mem a = readByte s.mem a)))) ∧
    (∀ (a k : Nat) (addr : Option Nat), cmdTrouble s ctx m.op = some (a, some k) →
      Does (.matrixCmd c eng mover addr) s (fun t => (getCore t c).halted = true ∧ t.mem = s.mem ∧ ((∀ n, getMark s n = none) → t.flds = s.flds) ∧
      ∃ r : FaultRec, t.sched.faults = s.sched.faults ++ [r] ∧ r.ctx = ctx ∧ r.code = k ∧ r.detail = (if k = 0x0301 then eng else 0) ∧ r.core = c ∧ r.addr = some a)) ∧
    (cmdTrouble s ctx m.op = none → Does (.matrixCmd c eng mover none) s (fun t => t = s)) ∧
    (∀ n : Nat, (getEng (getCore s c) n).warm = true →
      ((getEng (getCore s c) n).lastCyc + 512 ≤ cycles s (coreHalf c) → Does (.engineCold c n) s (fun t => (getEng (getCore t c) n).warm = false ∧
        (getEng (getCore t c) n).queue = (getEng (getCore s c) n).queue ∧ (getEng (getCore t c) n).banks = (getEng (getCore s c) n).banks ∧ t = { s with cores := t.cores })) ∧
      (cycles s (coreHalf c) < (getEng (getCore s c) n).lastCyc + 512 → Does (.engineCold c n) s (fun t => t = s))) ∧
    ((getCore s c).gate ≠ 0 → stopOn s c = false →
      ((getCore s c).gate ≤ s.time.mst → Does (.rampGateOpen c) s (fun t => (getCore t c).gate = 0 ∧ t = { s with cores := t.cores })) ∧
      (s.time.mst < (getCore s c).gate → Does (.rampGateOpen c) s (fun t => t = s)))

/-- Placement and pre-emption (R128, R169, R336, R340, R341, R343, R347, R348): a free core takes the fresh block chosen for it, its groups at the kernel's first instruction with the entry registers;
a core whose block is complete is free, and with the launch's last block the LAUNCH ends; PREEMPT marks the core and stops the groups of which a path is blocked at a WAIT (log 30, DEDUCED); the save leaves an image, whose bytes go
to the lowest free slot of the pool (log 68, DESIGN CHOICE), and a free core, and waits without a slot; the reload gives the loft's bytes and the registers back; an agent restarts on the next live S-core that is free, which then
belongs to no instance (R360); at a period's end weights change. -/
def Obligations.PlacementAndPreemption : Prop :=
  ∀ (s : State) (c n : Nat), c < 832 →
    (∀ (lid : Nat) (l : Launch), (getCore s c).ctx = none → chosen s c = some (n, .fresh lid) → comesFirst s c n (.fresh lid) = true → s.sched.launches.get lid = some l →
      l.ctype = coreType c → l.groups ≤ 16 →
      Does (.coreFree c) s (fun t => (getCore t c).ctx = some n ∧ (getCore t c).halted = false ∧ t.sched.launches.get lid = some { l with fresh := l.fresh + 1 } ∧
        (∃ b : Block, t.sched.blocks.get s.sched.nextId = some b ∧ b.ctx = n ∧ b.launch = lid ∧ b.number = l.fresh ∧ b.st = .running c) ∧
        (∀ j < l.groups, ∃ (x : Group) (p : Path), getGroup t { core := c, pipe := j % pipesOf l.ctype, slot := j / pipesOf l.ctype } = some x ∧ x.index = j ∧ x.n = l.n ∧ x.arith = l.arith ∧
          x.run = some p ∧ p.pc = BitVec.ofNat 64 (l.entry + 64) ∧ p.mask = (if l.ctype = 3 then 1 else BitVec.allOnes 32) ∧ p.stat = .ready ∧ x.others = [] ∧
          (l.ctype ≠ 3 → x.ureg 0 = l.args % 2 ^ 64 ∧ x.ureg 1 = l.fresh % 2 ^ 64 ∧ x.ureg 2 = j ∧ x.ureg 3 = l.groups) ∧
          (l.ctype = 3 → x.xreg 0 0 = l.args % 2 ^ 64 ∧ x.xreg 1 0 = l.fresh % 2 ^ 64 ∧ x.xreg 2 0 = j ∧ x.xreg 3 0 = l.groups)) ∧
        (s.sched.lastCtx.get c = some n → t.mem = s.mem) ∧
        (s.sched.lastCtx.get c ≠ some n → (∀ a, loftAt c ≤ a → a < loftAt c + loftStride → readByte t.mem a = 0) ∧
          ∀ a, (a < loftAt c ∨ loftAt c + loftStride ≤ a) → readByte t.mem a = readByte s.mem a) ∧ t.flds = s.flds)) ∧
    ((getCore s c).ctx = some n → (contributed s c = [] ∧ ∀ e ∈ s.deck.chans, ∀ w ∈ e.2.wcb, c ∉ w.writers) → s.rel.fencing = none → s.inst.cores.get c = none →
      ∀ (id : Nat) (b : Block), (getCore s c).blocks = [id] → s.sched.blocks.get id = some b →
      (∀ l : Launch, (getCore s c).halted = false → coreDone s c = true → s.sched.launches.get b.launch = some l →
        (l.ended + 1 < l.wblocks → Does (.coreFree c) s (fun t => (getCore t c).ctx = none ∧ (getCore t c).groups = [] ∧ t.sched.blocks.get id = none ∧
          t.sched.launches.get b.launch = some { l with ended := l.ended + 1 } ∧ t.flds = s.flds ∧ t.mem = s.mem)) ∧
        (∀ (r : CmdRef) (q : Cmd), l.wblocks ≤ l.ended + 1 → l.cmd = some r → getCmd s r = some q → q.fin = none →
          Does (.coreFree c) s (fun t => (getCore t c).ctx = none ∧ t.sched.blocks.get id = none ∧ t.sched.launches.get b.launch = none ∧ Ended t r 0 0 ∧
            t.flds = s.flds ∧ t.mem = s.mem))) ∧
      (savedUp s c = true → savePasses s c = true →
        let at_ := freeSlot s (((getCtx s n).map (·.inst)).getD 0)
        (at_ = none → Does (.preemptSave c) s (fun t => t = s)) ∧
        (∀ slot : Nat, at_ = some slot → Does (.preemptSave c) s (fun t => (getCore t c).ctx = none ∧ (getCore t c).groups = [] ∧
          (∃ k : Block, t.sched.blocks.get id = some k ∧ k.st = .saved ∧ k.left = c ∧ k.ctx = b.ctx ∧ k.number = b.number ∧ k.slot = slot) ∧
          (∃ i : SaveImg, t.sched.images.get id = some i ∧ i.source = c ∧ (∀ k x, (getCore s c).groups.get k = some x → ∃ y : Group, i.groups.get k = some y ∧ SameRegs x y) ∧
            (imageOut i b.resumes).take 4 = natLe 4 0x45564153 ∧ ∃ p : State, p.mem = s.mem ∧ p.flds = s.flds ∧ t.mem = (writeImage p slot i b.resumes).mem) ∧
          (s.deck.chans = [] → t.flds = s.flds))))) ∧
    (∀ (id : Nat) (b : Block) (i : SaveImg), chosen s c = some (n, .saved id) → comesFirst s c n (.saved id) = true → s.sched.blocks.get id = some b → s.sched.images.get id = some i →
      savePasses s c = true → SMap.wf i.loft → (∀ e ∈ i.loft, e.1 < i.loftSaved) →
      Does (.blockResume c id) s (fun t => (getCore t c).ctx = some n ∧ (getCore t c).blocks = [id] ∧ t.sched.images.get id = none ∧
        (∃ k : Block, t.sched.blocks.get id = some k ∧ k.st = .running c) ∧ (∀ a < i.loftSaved, readByte t.mem (loftAt c + a) = SMap.getD i.loft a 0) ∧
        (∀ a, (a < loftAt c ∨ loftAt c + loftStride ≤ a) → i.loftSaved ≤ loftStride → readByte t.mem a = readByte s.mem a) ∧
        ∀ k x, i.groups.get k = some x → ∃ y : Group, (getCore t c).groups.get k = some y ∧ SameRegs x y)) ∧
    (c ∈ s.sched.wantPre → (getCore s c).ctx = some n →
      Does (.preempt c) s (fun t => (getCore t c).preempting = true ∧ c ∉ t.sched.wantPre ∧ t.flds = s.flds ∧ t.mem = s.mem ∧
        (∀ k x, (getCore s c).groups.get k = some x → ∃ y : Group, (getCore t c).groups.get k = some y ∧ SameRegs x y ∧
          y.stopped = (x.stopped || anyWaiting x)) ∧ ∀ d, d ≠ c → getCore t d = getCore s d)) ∧
    (∀ half since x : Nat, s.sched.agents.get half = some (x, some since) → (liveS s half).head? = some c →
      ((getCore s c).ctx = none → s.inst.cores.get c = none → Does (.agentRestart half) s (fun t => t.sched.agents.get half = none ∧ t = { s with sched := t.sched })) ∧
      (∀ k : Nat, (getCore s c).ctx = none → s.inst.cores.get c = some k → k ≤ 64 → Does (.agentRestart half) s (fun t => t.sched.agents.get half = none ∧ t.inst.cores.get c = none ∧
        (rd t .IN_CORES_CORES (k * 16 + c / 64)).testBit (c % 64) = false ∧ FldFrame s t [.IN_CORES_CORES] ∧ t.mem = s.mem ∧ t.cores = s.cores)) ∧
      ((getCore s c).ctx = some n → c ∉ s.sched.wantPre → (getCore s c).preempting = false →
        Does (.agentRestart half) s (fun t => t = { s with sched := { s.sched with wantPre := s.sched.wantPre ++ [c] } }))) ∧
    (s.sched.periodStart + rd s .TP_CFG_PERIOD * 100000 ≤ s.now →
      Does .accountingPeriod s (fun t => t.sched.periodStart = s.now ∧ t.flds = s.flds ∧ t.mem = s.mem ∧
        ∀ m x, getCtx s m = some x → ∃ y : Ctx, getCtx t m = some y ∧ y.weight = x.nextWeight.getD x.weight ∧ y.nextWeight = none ∧ y.st = x.st ∧ y.held = 0))

/-- Kills (R94-R97): the Turnpike takes a context's fault and the context is being killed, later ones count as SECONDARY; KILL stops each of its cores, whose engines' queues empty and of whose
operations only stores remain; when all have drained, the context is DEAD, its cores are free, its LAUNCH ends FAULT with the fault's code, and the fault record's 64 bytes go where the
descriptor says, the last eight in a second write. -/
def Obligations.KillSequence : Prop :=
  ∀ (s : State) (n : Nat) (x : Ctx), getCtx s n = some x →
    (∀ f : FaultRec, s.sched.faults.filter (fun r => r.ctx = n) = [f] → x.st ≠ .dead →
      (x.fault = none → Does (.contextKill n) s (fun t => t = setCtx { s with sched := { s.sched with faults := s.sched.faults.erase f } } n
        { x with st := .killing, fault := some { f with manager := x.mgr } })) ∧
      (∀ p : FaultRec, x.fault = some p → Does (.contextKill n) s (fun t => t.mem = s.mem ∧ t.flds = s.flds ∧ ∃ y : Ctx, getCtx t n = some y ∧ y.st = .killing ∧
        y.fault = some { p with secondary := min (p.secondary + 1) (2 ^ 32 - 1) }))) ∧
    (∀ c : Nat, (getCore s c).ctx = some n → x.st = .killing → (getCore s c).killed = false →
      Does (.coreKill c n) s (fun t => (getCore t c).killed = true ∧ (getCore t c).halted = true ∧ (∀ k e, (getCore t c).engines.get k = some e → e.queue = []) ∧
        (∀ o ∈ (getCore t c).outs, o.kind = .write ∨ o.kind = .red ∨ o.kind = .strip) ∧ (getCore t c).groups = (getCore s c).groups ∧ t.sched.faults = s.sched.faults ∧
        ((∀ e ∈ (getCore s c).engines, e.2.queue = []) → t.mem = s.mem ∧ t.flds = s.flds))) ∧
    (∀ (f : FaultRec) (q : Cmd), x.st = .killing → killDrained s n = true → rd s .IN_STATUS_STATE x.inst ≠ 3 → x.fault = some f → x.faultAddr % 2 = 1 →
      attLost s (fnAtt (instFn s x.inst)) = false → s.sched.seqCmds = [] → s.host.cmds = [q] → q.ctx = n → fnNum q.ref.fid = x.inst → q.fin = none → q.started = true → q.op = 1 →
      Does (.killDrainDone n) s (fun t => (∃ y : Ctx, getCtx t n = some y ∧ y.st = .dead ∧ y.fault = none) ∧ (∀ c, (getCore t c).ctx ≠ some n) ∧ Ended t q.ref 1 (f.code % 65536) ∧
        (∀ b ∈ t.sched.blocks, b.2.ctx ≠ n) ∧ (∀ l ∈ t.sched.launches, l.2.ctx ≠ n) ∧
        ∃ a b : HostWr, t.host.out = s.host.out ++ [a, b] ∧ a.addr = x.faultAddr / 64 * 64 ∧ a.bytes.length = 56 ∧ b.addr = a.addr + 56 ∧ b.bytes.length = 8 ∧ b.relaxed = false ∧
          leNat (a.bytes.take 2) = f.code % 65536))

/-- Contexts (R337, R338, R494): CREATE takes the descriptor, RESULT says why not; SUSPEND asks every core of the context to be pre-empted; RESUME, KILL, SET_WEIGHT and DESTROY. A
command for a context that is not there, or in a state that does not allow it, changes nothing but RESULT. -/
def Obligations.ContextCommands : Prop :=
  ∀ (s : State) (n : Nat),
    let R : Nat → State → Prop := fun v t => rd t .TP_CTX_RESULT_RESULT = v ∧ FldFrame s t [.TP_CTX_RESULT_RESULT] ∧ t = { s with flds := t.flds }
    (let a := rd s .TP_CTX_ARG_ADDR
     let w := myDev s * 2 ^ 40 + a
     let d := leNat (orderBytes s w 64)
     (a % 64 ≠ 0 → Does (.create n) s (R 3)) ∧
     (a % 64 = 0 → isDeck s w = true → dieUp s (homeDie (w / 64)) = true →
       (bits d 0 16 ≠ n → Does (.create n) s (R 2)) ∧
       (bits d 0 16 = n → 1 ≤ n → n ≤ 4095 →
         (getCtx s n ≠ none → Does (.create n) s (R 2)) ∧
         (getCtx s n = none → descriptorOk d = false → Does (.create n) s (R 3)) ∧
         (getCtx s n = none → descriptorOk d = true →
           let x := ctxOf d
           let clash := s.sched.ctxs.any (fun e => e.2.st ≠ .dead && wmMeet x.wmBase x.wmLog2 e.2.wmBase e.2.wmLog2)
           (wmInside s x = false ∨ clash = true → Does (.create n) s (R 6)) ∧
           (wmInside s x = true → clash = false →
             (x.farEn = false → Does (.create n) s (fun t => getCtx t n = some x ∧ rd t .TP_CTX_RESULT_RESULT = 0 ∧ FldFrame s t [.TP_CTX_RESULT_RESULT] ∧ t.mem = s.mem ∧
               ∀ m, m ≠ n → getCtx t m = getCtx s m)) ∧
             (x.farEn = true → freeTag s = none → Does (.create n) s (R 4)) ∧
             (∀ tag, x.farEn = true → freeTag s = some tag → Does (.create n) s (fun t => getCtx t n = some { x with farTag := some tag } ∧ rd t .TP_CTX_RESULT_RESULT = 0 ∧
               (∀ k < 384, t.coh.epochs.get (k * 256 + tag) = none) ∧ FldFrame s t [.TP_CTX_RESULT_RESULT, .TH_EPOCH_SWEEP_COUNT] ∧ t.mem = s.mem))))))) ∧
    (getCtx s n = none → ∀ i ∈ ([.suspend n, .resume n, .kill n, .destroy n, .setWeight n 1] : List Instr), Does i s (R 2)) ∧
    (∀ x : Ctx, getCtx s n = some x →
      let Into : CtxSt → Bool → State → Prop := fun st mgr t => (∃ y : Ctx, getCtx t n = some y ∧ y.st = st ∧ y.mgr = mgr ∧ y.fault = x.fault ∧ y.weight = x.weight) ∧
        rd t .TP_CTX_RESULT_RESULT = 0 ∧ FldFrame s t [.TP_CTX_RESULT_RESULT] ∧ t.mem = s.mem ∧ ∀ m, m ≠ n → getCtx t m = getCtx s m
      (x.st = .ready → Does (.suspend n) s (fun t => Into .suspended x.mgr t ∧ ∀ c ∈ ctxCores s n, (getCore s c).ctx = some n → (getCore s c).preempting = false → c ∈ t.sched.wantPre)) ∧
      (x.st ≠ .ready → Does (.suspend n) s (R 5)) ∧
      (x.st = .suspended → Does (.resume n) s (Into .ready x.mgr)) ∧ (x.st ≠ .suspended → Does (.resume n) s (R 5)) ∧
      (x.st = .ready ∨ x.st = .suspended → Does (.kill n) s (Into .killing true)) ∧ (x.st = .killing ∨ x.st = .dead → Does (.kill n) s (R 5)) ∧
      (x.st = .dead → Does (.destroy n) s (fun t => getCtx t n = none ∧ rd t .TP_CTX_RESULT_RESULT = 0 ∧ FldFrame s t [.TP_CTX_RESULT_RESULT] ∧ t.mem = s.mem ∧
        (∀ e ∈ t.deck.owner, e.2 ≠ n) ∧ ∀ c, ∀ u ∈ (getCore t c).tlb, u.ctx = n → 2 ^ 48 ≤ u.va)) ∧
      (x.st = .ready ∨ x.st = .killing → Does (.destroy n) s (R 5)) ∧
      (∀ w : Nat, 1 ≤ w → w ≤ 65535 → Does (.setWeight n w) s (fun t => (∃ y : Ctx, getCtx t n = some y ∧ y = { x with nextWeight := some w }) ∧
        rd t .TP_CTX_RESULT_RESULT = 0 ∧ FldFrame s t [.TP_CTX_RESULT_RESULT] ∧ t.mem = s.mem)) ∧
      (∀ w : Nat, w = 0 ∨ 65535 < w → Does (.setWeight n w) s (R 3)))

/-- The home slice (R188, R192, R193, R195, R196, R210, R214): a read of a line that it holds is answered at once, one that it lacks asks the deck; a GETM with no other holder gives the line to its guest; a write,
an atomic, a RED and a REDW with no other holder are applied and answered, and with holders INV goes to each first; PUTM gives the line back; STRIP and CLAIM drop it and CLEAN writes it back. A BUSY
line refuses with NACK, at the eighth time with TICKET, and a home in reset answers FENCED. -/
def Obligations.HomeSlice : Prop :=
  ∀ (s : State) (m : Msg),
    (AtHome s m →
      (getLine s m.die m.line = none →
        (m.kind = .gets → (getsAlloc m = true → FreeWay s m) → Does (.gets m .ok) s (fun t => t.mem = s.mem ∧ (∃ q : Msg, t.coh.net = s.coh.net.erase m ++ [q] ∧ q.kind = .deckRead ∧ q.line = m.line) ∧
          ∃ x : Txn, getBusy t m.die m.line = some x ∧ x.msg = m ∧ x.needData = true)) ∧
        (m.kind = .strip → Does (.stripMsg m) s (fun t => Answered s t m .ack none)) ∧ (m.kind = .clean → Does (.clean m) s (fun t => Answered s t m .ack none)) ∧
        (m.kind = .claim → Does (.claim m) s (fun t => Answered s t m .ack none))) ∧
      (∀ e : SEntry, getLine s m.die m.line = some e → e.st = .hc ∨ e.st = .hd →
        (m.kind = .gets → Does (.gets m .ok) s (fun t => Answered s t m .data (some e.data) ∧ LineIs t m.die m.line e.st e.data)) ∧
        (e.guests = 0 → e.sharers &&& ~~~writerBit e m = 0 →
          (∀ gd sl : Nat, m.kind = .getm → e.bad = false → m.req = .guest gd sl → Does (.getm m) s (fun t => Answered s t m .data (some e.data) ∧
            ∃ x : SEntry, getLine t m.die m.line = some x ∧ x.st = .hg ∧ x.guests = bit 4 gd ∧ x.sharers = 0)) ∧
          (m.kind = .wr → Does (.wr m) s (fun t => Answered s t m .ack none ∧ LineIs t m.die m.line .hd (mergeLine e.data m.data m.mask))) ∧
          (∀ c : Nat, m.req = .core c →
            let at_ := (wordAt m.mask).1
            let n := (wordAt m.mask).2
            let old := lineNat e.data at_ n
            let new := lineSet e.data at_ n (aopWord m.op m.ty n old (bits m.data.toNat 0 (8 * n)) (bits m.data.toNat 64 (8 * n)))
            (m.kind = .atom → stripFlag s m = 0 → Does (.atomMsg m) s (fun t => Answered s t m .atomResult (some (BitVec.ofNat 512 old)) ∧ LineIs t m.die m.line .hd new)) ∧
            (m.kind = .red → Does (.redMsg m) s (fun t => Answered s t m .ack none ∧ LineIs t m.die m.line .hd new))) ∧
          (m.kind = .redw → Does (.redw m) s (fun t => Answered s t m .ack none ∧ LineIs t m.die m.line .hd (redElems m.op m.ty m.mask e.data m.data))) ∧
          (m.kind = .strip → e.sharers = 0 → Does (.stripMsg m) s (fun t => getLine t m.die m.line = none ∧ t.mem = s.mem ∧ ∃ a ∈ t.coh.net, a.kind = .ack ∧ a.req = m.req ∧ a.id = m.id)) ∧
          (m.kind = .clean →
            (e.st = .hc → Does (.clean m) s (fun t => Answered s t m .ack none ∧ LineIs t m.die m.line .hc e.data)) ∧
            (e.st = .hd → Does (.clean m) s (fun t => LineIs t m.die m.line .hd e.data ∧ t.mem = s.mem ∧ (getBusy t m.die m.line).isSome = true ∧
              ∃ q : Msg, t.coh.net = s.coh.net.erase m ++ [q] ∧ q.kind = .writeBack ∧ q.line = m.line ∧ q.data = e.data))) ∧
          (m.kind = .claim → e.st = .hc → e.sharers = 0 → Does (.claim m) s (fun t => getLine t m.die m.line = none ∧ t.mem = s.mem ∧ ∃ a ∈ t.coh.net, a.kind = .ack ∧ a.req = m.req ∧ a.id = m.id))) ∧
        (m.kind = .wr → e.sharers &&& ~~~writerBit e m ≠ 0 → Does (.wr m) s (fun t => t.mem = s.mem ∧ (∃ x : Txn, getBusy t m.die m.line = some x ∧ x.msg = m ∧
          x.acks = (sharersOf m.die (e.sharers &&& ~~~writerBit e m)).length + (guestList e.guests).length) ∧
          ∀ c ∈ sharersOf m.die (e.sharers &&& ~~~writerBit e m), ∃ i ∈ t.coh.net, i.kind = .inv ∧ i.req = .core c ∧ i.line = m.line))) ∧
      (∀ (e : SEntry) (gd sl : Nat), getLine s m.die m.line = some e → e.st = .hg → e.guests = bit 4 gd → gd < 4 → m.kind = .putm →
        (m.req = .guest gd sl → Does (.putm m) s (fun t => Answered s t m .putack none ∧ LineIs t m.die m.line .hd m.data)) ∧
        (∀ x, m.req = .guest x sl → x ≠ gd → Does (.putm m) s (fun t => Answered s t m .putack none ∧ getLine t m.die m.line = some e)))) ∧
    (∀ p ∈ ([(.gets, .gets m .ok), (.getm, .getm m), (.wr, .wr m), (.atom, .atomMsg m), (.red, .redMsg m), (.redw, .redw m), (.putm, .putm m), (.strip, .stripMsg m),
        (.clean, .clean m), (.claim, .claim m)] : List (MsgKind × Instr)),
      m.kind = p.1 → AtSlice s m → m.die = homeDie m.line →
        (dieUp s m.die = false → s.coh.tickets.get (lkey m.die m.line) = none → Does p.2 s (fun t => Answered s t m .fenced none ∧ t.flds = s.flds)) ∧
        (dieUp s m.die = true → (reqHalves m).all (halfUp s) = true → (getBusy s m.die m.line).isSome = true → s.coh.tickets.get (lkey m.die m.line) = none →
          (m.tries < 7 → Does p.2 s (fun t => Answered s t m .nack none ∧ rd t .TH_NACK_COUNT m.die = (rd s .TH_NACK_COUNT m.die + 1) % 2 ^ Fld.TH_NACK_COUNT.spec.w ∧
            FldFrame s t [.TH_NACK_COUNT] ∧ ∃ r : Refused, t.coh.refused = s.coh.refused ++ [r] ∧ r.msg = { m with tries := m.tries + 1 } ∧ r.armed = false)) ∧
          (7 ≤ m.tries → Does p.2 s (fun t => Answered s t m .ticket none ∧ rd t .TH_TICKET_COUNT m.die = (rd s .TH_TICKET_COUNT m.die + 1) % 2 ^ Fld.TH_TICKET_COUNT.spec.w ∧
            FldFrame s t [.TH_TICKET_COUNT] ∧ ∃ r : Refused, t.coh.refused = s.coh.refused ++ [r] ∧ r.ticket = true))))

/-- Guest slices, owners and L1s (R183, R185, R189, R190, R195, R199-R201, R215): a guest slice answers what it holds and passes on what it does not; it writes in a line that it owns and
gathers reductions; an owner answers SHARE, OWN, RECALL and DROP with its data as each asks; INV removes a copy and is acknowledged. -/
def Obligations.GuestSlicesAndOwners : Prop :=
  ∀ (s : State) (m : Msg),
    (AtGuest s m →
      let Passed : State → (MsgKind → Prop) → Prop := fun t P => t.mem = s.mem ∧ (∃ q : Msg, t.coh.net = s.coh.net.erase m ++ [q] ∧ P q.kind ∧ q.req = .guest m.die m.slice ∧ q.die = homeDie m.line ∧
        q.line = m.line ∧ q.data = m.data ∧ q.mask = m.mask ∧ q.op = m.op) ∧ ∃ x : Txn, getBusy t m.die m.line = some x ∧ x.msg = m
      (getLine s m.die m.line = none →
        (m.kind = .gets → (getsAlloc m = true → FreeWay s m) → Does (.gets m .ok) s (fun t => Passed t (· = .gets))) ∧ (m.kind = .atom → Does (.atomMsg m) s (fun t => Passed t (· = .atom))) ∧
        (m.kind = .strip → Does (.stripMsg m) s (fun t => Passed t (· = .strip))) ∧ (m.kind = .wr → (m.flags % 8 ≠ 2 → FreeWay s m) → Does (.wr m) s (fun t => Passed t (fun k => k = .wr ∨ k = .getm))) ∧
        (∀ c : Nat, m.kind = .red → m.flags % 8 ≠ 2 → m.req = .core c → (partLines s m.die m.line).length < 64 → FreeWay s m → Does (.redMsg m) s (fun t => t.mem = s.mem ∧ (∃ a ∈ t.coh.net, a.kind = .ack ∧ a.req = m.req ∧ a.id = m.id) ∧
          ∃ e : SEntry, getLine t m.die m.line = some e ∧ e.st = .part ∧ e.emask = m.mask ∧ e.op = m.op ∧ e.ty = m.ty ∧ e.sharers = bit208 c))) ∧
      (∀ e : SEntry, getLine s m.die m.line = some e →
        (e.st = .gs ∨ e.st = .gm → m.kind = .gets → Does (.gets m .ok) s (fun t => Answered s t m .data (some e.data) ∧ LineIs t m.die m.line e.st e.data)) ∧
        (e.st = .gm → m.kind = .wr → e.sharers &&& ~~~writerBit e m = 0 →
          Does (.wr m) s (fun t => Answered s t m .ack none ∧ LineIs t m.die m.line .gm (mergeLine e.data m.data m.mask))) ∧
        (∀ c : Nat, e.st = .part → m.kind = .red → m.flags % 8 ≠ 2 → m.op = e.op → m.ty = e.ty → m.req = .core c →
          Does (.redMsg m) s (fun t => Answered s t m .ack none ∧ ∃ x : SEntry, getLine t m.die m.line = some x ∧ x.st = .part ∧ x.emask = e.emask ||| m.mask ∧
            x.sharers = e.sharers ||| bit208 c)))) ∧
    (Arrived s m →
      (∀ e : SEntry, getLine s m.die m.line = some e → e.st = .gm → e.sharers = 0 → invOut s m.die m.line = false → (∀ x, getBusy s m.die m.line = some x → x.step ≠ 2) →
        let toReq : Msg → Prop := fun a => a.kind = .data ∧ a.op = 0 ∧ a.req = m.req ∧ a.id = m.id ∧ a.line = m.line ∧ a.data = e.data
        let toHome : MsgKind → Msg → Prop := fun k a => a.kind = k ∧ a.op = 1 ∧ a.die = homeDie m.line ∧ a.line = m.line ∧ (k = .data → a.data = e.data)
        (m.kind = .fwdShare → Does (.fwdShare m) s (fun t => t.mem = s.mem ∧ LineIs t m.die m.line .gs e.data ∧
          ∃ a b : Msg, t.coh.net = s.coh.net.erase m ++ [a, b] ∧ toReq a ∧ toHome .data b)) ∧
        (m.kind = .fwdOwn → Does (.fwdOwn m) s (fun t => t.mem = s.mem ∧ getLine t m.die m.line = none ∧
          ∃ a b : Msg, t.coh.net = s.coh.net.erase m ++ [a, b] ∧ toReq a ∧ toHome .ack b)) ∧
        (m.kind = .fwdRecall → Does (.fwdRecall m) s (fun t => t.mem = s.mem ∧ getLine t m.die m.line = none ∧ ∃ b : Msg, t.coh.net = s.coh.net.erase m ++ [b] ∧ toHome .data b)) ∧
        (m.kind = .fwdDrop → Does (.fwdDrop m) s (fun t => t.mem = s.mem ∧ getLine t m.die m.line = none ∧ ∃ b : Msg, t.coh.net = s.coh.net.erase m ++ [b] ∧ toHome .ack b))) ∧
      (m.kind = .inv →
        (∀ c : Nat, m.req = .core c → Does (.inv m) s (fun t => (getCore t c).l1.get m.line = none ∧ t.mem = s.mem ∧ t.coh.net = s.coh.net.erase m ++ [{ m with kind := .ack, op := 1 }] ∧
          (getCore t c).groups = (getCore s c).groups ∧ ∀ d, d ≠ c → getCore t d = getCore s d)) ∧
        (∀ (d sl : Nat) (e : SEntry), m.req = .guest d sl → getLine s d m.line = some e → e.st = .gs → e.sharers = 0 → invOut s d m.line = false →
          Does (.inv m) s (fun t => getLine t d m.line = none ∧ t.mem = s.mem ∧ t.coh.net = s.coh.net.erase m ++ [{ m with kind := .ack, op := 1 }]))))

/-- Answers, refusals and epochs (R82, R110, R183, R192, R195-R197, R199, R205, R206, R208, R214, R463): data and results reach the registers that wait for them and end the operation; an acknowledgement ends a store, and at the home the last one
applies the write; NACK starts a wait whose length is bounded, after which the request is sent again; TICKET holds it until GO; PUTACK frees the victim buffer; FENCED faults; an EPOCH advances the far tag's epoch in the slices that it reaches, at the end of its
range after a sweep; streams end; a slice's scrub logs what it finds. -/
def Obligations.AnswersAndEpochs : Prop :=
  ∀ (s : State) (m : Msg),
    (Arrived s m →
      (∀ (c : Nat) (o : OutOp) (p : Part), m.req = .core c → m.op = 0 → (getCore s c).outs.find? (fun q => q.id = m.id) = some o → o.parts = [p] → p.addr / 64 = m.line → p.thread < 32 →
        let g : Grp := { core := c, pipe := o.pipe, slot := o.slot }
        let Ends : State → Prop := fun t => t.mem = s.mem ∧ t.flds = s.flds ∧ t.coh.net = s.coh.net.erase m ∧ ∀ q ∈ (getCore t c).outs, q.id ≠ m.id
        let Gives : BitVec 8 → Nat → State → Prop := fun d v t => Ends t ∧ ∀ x, getGroup s g = some x → ∃ y : Group, getGroup t g = some y ∧ y.xreg d.toNat p.thread = v ∧
          (∀ r k, k < 32 → (r ≠ d.toNat ∨ k ≠ p.thread) → y.xreg r k = x.xreg r k) ∧ y.us = x.us ∧ y.preds = x.preds ∧ y.arith = x.arith
        (∀ d : BitVec 8, m.kind = .data → m.flags = 0 → o.kind = .load d false false → p.size = 4 → d.toNat < 0x80 → coreType c ≠ 3 →
          Does (.data m) s (fun t => Gives d (lineNat m.data (p.addr % 64) 4) t ∧
            (o.install = true → isLocal s m.line = true → m.line ∉ o.noFill → (getCore t c).l1.get m.line = some m.data))) ∧
        (∀ d : BitVec 8, m.kind = .atomResult → m.flags = 0 → o.kind = .atom d → p.thread = m.thread → p.size = 4 → d.toNat < 0x80 → coreType c ≠ 3 →
          Does (.atomicResult m) s (Gives d (m.data.toNat % 2 ^ 32))) ∧
        (m.kind = .ack → o.kind = .write → p.size = 64 → Does (.ack m) s (fun t => Ends t ∧ (getCore t c).groups = (getCore s c).groups)) ∧
        (∀ n, m.kind = .fenced → o.kind = .write → (getCore s c).ctx = some n → Does (.fencedRsp m) s (fun t => Ends t ∧ (getCore t c).halted = true ∧
          ∃ r : FaultRec, t.sched.faults = s.sched.faults ++ [r] ∧ r.ctx = n ∧ r.code = 0x0206 ∧ r.addr = some p.addr))) ∧
      (∀ x : Txn, m.op = 1 → getBusy s m.die m.line = some x → x.msg.die = m.die → x.msg.line = m.line → x.waiting = [] → x.step = 0 → s.coh.pendInv = [] →
        s.coh.tickets.get (lkey m.die m.line) = none →
        (m.kind = .ack → 2 ≤ x.acks → x.needData = false → Does (.ack m) s (fun t => t.mem = s.mem ∧ t.coh.net = s.coh.net.erase m ∧ ∃ y : Txn, getBusy t m.die m.line = some y ∧ y.acks = x.acks - 1)) ∧
        (∀ e : SEntry, m.kind = .ack → x.acks = 1 → x.needData = false → x.data = none → x.bad = false → x.msg.kind = .wr → getLine s m.die m.line = some e →
          Does (.ack m) s (fun t => t.mem = s.mem ∧ getBusy t m.die m.line = none ∧ LineIs t m.die m.line .hd (mergeLine e.data x.msg.data x.msg.mask) ∧
            ∃ a : Msg, t.coh.net = s.coh.net.erase m ++ [a] ∧ a.kind = .ack ∧ a.req = x.msg.req ∧ a.id = x.msg.id)) ∧
        (m.kind = .data → m.flags = 0 → x.acks = 0 → x.needData = true → x.msg.kind = .gets → getsAlloc x.msg = true → getLine s m.die m.line = none →
          Does (.data m) s (fun t => t.mem = s.mem ∧ getBusy t m.die m.line = none ∧ LineIs t m.die m.line .hc m.data ∧
            ∃ a ∈ t.coh.net, a.kind = .data ∧ a.req = x.msg.req ∧ a.id = x.msg.id ∧ a.data = m.data))) ∧
      (∀ r : Refused, refusedOf s m = some r →
        (m.kind = .nack → let w := min (16 * 2 ^ (r.msg.tries - 1)) 1024
          Does (.nack m) s (fun t => t.coh.net = s.coh.net.erase m ∧ t.mem = s.mem ∧ ∃ q ∈ t.coh.refused, q.msg = r.msg ∧ q.armed = true ∧
            cycles s (agentHalf r.msg.req) + w ≤ q.ready ∧ q.ready ≤ cycles s (agentHalf r.msg.req) + w + 15)) ∧
        (m.kind = .ticket → Does (.ticket m) s (fun t => t.coh.net = s.coh.net.erase m ∧ t.mem = s.mem ∧ ∃ q ∈ t.coh.refused, q.msg = r.msg ∧ q.ticket = true ∧ q.armed = true))) ∧
      (∀ r : Refused, m.kind = .go → s.coh.refused = [r] → r.ticket = true → r.msg.req = m.req → r.msg.line = m.line → r.msg.id = m.id → r.msg.die = m.die →
        Does (.go m) s (fun t => t.coh.refused = [] ∧ t.coh.net = s.coh.net.erase m ++ [r.msg] ∧ t.mem = s.mem)) ∧
      (∀ d sl : Nat, m.kind = .putack → m.req = .guest d sl → s.coh.tickets.get (lkey d m.line) = none → Does (.putack m) s (fun t => t.coh.victims.get (lkey d m.line) = none ∧ t.coh.net = s.coh.net.erase m ∧ t = { s with coh := t.coh } ∧
        t.coh.lines = s.coh.lines))) ∧
    (∀ r : Refused, s.coh.refused = [r] → r.msg = m → r.armed = true → r.ticket = false →
      (r.ready ≤ cycles s (agentHalf m.req) → Does (.nackRetry m) s (fun t => t.coh.refused = [] ∧ t.coh.net = s.coh.net ++ [m] ∧ t = { s with coh := t.coh })) ∧
      (cycles s (agentHalf m.req) < r.ready → Does (.nackRetry m) s (fun t => t = s))) ∧
    (∀ (e : EpochAt) (left : List Nat), s.coh.advances.find? (fun a => a.1 = e.tag) = some (e.tag, left) → e.slices ≠ [] → e.slices.Nodup →
      (∀ k ∈ e.slices, k ∈ left ∧ (k, e.tag) ∉ s.coh.sweeps) →
      let at_ := fun (t : State) (k : Nat) => t.coh.epochs.getD (k * 256 + e.tag) 0
      ((∀ k ∈ e.slices, at_ s k < 0xFFFF) → Does (.epoch e) s (fun t => (∀ k ∈ e.slices, at_ t k = at_ s k + 1) ∧
        ((∀ k ∈ left, k ∈ e.slices) → ∀ a ∈ t.coh.advances, a.1 ≠ e.tag) ∧ t.coh.lines = s.coh.lines ∧ t.mem = s.mem ∧ t.flds = s.flds)) ∧
      ((∀ k ∈ e.slices, 0xFFFF ≤ at_ s k) → Does (.epoch e) s (fun t => (∀ k ∈ e.slices, (k, e.tag) ∈ t.coh.sweeps) ∧ t = { s with coh := t.coh }))) ∧
    (∀ e : EpochAt, e.slices ≠ [] → (∀ k ∈ e.slices, (k, e.tag) ∈ s.coh.sweeps) → Does (.epochSweepDone e) s (fun t =>
      (∀ k ∈ e.slices, t.coh.epochs.getD (k * 256 + e.tag) 0 = 0 ∧ (k, e.tag) ∉ t.coh.sweeps) ∧
      (∀ x ∈ t.coh.lines, ¬(x.2.st = .far ∧ x.2.tag = e.tag ∧ x.1 / 2 ^ 46 * 96 + sliceOf (x.1 % 2 ^ 46) ∈ e.slices)) ∧
      FldFrame s t [.TH_EPOCH_SWEEP_COUNT] ∧ t.mem = s.mem)) ∧
    (∀ (die slice range : Nat) (a : Agent), Does (.streamTimeout die slice a range) s (fun t => t = { s with coh := { s.coh with streams := t.coh.streams } } ∧
      ∀ u ∈ t.coh.streams.getD (die * 96 + slice) [], u ∈ s.coh.streams.getD (die * 96 + slice) [] ∧
        ¬(u.agent = a ∧ u.range = range ∧ u.stamp + 4096 ≤ cycles s (sliceHalf die slice)))) ∧
    (∀ (die line : Nat) (e : SEntry), getLine s die line = some e →
      Does (.thatchScrub die (sliceOf line) line .ok) s (fun t => t = s) ∧
      (e.st = .hd ∨ e.st = .gm ∨ e.st = .part → Does (.thatchScrub die (sliceOf line) line .uncorrectable) s (fun t =>
        (∃ x : SEntry, getLine t die line = some x ∧ x = { e with bad := true }) ∧ rd t .RL_ERR_HEAD_COUNT = (rd s .RL_ERR_HEAD_COUNT + 1) % 2 ^ Fld.RL_ERR_HEAD_COUNT.spec.w ∧
        FldFrame s t [.RL_ERR_HEAD_COUNT, .RL_ERR_HEAD_WRAPPED] ∧ t.mem = s.mem)) ∧
      (s.rel.corr.get (unitSlice die (sliceOf line)) = none → Does (.thatchScrub die (sliceOf line) line (.corrected 0)) s (fun t =>
        getLine t die line = some e ∧ rd t .RL_ERR_HEAD_COUNT = (rd s .RL_ERR_HEAD_COUNT + 1) % 2 ^ Fld.RL_ERR_HEAD_COUNT.spec.w ∧ t.mem = s.mem ∧
        ∃ r : ErrRec, t.rel.log.get (rd s .RL_ERR_HEAD_COUNT % 1024) = some r ∧ r.sev = 1 ∧ r.code = 0x0201 ∧ r.count = 1)))

/-- The deck as slices and walkers use it (R223, R225, R228-R230, R237, R238, R490-R493): a read answers the line with any write-combining bytes merged, when the channel serves its class (log 154, DESIGN CHOICE), and a read that allocates raises the
page's residency; an uncorrectable line and data poison are said in the answer; a write-back puts the line into the arrays, clears a mark, and lowers residency or is acknowledged; a
write-combining entry goes into the arrays after 2 µs, as a NORM request, and one of less than a line meets what the check of its read finds (R254); a walk's leaf enters its requester's cache, a deferred entry waits for the agent, and a fault is its requester's, an engine's one of its descriptor (R246); a first touch maps a
free page and lets all who wait walk again, or faults all when there is none; a page may be retired on request. -/
def Obligations.DeckAccess : Prop :=
  (∀ (s : State) (m : Msg), m ∈ s.coh.net →
    let loc := locLine m.line
    let page := pageOf (loc * 64)
    let ch := chanOf (loc * 64)
    (m.kind = .deckRead → (∀ w ∈ s.coh.net, w.kind = .writeBack → w.line ≠ m.line) → (∀ h, h = 1 ∨ h = 2 → serves s ch (readClass m) h = true) →
      let Ans : Nat → State → Prop := fun fl t => t.mem = s.mem ∧ (m.flags % 2 = 1 → resOf t page = (resOf s page + 1) % 2048) ∧ (m.flags % 2 = 0 → resOf t page = resOf s page) ∧
        ∃ a : Msg, t.coh.net = s.coh.net.erase m ++ [a] ∧ a.kind = .data ∧ a.op = 1 ∧ a.req = m.req ∧ a.id = m.id ∧ a.die = m.die ∧ a.slice = m.slice ∧ a.line = m.line ∧
          a.flags = fl ∧ a.data = deckLine s loc
      (getMark s loc = none →
        Does (.deckRead m .ok) s (fun t => Ans 0 t ∧ t.flds = s.flds ∧ t.cores = s.cores) ∧
        (∀ lane, Does (.deckRead m (.corrected lane)) s (fun t => Ans 0 t ∧ rd t .DK_CHAN_STATUS_CORR ch = min (rd s .DK_CHAN_STATUS_CORR ch + 1) 65535)) ∧
        Does (.deckRead m .uncorrectable) s (fun t => Ans 1 t ∧ getMark t loc = some .bad ∧ rd t .DK_CHAN_STATUS_UNCORR ch = min (rd s .DK_CHAN_STATUS_UNCORR ch + 1) 255)) ∧
      (∀ n, getMark s loc = some (.strip n) → Does (.deckRead m .ok) s (fun t => Ans 0 t ∧ rd t .DK_ECC_MARKED (ch / 512) = min (rd s .DK_ECC_MARKED (ch / 512) + 1) 65535)) ∧
      (getMark s loc = some .poison → Does (.deckRead m .ok) s (fun t => Ans 1 t ∧ rd t .DK_ECC_MARKED (ch / 512) = min (rd s .DK_ECC_MARKED (ch / 512) + 1) 65535))) ∧
    (m.kind = .writeBack → serves s ch .norm = true → Does (.writeBack m) s (fun t => memLine t.mem loc = m.data ∧ (∀ a, (a < loc * 64 ∨ loc * 64 + 64 ≤ a) → readByte t.mem a = readByte s.mem a) ∧
      getWcb t loc = none ∧ getMark t loc = (if m.flags % 2 = 1 then some .poison else none) ∧ t.flds = s.flds ∧ t.cores = s.cores ∧
      (m.flags / 2 % 2 = 0 → resOf t page = (resOf s page - 1) % 2048) ∧ (m.flags / 2 % 2 = 1 → resOf t page = resOf s page) ∧ (m.flags / 2 = 0 → t.coh.net = s.coh.net.erase m) ∧
      (m.flags / 2 ≠ 0 → ∃ a : Msg, t.coh.net = s.coh.net.erase m ++ [a] ∧ a.kind = .ack ∧ a.op = 1 ∧ a.req = m.req ∧ a.id = m.id ∧ a.line = m.line))) ∧
    (m.kind = .residencyNote → Does (.residencyNote m) s (fun t => t.coh.net = s.coh.net.erase m ∧ resOf t page = (resOf s page - 1) % 2048 ∧ (∀ p, p ≠ page → resOf t p = resOf s p) ∧
      t = { s with coh := t.coh, deck := t.deck } ∧ t.coh.lines = s.coh.lines))) ∧
  (∀ (s : State) (line : Nat) (w : Wcb), getWcb s line = some w →
    let goes := serves s (chanOf (line * 64)) .norm (if w.mask = BitVec.allOnes 64 then 2 else 4)
    (w.since + 2000 ≤ s.now → goes = true → getMark s line = none → Does (.wcbTimeout (chanOf (line * 64)) ⟨line, .ok⟩) s (fun t => memLine t.mem line = mergeLine (memLine s.mem line) w.data w.mask ∧ getWcb t line = none ∧
      (∀ a, (a < line * 64 ∨ line * 64 + 64 ≤ a) → readByte t.mem a = readByte s.mem a) ∧ t = { s with mem := t.mem, deck := t.deck })) ∧
    (w.since + 2000 ≤ s.now → goes = true → getMark s line = none → w.mask ≠ BitVec.allOnes 64 →
      Does (.wcbTimeout (chanOf (line * 64)) ⟨line, .uncorrectable⟩) s (fun t => getWcb t line = none ∧ getMark t line ≠ none ∧
        rd t .DK_CHAN_STATUS_UNCORR (chanOf (line * 64)) = min (rd s .DK_CHAN_STATUS_UNCORR (chanOf (line * 64)) + 1) 255)) ∧
    (s.now < w.since + 2000 ∨ goes = false → ∀ out, Does (.wcbTimeout (chanOf (line * 64)) ⟨line, out⟩) s (fun t => t = s))) ∧
  (∀ (s : State) (half ctx va : Nat) (acc : Access) (w : WalkReq) (x : Ctx),
    s.deck.walks.find? (fun w => !w.deferred && w.half = half && w.ctx = ctx && w.va = va && w.acc = acc) = some w → getCtx s ctx = some x → s.deck.walkTlb.get half = none →
    let Faults : Nat → Nat → State → Prop := fun code detail t => t.mem = s.mem ∧ t.flds = s.flds ∧ t.deck.walks = s.deck.walks.erase w ∧
      ∃ r : FaultRec, t.sched.faults = s.sched.faults ++ [r] ∧ r.ctx = ctx ∧ r.code = code ∧ r.detail = detail ∧ (code ≠ 0x0206 → r.addr = some va)
    (∀ e n, walkVa s x va acc = .leaf e n →
      let leaf : TlbEntry := { ctx := ctx, va := va / 2 ^ n * 2 ^ n, log2 := n, leaf := e }
      (∀ c, w.agent = .core c → (getCore s c).ctx = some ctx → Does (.walk half ctx va acc) s (fun t => leaf ∈ (getCore t c).tlb ∧ t.deck = { s.deck with walks := s.deck.walks.erase w, walkTlb := t.deck.walkTlb } ∧
        leaf ∈ t.deck.walkTlb.getD half [] ∧
        (∀ d, d ≠ c → getCore t d = getCore s d) ∧ getCore t c = { getCore s c with tlb := (getCore t c).tlb } ∧ t = { s with cores := t.cores, deck := t.deck, freeCtr := t.freeCtr })) ∧
      (∀ ch, w.agent = .engine ch → Does (.walk half ctx va acc) s (fun t => leaf ∈ t.deck.engTlb.getD (ch / 4) [] ∧ t.deck.walks = s.deck.walks.erase w ∧ t = { s with deck := t.deck, freeCtr := t.freeCtr }))) ∧
    (∀ at_, walkVa s x va acc = .defer at_ → Does (.walk half ctx va acc) s (fun t => { w with deferred := true } ∈ t.deck.walks ∧
      t = { s with deck := { s.deck with walks := t.deck.walks, walkTlb := t.deck.walkTlb } })) ∧
    (∀ ch, w.agent = .engine ch →
      (∀ code detail, walkVa s x va acc = .fault code detail → Does (.walk half ctx va acc) s (Faults 0x0302 ch)) ∧
      (∀ at_, walkVa s x va acc = .fenced at_ → Does (.walk half ctx va acc) s (Faults 0x0206 0))) ∧
    (∀ c g, w.agent = .core c → (getCore s c).ctx = some ctx → getGroup s { core := c, pipe := w.pipe, slot := w.slot } = some g →
      (∀ code detail, walkVa s x va acc = .fault code detail → Does (.walk half ctx va acc) s (fun t => Faults code detail t ∧ (getCore t c).halted = true)))) ∧
  (∀ (s : State) (half ctx va at_ : Nat) (w : WalkReq) (x : Ctx),
    s.deck.walks.find? (fun w => w.deferred && w.half = half && w.ctx = ctx && w.va / 65536 = va / 65536) = some w → agentUp s half = true → getCtx s ctx = some x →
    (∀ c, (touchCore w.agent).1 = some c → coreLive s c = true) → walkVa s x va w.acc = .defer at_ →
    (∀ ch, touchChan s x (va / 65536) (touchCore w.agent).1 (touchCore w.agent).2 = some ch → freePages s x.inst ch ≠ [] →
      Does (.firstTouch half ctx va) s (fun t => (∃ p ∈ freePages s x.inst ch, t.deck.owner.get p = some ctx ∧ ∀ q, q ≠ p → t.deck.owner.get q = s.deck.owner.get q) ∧ t.flds = s.flds ∧ t.sched = s.sched ∧
        ∀ v ∈ t.deck.walks, v.ctx = ctx → v.va / 65536 = va / 65536 → v.deferred = false)) ∧
    (∀ ch, touchChan s x (va / 65536) (touchCore w.agent).1 (touchCore w.agent).2 = none → w.agent = .engine ch →
      Does (.firstTouch half ctx va) s (fun t => t.mem = s.mem ∧ t.flds = s.flds ∧ t.deck.owner = s.deck.owner ∧ w ∉ t.deck.walks ∧
        ∃ r ∈ t.sched.faults, r.ctx = ctx ∧ r.code = 0x0302 ∧ r.detail = ch))) ∧
  (∀ (s : State) (page : Nat), page < pages → s.deck.retired.contains page = false → (∀ p ∈ s.deck.pendingPages, p.1 ≠ page) →
    (pageHeld s page = true → Does (.dkRetireReq page) s (fun t => t.deck = { s.deck with pendingPages := s.deck.pendingPages ++ [(page, 4)] } ∧
      rd t .DK_RETIRE_COUNT_PENDING = (rd s .DK_RETIRE_COUNT_PENDING + 1) % 2 ^ 16 ∧ FldFrame s t [.DK_RETIRE_COUNT_PENDING, .RL_ERR_HEAD_COUNT, .RL_ERR_HEAD_WRAPPED] ∧ t.mem = s.mem)) ∧
    (pageHeld s page = false → rd s .DK_RETIRE_COUNT_COUNT < 16384 → Does (.dkRetireReq page) s (fun t => t.deck = { s.deck with retired := s.deck.retired ++ [page] } ∧
      rd t .DK_RETIRE_COUNT_COUNT = rd s .DK_RETIRE_COUNT_COUNT + 1 ∧ rd t .DK_RETIRE_DATA_PAGE (rd s .DK_RETIRE_COUNT_COUNT) = page ∧
      rd t .DK_RETIRE_DATA_REASON (rd s .DK_RETIRE_COUNT_COUNT) = 4 ∧ FldFrame s t [.DK_RETIRE_DATA_PAGE, .DK_RETIRE_DATA_REASON, .DK_RETIRE_DATA_HOURS,
        .DK_RETIRE_COUNT_COUNT, .DK_RETIRE_COUNT_FULL] [.RL_ERR_HEAD_COUNT, .RL_ERR_HEAD_WRAPPED] ∧ t.mem = s.mem)) ∧
    (pageHeld s page = false → 16384 ≤ rd s .DK_RETIRE_COUNT_COUNT → Does (.dkRetireReq page) s (fun t => t.deck = s.deck ∧ rd t .DK_RETIRE_COUNT_FULL = 1 ∧ t.mem = s.mem)))

/-- What the deck does with time and temperature (R227, R232-R234, R237, R239): CRIT's share and its cap by the microsecond; refreshes fall due every
7.8 µs, 3.9 µs where the deck is hot, are owed up to eight and forced at the ninth, behind a hold in progress, and run ahead in a window, each a hold of 280 ns (log 155, DESIGN CHOICE: which command begins and which ends it), an owed one outside a window as a BACK request; the quadrant's hottest sensor sets the interval at 85 °C, the ceiling at 90 °C,
a stop of matrix issue at 95 °C and, after 100 µs at 98 °C, the loss of the die; patrol scrub reads line after line when it is due (log 156, DEDUCED). -/
def Obligations.DeckUpkeep : Prop :=
  ∀ s : State,
    (∀ ch : Nat, let c := getChan s ch
      (s.now < c.critStart + 1000 → Does (.critWindow ch) s (fun t => t = s)) ∧
      (c.critStart + 1000 ≤ s.now → Does (.critWindow ch) s (fun t => rd t .DK_CHAN_STATUS_CRIT_PCT ch = c.critHalf / 20 % 128 ∧
        getChan t ch = { c with critHalf := 0, critStart := s.now / 1000 * 1000, refNs := (getChan t ch).refNs } ∧ (∀ d, d ≠ ch → getChan t d = getChan s d) ∧ FldFrame s t [.DK_CHAN_STATUS_CRIT_PCT] ∧
        t = { s with deck := t.deck, flds := t.flds }))) ∧
    (∀ ch < 2048, refreshed s (ch / 512) = true → let c := getChan s ch
      let Only : List Fld → State → Prop := fun l t => FldFrame s t l ∧ t.mem = s.mem ∧ ∀ d, d ≠ ch → getChan t d = getChan s d
      (s.now < c.refDue + (if flag s .DK_CHAN_STATUS_HOT ch then 3900 else 7800) → Does (.refreshDue ch) s (fun t => t = s)) ∧
      (c.refDue + (if flag s .DK_CHAN_STATUS_HOT ch then 3900 else 7800) ≤ s.now →
        (rd s .DK_CHAN_STATUS_AHEAD ch ≠ 0 → Does (.refreshDue ch) s (fun t => rd t .DK_CHAN_STATUS_AHEAD ch = (rd s .DK_CHAN_STATUS_AHEAD ch - 1) % 16 ∧
          (∀ d < 2048, d ≠ ch → rd t .DK_CHAN_STATUS_AHEAD d = rd s .DK_CHAN_STATUS_AHEAD d) ∧ Only [.DK_CHAN_STATUS_AHEAD] t)) ∧
        (rd s .DK_CHAN_STATUS_AHEAD ch = 0 → rd s .DK_CHAN_STATUS_OWED ch < 8 → Does (.refreshDue ch) s (fun t => rd t .DK_CHAN_STATUS_OWED ch = rd s .DK_CHAN_STATUS_OWED ch + 1 ∧
          (∀ d < 2048, d ≠ ch → rd t .DK_CHAN_STATUS_OWED d = rd s .DK_CHAN_STATUS_OWED d) ∧ Only [.DK_CHAN_STATUS_OWED] t)) ∧
        (rd s .DK_CHAN_STATUS_AHEAD ch = 0 → 8 ≤ rd s .DK_CHAN_STATUS_OWED ch → Does (.refreshDue ch) s (fun t => Only [] t ∧
          (c.refBusy = none → (getChan t ch).refBusy = some s.now) ∧ (c.refBusy ≠ none → (getChan t ch).refBusy = c.refBusy ∧ (getChan t ch).forced = true)))) ∧
      (∀ b, c.refBusy = some b →
        (b + 280 ≤ s.now → Does (.refreshDone ch) s (fun t => (getChan t ch).refBusy = none ∧
          (c.refKind = 1 → rd t .DK_CHAN_STATUS_OWED ch = (rd s .DK_CHAN_STATUS_OWED ch - 1) % 16 ∧ (∀ d < 2048, d ≠ ch → rd t .DK_CHAN_STATUS_OWED d = rd s .DK_CHAN_STATUS_OWED d) ∧
            Only [.DK_CHAN_STATUS_OWED] t) ∧
          (c.refKind = 2 → rd t .DK_CHAN_STATUS_AHEAD ch = min 8 (rd s .DK_CHAN_STATUS_AHEAD ch + 1) ∧
            (∀ d < 2048, d ≠ ch → rd t .DK_CHAN_STATUS_AHEAD d = rd s .DK_CHAN_STATUS_AHEAD d) ∧ Only [.DK_CHAN_STATUS_AHEAD] t) ∧
          (c.refKind = 0 → Only [] t) ∧
          ∀ w, s.deck.wins.get (chanHalf ch) = some w → (t.deck.wins.get (chanHalf ch) = none ↔ windowDone t (chanHalf ch) = true))) ∧
        (s.now < b + 280 → Does (.refreshDone ch) s (fun t => t = s))) ∧
      (c.refBusy = none →
        let win := (s.deck.wins.get (chanHalf ch)).isSome
        let turn := win = true ∧ c.critTurn = true ∧ critQueued s ch = true
        let Begins : Nat → State → Prop := fun k t => (getChan t ch).refBusy = some s.now ∧ (getChan t ch).refKind = k ∧ Only [] t
        (c.forced = true → Does (.refreshDone ch) s (Begins 0)) ∧
        (c.forced = false →
          (turn → Does (.refreshDone ch) s (fun t => t = s)) ∧
          (¬turn → rd s .DK_CHAN_STATUS_OWED ch ≠ 0 → win = true ∨ serves s ch .back = true → Does (.refreshDone ch) s (Begins 1)) ∧
          (win = false → rd s .DK_CHAN_STATUS_OWED ch = 0 ∨ serves s ch .back = false → Does (.refreshDone ch) s (fun t => t = s)) ∧
          (¬turn → rd s .DK_CHAN_STATUS_OWED ch = 0 → win = true → rd s .DK_CHAN_STATUS_AHEAD ch < 8 → Does (.refreshDone ch) s (Begins 2))))) ∧
    (∀ (half : Nat) (w : RefWin), s.deck.wins.get half = some w →
      (w.until_ ≤ s.now → Does (.refreshWindowExpiry half) s (fun t => t.deck.wins.get half = none ∧ (∀ h, h ≠ half → t.deck.wins.get h = s.deck.wins.get h) ∧
        t = { s with deck := { s.deck with wins := t.deck.wins } })) ∧
      (s.now < w.until_ → Does (.refreshWindowExpiry half) s (fun t => t = s))) ∧
    (∀ die quad layer temp : Nat, die < 4 → quad < 16 → layer < 4 →
      let k := quadKey die quad
      let q := s.deck.quads.getD k 0
      Does (.deckTempChange die quad layer temp) s (fun t => let T := quadTemp t die quad
        t.deck.temps.getD (k * 4 + layer) 0 = temp ∧ (∀ j, j ≠ k * 4 + layer → t.deck.temps.getD j 0 = s.deck.temps.getD j 0) ∧
        (∀ c ∈ quadChans die quad, flag t .DK_CHAN_STATUS_HOT c = if tb q 0 then decide (83 < T) else decide (86 ≤ T)) ∧
        (98 ≤ T → s.deck.hotSince.get k = none → t.deck.hotSince.get k = some s.now) ∧ (T < 98 → t.deck.hotSince.get k = none) ∧
        (tb q 1 = false → 90 ≤ T → flag t .DK_TEMP_CEIL90 die = true ∧
          (flag s .DK_TEMP_CEIL90 die = false → rd t .PW_DIE_STATUS_THERM_CEIL die = (rd s .PW_DIE_STATUS_CODE die - 2) % 64)) ∧
        (tb q 2 = false → 95 ≤ T → flag t .DK_TEMP_STOP95 die = true ∧ (flag s .DK_TEMP_STOP95 die = false → ∀ c, coreDie c = die → ∀ e x, (getCore t c).engines.get e = some x → x.warm = false)) ∧
        FldFrame s t [.DK_CHAN_STATUS_HOT, .DK_TEMP_LAYER, .DK_TEMP_MAX, .DK_TEMP_HOT85, .DK_TEMP_CEIL90, .DK_TEMP_STOP95, .PW_DIE_STATUS_THERM_CEIL] powFlds ∧ t.mem = s.mem)) ∧
    (∀ die quad b : Nat, dieRuns s die = true → quad < 16 → s.deck.hotSince.get (quadKey die quad) = some b →
      (b + 100000 ≤ s.now → Does (.thermalTrip die quad) s (fun t => die ∈ t.die.down ∧ tb (rd t .PS_STATUS_DIE_DOWN) die = true)) ∧
      (s.now < b + 100000 → Does (.thermalTrip die quad) s (fun t => t = s))) ∧
    (flag s .DK_SCRUB_CTRL_EN = false → ∀ o, Does (.patrolScrubRead o) s (fun t => t = s)) ∧
    (flag s .DK_SCRUB_CTRL_EN = true → rd s .PS_STATUS_STATE = 1 ∨ rd s .PS_STATUS_STATE = 2 → scrubDue s ≤ s.boot.runNs →
      serves s (chanOf (rd s .DK_SCRUB_STATUS_PAGE * 65536)) .back = true →
      let loc := rd s .DK_SCRUB_STATUS_PAGE * 1024 + s.deck.scrubbed
      getMark s loc = none →
      (s.deck.scrubbed < 1023 → Does (.patrolScrubRead .ok) s (fun t => t = { s with deck := t.deck } ∧ t.deck.scrubbed = s.deck.scrubbed + 1 ∧ t.deck.marks = s.deck.marks) ∧
        Does (.patrolScrubRead .uncorrectable) s (fun t => getMark t loc = some .bad ∧ t.deck.scrubbed = s.deck.scrubbed + 1 ∧ t.mem = s.mem ∧
          rd t .DK_CHAN_STATUS_UNCORR (chanOf (loc * 64)) = min (rd s .DK_CHAN_STATUS_UNCORR (chanOf (loc * 64)) + 1) 255)) ∧
      (s.deck.scrubbed = 1023 → rd s .DK_SCRUB_STATUS_PAGE < 6291455 → Does (.patrolScrubRead .ok) s (fun t => t.deck = { s.deck with scrubbed := 0, chans := t.deck.chans } ∧
        rd t .DK_SCRUB_STATUS_PAGE = rd s .DK_SCRUB_STATUS_PAGE + 1 ∧ FldFrame s t [.DK_SCRUB_STATUS_PAGE] ∧ t.mem = s.mem)) ∧
      (s.deck.scrubbed = 1023 → rd s .DK_SCRUB_STATUS_PAGE = 6291455 → Does (.patrolScrubRead .ok) s (fun t => t.deck = { s.deck with scrubbed := 0, chans := t.deck.chans, scrubStart := s.deck.scrubStart + rd s .DK_SCRUB_CTRL_PERIOD_H * hourNs } ∧ rd t .DK_SCRUB_STATUS_PAGE = 0 ∧
        rd t .DK_SCRUB_STATUS_PASSES = (rd s .DK_SCRUB_STATUS_PASSES + 1) % 65536 ∧ FldFrame s t [.DK_SCRUB_STATUS_PAGE, .DK_SCRUB_STATUS_PASSES] ∧ t.mem = s.mem)))

/-- Deck engines (R122, R242-R252): DESC queues the 64 bytes at a loft offset on a channel of the core's group; a descriptor that is legal and whose operands can be accessed
is worked on portion by portion (log 45, DESIGN CHOICE: what a portion is): lines that a slice may hold are asked for first, at most 64; each line is read by the engine
of its own channel, where the check may find it uncorrectable; once all are read the portion has its effect at the lead, and the last leaves the
descriptor done with its flags, skipped rows and result; a miss in the group's cache asks for a walk; an illegal one faults. COPY, FILL, ZERO and CRC32C between lofts give the bytes and the result that
they name. A done descriptor leaves the queue with its status record written, then its waymark incremented. -/
def Obligations.DeckEngines : Prop :=
  (∀ (s : State) (g : Grp) (f : RForm) (e : Env) (k : Nat), Straight e → e.ct = 1 → f.ty = 0 → PlainTail f → e.p.fences = [] → (threads e.ex).head? = some k →
    CanIssue s g f.pr f.pn e (rOps f .z .r .r .z) →
    let a := e.x.opnd e.sc 32 f.a k
    let ch := nearChan g.core + e.x.opnd e.sc 32 f.b k % 4
    (a % 64 = 0 → a + 64 ≤ loftSize g.core → sbBlocked s g.core [rng true false a 64] = false → (getChan s ch).queue.length < 16 →
      Does (.desc g f) s (fun t => RunsAt t e (e.p.pc + 8) ∧ KeepsRegs t e ∧ t.mem = s.mem ∧ t.flds = s.flds ∧ ∃ d : DDesc, (getChan t ch).queue = (getChan s ch).queue ++ [d] ∧
        d.raw = BitVec.ofNat 512 (readNat s.mem (loftAt g.core + a) 64) ∧ d.ctx = e.ctx ∧ d.core = g.core ∧ d.phase = 0 ∧ d.turnpike = false)) ∧
    (a % 64 ≠ 0 → a + 64 ≤ loftSize g.core → Does (.desc g f) s (fun t => Faulted s t e 0x0203 64)) ∧
    (loftSize g.core < a + 64 → Does (.desc g f) s (fun t => Faulted s t e 0x0204 a))) ∧
  (∀ (s : State) (ch : Nat) (d : DDesc) (rest : List DDesc) (v : Dv), AtEngine s ch d rest v →
    ∀ (out : EccOut), ∀ p ∈ (([(1, .copy), (2, .fill), (3, .zero), (4, .convert), (5, .reduce), (6, .gatherReduce), (7, .scatterAdd), (8, .topk), (9, .crc32c)] :
      List (Nat × (EngAt → Instr))).map (fun q => (q.1, q.2 ⟨ch, out⟩))),
      (¬DescOk ch d v → d.unit = 0 → v.op = p.1 ∨ v.op = 0 ∨ 9 < v.op → Does p.2 s (fun t => t.mem = s.mem ∧ t.flds = s.flds ∧
        ∃ r : FaultRec, t.sched.faults = s.sched.faults ++ [r] ∧ r.ctx = d.ctx ∧ r.code = 0x0302 ∧ r.detail = ch)) ∧
      (DescOk ch d v → v.op = p.1 →
        (∀ rows, DescClear s ch d v rows →
          (unitCount v rows = 0 → Does p.2 s (fun t => t.mem = s.mem ∧ t.flds = s.flds ∧ ∃ x : DDesc, (getChan t ch).queue = x :: rest ∧ x.raw = d.raw ∧ x.phase = 2 ∧
            x.arith = d.arith ∧ x.skipped = rows.skipped ∧ x.result = (if v.op = 9 then v.param % 2 ^ 32 else 0) ∧ x.code = if rows.skipped = 0 then 0 else 1)) ∧
          (unitCount v rows ≠ 0 →
            let w := descWork d v rows
            (∀ l ∈ descLeft s ch d v rows, l.chan ≠ ch → (getChan s l.chan).sub.length < 4 → Does p.2 s (fun t => ∃ q ∈ (getChan t l.chan).sub, q.lead = ch ∧ q.desc = d.id)) ∧
            (∀ l more, (descLeft s ch d v rows).filter (fun l => l.chan = ch) = l :: more → descAsks s ch d v rows = [] → getMark s (locLine l.line) = none →
              (out = .ok → Does p.2 s (fun t => t.mem = s.mem ∧ t.flds = s.flds ∧ ∃ x : DDesc, (getChan t ch).queue = x :: rest ∧ x.raw = d.raw ∧ x.unit = d.unit ∧
                x.phase = d.phase ∧ x.read = d.read ++ [l.line])) ∧
              (out = .uncorrectable → Does p.2 s (fun t => t.mem = s.mem ∧
                rd t .DK_CHAN_STATUS_UNCORR (chanOf (locLine l.line * 64)) = min (rd s .DK_CHAN_STATUS_UNCORR (chanOf (locLine l.line * 64)) + 1) 255 ∧
                ∃ r : FaultRec, t.sched.faults = s.sched.faults ++ [r] ∧ r.ctx = d.ctx ∧ r.code = 0x0207 ∧ r.addr = some l.va))) ∧
            (descAsks s ch d v rows = [] → descLeft s ch d v rows = [] →
              let r := descEffect s ch d.ctx v rows w d.cand
              Does p.2 s (fun t => t.mem = r.s.mem ∧ ((∀ n, getMark s n = none) → t.flds = s.flds) ∧ (∃ x : DDesc, (getChan t ch).queue = x :: rest ∧ x.raw = d.raw ∧ x.unit = w.next ∧
                x.phase = (if w.last then 2 else d.phase) ∧ x.arith = d.arith ||| r.fl ∧ x.result = r.result ∧ (w.last = true → x.skipped = rows.skipped ∧ x.code = if rows.skipped = 0 then 0 else 1)) ∧
                (v.srcLoft = true ∨ v.op = 2 ∨ v.op = 3 → v.dstLoft = true ∨ v.op = 9 →
                  let n := min 64 (v.len - 64 * d.unit)
                  let src := readBytes s.mem (loftAt (chanCore ch) + (v.src + 64 * d.unit)) n
                  let dst := loftAt (chanCore ch) + (v.dst + 64 * d.unit)
                  (v.op = 1 → descMixed v rows = false → readBytes t.mem dst n = src) ∧
                  (v.op = 2 → ∀ j < n, readByte t.mem (dst + j) = BitVec.ofNat 8 (bits v.param (8 * (j % 8)) 8)) ∧
                  (v.op = 3 → v.phys = false → ∀ j < n, readByte t.mem (dst + j) = 0) ∧
                  (v.op ≤ 3 → v.phys = false → ∀ j, (j < dst ∨ dst + n ≤ j) → readByte t.mem j = readByte s.mem j) ∧
                  (v.op = 9 → r.result = crc32c ((if d.unit = 0 then v.param else d.result) % 2 ^ 32) src ∧ t.mem = s.mem)))) ∧
            (descAsks s ch d v rows ≠ [] → descLeft s ch d v rows = [] →
              let ask := (descAsks s ch d v rows).take 64
              Does p.2 s (fun t => t.mem = s.mem ∧ t.flds = s.flds ∧ (∃ x : DDesc, (getChan t ch).queue = x :: rest ∧ x.unit = d.unit ∧ x.awaiting = ask.map (·.1)) ∧
                ∀ q ∈ ask, ∃ m ∈ t.coh.net, m.line = q.1 ∧ m.req = .engine ch ∧ m.kind = if q.2 then .claim else .clean)))) ∧
        (∀ va acc, v.runs.findSome? (runStop s ch d.ctx) = some (.wait va acc) → Does p.2 s (fun t => t.mem = s.mem ∧ t.flds = s.flds ∧ (getChan t ch).queue = d :: rest ∧
          ∃ w ∈ t.deck.walks, w.ctx = d.ctx ∧ w.va = va ∧ w.acc = acc ∧ w.agent = .engine ch)) ∧
        (∀ code addr, v.runs.findSome? (runStop s ch d.ctx) = some (.fault code addr) → Does p.2 s (fun t => t.mem = s.mem ∧ t.flds = s.flds ∧
          ∃ r : FaultRec, t.sched.faults = s.sched.faults ++ [r] ∧ r.ctx = d.ctx ∧ r.code = code ∧ r.addr = addr)))) ∧
  (∀ (s : State) (ch : Nat) (d : DDesc) (rest : List DDesc) (x : Ctx), (getChan s ch).queue = d :: rest → (∀ q ∈ rest, q.id ≠ d.id) → d.phase = 2 → d.awaiting = [] → d.reds = [] → getCtx s d.ctx = some x →
    let v := dview d.raw
    let at_ := loftAt (chanCore ch) + v.stOff
    let ev : WmEvent := { kind := .add, wm := wmIndex x (v.done % 4096), half := chanHalf ch, core := chanCore ch, count := 1 }
    let st := natLe 2 d.code ++ natLe 1 d.arith.toNat ++ natLe 1 0 ++ natLe 4 d.skipped ++ natLe 4 d.result ++ natLe 4 (mstNow s % 2 ^ 32)
    v.phys = false → (∀ e ∈ s.deck.chans, ∀ w ∈ e.2.wcb, engWriter ch ∉ w.writers) →
    let Left : State → Prop := fun t => (getChan t ch).queue = rest ∧ t.cores = s.cores ∧ (v.stEn = false → t.mem = s.mem) ∧
      (v.stEn = true → (∀ j < 16, readByte t.mem (at_ + j) = st.getD j 0) ∧ ∀ a, (a < at_ ∨ at_ + 16 ≤ a) → readByte t.mem a = readByte s.mem a)
    (tb v.done 12 = false → Does (.descComplete ch) s (fun t => Left t ∧ t.wm = s.wm ∧ t.flds = s.flds)) ∧
    (tb v.done 12 = true → CanSend s ev → Does (.descComplete ch) s (fun t => Left t ∧ Sent s t ev)))

/-- The loss, isolation, return and reset of dies and halves (R26, R27, R234, R263-R266, R273, R275, R430, R446): a router's fault, a domain's loss of power and the second half's isolation put
the die in reset, with the groups of its cores, the lines of its slices and its lofts lost and everything else in memory kept; a half alone is isolated in the same way (log 139, DESIGN CHOICE: the record's code for a half), comes back
by a handshake of the ridge of 64 periods of the slower of its two clocks, and after 20 ms takes its die with it; a reset die whose stops are sound comes back at code 0 with its class DIE fields at their defaults
and handshakes of its bridges. -/
def Obligations.DieFaults : Prop :=
  ∀ (s : State) (die : Nat), testing s = false →
    let Lost : (Nat → Bool) → State → Prop := fun h t => (∀ c, h (coreHalf c) = true → (getCore t c).groups = []) ∧
      (∀ e ∈ t.coh.lines, h (sliceHalf (e.1 / 2 ^ 46) (sliceOf (e.1 % 2 ^ 46))) = false) ∧
      (∀ a, (∀ c, h (coreHalf c) = true → a < loftAt c ∨ loftAt c + loftStride ≤ a) → readByte t.mem a = readByte s.mem a)
    let Down : State → Prop := fun t => die ∈ t.die.down ∧ tb (rd t .PS_STATUS_DIE_DOWN) die = true ∧ Lost (fun h => h / 2 = die) t
    (dieRuns s die = true →
      (∀ stop < 208, Does (.routerFault die stop) s (fun t => Down t ∧ die * 208 + stop ∈ t.die.faulted ∧
        ∃ r : ErrRec, t.rel.log.get (rd s .RL_ERR_HEAD_COUNT % 1024) = some r ∧ r.sev = 3 ∧ r.code = 0x0301 ∧ r.loc = die)) ∧
      (∀ quad < 16, Does (.domainPowerLoss die quad) s (fun t => Down t ∧ ∃ r : ErrRec, t.rel.log.get (rd s .RL_ERR_HEAD_COUNT % 1024) = some r ∧ r.sev = 3 ∧ r.code = 0x0601 ∧ r.loc = die)) ∧
      (∀ half, half / 2 = die →
        (s.die.isolated.get half = none →
          ((s.die.isolated.get (half + 1 - 2 * (half % 2))).isSome = true → Does (.halfIsolation half) s Down) ∧
          (s.die.isolated.get (half + 1 - 2 * (half % 2)) = none → Does (.halfIsolation half) s (fun t => t.die.isolated.get half = some s.now ∧ rd t .NET_RIDGE_ISOLATED die = 1 + half % 2 ∧
            rd t .NET_RIDGE_RESYNC die = 0 ∧ t.die.down = s.die.down ∧ Lost (fun h => h = half) t ∧
            ∃ r : ErrRec, t.rel.log.get (rd s .RL_ERR_HEAD_COUNT % 1024) = some r ∧ r.code = 0x0603 ∧ r.loc = half))) ∧
        (∀ b, s.die.isolated.get half = some b →
          Does (.halfReturn half) s (fun t => t.die.isolated.get half = none ∧ t.die.resync.get die = some 0 ∧ rd t .NET_RIDGE_ISOLATED die = 0 ∧ rd t .NET_RIDGE_RESYNC die = 1 ∧
            (∀ f ∈ [Fld.NET_WMX_PEND_0, .NET_WMX_PEND_1, .NET_WMX_OVR_0, .NET_WMX_OVR_1], ∀ k < 4, rd t f (4 * die + k) = 0) ∧
            FldFrame s t [.NET_WMX_PEND_0, .NET_WMX_PEND_1, .NET_WMX_OVR_0, .NET_WMX_OVR_1] [.NET_RIDGE_ISOLATED, .NET_RIDGE_RESYNC] ∧ t.mem = s.mem ∧ t.cores = s.cores) ∧
          (s.now < b + 20000000 → Does (.halfReturnTimeout half) s (fun t => t = s)) ∧
          (b + 20000000 ≤ s.now → Does (.halfReturnTimeout half) s Down)))) ∧
    (let ended := (die :: (bridgesOf die).map (8 + ·)).filter (resyncOver s);
      (ended = [] → Does (.resyncComplete die) s (fun t => t = s)) ∧
      (ended ≠ [] → s.link.waits = [] → Does (.resyncComplete die) s (fun t => (∀ k, k ∈ ended → t.die.resync.get k = none) ∧ (∀ k, k ∉ ended → t.die.resync.get k = s.die.resync.get k) ∧
        (die ∉ ended → t = { s with die := { s.die with resync := t.die.resync } }) ∧
        (die ∈ ended → rd t .NET_RIDGE_RESYNC die = 0 ∧ rd t .NET_RIDGE_RESYNCS die = min (rd s .NET_RIDGE_RESYNCS die + 1) (2 ^ Fld.NET_RIDGE_RESYNCS.spec.w - 1) ∧
          FldFrame s t [.NET_RIDGE_RESYNC, .NET_RIDGE_RESYNCS] ∧ t.mem = s.mem ∧ t.cores = s.cores)))) ∧
    (die < 4 →
      (rd s .PS_STATUS_STATE = 3 → Does (.dieReset die) s (fun t => die ∈ t.boot.dieLater ∧ t = { s with boot := { s.boot with dieLater := t.boot.dieLater } })) ∧
      (diesRun s = true → (∀ k ∈ s.die.faulted, k / 208 ≠ die) →
        Does (.dieReset die) s (fun t => die ∉ t.die.down ∧ die ∉ t.die.dead ∧ tb (rd t .PS_STATUS_DIE_DOWN) die = false ∧ (∀ b ∈ bridgesOf die, t.die.resync.get (8 + b) = some 0) ∧ rd t .PW_DIE_STATUS_CODE die = 0 ∧
          (dieRuns s die = true → Lost (fun h => h / 2 = die) t) ∧
          ∀ f ∈ [Fld.NET_RIDGE_CW_OPEN, .NET_RIDGE_FP_OPEN, .NET_RIDGE_ISOLATED, .NET_RIDGE_RESYNC, .NET_RIDGE_RESYNCS], rd t f die = f.dflt die)))

/-- Ports: training, frames, replay and lanes (R285-R292, R303, R304): what enabling, retraining, 64 good frames in a row and a failed attempt do to the
port's state; a lane that faults narrows the port or takes it down; up to fifteen symbol errors in each codeword of a frame are corrected and more blame the lanes without which there were fifteen at most;
a flit in order is taken, with the message that begins in its first slot, and one out of order, of a bad CRC or in a bad frame is dropped and asked for once more;
credits that a flit returns are held again (log 145, DEDUCED); NAK and 4 µs without an acknowledgement resend what is not acknowledged, the sixteenth time retrain; after 100 µs not UP what waits is discarded. -/
def Obligations.LinkPorts : Prop :=
  ∀ (s : State) (p : Nat), p < 8 →
    let x := getPort s p
    let st := rd s .LK_STATUS_STATE p
    let Same : List Fld → State → Prop := fun l t => FldFrame s t l ∧ t = { s with flds := t.flds, link := t.link, rel := t.rel, time := t.time } ∧ t.link.far = s.link.far ∧ ∀ q, q ≠ p → getPort t q = getPort s q
    (linksOn s = true →
      (st = 0 → Does (.linkEnable p) s (fun t => rd t .LK_CTRL_EN p = 1 ∧ rd t .LK_STATUS_STATE p = 1 ∧ rd t .LK_STATUS_FAULTY p = 0 ∧ rd t .LK_STATUS_DOWN_REASON p = 0 ∧
        (getPort t p).tries = 0 ∧ Same [.LK_CTRL_EN, .LK_STATUS_STATE, .LK_STATUS_FAULTY, .LK_STATUS_DOWN_REASON] t)) ∧
      (st ≠ 0 → Does (.linkEnable p) s (fun t => rd t .LK_CTRL_EN p = 1 ∧ Same [.LK_CTRL_EN] t)) ∧
      (flag s .LK_CTRL_EN p = true → Does (.retrain p) s (fun t => rd t .LK_STATUS_STATE p = 3 ∧ rd t .LK_STATUS_RETRAINS p = min (rd s .LK_STATUS_RETRAINS p + 1) 65535 ∧
        rd t .LK_STATUS_FAULTY p = (if flag s .LK_CTRL_FULL_WIDTH p then 0 else rd s .LK_STATUS_FAULTY p) ∧ (st = 2 → rd t .LK_TT_VALID p = 0) ∧
        Same [.LK_STATUS_STATE, .LK_STATUS_RETRAINS, .LK_STATUS_FAULTY, .LK_TT_VALID, .LK_TT_DELAY, .LK_TT_OFFSET, .MST_STATUS_LINK_OK, .MST_STATUS_SOURCE, .MST_STATUS_UNCERT] t)) ∧
      (∀ rate lanes partner gen : Nat, ∀ tt : Bool, st = 1 ∨ st = 3 → rate ≤ 2 → gen < 8 → x.egress = [] →
        let r := (trainChoice s p rate lanes gen).1
        (st = 1 ∨ x.full = true → r = max (max (rd s .LK_CTRL_MAX_RATE p) rate) (if gen < 4 then 1 else 0)) ∧ (st = 3 → x.full = false → r = rd s .LK_STATUS_RATE p) ∧
        ((trainChoice s p rate lanes gen).2 = none → Does (.linkUp p rate lanes partner tt gen) s (fun t => rd t .LK_STATUS_STATE p = 0 ∧ rd t .LK_STATUS_DOWN_REASON p = 7 ∧ t.mem = s.mem)) ∧
        (∀ width keep, (trainChoice s p rate lanes gen).2 = some (width, keep) →
          (x.clean < 64 ∨ r = 0 ∧ gen < 4 → Does (.linkUp p rate lanes partner tt gen) s (fun t => t = s)) ∧
          (64 ≤ x.clean → ¬(r = 0 ∧ gen < 4) → Does (.linkUp p rate lanes partner tt gen) s (fun t => rd t .LK_STATUS_STATE p = 2 ∧ rd t .LK_STATUS_RATE p = r ∧ rd t .LK_STATUS_WIDTH p = width ∧
            rd t .LK_STATUS_PARTNER p = partner % 4096 ∧ rd t .LK_STATUS_PARTNER_TT p = tt.toNat ∧ rd t .LK_STATUS_PARTNER_GEN p = gen ∧ rd t .LK_STATUS_DOWN_REASON p = 0 ∧ (getPort t p).notUp = none ∧
            (getPort t p).group = keep ∧ (tt = false → (getPort t p).replay = x.replay) ∧
            (tt = true → x.replay = [] → 2 ≤ x.shared → ∃ (n : Nat) (q : LMsg), (getPort t p).replay = [(n, q)] ∧ q.op = 0x63) ∧
            Same [.LK_STATUS_STATE, .LK_STATUS_RATE, .LK_STATUS_WIDTH, .LK_STATUS_PARTNER, .LK_STATUS_PARTNER_TT, .LK_STATUS_PARTNER_GEN, .LK_STATUS_DOWN_REASON,
              .RL_ERR_HEAD_COUNT, .RL_ERR_HEAD_WRAPPED] t))))) ∧
    (∀ step : Nat, st = 1 ∨ st = 3 → 1 ≤ step → step ≤ 6 → ¬(step = 1 ∧ st = 3 ∧ x.full = false) →
      (x.tries < 2 → Does (.trainFail p step) s (fun t => (getPort t p).tries = x.tries + 1 ∧ Same [] t)) ∧
      (2 ≤ x.tries → Does (.trainFail p step) s (fun t => rd t .LK_STATUS_STATE p = 0 ∧ rd t .LK_STATUS_DOWN_REASON p = step ∧ rd t .LK_STATUS_WIDTH p = 0 ∧
        Same [.LK_STATUS_STATE, .LK_STATUS_DOWN_REASON, .LK_STATUS_WIDTH, .RL_ERR_HEAD_COUNT, .RL_ERR_HEAD_WRAPPED] t))) ∧
    (∀ lane < 8, tb (rd s .LK_STATUS_FAULTY p) lane = false → st = 2 →
      let f := rd s .LK_STATUS_FAULTY p + 2 ^ lane
      let left := laneGroup (if x.full = true ∨ x.group = 0 then 255 - f % 256 else Nat.land (255 - f % 256) x.group)
      Does (.laneFault p lane) s (fun t => rd t .LK_STATUS_FAULTY p = f % 256 ∧ (left = none → rd t .LK_STATUS_STATE p = 0 ∧ rd t .LK_STATUS_DOWN_REASON p = 7) ∧
        (left ≠ none → rd t .LK_STATUS_STATE p = 3) ∧ t.mem = s.mem ∧ t.cores = s.cores)) ∧
    (∀ (w : BitVec 40) (errs : List (Nat × Nat)), errs.length = 8 →
      let a := (errs.map (·.1)).sum
      let b := (errs.map (·.2)).sum
      (a ≤ 15 → b ≤ 15 → st ≠ 0 → Does (.frameReceive p w errs [] .ok) s (fun t => getPort t p = { x with bad := List.replicate 8 0, clean := x.clean + 1 } ∧
        rd t .LK_ERR_CORR p = min (rd s .LK_ERR_CORR p + a + b) (2 ^ 32 - 1) ∧ Same [.LK_ERR_CORR] t)) ∧
      (15 < a ∨ 15 < b → st = 2 → (∀ l < 8, x.bad.getD l 0 < 15) → x.bad.length = 8 → ∀ l, Does (.frameReceive p w errs l .ok) s (fun t => (getPort t p).expect = x.expect ∧ (getPort t p).replay = x.replay ∧
        (getPort t p).nakSent = true ∧ (getPort t p).clean = 0 ∧ (∀ k < 8, (getPort t p).bad.getD k 0 = if a - (errs.getD k (0, 0)).1 ≤ 15 ∧ b - (errs.getD k (0, 0)).2 ≤ 15 then x.bad.getD k 0 + 1 else 0) ∧
        rd t .LK_ERR_UNCORR p = min (rd s .LK_ERR_UNCORR p + 1) 4095 ∧ Same [.LK_ERR_UNCORR] t)) ∧
      (∀ k l, st ≠ 0 → Does (.frameReceive p w errs l (.uncorrectable k)) s (fun t => rd t .LK_STATUS_STATE p = 3 ∧ t.mem = s.mem ∧ t.cores = s.cores)) ∧
      (∀ v : BitVec 2048, a ≤ 15 → b ≤ 15 → st = 2 →
        let f := readFlit v
        let Nak : State → Prop := fun t => (getPort t p).expect = x.expect ∧ (getPort t p).nakSent = true ∧ Same [.LK_ERR_CORR] t ∧
          (x.nakSent = false → ∃ q : TxFlit, (getPort t p).wire = x.wire ++ [q] ∧ q.kind = 2 ∧ q.seq = x.expect) ∧ (x.nakSent = true → (getPort t p).wire = x.wire)
        (f.crcOk = false → Does (.frameReceive p w errs [v] .ok) s Nak) ∧
        (f.crcOk = true → f.reserved = false →
          (f.ack = none → f.cr = [] →
            (f.kind = 2 → Does (.frameReceive p w errs [v] .ok) s (fun t => (getPort t p).nakIn = some f.seq ∧ (getPort t p).expect = x.expect ∧ Same [.LK_ERR_CORR] t)) ∧
            (f.kind = 1 → f.seq ≠ x.expect → Does (.frameReceive p w errs [v] .ok) s Nak) ∧
            (f.kind = 1 → f.seq = x.expect → x.part = [] →
              let h := f.slots.headD 0
              let l := (f.slots.drop 1).take (bits h 36 3)
              (f.start = 0 → Does (.frameReceive p w errs [v] .ok) s (fun t => (getPort t p).expect = (x.expect + 1) % 4096 ∧ (getPort t p).nakSent = false ∧ (getPort t p).inbox = x.inbox ∧ Same [.LK_ERR_CORR] t)) ∧
              (f.start = 1 → slotsOk h l = true → (msgOfSlots h l).dest = myDev s → Does (.frameReceive p w errs [v] .ok) s (fun t => (getPort t p).expect = (x.expect + 1) % 4096 ∧
                (getPort t p).inbox = x.inbox ++ [msgOfSlots h l] ∧ Same [.LK_ERR_CORR] t)) ∧
              (f.start = 1 → slotsOk h l = false → 1 ≤ bits h 0 3 → bits h 0 3 < 4 → Does (.frameReceive p w errs [v] .ok) s (fun t => (getPort t p).expect = (x.expect + 1) % 4096 ∧
                (getPort t p).inbox = x.inbox ∧ rd t .LK_ERR_MALFORMED p = min (rd s .LK_ERR_MALFORMED p + 1) 255 ∧ Same [.LK_ERR_CORR, .LK_ERR_MALFORMED] t)))) ∧
          (∀ (n : Nat) (m : LMsg) (l : List (Nat × LMsg)), f.kind = 0 → f.cr = [] → f.ack = some n → x.egress = [] → x.replay = l ++ [(n, m)] → (∀ e ∈ l, e.1 ≠ n) →
            Does (.frameReceive p w errs [v] .ok) s (fun t => (getPort t p).replay = [] ∧ (getPort t p).ackAt = s.now ∧ (getPort t p).replaysNow = 0)) ∧
          (∀ c k : Nat, f.kind = 0 → f.ack = none → f.cr = [(c, k)] → x.egress = [] → Does (.frameReceive p w errs [v] .ok) s (fun t =>
            getPort t p = { x.refund c k with bad := List.replicate 8 0, clean := x.clean + 1 } ∧ Same [.LK_ERR_CORR] t))))) ∧
    (st = 2 →
      let Resent : Nat → State → Prop := fun seq t => ((getPort t p).wire.drop x.wire.length).map (fun f => (f.seq, f.msg)) =
        (x.replay.dropWhile (fun e => e.1 ≠ seq)).map (fun e => (e.1, some e.2))
      (∀ seq : Nat,
        (x.nakIn ≠ some seq → Does (.nak p seq) s (fun t => t = s)) ∧
        (x.nakIn = some seq → (∀ e ∈ x.replay, e.1 ≠ seq % 4096) → Does (.nak p seq) s (fun t => getPort t p = { x with nakIn := none } ∧ Same [] t)) ∧
        (∀ m, x.nakIn = some seq → (seq % 4096, m) ∈ x.replay →
          (x.replaysNow < 15 → Does (.nak p seq) s (fun t => rd t .LK_ERR_REPLAYS p = min (rd s .LK_ERR_REPLAYS p + 1) 4095 ∧ (getPort t p).replaysNow = x.replaysNow + 1 ∧
            (getPort t p).replay = x.replay ∧ (getPort t p).ackAt = s.now ∧ (getPort t p).nakIn = none ∧ Resent (seq % 4096) t ∧ Same [.LK_ERR_REPLAYS] t)) ∧
          (15 ≤ x.replaysNow → Does (.nak p seq) s (fun t => rd t .LK_STATUS_STATE p = 3 ∧ (getPort t p).replay = x.replay ∧ t.mem = s.mem)))) ∧
      (x.replay ≠ [] →
        (s.now < x.ackAt + 4000 → Does (.replayTimeout p) s (fun t => t = s)) ∧
        (x.ackAt + 4000 ≤ s.now → x.replaysNow < 15 → Does (.replayTimeout p) s (fun t => rd t .LK_ERR_REPLAYS p = min (rd s .LK_ERR_REPLAYS p + 1) 4095 ∧
          (getPort t p).replaysNow = x.replaysNow + 1 ∧ (getPort t p).replay = x.replay ∧ (∀ e, x.replay.head? = some e → Resent e.1 t) ∧ Same [.LK_ERR_REPLAYS] t))) ∧
      (x.heads = [] → x.lastAckSent + 100 ≤ s.now → Does (.idleAck p) s (fun t => getPort t p = x.emit s.now 0 0 none ∧ Same [] t))) ∧
    (portDiscards s p = true → Does (.egressDiscard p) s (fun t => (getPort t p).egress = [] ∧ (getPort t p).replay = [] ∧ t.mem = s.mem ∧ (s.link.waits = [] → FldFrame s t [.TH_TICKET_WAIT_MAX_COUNT]))) ∧
    (portDiscards s p = false → Does (.egressDiscard p) s (fun t => t = s))

/-- Requests and answers on the links, management and time transfer (R289, R293, R294, R296-R301, R304, R369, R485, R488): what has arrived at a port and is for another device goes on by
this device's table, on the sub-channel of R295 (log 145, DEDUCED: the port's dimension), or is answered ERROR; a request for a line here becomes a coherence request at its home, or is answered FENCED; a loft window is read and written at once.
An answer ends its request, a stale one is counted and dropped. MGMT reads and writes what the enables allow, and is answered on its port. Time transfer answers with its stamps and, 125 µs
after the last, averages delay and offset and asks again (log 108, DESIGN CHOICE: which row does what). A command whose message has not arrived does nothing; the slots of what has been dealt with go free (R292). -/
def Obligations.LinkRequests : Prop :=
  ∀ (s : State) (p : Nat), p < 8 → portUp s p = true →
    (∀ (r : LinkReq) (rest : List LMsg), ∀ q ∈ ([(.gets, .linkRead p r), (.wr, .linkWr p r), (.atom, .linkAtom p r), (.red, .linkRed p r), (.strip, .linkStrip p r)] : List (MsgKind × Instr)),
      let q0 := reqMsg q.1 r (myDev s)
      let F := freeSlots (setPort s p { getPort s p with inbox := rest }) p q0
      let Ans : Nat → Line → State → Prop := fun op d t => t.link = (linkSend F { op := op, dest := r.src, src := myDev s, tag := r.tag, gen := r.gen, data := d }).2.link
      let Only : Nat → State → Prop := fun op t => Ans op 0 t ∧ t = { s with link := t.link }
      let loc := locOf r.addr
      let c := (loc - loftBase) / loftStride
      let size := if q.1 = .atom then atomBytes r.ty else r.size
      let old := memLine s.mem (loc / 64)
      (q0 ∉ (getPort s p).inbox → Does q.2 s (fun t => t = s)) ∧
      ((getPort s p).inbox = q0 :: rest →
        (devOf r.addr ≠ myDev s ∨ rd s .PS_STATUS_STATE = 3 → Does q.2 s (Only 0x23)) ∧
        (devOf r.addr = myDev s → rd s .PS_STATUS_STATE ≠ 3 →
            (loc < deckBytes → dieUp s (homeDie (r.addr / 64)) = false → Does q.2 s (Only 0x22)) ∧
            (loc < deckBytes → dieUp s (homeDie (r.addr / 64)) = true → Does q.2 s (fun t =>
              t = { s with coh := { s.coh with net := t.coh.net }, link := { s.link with ports := t.link.ports, nextIn := s.link.nextIn + 1, inReqs := t.link.inReqs } } ∧
              getPort t p = { getPort s p with inbox := rest } ∧
              (∃ i : InReq, t.link.inReqs = s.link.inReqs ++ [i] ∧ i.port = p ∧ i.id = s.link.nextIn ∧ i.r = { r with size := size }) ∧
              ∃ m : Msg, t.coh.net = s.coh.net ++ [m] ∧ m.kind = (if q.1 = .red ∧ r.merge = true then .redw else q.1) ∧ m.req = .port p ∧ m.id = s.link.nextIn ∧ m.line = r.addr / 64 ∧
                m.die = homeDie (r.addr / 64) ∧ m.slice = sliceOf (r.addr / 64) ∧ m.data = r.data ∧ m.ty = r.ty)) ∧
            (deckBytes ≤ loc → isLoft s r.addr = true →
              (dieUp s (coreDie c) = false ∨ coreLive s c = false → Does q.2 s (Only 0x22)) ∧
              (dieUp s (coreDie c) = true → coreLive s c = true →
                (loftSize c ≤ (loc - loftBase) % loftStride → Does q.2 s (Only 0x23)) ∧
                ((loc - loftBase) % loftStride < loftSize c →
                  let Wrote : Line → State → Prop := fun l t => memLine t.mem (loc / 64) = l ∧ (∀ a, (a < loc / 64 * 64 ∨ loc / 64 * 64 + 64 ≤ a) → readByte t.mem a = readByte s.mem a) ∧ Ans 0x20 0 t ∧ t.flds = s.flds
                  (q.1 = .gets → r.size ≠ 16 → Does q.2 s (fun t => Ans 0x40 old t ∧ t = { s with link := t.link })) ∧
                  (q.1 = .gets → r.size = 16 → Does q.2 s (fun t => Ans 0x41 (BitVec.ofNat 512 (readNat s.mem (loc / 16 * 16) 16)) t ∧ t = { s with link := t.link })) ∧
                  (q.1 = .wr → r.mask ≠ 0 → Does q.2 s (Wrote (mergeLine old r.data r.mask))) ∧
                  (q.1 = .red → r.mask ≠ 0 → Does q.2 s (Wrote (redElems r.op r.ty r.mask old r.data))) ∧
                  (q.1 = .atom → let v := readNat s.mem loc size
                    Does q.2 s (fun t => t.mem = writeNat s.mem loc size (aopWord r.op r.ty size v (bits r.data.toNat 0 (8 * size)) (bits r.data.toNat 64 (8 * size))) ∧
                      Ans 0x21 (BitVec.ofNat 512 v) t ∧ t.flds = s.flds)) ∧
                  (q.1 = .strip → Does q.2 s (Only 0x20)))))))) ∧
    (∀ (w : BitVec 40) (v : BitVec 2048), let f := readFlit v
      let h := f.slots.headD 0
      let l := (f.slots.drop 1).take (bits h 36 3)
      let m := msgOfSlots h l
      f.crcOk = true → f.reserved = false → f.ack = none → f.cr = [] → f.kind = 1 → f.seq = (getPort s p).expect → (getPort s p).part = [] → f.start = 1 → slotsOk h l = true →
        m.dest ≠ myDev s → ¬(0x61 ≤ m.op ∧ m.op ≤ 0x64) →
      let Frame : Instr := .frameReceive p w (List.replicate 8 (0, 0)) [v] .ok
      let Idle : Nat → Prop := fun k => k ≠ p ∧ portUp s k = true ∧ (getPort s k).egress = [] ∧ (getPort s k).replay = []
      (let k := rd s .LK_ROUTE_DATA_PORT m.dest;
        flag s .LK_ROUTE_DATA_VALID m.dest = true → Idle k → m.slots ≤ (getPort s k).shared → Does Frame s (fun t => (getPort t p).inbox = (getPort s p).inbox ∧ t.coh = s.coh ∧ t.mem = s.mem ∧
          ∃ n : Nat, (getPort t k).replay = [(n, { m with sub := if flag s .LK_CTRL_DATELINE k = true then 1 else transitSub s p m.sub m.dest })])) ∧
      (let k := rd s .LK_ROUTE_DATA_PORT m.src;
        flag s .LK_ROUTE_DATA_VALID m.dest = false → asks m = true → flag s .LK_ROUTE_DATA_VALID m.src = true → Idle k → 1 ≤ (getPort s k).shared →
          Does Frame s (fun t => (getPort t p).inbox = (getPort s p).inbox ∧ ∃ (n : Nat) (e : LMsg), (getPort t k).replay = [(n, e)] ∧ e.op = 0x23 ∧ e.dest = m.src ∧ e.tag = m.tag ∧ e.gen = m.gen))) ∧
    (∀ (tag gen : Nat) (ans : LinkAns), ((∀ q ∈ (getPort s p).inbox, q.tag ≠ tag ∨ q.gen ≠ gen ∨ q.ans ≠ some ans) → Does (.linkResponse p tag gen ans) s (fun t => t = s))) ∧
    (∀ (tag gen : Nat) (ans : LinkAns) (q : LMsg) (rest : List LMsg), (getPort s p).inbox = q :: rest → q.tag = tag → q.gen = gen → q.ans = some ans → s.link.waits = [] →
      (s.link.far.find? (fun f => f.port = p && f.tag = tag) = none → Does (.linkResponse p tag gen ans) s (fun t => t = freeSlots (setPort s p { getPort s p with inbox := rest }) p q)) ∧
      (∀ f : FarReq, s.link.far.find? (fun f => f.port = p && f.tag = tag) = some f →
        let m := f.msg
        let Ends : State → Prop := fun t => t.link.far = s.link.far.erase f ∧ t.mem = s.mem ∧ t.cores = s.cores
        (gen ≠ rd s .IN_STATUS_GEN f.inst → m.kind ≠ .gets → m.kind ≠ .redw → m.req ≠ .turnpike → Does (.linkResponse p tag gen ans) s (fun t => Ends t ∧ t.coh = s.coh ∧
          rd t .IN_STATUS_STALE f.inst = min (rd s .IN_STATUS_STALE f.inst + 1) 65535 ∧ FldFrame s t [.IN_STATUS_STALE])) ∧
        (gen = rd s .IN_STATUS_GEN f.inst →
          (ans = .ack → m.kind ≠ .gets → m.kind ≠ .atom → Does (.linkResponse p tag gen ans) s (fun t => Ends t ∧ t.flds = s.flds ∧
            ∃ a : Msg, t.coh.net = s.coh.net ++ [a] ∧ a.kind = .ack ∧ a.req = m.req ∧ a.id = m.id ∧ a.line = m.line)) ∧
          (∀ v, ans = .result v → m.kind = .atom → Does (.linkResponse p tag gen ans) s (fun t => Ends t ∧ t.flds = s.flds ∧
            ∃ a : Msg, t.coh.net = s.coh.net ++ [a] ∧ a.kind = .atomResult ∧ a.req = m.req ∧ a.id = m.id ∧ a.data = BitVec.ofNat 512 v.toNat)) ∧
          (∀ v x, ans = .data v → m.kind = .gets → m.flags < 8 → getBusy s m.die m.line = some x → x.msg = m → Does (.linkResponse p tag gen ans) s (fun t => t.link.far = s.link.far.erase f ∧ t.mem = s.mem ∧
            getBusy t m.die m.line = none ∧ ∃ a ∈ t.coh.net, a.kind = .data ∧ a.req = m.req ∧ a.id = m.id ∧ a.data = v)) ∧
          (∀ c o n g, m.kind = .wr → m.req = .core c → (getCore s c).outs.find? (fun o => o.id = m.id) = some o → o.kind = .write → (getCore s c).ctx = some n →
            getGroup s { core := c, pipe := o.pipe, slot := o.slot } = some g →
            (ans = .fenced → Does (.linkResponse p tag gen ans) s (fun t => t.mem = s.mem ∧ ∃ r : FaultRec, t.sched.faults = s.sched.faults ++ [r] ∧ r.ctx = n ∧ r.code = 0x0206)) ∧
            (ans = .error → Does (.linkResponse p tag gen ans) s (fun t => t.mem = s.mem ∧ ∃ r : FaultRec, t.sched.faults = s.sched.faults ++ [r] ∧ r.ctx = n ∧ r.code = 0x0208 ∧ r.detail = m.line / 2 ^ 34)))))) ∧
    (∀ (off size : Nat) (v : W64) (q : LMsg) (rest : List LMsg), (getPort s p).inbox = q :: rest → q.addr = off → q.param = size →
      let F := freeSlots (setPort s p { getPort s p with inbox := rest }) p q
      (q.op = 0x80 →
        (flag s .RG_MGMT_RD_EN = false → Does (.mgmtRead p off size) s (fun t => t = answerError F q)) ∧
        (flag s .RG_MGMT_RD_EN = true → Does (.mgmtRead p off size) s (fun t => let s0 := { F with freeCtr := s.freeCtr + 1 }
          ∃ x, t = mgmtAnswer s0 q (some (readSpace s0 off size x))))) ∧
      (q.op = 0x81 → q.data.toNat = v.toNat →
        (flag s .RG_MGMT_WR_EN = false ∨ off < 0x10000 ∨ (0xC0000 ≤ off ∧ off < 0xD0000) ∨ (0x100000 ≤ off ∧ off < 0x200000) →
          Does (.mgmtWrite p off size v) s (fun t => t = answerError F q)) ∧
        (flag s .RG_MGMT_WR_EN = true → 0x10000 ≤ off → ¬(0xC0000 ≤ off ∧ off < 0xD0000) → ¬(0x100000 ≤ off ∧ off < 0x200000) →
          Does (.mgmtWrite p off size v) s (fun t => t = mgmtAnswer (writeSpace F .mgmt off size v.toNat) q none)))) ∧
    (∀ (q : LMsg) (rest : List LMsg), (getPort s p).inbox = q :: rest →
      let F := freeSlots (setPort s p { getPort s p with inbox := rest }) p q
      (∀ t1, q.op = 0x63 → q.data.toNat % 2 ^ 64 = t1 → Does (.ttReq p t1) s (fun t => ∃ m : LMsg, t = (portPut F p m).2 ∧ m.op = 0x64 ∧ m.dest = rd s .LK_STATUS_PARTNER p ∧
        m.tag = rd s .MST_STATUS_EPOCH ∧ m.data = BitVec.ofNat 512 (t1 + mstNow s * 2 ^ 64 + mstNow s * 2 ^ 128 + rd s .MST_STATUS_UNCERT * 2 ^ 192))) ∧
      (∀ t1 t2 t3, q.op = 0x64 → bits q.data.toNat 64 64 = t2 → bits q.data.toNat 128 64 = t3 → bits q.data.toNat 0 64 = t1 → (getPort s p).ttSent = some t1 →
        Does (.ttRsp p t2 t3) s (fun t => getPort t p = { getPort F p with ttSent := none, ttOrigin := some ⟨t1, t2, t3, mstNow s, decide (q.tag % 2 = 1), bits q.data.toNat 192 16⟩ } ∧
          (∀ q, q ≠ p → getPort t q = getPort s q) ∧ t = { s with link := t.link }))) ∧
    (flag s .LK_STATUS_PARTNER_TT p = true → ∀ (t1 t2 t3 t4 unc : Nat) (ep : Bool),
        let d2 : Int := ((t4 : Int) - t1) - ((t3 : Int) - t2)
        let o2 : Int := ((t2 : Int) - t1) - ((t4 : Int) - t3)
        let Asks : State → Prop := fun t => (getPort t p).ttSent.isSome = true ∧ (getPort t p).ttAt = s.now ∧ (getPort t p).ttOrigin = none ∧ t.mem = s.mem
        (s.now < (getPort s p).ttAt + 125000 → Does (.ttExchange p t1 t2 t3 t4 ep) s (fun t => t = s)) ∧
        ((getPort s p).ttAt + 125000 ≤ s.now →
          ((getPort s p).ttOrigin = none → Does (.ttExchange p t1 t2 t3 t4 ep) s (fun t => Asks t ∧ t = { s with link := t.link })) ∧
          ((getPort s p).ttOrigin = some ⟨t1, t2, t3, t4, ep, unc⟩ →
            ((getPort s p).tt = [] → Does (.ttExchange p t1 t2 t3 t4 ep) s (fun t => Asks t ∧ (getPort t p).tt = [(d2, o2)] ∧ rd t .LK_TT_DELAY p = wrap 16 (4 * d2) ∧ rd t .LK_TT_OFFSET p = wrap 16 (4 * o2) ∧
              FldFrame s t [.LK_TT_DELAY, .LK_TT_OFFSET] ∧ t.time = s.time)) ∧
            (63 ≤ (getPort s p).tt.length → rd s .MST_CTRL_LINK_PORT ≠ p → Does (.ttExchange p t1 t2 t3 t4 ep) s (fun t => Asks t ∧ rd t .LK_TT_VALID p = 1 ∧
              FldFrame s t [.LK_TT_DELAY, .LK_TT_OFFSET, .LK_TT_VALID] ∧ t.time = s.time)) ∧
            (63 ≤ (getPort s p).tt.length → rd s .MST_CTRL_LINK_PORT = p → flag s .MST_CTRL_LINK_EN = true → rd s .MST_STATUS_SOURCE ≠ 1 →
              Does (.ttExchange p t1 t2 t3 t4 ep) s (fun t => Asks t ∧ rd t .LK_TT_VALID p = 1 ∧ rd t .MST_STATUS_LINK_OK = 1 ∧ rd t .MST_STATUS_SOURCE = 2 ∧ rd t .MST_STATUS_EPOCH = ep.toNat)))))

/-- The host attachment (R308, R312-R317, R320-R322, R327, R329-R331, R333, R335): doorbells, ring configuration and completion heads; entries accepted by their SEAL and read again
where it does not fit; the memory window; completions of reads; HA_MODE; training, retrains and losses of the attachment, and their acknowledgement. -/
def Obligations.HostAttachment : Prop :=
  (∀ (s : State) (fid ring : Nat), fnPresent s fid = true → ring < 32 →
    let k := rkey fid ring
    let ci := rd s .RING_CI_CI k
    (∀ v : W64, bits v.toNat 32 5 = ring →
      let n := (bits v.toNat 0 32 + 2 ^ 32 - ci) % 2 ^ 32
      (flag s .RING_CFG_EN k = false ∨ flag s .RING_STATUS_DETACHED k = true → Does (.doorbell fid v) s (fun t => rd t .RING_STATUS_CFG_ERR k = 1 ∧ FldFrame s t [.RING_STATUS_CFG_ERR] ∧ t = { s with flds := t.flds })) ∧
      (flag s .RING_CFG_EN k = true → flag s .RING_STATUS_DETACHED k = false →
        (ringSize s k < n → Does (.doorbell fid v) s (fun t => rd t .RING_STATUS_DOORBELL_RANGE k = 1 ∧ FldFrame s t [.RING_STATUS_DOORBELL_RANGE] ∧ t = { s with flds := t.flds })) ∧
        (0 < n → n ≤ ringSize s k → Does (.doorbell fid v) s (fun t => rd t .RING_STATUS_DB_PI k = bits v.toNat 0 32 ∧ rd t .RING_STATUS_DOORBELL_AHEAD k = 0 ∧
          FldFrame s t [.RING_STATUS_DB_PI, .RING_STATUS_DOORBELL_AHEAD] ∧ t = { s with flds := t.flds, host := t.host } ∧
          (flag s .RING_STATUS_ACTIVE k = true → (ringX s k).stopped = false → (ringX s k).reread = none → attLost s (fnAtt fid) = false → instOpen s (fnNum fid) = true →
            retraining s (fnAtt fid) = false → s.host.reads = [] → ∃ q : HostRd, t.host.reads = [q] ∧ q.kind = .entry fid ring ∧ q.att = fnAtt fid ∧
              q.addr = rd s .RING_BASE_BASE k * 4096 + 64 * (ci % ringSize s k) ∧ q.len = 64 * min (ringSize s k - ci % ringSize s k) (min 16 n)))))) ∧
    (∀ (e : BitVec 512) (q : HostRd) (s1 : State), dropEntryRead s fid ring = some (q, s1) → q.len = 64 → flag s .RING_STATUS_ACTIVE k = true → instOpen s (fnNum fid) = true → ci ≠ rd s .RING_STATUS_DB_PI k →
      (sealOk s k ci e = true → Does (.entryRead fid ring [e]) s (fun t => rd t .RING_CI_CI k = (ci + 1) % 2 ^ 32 ∧ FldFrame s t [.RING_CI_CI] ∧ t = { s with flds := t.flds, host := t.host } ∧
        ∃ c : Cmd, t.host.cmds = s.host.cmds ++ [c] ∧ c.ref = ⟨fid, ring, ci⟩ ∧ c.raw = e ∧ c.started = false ∧ c.fin = none)) ∧
      (sealOk s k ci e = false → Does (.entryRead fid ring [e]) s (fun t => (ringX t k).reread = some (0, s.now) ∧ t = { s with host := t.host } ∧ t.host.cmds = s.host.cmds))) ∧
    (∀ (e : BitVec 512) (n b : Nat), (ringX s k).reread = some (n, b) → b + 1000 ≤ s.now → retraining s (fnAtt fid) = false → flag s .RING_STATUS_ACTIVE k = true → instOpen s (fnNum fid) = true →
      (sealOk s k ci e = true → Does (.sealReread fid ring (.entry e)) s (fun t => rd t .RING_CI_CI k = (ci + 1) % 2 ^ 32 ∧ (ringX t k).reread = none ∧ FldFrame s t [.RING_CI_CI] ∧
        ∃ c : Cmd, t.host.cmds = s.host.cmds ++ [c] ∧ c.ref = ⟨fid, ring, ci⟩ ∧ c.raw = e)) ∧
      (sealOk s k ci e = false → n < 15 → Does (.sealReread fid ring (.entry e)) s (fun t => (ringX t k).reread = some (n + 1, s.now) ∧ t.flds = s.flds ∧ t.host.cmds = s.host.cmds)) ∧
      (sealOk s k ci e = false → 15 ≤ n → Does (.sealReread fid ring (.entry e)) s (fun t => (ringX t k).reread = none ∧ rd t .RING_STATUS_DOORBELL_AHEAD k = 1 ∧
        rd t .RING_STATUS_AHEAD_EVENTS k = min (rd s .RING_STATUS_AHEAD_EVENTS k + 1) 65535 ∧ FldFrame s t [.RING_STATUS_DOORBELL_AHEAD, .RING_STATUS_AHEAD_EVENTS] ∧ t.host.cmds = s.host.cmds))) ∧
    (∀ n b err : Nat, (ringX s k).reread = some (n, b) → b + 1000 ≤ s.now → retraining s (fnAtt fid) = false → flag s .RING_STATUS_ACTIVE k = true → instOpen s (fnNum fid) = true → flag s .RING_CFG_EN k = true →
      Does (.sealReread fid ring (.error err)) s (fun t => rd t .RING_STATUS_FETCH_ERR k = 1 ∧ (ringX t k).stopped = true ∧ (ringX t k).reread = none ∧ FldFrame s t [.RING_STATUS_FETCH_ERR] ∧ t.mem = s.mem)) ∧
    (∀ v : W64, (ringX s k).held = [] →
      let Cfg : State → Prop := fun t => FldFrame s t [.RING_CFG_EN, .RING_CFG_SIZE, .RING_CFG_CQ_SIZE, .RING_STATUS_CFG_ERR, .RING_STATUS_ACTIVE] [.RING_CI_CI, .CQ_HEAD_HEAD, .CQ_TAIL_TAIL, .RING_STATUS_DB_PI] ∧
        t = { s with flds := t.flds, host := t.host }
      (flag s .RING_CFG_EN k = false → tb v.toNat 0 = true → Does (.ringEnable fid ring v) s (fun t => rd t .RING_CFG_EN k = 1 ∧ rd t .RING_CI_CI k = 0 ∧ rd t .CQ_HEAD_HEAD k = 0 ∧ rd t .CQ_TAIL_TAIL k = 0 ∧
        rd t .RING_STATUS_DB_PI k = 0 ∧ flag t .RING_STATUS_ACTIVE k = !flag s .RING_STATUS_DETACHED k ∧ (bits v.toNat 1 4 ≤ 9 → rd t .RING_CFG_SIZE k = bits v.toNat 1 4) ∧ Cfg t)) ∧
      (flag s .RING_CFG_EN k = true → tb v.toNat 0 = false → Does (.ringEnable fid ring v) s (fun t => rd t .RING_CFG_EN k = 0 ∧ rd t .RING_STATUS_ACTIVE k = 0 ∧ rd t .RING_CI_CI k = ci ∧
        rd t .RING_CFG_SIZE k = rd s .RING_CFG_SIZE k ∧ (bits v.toNat 1 4 ≠ rd s .RING_CFG_SIZE k → rd t .RING_STATUS_CFG_ERR k = 1) ∧ Cfg t))) ∧
    (∀ v : W64, let n := v.toNat % 2 ^ 32
      let ok := (n + 2 ^ 32 - rd s .CQ_HEAD_HEAD k) % 2 ^ 32 ≤ (rd s .CQ_TAIL_TAIL k + 2 ^ 32 - rd s .CQ_HEAD_HEAD k) % 2 ^ 32
      (¬ok → Does (.cqHeadWrite fid ring v) s (fun t => rd t .RING_STATUS_CFG_ERR k = 1 ∧ FldFrame s t [.RING_STATUS_CFG_ERR] ∧ t = { s with flds := t.flds })) ∧
      (ok → (ringX s k).held = [] → Does (.cqHeadWrite fid ring v) s (fun t => rd t .CQ_HEAD_HEAD k = n ∧ FldFrame s t [.CQ_HEAD_HEAD] ∧ t = { s with flds := t.flds })) ∧
      (∀ r : CRec, ok → (ringX s k).held = [r] → rkey r.fid r.ring = k → (rd s .CQ_TAIL_TAIL k + 2 ^ 32 - n) % 2 ^ 32 < cqSize s k → Does (.cqHeadWrite fid ring v) s (fun t => rd t .CQ_HEAD_HEAD k = n ∧
        rd t .CQ_TAIL_TAIL k = (rd s .CQ_TAIL_TAIL k + 1) % 2 ^ 32 ∧ rd t .RING_STATUS_CQ_FULL k = 0 ∧ (ringX t k).held = [] ∧ FldFrame s t [.CQ_HEAD_HEAD, .CQ_TAIL_TAIL, .RING_STATUS_CQ_FULL] ∧
        ∃ (a b : HostWr) (j : Nat), t.host.out = s.host.out ++ [a, b] ∧ a.pay = .record r j ∧ b.pay = .record r j ∧ a.bytes.length = 24 ∧ b.bytes.length = 8 ∧ b.addr = a.addr + 24 ∧ b.relaxed = false)))) ∧
  (∀ (s : State) (fid off : Nat),
    let cxl := cxlMode s (fnAtt fid)
    (∀ bs, Does (.hdmWrite fid off (.atomic bs)) s (fun t => t = answer s .unsupported)) ∧
    (windowAt s fid off = none → (∀ bs, Does (.hdmWrite fid off bs) s (fun t => t = answer s .unsupported)) ∧ ∀ n, Does (.hdmRead fid off n) s (fun t => t = answer s .unsupported)) ∧
    (∀ a un, windowAt s fid off = some (a, un) →
      let sys := myDev s * 2 ^ 40 + a
      let held := rd s .PS_STATUS_STATE = 3 ∧ cxl = false
      let Sent : State → Prop := fun t => t.mem = s.mem ∧ t.flds = s.flds ∧ t.cores = s.cores ∧ t.host.reply = .silent
      (held → ∀ n, Does (.hdmRead fid off n) s (fun t => t = answer s .abort)) ∧
      (un = true ∨ homeRuns s a = false → (∀ bs, Does (.hdmWrite fid off (.data bs)) s (fun t => t = answer s (if cxl then .done else .silent))) ∧
        (¬held → ∀ n, Does (.hdmRead fid off n) s (fun t => t = answer s .poison))) ∧
      (un = false → homeRuns s a = true → s.host.window = [] →
        (∀ bs, bs ≠ [] → Does (.hdmWrite fid off (.data bs)) s (fun t => Sent t ∧ ∀ q ∈ linePieces sys bs, ∃ m ∈ t.coh.net, m.kind = .wr ∧ m.req = .host (fnAtt fid) ∧ m.line = q.1 ∧
          m.die = homeDie q.1 ∧ m.slice = sliceOf q.1 ∧ m.mask = q.2.1 ∧ m.data = q.2.2)) ∧
        (¬held → ∀ n, 0 < n → Does (.hdmRead fid off n) s (fun t => Sent t ∧ ∀ j, j ≤ (sys + n - 1) / 64 - sys / 64 → ∃ m ∈ t.coh.net, m.kind = .gets ∧ m.req = .host (fnAtt fid) ∧ m.line = sys / 64 + j ∧
          m.die = homeDie (sys / 64 + j) ∧ m.slice = sliceOf (sys / 64 + j))))) ∧
    (fnPresent s fid = false → Does (.hdmFlush fid) s (fun t => t = answer s (.data (natLe 8 0)))) ∧
    (fnPresent s fid = true → rd s .PS_STATUS_STATE = 3 → Does (.hdmFlush fid) s (fun t => t = answer s (.data (natLe 8 (rd s .HA_ATTACH_ATTACH_GEN (fnAtt fid * 128)))))) ∧
    (fnPresent s fid = true → rd s .PS_STATUS_STATE ≠ 3 → ∀ (w : HdmAcc) (b : Bool), s.host.window = [w] → w.kind = .write b → w.att = fnAtt fid → w.wait = [] → w.sent ≠ [] →
      Does (.hdmFlush fid) s (fun t => t.host.reply = .silent ∧ t.mem = s.mem ∧ t.coh = s.coh ∧ ∃ v : HdmAcc, t.host.window = [w, v] ∧ v.kind = .flush fid [w.no])) ∧
    (fnPresent s fid = true → rd s .PS_STATUS_STATE ≠ 3 → s.host.window = [] → Does (.hdmFlush fid) s (fun t => t.host.reply = .data (natLe 8 (rd s .HA_ATTACH_ATTACH_GEN (fnAtt fid * 128))) ∧ t.cores = s.cores ∧
      ((∀ n, getMark s n = none) → (∀ e ∈ s.coh.lines, e.2.bad = false) → (∀ e ∈ s.coh.busy, e.2.bad = false) → (∀ m ∈ s.coh.net, m.kind = .writeBack → m.flags % 2 = 0) → t.flds = s.flds) ∧
      (∀ line e, line < 2 ^ 46 → isLocal s line = true → getLine s (homeDie line) line = some e → e.st = .hd → getBusy s (homeDie line) line = none →
        (∀ l, locLine l = locLine line → l ≠ line → getLine s (homeDie l) l = none ∧ getBusy s (homeDie l) l = none ∧ ∀ m ∈ s.coh.net, m.line ≠ l) →
        memLine t.mem (locLine line) = e.data ∧ getLine t (homeDie line) line = some { e with st := .hc }) ∧
      ∀ loc w, getWcb s loc = some w → hostWriter ∈ w.writers → (∀ line e, locLine line = loc → getLine s (homeDie line) line = some e → e.st ≠ .hd ∧ e.st ≠ .hg) →
        s.coh.busy = [] → (∀ m ∈ s.coh.net, m.kind = .writeBack → locLine m.line ≠ loc) →
        getWcb t loc = none ∧ memLine t.mem loc = mergeLine (memLine s.mem loc) w.data w.mask))) ∧
  (∀ (s : State) (m : Msg) (w : HdmAcc), Arrived s m → m.req = .host w.att → m.op = 0 → s.host.window = [w] → w.wait = [] → w.sent = [(m.id, m.line)] → w.got = [] → w.bad = false →
    let Over : Reply → State → Prop := fun r t => t.host.reply = r ∧ t.host.window = [] ∧ t.coh.net = s.coh.net.erase m ∧ t.mem = s.mem ∧ t.flds = s.flds ∧ t.cores = s.cores
    (m.kind = .ack → ∀ b, w.kind = .write b → Does (.ack m) s (Over (if b then .done else s.host.reply))) ∧
    (m.kind = .data → ∀ a n, w.kind = .read a n → 0 < n → a / 64 = m.line → (a + n - 1) / 64 = m.line →
      Does (.data m) s (Over (if m.flags % 2 = 1 then .poison else .data ((List.range n).map (fun j => BitVec.ofNat 8 (lineNat m.data ((a + j) % 64) 1)))))) ∧
    (m.kind = .fenced → ∀ a n, w.kind = .read a n → Does (.fencedRsp m) s (Over .poison))) ∧
  (∀ (s : State) (att tag : Nat) (ans : HostAns),
    (s.host.reads.find? (fun r => r.att = att && r.tag = tag) = none →
      ((∀ e, ans ≠ .error e) ∨ s.host.out.find? (fun w => w.att = att && w.tag = tag) = none → Does (.hostReadCompletion att tag ans) s (fun t => t = s)) ∧
      (∀ e w, ans = .error e → s.host.out.find? (fun w => w.att = att && w.tag = tag) = some w →
        (∀ q k va c, w.pay = .copy q k va → getCmd s q = some c → c.fin = some (0, 0) ∨ c.fin = none → Does (.hostReadCompletion att tag ans) s (fun t => Ended t q 5 e ∧ t.flds = s.flds ∧ t.mem = s.mem)) ∧
        (∀ q k, w.pay = .record q k → Does (.hostReadCompletion att tag ans) s (fun t => t.mem = s.mem ∧
          ∃ r : ErrRec, t.rel.log.get (rd s .RL_ERR_HEAD_COUNT % 1024) = some r ∧ r.code = 0x0501 ∧ r.loc = att)))) ∧
    (∀ r : HostRd, s.host.reads.find? (fun r => r.att = att && r.tag = tag) = some r →
      let s1 : State := { s with host := { s.host with reads := s.host.reads.erase r } }
      (s.host.reads.filter (fun r => r.att = att)).length < 256 →
      (∀ fid ring e, r.kind = .entry fid ring → ans = .error e → flag s .RING_CFG_EN (rkey fid ring) = true → Does (.hostReadCompletion att tag ans) s (fun t =>
        rd t .RING_STATUS_FETCH_ERR (rkey fid ring) = 1 ∧ (ringX t (rkey fid ring)).stopped = true ∧ FldFrame s t [.RING_STATUS_FETCH_ERR] ∧ t.host = { s1.host with rings := t.host.rings } ∧ t.mem = s.mem)) ∧
      (∀ q c off len bs a n s2, r.kind = .copy q off len → ans = .data bs → getCmd s q = some c → c.fin = none → c.ref = q → tpRun s1 c.ctx (c.fld 16 8 + off) (bs.take len).length .write = .ok ([(a, n)], s2) →
        n = (bs.take len).length → Here s a (bs.take len) → Does (.hostReadCompletion att tag ans) s (fun t => t.flds = s2.flds ∧ TpWrote s s2 t a (bs.take len))) ∧
      (∀ q c off len e, r.kind = .copy q off len → ans = .error e → getCmd s q = some c → c.fin = none → Does (.hostReadCompletion att tag ans) s (fun t => Ended t q 5 e ∧ (∀ p ∈ t.host.reads, ∀ off n, p.kind ≠ .copy q off n) ∧ t.flds = s.flds ∧ t.mem = s.mem)) ∧
      (∀ q c, r.kind = .flush q → getCmd s q = some c → Does (.hostReadCompletion att tag ans) s (fun t => getCmd t q = some { c with flush := 2 } ∧ t.flds = s.flds ∧ t.mem = s.mem)))) ∧
  (∀ (s : State) (att : Nat), fnPresent s (att * 128) = true →
    let g := rd s .HA_ATTACH_ATTACH_GEN (att * 128)
    let Loses : State → Prop := fun t => rd t .HA_ATTACH_ATTACH_GEN (att * 128) = (g + 1) % 65536 ∧ rd t .HA_ATTACH_LOST (att * 128) = 1 ∧ t.mem = s.mem ∧ t.cores = s.cores ∧
      (∀ f ∈ attFns att, ∀ r < 32, rd t .RING_STATUS_DETACHED (rkey f r) = 1 ∧ rd t .RING_STATUS_ACTIVE (rkey f r) = 0) ∧ (∀ w ∈ t.host.out, w.att ≠ att) ∧ ∀ r ∈ t.host.reads, r.att ≠ att
    (∀ v : W64, Does (.haModeWrite att v) s (fun t => rd t .HA_MODE_SPLIT_NEXT = bits v.toNat 0 1 ∧ (bits v.toNat 1 2 ≠ 3 → rd t .HA_MODE_MAX_RATE_NEXT = bits v.toNat 1 2) ∧
      (bits v.toNat 1 2 = 3 → rd t .HA_MODE_MAX_RATE_NEXT = rd s .HA_MODE_MAX_RATE_NEXT) ∧ FldFrame s t [.HA_MODE_SPLIT_NEXT, .HA_MODE_MAX_RATE_NEXT] ∧ t.mem = s.mem)) ∧
    let down := rd s .HA_LINK_MODE (att * 128) = 0
    let Trains : State → Prop := fun t => rd t .HA_LINK_MODE (att * 128) ∈ attModes s ∧ rd t .HA_LINK_WIDTH (att * 128) ∈ attWidths s ∧ FldFrame s t [.HA_LINK_MODE, .HA_LINK_WIDTH] ∧ t.mem = s.mem ∧ t.cores = s.cores
    (s.host.left.get att = none → ¬down → Does (.linkL0 att) s (fun t => t = s)) ∧
    (s.host.left.get att = none → down → s.boot.vio = true ∨ rd s .PS_STATUS_STATE = 5 → Does (.linkL0 att) s Trains) ∧
    (s.host.left.get att = none → ¬down → Does (.linkRecovery att) s (fun t => t.host.left.get att = some (s.time.mst, false) ∧ t = { s with host := { s.host with left := t.host.left } })) ∧
    (∀ b, s.host.left.get att = some (b, false) →
      (s.time.mst < b + 100000000 → Does (.linkL0 att) s (fun t => t.host.left.get att = none ∧ rd t .HA_LINK_RETRAINS (att * 128) = min (rd s .HA_LINK_RETRAINS (att * 128) + 1) 65535 ∧
        FldFrame s t [.HA_LINK_RETRAINS] ∧ t.mem = s.mem) ∧ Does (.hostLoss att 1) s (fun t => t = s)) ∧
      (b + 100000000 ≤ s.time.mst → Does (.linkL0 att) s (fun t => t.host.left.get att = none ∧ Loses t) ∧ Does (.hostLoss att 1) s Loses)) ∧
    (∀ b, s.host.left.get att = some (b, true) →
      (¬down → Does (.linkL0 att) s (fun t => t.host.left.get att = none ∧ t = { s with host := { s.host with left := t.host.left, out := t.host.out } } ∧ t.host.out.length = s.host.out.length)) ∧
      (down → s.boot.vio = true ∨ rd s .PS_STATUS_STATE = 5 → Does (.linkL0 att) s (fun t => t.host.left.get att = none ∧ Trains t))) ∧
    (∀ c ∈ [2, 4], Does (.hostLoss att c) s (fun t => Loses t ∧ rd t .HA_LINK_MODE (att * 128) = 0 ∧ rd t .HA_LINK_WIDTH (att * 128) = 0)) ∧
    (∀ pf gen, fnPresent s (pf * 128) = true →
      (gen = g → attLost s att = true → Does (.attachAck pf att gen) s (fun t => rd t .HA_ATTACH_LOST (att * 128) = 0 ∧
        (∀ f ∈ attFns att, ∀ r < 32, flag s .RING_CFG_EN (rkey f r) = true → rd t .RING_STATUS_DETACHED (rkey f r) = 0 ∧ rd t .RING_STATUS_ACTIVE (rkey f r) = 1) ∧
        (∀ f ∈ attFns att, ∀ r < 32, flag s .RING_CFG_EN (rkey f r) = false → rd t .RING_STATUS_DETACHED (rkey f r) = rd s .RING_STATUS_DETACHED (rkey f r)) ∧
        FldFrame s t [.HA_ATTACH_LOST, .RING_STATUS_DETACHED, .RING_STATUS_ACTIVE] ∧ t = { s with flds := t.flds, host := t.host })) ∧
      (gen ≠ g → Does (.attachAck pf att gen) s (fun t => t = s))))

/-- Ring commands (R317-R319, R325, R327, R328, R340, R352-R355): a malformed entry and one that names no live context end with MALFORMED and CONTEXT; NOP ends; LAUNCH starts what its header says; COPY and FILL
move bytes of this device and of the host; WAYMARK WAIT and ADD look at a waymark and add to it; the batching commands change the sequence table and the loop; an ended command leaves its record and is gone; a stopping loop ends at its step boundary. -/
def Obligations.RingCommands : Prop :=
  (∀ (s : State) (r : CmdRef) (c : Cmd), startable s r = some c → c.fin = none →
    ∀ p ∈ ([(0, .cmdNop r), (1, .launch r), (2, .copyCommand r), (3, .fillCommand r), (0x20, .seqAdd r), (0x21, .seqCancel r), (0x22, .batchStart r), (0x23, .batchStop r), (0x24, .seqPriority r)] : List (Nat × Instr)), c.op = p.1 →
      (∀ b, malformed c = some b → Does p.2 s (fun t => Ended t r 3 b ∧ t = { s with host := t.host })) ∧
      (malformed c = none → cmdCtx s c = none → Does p.2 s (fun t => Ended t r 4 0 ∧ t = { s with host := t.host }))) ∧
  (∀ (s : State) (r : CmdRef) (c : Cmd) (x : Ctx), Starts s r c x →
    let Fin : Nat → Nat → State → Prop := fun st det t => Ended t r st det ∧ t = { s with host := t.host }
    let s1 := setCmd s { c with started := true }
    (c.op = 0 → Does (.cmdNop r) s (Fin 0 0)) ∧
    (c.op = 1 →
      let pin := c.fld 34 2
      let l : Launch := { ctx := c.ctx, cmd := some r, entry := c.fld 8 8, args := c.fld 16 8, wblocks := c.fld 24 4, groups := c.fld 28 2,
                          ctype := c.fld 30 1, n := 8, arith := {}, pin := if pin ≥ 2 ^ 15 then some (pin % 1024) else none }
      (2 ^ 15 ≤ pin → coreLive s (pin % 1024) = false → Does (.launch r) s (Fin 2 (pin % 1024))) ∧
      (pin < 2 ^ 15 ∨ coreLive s (pin % 1024) = true →
        (c.fld 24 4 = 0 ∨ c.fld 28 2 = 0 →
          let most := if c.fld 30 1 = 3 then 8 else 16 * pipesOf (c.fld 30 1)
          (c.fld 28 2 ≤ most → Does (.launch r) s (Fin 0 0)) ∧ (most < c.fld 28 2 → Does (.launch r) s (Fin 3 224))) ∧
        (c.fld 24 4 ≠ 0 → c.fld 28 2 ≠ 0 → ∀ s2,
          (∀ k, header s1 r c.ctx l.entry l.ctype l.groups l = (.ok k, s2) → Does (.launch r) s (fun t => ∃ id, t.sched.launches.get id = some k ∧ t.mem = s2.mem ∧ t.flds = s2.flds ∧
            (∀ j, j ≠ id → t.sched.launches.get j = s2.sched.launches.get j) ∧ t.sched.nextId = id + 1)) ∧
          (header s1 r c.ctx l.entry l.ctype l.groups l = (.nothing, s2) → Does (.launch r) s (fun t => Ended t r 0 0 ∧ t.mem = s2.mem)) ∧
          (header s1 r c.ctx l.entry l.ctype l.groups l = (.ask, s2) → Does (.launch r) s (fun t => ∃ d : Cmd, getCmd t r = some d ∧ d.started = false ∧ t.mem = s2.mem ∧ t.flds = s2.flds)) ∧
          (header s1 r c.ctx l.entry l.ctype l.groups l = (.groups, s2) → Does (.launch r) s (fun t => Ended t r 3 224 ∧ t.mem = s2.mem)) ∧
          (∀ k d va, header s1 r c.ctx l.entry l.ctype l.groups l = (.stop (.fault k d va), s2) → Does (.launch r) s (fun t => t.mem = s2.mem ∧ ∃ f ∈ t.sched.faults, f.ctx = c.ctx ∧ f.code = k ∧ f.detail = d ∧ f.addr = some va))))) ∧
    (c.op = 2 →
      let n := c.copyLen
      (n = 0 → Does (.copyCommand r) s (Fin 0 0)) ∧
      (n ≠ 0 → c.fld 32 1 ≠ 2 → attLost s (fnAtt r.fid) = true → Does (.copyCommand r) s (Fin 8 n)) ∧
      (n ≠ 0 → c.fld 32 1 = 0 → attLost s (fnAtt r.fid) = false → c.sent = 0 → s.host.reads = [] → retraining s (fnAtt r.fid) = false → ∀ l s2, tpRun s1 c.ctx (c.fld 16 8) n .write = .ok (l, s2) →
        Does (.copyCommand r) s (fun t => t.mem = s2.mem ∧ t.flds = s2.flds ∧ ∃ q ∈ t.host.reads, q.kind = .copy r 0 (min 4096 n) ∧ q.addr = c.fld 8 8 ∧ q.len = min 4096 n)) ∧
      (n ≠ 0 → c.fld 32 1 = 2 ∨ (c.fld 32 1 = 1 ∧ attLost s (fnAtt r.fid) = false) → c.far = [] → c.got = [] → ∀ src s2, tpRun s1 c.ctx (c.fld 8 8) n .read = .ok (src, s2) →
        memLinesOf s2 src ≠ [] → (∀ line ∈ memLinesOf s2 src, isLocal s line = true) →
        Does (.copyCommand r) s (fun t => (∃ d : Cmd, getCmd t r = some d ∧ d.started = true ∧ d.fin = none) ∧ t.mem = s2.mem ∧ t.flds = s2.flds ∧
          ∀ line ∈ memLinesOf s2 src, ∃ m ∈ t.coh.net, m.kind = .gets ∧ m.req = .turnpike ∧ m.line = line ∧ m.die = homeDie line ∧ m.slice = sliceOf line))) ∧
    (c.op = 3 →
      let n := c.fld 16 8
      (n = 0 → Does (.fillCommand r) s (Fin 0 0)) ∧
      let bs := (List.range n).map (fun k => (natLe 8 (c.fld 24 8)).getD (k % 8) 0)
      (n ≠ 0 → ∀ a s2, tpRun s1 c.ctx (c.fld 8 8) n .write = .ok ([(a, n)], s2) → Here s a bs → faulted s2 c.ctx = false →
        Does (.fillCommand r) s (fun t => Ended t r 0 0 ∧ t.flds = s2.flds ∧ TpWrote s s2 t a bs))) ∧
    (c.op = 4 →
      let w := wmIndex x (c.fld 8 2 % 4096)
      (c.fld 10 1 = 0 →
        (c.fld 12 4 ≤ (getWm s w).count.toNat → Does (.waymarkWait r) s (Fin 0 0)) ∧
        ((getWm s w).count.toNat < c.fld 12 4 → Does (.waymarkWait r) s (fun t => getCmd t r = some { c with started := true } ∧ t = { s with host := t.host }))) ∧
      (c.fld 10 1 = 1 →
        (c.fld 12 4 = 0 → Does (.waymarkAdd r) s (Fin 0 0)) ∧
        (∀ ev : WmEvent, ev = { kind := .add, wm := w, half := 8, count := BitVec.ofNat 32 (c.fld 12 4) } → c.fld 12 4 ≠ 0 → CanSend s ev →
          Does (.waymarkAdd r) s (fun t => Ended t r 0 0 ∧ Sent s t ev ∧ t.mem = s.mem ∧ t.cores = s.cores)))) ∧
    (∀ p ∈ ([(0x20, .seqAdd r), (0x21, .seqCancel r), (0x22, .batchStart r), (0x23, .batchStop r), (0x24, .seqPriority r)] : List (Nat × Instr)), c.op = p.1 → x.batch = false → Does p.2 s (Fin 4 0)) ∧
    (x.batch = true →
      let n := c.fld 8 4
      (c.op = 0x20 →
        let e : List Byte := [1, BitVec.ofNat 8 x.inst, BitVec.ofNat 8 (c.fld 12 1), 0] ++ natLe 4 (c.fld 24 4) ++ natLe 8 (c.fld 32 8) ++ natLe 4 (c.fld 16 4) ++
          natLe 4 (c.fld 20 4) ++ natLe 2 c.ctx ++ natLe 2 0 ++ natLe 4 0 ++ natLe 8 (mstNow s) ++ natLe 8 (c.fld 40 8) ++ natLe 16 0
        (seqGet s n 0 1 ≠ 0 ∨ rd s .IN_RES_SEQ_QUOTA x.inst ≤ seqHeld s x.inst → Does (.seqAdd r) s (Fin 3 64)) ∧
        (seqGet s n 0 1 = 0 → seqHeld s x.inst < rd s .IN_RES_SEQ_QUOTA x.inst → Does (.seqAdd r) s (fun t => t.sched.seqCmds.get n = some r ∧ getCmd t r = some { c with started := true } ∧
          t.mem = (orderWriteBytes s (seqAt s n) e turnpikeWriter).mem ∧ ((∀ k, getMark s k = none) → t.flds = s.flds)))) ∧
      (c.op = 0x21 →
        (seqOpen s n x.inst = false → Does (.seqCancel r) s (Fin 3 64)) ∧
        (seqOpen s n x.inst = true → seqGet s n 0 1 = 2 → Does (.seqCancel r) s (fun t => Ended t r 0 0 ∧ t.sched = { s.sched with cancels := s.sched.cancels ++ [n] } ∧ t.mem = s.mem ∧ t.flds = s.flds)) ∧
        (seqOpen s n x.inst = true → seqGet s n 0 1 = 1 → s.sched.seqCmds.get n ≠ some r → Does (.seqCancel r) s (fun t => Ended t r 0 0 ∧ ((∀ k, getMark s k = none) → t.flds = s.flds)))) ∧
      (c.op = 0x24 →
        (seqOpen s n x.inst = false → Does (.seqPriority r) s (Fin 3 64)) ∧
        (seqOpen s n x.inst = true → Does (.seqPriority r) s (fun t => Ended t r 0 0 ∧ t.mem = (seqPut s n 2 1 (c.fld 12 1)).mem ∧ ((∀ k, getMark s k = none) → t.flds = s.flds)))) ∧
      (c.op = 0x22 →
        ((s.sched.loops.get c.ctx).isSome = true → Does (.batchStart r) s (Fin 3 0)) ∧
        (s.sched.loops.get c.ctx = none → c.fld 24 4 = 0 ∨ c.fld 28 2 = 0 → Does (.batchStart r) s (Fin 0 0)) ∧
        (s.sched.loops.get c.ctx = none → c.fld 24 4 ≠ 0 → c.fld 28 2 ≠ 0 → Does (.batchStart r) s (fun t => getCmd t r = some { c with started := true } ∧ t.mem = s.mem ∧ t.flds = s.flds ∧ ∃ l : Loop, t.sched.loops.get c.ctx = some l ∧
          l.cmd = r ∧ l.entry = c.fld 8 8 ∧ l.args = c.fld 16 8 ∧ l.maxBatch = c.fld 24 4 ∧ l.groups = c.fld 28 2 ∧ l.perBlock = c.fld 30 2 ∧ l.list = c.fld 32 8 ∧ l.stopping = false))) ∧
      (c.op = 0x23 →
        (s.sched.loops.get c.ctx = none → Does (.batchStop r) s (Fin 3 0)) ∧
        (∀ l, s.sched.loops.get c.ctx = some l → Does (.batchStop r) s (fun t => Ended t r 0 0 ∧ t.sched.loops.get c.ctx = some { l with stopping := true } ∧ t.mem = s.mem ∧ t.flds = s.flds))))) ∧
  (∀ (s : State) (r : CmdRef) (c : Cmd), getCmd s r = some c → c.started = true → c.fin = none → c.op = 2 → c.fld 32 1 ≠ 0 → faulted s c.ctx = false →
    let n := c.copyLen
    ∀ src s2 s3, tpRun s c.ctx (c.fld 8 8) n .read = .ok (src, s2) → tpAsk s2 r (c.fld 8 8) src = (true, s3) →
      (c.fld 32 1 = 1 → attLost s (fnAtt r.fid) = true → Does (.copyCommand r) s (fun t => Ended t r 8 n ∧ t.mem = s3.mem)) ∧
      (c.fld 32 1 = 1 → attLost s (fnAtt r.fid) = false → Does (.copyCommand r) s (fun t => Ended t r 0 0 ∧ t.mem = s3.mem ∧ t.flds = s3.flds ∧
        ∃ l : List HostWr, t.host.out = s3.host.out ++ l ∧ (l.flatMap (·.bytes)) = tpRead s3 r src ∧ ∀ w ∈ l, w.att = fnAtt r.fid ∧ w.relaxed = true)) ∧
      (c.fld 32 1 = 2 → ∀ a m s4, tpRun (toll s3 c.ctx 4 (runDeckBytes s3 src)) c.ctx (c.fld 16 8) n .write = .ok ([(a, m)], s4) → m = (tpRead s3 r src).length → Here s a (tpRead s3 r src) → faulted s4 c.ctx = false →
        Does (.copyCommand r) s (fun t => Ended t r 0 0 ∧ t.flds = s4.flds ∧ TpWrote s s4 t a (tpRead s3 r src)))) ∧
  (∀ (s : State) (r : CmdRef) (c : Cmd) (st det : Nat), getCmd s r = some c → c.started = true → c.fin = some (st, det) → c.far = [] → tb c.flags 0 = false → c.flush = 0 → c.op ≠ 1 → (∀ d ∈ s.host.cmds, d.ref ≠ r → d.flush = 0) →
    let k := rkey r.fid r.ring
    (ringX s k).held = [] → (∀ e ∈ s.deck.chans, ∀ w ∈ e.2.wcb, turnpikeWriter ∉ w.writers) →
    (st = 0 → tb c.flags 1 = true → Does (.commandEnd r) s (fun t => getCmd t r = none ∧ t = { s with host := { s.host with cmds := t.host.cmds } })) ∧
    (st ≠ 0 ∨ tb c.flags 1 = false → attLost s (fnAtt r.fid) = false → flag s .RING_STATUS_DETACHED k = false → cqRoom s k = true → Does (.commandEnd r) s (fun t => getCmd t r = none ∧
      rd t .CQ_TAIL_TAIL k = (rd s .CQ_TAIL_TAIL k + 1) % 2 ^ 32 ∧ FldFrame s t [.CQ_TAIL_TAIL] ∧ t.mem = s.mem ∧ ∃ (a b : HostWr) (q : CRec) (j : Nat), t.host.out = s.host.out ++ [a, b] ∧ a.pay = .record q j ∧ b.pay = .record q j ∧
        q.status = st ∧ q.detail = min det (2 ^ 32 - 1) ∧ q.tag = c.fld 4 4 ∧ q.index = c.ref.index ∧ q.ctx = c.ctx ∧ b.relaxed = false ∧ b.addr = a.addr + 24)) ∧
    (st ≠ 0 ∨ tb c.flags 1 = false → attLost s (fnAtt r.fid) = false → flag s .RING_STATUS_DETACHED k = false → cqRoom s k = false → Does (.commandEnd r) s (fun t => getCmd t r = none ∧
      rd t .RING_STATUS_CQ_FULL k = 1 ∧ (ringX t k).held.length = 1 ∧ FldFrame s t [.RING_STATUS_CQ_FULL] ∧ t.mem = s.mem))) ∧
  (∀ (s : State) (n : Nat) (l : Loop) (x : Ctx), s.sched.loops.get n = some l → getCtx s n = some x → l.launch = none → orphans s n = false → (∀ c, getCmd s l.cmd = some c → c.part = 0) → x.st = .ready → placing s = true → instOpen s x.inst = true → (∀ f ∈ s.sched.faults, f.ctx ≠ n) →
    (∀ c, l.stopping = true → getCmd s l.cmd = some c → c.fin = none → Does (.batchStep n) s (fun t => t.sched.loops.get n = none ∧ Ended t l.cmd 0 0 ∧ t.mem = s.mem ∧ t.flds = s.flds)) ∧
    (l.stopping = false → s.sched.batches.getD n [] = [] → s.sched.seqCmds = [] → Does (.batchStep n) s (fun t => t.sched.loops.get n = some l ∧ t.mem = s.mem ∧ t.flds = s.flds ∧ t.host = s.host)))

/-- Instances and their migration (R358, R359, R361-R365, R370, R371, R374-R379, R446, R459-R461): a command outside its states changes nothing but RESULT; units are added, removed and scrubbed; cores are set; ENABLE,
RESET, DISABLE, a function-level reset and the drain's deadline take an instance through its states; FREEZE disarms and records its milestone entries; SAVE and WRAP write what the target needs, UNWRAP and RESTORE
take it, and THAW sets the instance going. -/
def Obligations.InstanceCommands : Prop :=
  (∀ (s : State) (who : Who) (n : Nat), 0 < n → n ≤ 64 → instWriter s who n = true → flag s .IN_RESULT_BUSY n = false →
    let st := instState s n
    let x := instX s n
    let Res : Nat → State → Prop := fun c t => rd t .IN_RESULT_RESULT n = c ∧ rd t .IN_RESULT_BUSY n = 0
    let Busy : State → Prop := fun t => rd t .IN_RESULT_RESULT n = 1 ∧ rd t .IN_RESULT_BUSY n = 1
    let Only : Nat → State → Prop := fun c t => Res c t ∧ FldFrame s t [.IN_RESULT_RESULT, .IN_RESULT_BUSY] ∧ t = { s with flds := t.flds }
    let own := unitsIn s n [1]
    let arg := rd s .IN_ARG_ARG n
    (∀ (unit sec : Nat) (b : Bool) (p : Option (List Byte)), ∀ q ∈ ([([0, 1, 5], .addUnit who n unit), ([0, 1, 5], .removeUnit who n unit), ([0, 1, 5], .setCores who n), ([0], .enable who n), ([1, 5, 2, 3, 4], .reset who n),
        ([1, 5, 2, 3, 4], .disable who n), ([1], .freeze who n), ([5], .save who n sec), ([5], .wrap who n b), ([5], .restore who n p), ([5], .thaw who n)] : List (List Nat × Instr)),
      st ∉ q.1 → Does q.2 s (Only 2)) ∧
    (st = 0 ∨ st = 1 ∨ st = 5 →
      let Units : Nat → Nat → Nat → State → Prop := fun unit o v t => rd t .IN_UNIT_DATA_OWNER unit = o ∧ rd t .IN_UNIT_DATA_STATE unit = v ∧
        (∀ u < 384, u ≠ unit → rd t .IN_UNIT_DATA_OWNER u = rd s .IN_UNIT_DATA_OWNER u ∧ rd t .IN_UNIT_DATA_STATE u = rd s .IN_UNIT_DATA_STATE u) ∧
        FldFrame s t [.IN_UNIT_DATA_OWNER, .IN_UNIT_DATA_STATE, .IN_STATUS_UNITS, .IN_RESULT_RESULT, .IN_RESULT_BUSY] ∧ Res 0 t ∧ t.mem = s.mem
      (∀ unit : Nat,
        (unit < 384 → rd s .IN_UNIT_DATA_STATE unit = 0 → Does (.addUnit who n unit) s (fun t => Units unit n 1 t ∧ t = { s with flds := t.flds })) ∧
        (384 ≤ unit ∨ rd s .IN_UNIT_DATA_STATE unit ≠ 0 → Does (.addUnit who n unit) s (Only 3)) ∧
        (384 ≤ unit ∨ rd s .IN_UNIT_DATA_OWNER unit ≠ n → Does (.removeUnit who n unit) s (Only 3)) ∧
        (unit < 384 → rd s .IN_UNIT_DATA_OWNER unit = n → rd s .IN_UNIT_DATA_STATE unit = 1 →
          ((∃ e ∈ s.deck.owner, unitOfPage e.1 = unit) → Does (.removeUnit who n unit) s (Only 5)) ∧
          ((∀ e ∈ s.deck.owner, unitOfPage e.1 ≠ unit) → Does (.removeUnit who n unit) s (fun t => Units unit 0 2 t ∧ t.inst.scrubs = s.inst.scrubs ++ [unit])))) ∧
      (
        let want := (List.range 832).filter (fun c => (rd s .IN_CORES_CORES (n * 16 + c / 64)).testBit (c % 64) && !isAgent s c)
        ((∃ c ∈ want, inCores s n c = false ∧ ((s.inst.cores.get c).isSome = true ∨ coreLive s c = false)) → Does (.setCores who n) s (fun t => Res 3 t ∧ t.inst = s.inst ∧ t.mem = s.mem)) ∧
        ((∀ c ∈ want, inCores s n c = false → s.inst.cores.get c = none ∧ coreLive s c = true) → (st = 0 ∨ want.length ≤ poolSlots s n) →
          (∀ c < 832, inCores s n c = true → c ∉ want → (getCore s c).ctx = none) →
          Does (.setCores who n) s (fun t => Res 0 t ∧ (∀ c < 832, inCores t n c = want.contains c) ∧ FldFrame s t [.IN_CORES_CORES, .IN_RESULT_RESULT, .IN_RESULT_BUSY] ∧
            (∀ c < 832, inCores s n c = true → c ∉ want → (getCore t c).groups = [] ∧ ∀ j < loftStride, readByte t.mem (loftAt c + j) = 0))))) ∧
    (st = 0 →
      let a := rd s .IN_WM_BASE n
      let l := rd s .IN_WM_LOG2 n
      let clear := a % 2 ^ l = 0 ∧ ∀ m < 65, m ≠ 0 → m ≠ n → instState s m ≠ 0 → wmMeet a l (rd s .IN_WM_BASE m) (rd s .IN_WM_LOG2 m) = false
      let pool := rd s .IN_CFG_POOL_GIB n
      let enough := pool ≤ own.length ∧ (s.inst.cores.filter (fun e => e.2 = n)).length ≤ pool * 341
      (a % 2 ^ l ≠ 0 → Does (.enable who n) s (Only 3)) ∧ (clear → own.length < pool → Does (.enable who n) s (Only 4)) ∧
      (clear → enough → flag s .IN_CFG_SCRUB_ON_RESET n = false → Does (.enable who n) s (fun t => rd t .IN_STATUS_STATE n = 1 ∧ Res 0 t ∧
        (∀ u ∈ own.take pool, rd t .IN_UNIT_DATA_STATE u = 3) ∧ FldFrame s t [.IN_STATUS_STATE, .IN_UNIT_DATA_OWNER, .IN_UNIT_DATA_STATE, .IN_RESULT_RESULT, .IN_RESULT_BUSY] ∧ t = { s with flds := t.flds })) ∧
      (clear → enough → flag s .IN_CFG_SCRUB_ON_RESET n = true → own ≠ [] → Does (.enable who n) s (fun t => rd t .IN_STATUS_STATE n = 4 ∧ Busy t ∧ (∀ u ∈ own, u ∈ t.inst.scrubs) ∧ t.mem = s.mem))) ∧
    (st = 1 ∨ st = 5 → x.kind = 0 →
      let Stops : Nat → State → Prop := fun k t => rd t .IN_STATUS_STATE n = 2 ∧ (instX t n).kind = k ∧ (instX t n).since = s.now ∧ (instX t n).key = none ∧
        (∀ e < 256, rd s .MT_CTRL_OWNER e = n → flag t .MT_CTRL_ARMED e = false) ∧ FldFrame s t [.IN_STATUS_STATE, .MT_CTRL_ARMED, .IN_RESULT_RESULT, .IN_RESULT_BUSY] ∧ t.mem = s.mem ∧ t.cores = s.cores
      Does (.reset who n) s (fun t => Stops 1 t ∧ Res 0 t) ∧ Does (.disable who n) s (fun t => Stops 3 t ∧ Busy t)) ∧
    (2 ≤ st → st ≤ 4 → x.kind = 1 ∨ x.kind = 2 → Does (.reset who n) s (Only 0) ∧
      Does (.disable who n) s (fun t => Busy t ∧ (instX t n).kind = 3 ∧ (instX t n).since = x.since ∧ rd t .IN_STATUS_STATE n = st)) ∧
    (st = 1 → Does (.freeze who n) s (fun t => Busy t ∧ rd t .IN_STATUS_STATE n = 2 ∧ (instX t n).freezing = true ∧ (instX t n).key = none ∧
      (instX t n).mts = ((List.range 256).filter (fun e => rd s .MT_CTRL_OWNER e = n && flag s .MT_CTRL_ARMED e)).map (mtRecord s) ∧
      (∀ e < 256, rd s .MT_CTRL_OWNER e = n → flag t .MT_CTRL_ARMED e = false) ∧ FldFrame s t [.IN_STATUS_STATE, .MT_CTRL_ARMED, .IN_RESULT_RESULT, .IN_RESULT_BUSY] ∧ t.mem = s.mem ∧ t.cores = s.cores)) ∧
    (st = 5 →
      (∀ sec ≤ own.length,
        let len := if sec = 0 then (controlPlain s n).length else 2 ^ 30
        arg + 64 + len + 16 * ((len + 65535) / 65536) ≤ deckBytes → Does (.save who n sec) s (fun t => Res 0 t ∧ (instX t n).key.isSome = true ∧ (s.deck.chans = [] → FldFrame s t [.IN_RESULT_RESULT, .IN_RESULT_BUSY]) ∧
          ∃ bs : List Byte, bs.length = 64 + len + 16 * ((len + 65535) / 65536) ∧ bs.take 4 = natLe 4 0x424C4F42 ∧ t.mem = (orderWriteBytes s (myDev s * 2 ^ 40 + arg) bs turnpikeWriter).mem)) ∧
      (x.key = none → ∀ b, Does (.wrap who n b) s (Only 2)) ∧
      (x.key ≠ none →
        (∀ b, b = false ∨ flag s .SEC_STATUS_DEBUG = true → Does (.wrap who n b) s (Only 6)) ∧
        (flag s .SEC_STATUS_DEBUG = false → arg + 16384 ≤ deckBytes → Does (.wrap who n true) s (fun t => Res 0 t ∧ (s.deck.chans = [] → FldFrame s t [.IN_RESULT_RESULT, .IN_RESULT_BUSY]) ∧
          ∃ bs : List Byte, bs.length = 1280 ∧ bs.take 4 = natLe 4 0x50415257 ∧ t.mem = (orderWriteBytes s (myDev s * 2 ^ 40 + arg + 12288) bs turnpikeWriter).mem))) ∧
      (∀ p, x.unwrapped = none ∨ p = none → Does (.restore who n p) s (fun t => Res 6 t ∧ (instX t n).incomplete = true ∧ t.mem = s.mem ∧ FldFrame s t [.IN_RESULT_RESULT, .IN_RESULT_BUSY])) ∧
      (∀ (blob : Nat) (p : List Byte), x.unwrapped = some blob →
        let h := orderBytes s (myDev s * 2 ^ 40 + arg) 64
        let sec := bn h 12 4
        bn h 0 4 = 0x424C4F42 → bn h 8 4 = blob → bn h 24 8 = p.length →
        (x.restored.contains sec = true ∨ bn h 4 1 ≠ 1 → Does (.restore who n (some p)) s (fun t => Res 7 t ∧ (instX t n).incomplete = true ∧ t.mem = s.mem)) ∧
        (bn h 4 1 = 1 → x.restored.contains sec = false →
          (sec = 0 → Does (.restore who n (some p)) s (fun t => t = restoreControl s n (bn h 16 4) (bn h 32 2) p)) ∧
          (sec ≠ 0 → x.restored ≠ [] → sec < x.sections → x.restored.length + 1 < x.sections → Does (.restore who n (some p)) s (fun t => Res 0 t ∧ (instX t n).restored = x.restored ++ [sec] ∧
            t.mem = (orderWriteBytes s (myDev s * 2 ^ 40 + (x.unitMap.getD (sec - 1) (0, 0)).2 * 2 ^ 30) p turnpikeWriter).mem)))) ∧
      (x.incomplete = true → Does (.thaw who n) s (Only 7)) ∧
      (x.incomplete = false → Does (.thaw who n) s (fun t => Res 0 t ∧ rd t .IN_STATUS_STATE n = 1 ∧ (instX t n).key = none ∧ (instX t n).mts = [])))) ∧
  (∀ (s : State) (n : Nat), 0 < n → n ≤ 64 →
    let st := instState s n
    let x := instX s n
    (st ≠ 0 → rd s .PS_STATUS_STATE = 3 → Does (.flr n) s (fun t => n ∈ t.boot.flrLater ∧ t = { s with boot := { s.boot with flrLater := t.boot.flrLater } })) ∧
    (st ≠ 0 → rd s .PS_STATUS_STATE ≠ 3 → x.kind = 0 → x.freezing = false → Does (.flr n) s (fun t => rd t .IN_STATUS_STATE n = 2 ∧ (instX t n).kind = 2 ∧ (instX t n).since = s.now ∧
      (∀ e < 256, rd s .MT_CTRL_OWNER e = n → flag t .MT_CTRL_ARMED e = false) ∧ FldFrame s t [.IN_STATUS_STATE, .MT_CTRL_ARMED] ∧ t.mem = s.mem)) ∧
    (x.freezing = true →
      (frozenNow s n = false → Does (.drainDeadline n) s (fun t => t = s)) ∧
      (frozenNow s n = true → Does (.drainDeadline n) s (fun t => rd t .IN_STATUS_STATE n = 5 ∧ rd t .IN_RESULT_RESULT n = 0 ∧ rd t .IN_RESULT_BUSY n = 0 ∧ (instX t n).freezing = false ∧ t.mem = s.mem ∧ t.cores = s.cores))) ∧
    (st = 2 → x.freezing = false → x.kind ≠ 0 →
      let due := x.since + rd s .IN_CFG_DRAIN_US n * 1000
      (drained s n = false → s.now < due → Does (.drainDeadline n) s (fun t => t = s)) ∧
      (drained s n = true ∨ due ≤ s.now →
        ((∃ e ∈ s.sched.ctxs, getCtx s e.1 = some e.2 ∧ e.2.inst = n ∧ e.2.st ≠ .dead ∧ e.2.st ≠ .killing) → Does (.drainDeadline n) s (fun t => rd t .IN_STATUS_STATE n = 3 ∧
          (∀ c y, getCtx t c = some y → y.inst = n → y.st = .killing ∨ y.st = .dead) ∧ FldFrame s t [.IN_STATUS_STATE] ∧ t.mem = s.mem ∧ t.cores = s.cores)) ∧
        ((∀ e ∈ s.sched.ctxs, e.2.inst ≠ n) → s.sched.seqCmds = [] → flag s .IN_CFG_SCRUB_ON_RESET n = false →
          (x.kind = 1 ∨ x.kind = 2 → Does (.drainDeadline n) s (fun t => rd t .IN_STATUS_STATE n = 1 ∧ rd t .IN_STATUS_RESET_DONE n = 1 ∧ rd t .IN_STATUS_BY_FLR n = (if x.kind = 2 then 1 else 0) ∧
            rd t .IN_STATUS_GEN n = (rd s .IN_STATUS_GEN n + 1) % 256 ∧ (instX t n).kind = 0 ∧ (∀ c ∈ t.host.cmds, fnNum c.ref.fid ≠ n) ∧
            (∀ w, rd s .IN_WM_BASE n ≤ w → w < rd s .IN_WM_BASE n + 2 ^ rd s .IN_WM_LOG2 n → getWm t w = {}) ∧ ∀ r < 32, rd t .RING_CFG_EN (rkey (instFn s n) r) = 0)) ∧
          (x.kind = 3 → Does (.drainDeadline n) s (fun t => rd t .IN_STATUS_STATE n = 0 ∧ rd t .IN_RESULT_RESULT n = 0 ∧ rd t .IN_RESULT_BUSY n = 0 ∧ (∀ c, inCores t n c = false) ∧
            ∀ u < 384, rd t .IN_UNIT_DATA_OWNER u = n → rd t .IN_UNIT_DATA_STATE u ≠ 1 ∧ rd t .IN_UNIT_DATA_STATE u ≠ 3)))))) ∧
  (∀ (s : State) (unit : Nat), unit < 384 → s.inst.scrubs.find? (fun u => u / 96 = unit / 96) = some unit → unitQuiet s unit = true → dieUp s (unit / 96) = true → diesRun s = true →
    let Zero : State → Prop := fun t => unit ∉ t.inst.scrubs ∧ (∀ a, a / 2 ^ 30 = unit → pageOf a ∉ s.deck.retired → readByte t.mem a = 0) ∧
      (∀ a, (a / 2 ^ 30 ≠ unit ∨ pageOf a ∈ s.deck.retired) → readByte t.mem a = readByte s.mem a)
    (rd s .IN_UNIT_DATA_OWNER unit = 0 → s.inst.keep.getD unit 0 = 0 → Does (.unitScrubDone unit) s (fun t => Zero t ∧ rd t .IN_UNIT_DATA_STATE unit = 0 ∧ rd t .IN_UNIT_DATA_OWNER unit = 0)) ∧
    (∀ n, 0 < n → n ≤ 64 → rd s .IN_UNIT_DATA_OWNER unit = n → s.inst.keep.getD unit 0 = 1 → unitsIn s n [2] = [unit] → instState s n = 4 → (instX s n).kind = 4 →
      Does (.unitScrubDone unit) s (fun t => Zero t ∧ rd t .IN_UNIT_DATA_STATE unit = 1 ∧ rd t .IN_UNIT_DATA_OWNER unit = n ∧ rd t .IN_STATUS_STATE n = 1 ∧ rd t .IN_RESULT_RESULT n = 0 ∧ rd t .IN_RESULT_BUSY n = 0))) ∧
  (∀ (s : State) (who : Who) (n : Nat) (ok : Bool), (who = .mc ∨ ∃ a, who = .pf a) → 0 < n → n ≤ 64 → flag s .SEC_RESULT_BUSY = false →
    let b := orderBytes s (myDev s * 2 ^ 40 + rd s .SEC_ARG_ARG) 12
    let Sec : Nat → State → Prop := fun c t => rd t .SEC_RESULT_RESULT = c ∧ rd t .SEC_RESULT_BUSY = 0 ∧ FldFrame s t [.SEC_RESULT_RESULT, .SEC_RESULT_BUSY] ∧ t.mem = s.mem ∧ t.cores = s.cores
    (instState s n ≠ 5 → Does (.unwrap who n ok) s (Sec 3)) ∧
    (instState s n = 5 → (flag s .SEC_STATUS_DEBUG = true ∨ ok = false ∨ bn b 0 4 ≠ 0x50415257) → Does (.unwrap who n ok) s (Sec 2)) ∧
    (instState s n = 5 → flag s .SEC_STATUS_DEBUG = false → ok = true → bn b 0 4 = 0x50415257 → Does (.unwrap who n ok) s (fun t => Sec 0 t ∧ (instX t n).unwrapped = some (bn b 8 4) ∧ (instX t n).restored = [])))

/-- Resets, boot and power states (R429, R432-R441, R443, R445-R447, R453, R497, R501, R503): what a cold, a warm and a host hot reset leave, with each reset class of the retention table; a start that goes on, that
fails, or that ends in verge mode; Hold, Watch, Trim and Run, entered and left; and what a wake does with what a power loss took. Which values of RESET_N's width reset, between 100 ns and 1 µs, is a free value (log 123, DESIGN CHOICE). -/
def Obligations.BootAndPower : Prop :=
  let Kept : State → Nat → Prop := fun s a => a < deckBytes ∧ pageOf a ∈ s.deck.retired
  let reports : List Fld := [.PS_REPORT_REASON, .PS_REPORT_STEP, .PS_REPORT_DETAIL, .PS_REPORT_START_S]
  let Gone : State → Prop := fun t => t.cores = [] ∧ t.sched.ctxs = [] ∧ t.coh.lines = [] ∧ t.coh.net = [] ∧ t.wm.marks = [] ∧ t.link.ports = [] ∧ t.inst.x = [] ∧ t.boot.vio = false
  let Cold : State → Nat → State → Prop := fun s c t =>
    t.pending = s.pending ∧ t.now = s.now ∧ rd t .PS_STATUS_LAST_RESET = c ∧ rd t .PS_BOOT_FAILS = min (rd s .PS_BOOT_FAILS + 1) 15 ∧ Gone t ∧
      (∀ a, (Kept s a → readByte t.mem a = readByte s.mem a) ∧ (¬Kept s a → readByte t.mem a = 0)) ∧
      (rd s .PS_BOOT_FAILS < 3 → rd t .PS_STATUS_STATE = 0 ∧ rd t .PS_BOOT_VERGE = 0 ∧ (rd t .PS_BOOT_LAST_STEP = 2 ∨ rd t .PS_BOOT_LAST_STEP = 4) ∧ t.boot.began.isSome = true) ∧
      (3 ≤ rd s .PS_BOOT_FAILS → rd t .PS_STATUS_STATE = 5 ∧ rd t .PS_BOOT_VERGE = 1 ∧ rd t .PS_BOOT_LAST_STEP = 1 ∧ t.boot.began = none) ∧
      (∀ f i, f.spec.cls ∈ [Cls.warm, .host, .flr, .die, .core] → f ≠ .HA_LINK_VERGE → rd t f i = f.dflt i) ∧
      ∀ f i, f.spec.cls = .persist → f ∉ [Fld.PS_BOOT_FAILS, .SEC_STATUS_PREFERRED, .SEC_STATUS_TRIAL, .HA_MODE_SPLIT_NEXT, .HA_MODE_MAX_RATE_NEXT] → f ∉ reports → rd t f i = rd s f i
  let Start4 : State → State → Prop := fun s t => rd t .PS_STATUS_STATE = 0 ∧ rd t .PS_STATUS_TRANSITION = 0 ∧ rd t .PS_BOOT_LAST_STEP = 4 ∧ t.boot.began = some s.time.mst ∧ t.boot.hold = .awake ∧
    t.boot.wakeReq = none ∧ t.boot.vio = true ∧ t.boot.banks = s.boot.banks
  let Asleep : State → Nat → State → Prop := fun s n t => rd t .PS_STATUS_STATE = n ∧ rd t .PS_STATUS_TRANSITION = 0 ∧ rd t .PS_STATUS_HOLD_COUNT = min (rd s .PS_STATUS_HOLD_COUNT + 1) 65535 ∧
    (∀ c, (getCore t c).ctx = none ∧ (getCore t c).groups = []) ∧ t.coh.lines = [] ∧ t.coh.net = [] ∧ t.sup.flash.mst = mstNow s
  let Held : State → State → Prop := fun s t => Asleep s 3 t ∧ t.boot.hold = .asleep ∧ t.boot.holdAt = s.now ∧ t.boot.holdReq = false ∧ (∀ d < 4, rd t .PW_DIE_STATUS_TRANSITION d = 0) ∧
    (∀ a, deckBytes ≤ a → readByte t.mem a = 0) ∧ (∀ ch, (getChan t ch).wcb = [] ∧ (getChan t ch).queue = []) ∧ ∀ w, (getWm t w).watch = 0
  let InWatch : State → State → Prop := fun s t => rd t .PS_STATUS_STATE = 4 ∧ t.boot.hold = .awake ∧ t.boot.began = none ∧ t.boot.vio = false ∧ t.sched.ctxs = [] ∧ t.coh.lines = [] ∧ t.coh.net = [] ∧ t.wm.marks = [] ∧
    (∀ c, (getCore t c).ctx = none ∧ (getCore t c).groups = []) ∧ (SMap.wf s.inst.x → ∀ n, (instX t n).key = (instX s n).key) ∧
    (∀ a, ¬(a < deckBytes ∧ pageOf a ∈ t.deck.retired) → readByte t.mem a = 0) ∧
    (∀ f i, f.spec.cls ∈ [Cls.warm, .host, .flr, .die, .core] → f ∉ powFlds → rd t f i = f.dflt i)
  let Woken : State → Nat → State → Prop := fun s c t =>
    (rd s .PS_STATUS_STATE = 4 → Start4 s t ∧ rd t .PS_STATUS_WAKE_CAUSE = c ∧ FldFrame s t [.PS_STATUS_STATE, .PS_STATUS_TRANSITION, .PS_BOOT_LAST_STEP, .PS_STATUS_WAKE_CAUSE]) ∧
    (rd s .PS_STATUS_STATE = 3 ∨ (rd s .PS_STATUS_STATE ≠ 4 ∧ s.boot.hold = .entering) → t = { s with boot := { s.boot with wakeReq := some (s.boot.wakeReq.getD c) } }) ∧
    (rd s .PS_STATUS_STATE ≠ 3 → rd s .PS_STATUS_STATE ≠ 4 → s.boot.hold ≠ .entering → t = s)
  let Entering : State → State → Prop := fun s t => t.boot.hold = .entering ∧ t.boot.holdFrom = s.now ∧ t.boot.holdReq = true ∧ rd t .PS_STATUS_TRANSITION = 1 ∧ rd t .PS_STATUS_STATE = rd s .PS_STATUS_STATE ∧
    (∀ h < 8, rd t .PW_HALF_STATUS_RATIO h = 15) ∧ (∀ d < 4, rd t .PW_DIE_STATUS_CODE d = 0) ∧ t.mem = s.mem ∧
    (∀ c, (getCore t c).ctx = (getCore s c).ctx ∧ ((getCore s c).ctx.isSome = true → (getCore t c).preempting = true ∨ c ∈ t.sched.wantPre)) ∧
    (rd s .RL_TEST_STATUS_STATE ≠ 1 → FldFrame s t [.PS_STATUS_TRANSITION] powFlds) ∧ (rd s .RL_TEST_STATUS_STATE = 1 → rd t .RL_TEST_STATUS_STATE = 0 ∧ rd t .RL_TEST_STATUS_ABORTED = 1)
  ∀ s : State,
    let st := rd s .PS_STATUS_STATE
    (∀ c, Does (.coldReset c) s (fun t => Cold s (if c = 3 ∨ c = 4 then c else 1) t ∧ (∀ k ∈ t.boot.keys, k.role = .deviceId → k.priv = none) ∧ ∀ k ∈ wrapKeys, k ∈ t.boot.keys)) ∧
    (mcRuns s = false → Does .warmReset s (fun t => t = s)) ∧
    (mcRuns s = true → Does .warmReset s (fun t => Start4 s t ∧ rd t .PS_STATUS_LAST_RESET = 2 ∧ t.sched.ctxs = [] ∧ t.coh.lines = [] ∧ t.coh.net = [] ∧ t.wm.marks = [] ∧ t.inst.x = [] ∧
      (∀ c, (getCore t c).ctx = none ∧ (getCore t c).groups = []) ∧ (∀ a, ¬(a < deckBytes ∧ pageOf a ∈ t.deck.retired) → readByte t.mem a = 0) ∧
      (∀ f i, f.spec.cls ∈ [Cls.warm, .host, .flr, .die, .core] → f ∉ powFlds → rd t f i = f.dflt i) ∧
      (∀ e < 256, rd s .MT_CTRL_OWNER e ≠ 0 → rd t .MT_CTRL_ARMED e = 0) ∧ ∀ i, rd t .SEC_STATUS_PREFERRED i = rd s .SEC_STATUS_PREFERRED i ∧ rd t .KB_CTRL_LEVEL i = rd s .KB_CTRL_LEVEL i)) ∧
    (∀ ns, (ns < 100 → Does (.resetNLow ns) s (fun t => t = s)) ∧ (1000 ≤ ns → Does (.resetNLow ns) s (fun t => exec .warmReset s = .next t)) ∧
      (100 ≤ ns → ns < 1000 → Does (.resetNLow ns) s (fun t =>
        let s1 : State := { s with freeCtr := s.freeCtr + 1 }
        t = s1 ∨ exec .warmReset s1 = .next t))) ∧
    (∀ att kind,
      (3 < kind ∨ att ∉ attachments s → Does (.hostHotReset att kind) s (fun t => t = s)) ∧
      (kind ≤ 3 → att ∈ attachments s → Does (.hostHotReset att kind) s (fun t => rd t .HA_ATTACH_LOST (att * 128) = 1 ∧
        rd t .HA_ATTACH_ATTACH_GEN (att * 128) = (rd s .HA_ATTACH_ATTACH_GEN (att * 128) + 1) % 65536 ∧ (∃ b, t.host.left.get att = some (b, true)) ∧ t.mem = s.mem ∧ t.cores = s.cores ∧ t.sched.ctxs = s.sched.ctxs ∧
        (∀ f ∈ attFns att, ∀ r < 32, rd t .RING_STATUS_DETACHED (rkey f r) = 1 ∧
          (kind ≠ 3 → ∀ x ∈ regsFn.flatMap (·.flds), x.spec.cls = .flr → x ≠ .RING_STATUS_DETACHED → rd t x (rkey f r) = x.dflt (rkey f r))) ∧
        ∀ x i, x.spec.cls ∈ [Cls.cold, .warm, .persist] → x ∉ regsFn.flatMap (·.flds) → rd t x i = rd s x i))) ∧
    Does .clearFails s (fun t => rd t .PS_BOOT_FAILS = 0 ∧ FldFrame s t [.PS_BOOT_FAILS] ∧ t = { s with flds := t.flds }) ∧
    (st = 2 → s.boot.hold = .awake → Does .reqRun s (fun t => rd t .PS_STATUS_STATE = 1 ∧ FldFrame s t [.PS_STATUS_STATE] powFlds ∧ t.mem = s.mem ∧ t.cores = s.cores)) ∧
    (¬(st = 2 ∧ s.boot.hold = .awake) → Does .reqRun s (Woken s 1)) ∧
    (st = 1 → s.boot.hold = .awake → Does .reqTrim s (fun t => rd t .PS_STATUS_STATE = 2 ∧ (∀ d ∈ upDies s, rd t .PW_DIE_STATUS_CODE d ≤ rd s .PW_DIE_CTRL_TRIM_CEIL d) ∧
      FldFrame s t [.PS_STATUS_STATE] powFlds ∧ t.mem = s.mem ∧ t.cores = s.cores)) ∧
    (¬(st = 1 ∧ s.boot.hold = .awake) → Does .reqTrim s (fun t => t = s)) ∧
    (diesRun s = true → s.boot.hold = .awake → resetting s = false → Does .reqHold s (fun t => Entering s t ∧ t.boot.watchReq = s.boot.watchReq) ∧ Does .reqWatch s (fun t => Entering s t ∧ t.boot.watchReq = true) ∧
      (s.boot.holdReq = true → Does .holdEntry s (Entering s))) ∧
    (diesRun s = true → s.boot.hold = .awake → resetting s = true → Does .reqHold s (fun t => t = { s with boot := { s.boot with holdReq := true } }) ∧
      Does .reqWatch s (fun t => t = { s with boot := { s.boot with holdReq := true, watchReq := true } }) ∧ Does .holdEntry s (fun t => t = s)) ∧
    (s.boot.hold ≠ .awake → Does .reqHold s (fun t => t = s) ∧ (diesRun s = true → Does .reqWatch s (fun t => t = { s with boot := { s.boot with watchReq := true } }))) ∧
    (st = 0 → starting s = true → mcRuns s = true → s.boot.hold = .awake → Does .reqHold s (fun t => Held s t ∧ t.boot.resume = true ∧ rd t .PS_BOOT_LAST_STEP = rd s .PS_BOOT_LAST_STEP ∧ t.boot.began = s.boot.began)) ∧
    (diesRun s = false → st ≠ 3 → Does .reqWatch s (fun t => t = s)) ∧
    (st = 3 → (s.boot.wakeReq = none → Does .reqWatch s (InWatch s)) ∧ (s.boot.wakeReq ≠ none → Does .reqWatch s (fun t => t = s))) ∧
    (s.boot.hold = .awake → s.boot.holdReq = false → Does .holdEntry s (fun t => t = s)) ∧
    (s.boot.hold = .entering →
      (coresEmpty s = false → Does .holdEntry s (fun t => t = s)) ∧
      (∀ die line, coresEmpty s = true → partials s = [(die, line)] → Does .holdEntry s (fun t => t = pushPartial s die line [])) ∧
      (coresEmpty s = true → partials s = [] → fabricQuiet s = false → Does .holdEntry s (fun t => t = s)) ∧
      (coresEmpty s = true → partials s = [] → fabricQuiet s = true →
        (s.boot.watchReq = true → s.boot.wakeReq = none → Does .holdEntry s (fun t => rd t .PS_STATUS_HOLD_COUNT = min (rd s .PS_STATUS_HOLD_COUNT + 1) 65535 ∧ rd t .PS_STATUS_STATE = 4)) ∧
        (s.boot.watchReq = false ∨ s.boot.wakeReq ≠ none → Does .holdEntry s (fun t => Held s t ∧ t.boot.watchReq = false ∧ t.boot.wakeReq = s.boot.wakeReq ∧
          (s.deck.chans = [] → dirtyHome s = [] → ∀ a < deckBytes, readByte t.mem a = readByte s.mem a) ∧
          (∀ e, s.deck.chans = [] → dirtyHome s = [e] → ∀ a < deckBytes, readByte t.mem a = readByte (putDeck s (locLine (e.1 % 2 ^ 46)) (orderLine s (e.1 % 2 ^ 46))).mem a))))) ∧
    ((diesRun s = false ∨ inputLow s = false) → Does .holdEntryPowerLoss s (fun t => t = s)) ∧
    (diesRun s = true → s.boot.watchReq = false →
      let Lost : State → Prop := fun t => Held s t ∧ rd t .PS_STATUS_HOLD_LOSS = min (rd s .PS_STATUS_HOLD_LOSS + 1) 65535 ∧
        ∀ c n, (getCore s c).ctx = some n → (getCore s c).blocks ≠ [] → n ∈ t.boot.lost
      (inputLow s = true → Does .holdEntryPowerLoss s Lost) ∧
      (10 ≤ s.sup.ov → s.sup.stageOff = false → mcRuns s = true → s.boot.vio = false → Does .stage1OvStop s (fun t => Lost t ∧ t.sup.stageOff = true))) ∧
    (
       let Down : State → Prop := fun t => t.boot.vio = false ∧ (∀ p < 8, rd t .LK_STATUS_STATE p = 0 ∧ rd t .LK_STATUS_WIDTH p = 0) ∧ (∀ a ∈ attachments s, rd t .HA_ATTACH_LOST (a * 128) = 1) ∧
        rd t .PS_STATUS_STATE = st ∧ t.mem = s.mem ∧ t.cores = s.cores
      (st = 3 → s.boot.vio = true → inputLow s = true → Does .vioLoss s Down) ∧
      (st ≠ 3 ∨ s.boot.vio = false ∨ inputLow s = false → Does .vioLoss s (fun t => t = s)) ∧
      (s.sup.ov < 10 ∨ s.sup.stageOff = true ∨ mcRuns s = false → Does .stage1OvStop s (fun t => t = s)) ∧
      (10 ≤ s.sup.ov → s.sup.stageOff = false → mcRuns s = true → diesRun s = false → s.boot.vio = true → Does .stage1OvStop s (fun t => Down t ∧ t.sup.stageOff = true))) ∧
    (∀ b, s.sup.goodSince = some b →
      let ok := flag s .PS_CFG_AUTO_WAKE = true ∧ s.sup.stageOff = false ∧ s.boot.holdFrom ≤ b ∧ b + rd s .PS_CFG_WAKE_DELAY * 10000000 ≤ s.now
      (ok → Does .autoWake s (Woken s 2)) ∧ (¬ok → Does .autoWake s (fun t => t = s))) ∧
    (∀ port,
      (port < 8 → flag s .PS_CFG_LINK_WAKE = true → s.boot.vio = false → Does (.linkWake port) s (Woken s 3)) ∧
      (8 ≤ port ∨ flag s .PS_CFG_LINK_WAKE = false ∨ s.boot.vio = true → Does (.linkWake port) s (fun t => t = s))) ∧
    (∀ b, s.sup.okSince = some b → s.sup.stageOff = true → b + 100000000 ≤ s.now → Does .stage1Restart s (Woken { s with sup := { s.sup with stageOff := false } } 2)) ∧
    (
      let ok := st = 3 ∧ rd s .PS_CFG_HOLD_MAX_S ≠ 0 ∧ s.boot.holdAt + rd s .PS_CFG_HOLD_MAX_S * 1000000000 ≤ s.now ∧ s.boot.wakeReq = none
      (ok → Does .holdMaxExpiry s (InWatch s)) ∧ (¬ok → Does .holdMaxExpiry s (fun t => t = s))) ∧
    (s.boot.wakeReq = none ∨ st ≠ 3 ∨ s.boot.hold ≠ .asleep ∨ inputLow s = true ∨ s.sup.stageOff = true → Does .wakeFromHold s (fun t => t = s)) ∧
    (∀ c, s.boot.wakeReq = some c → st = 3 → s.boot.hold = .asleep → inputLow s = false → s.sup.stageOff = false →
      let Up : State → Prop := fun t => rd t .PS_STATUS_WAKE_CAUSE = c % 16 ∧ t.boot.hold = .awake ∧ t.boot.wakeReq = none ∧ t.boot.watchReq = false ∧ t.boot.vio = true
      (s.boot.resume = true → Does .wakeFromHold s (fun t => Up t ∧ rd t .PS_STATUS_STATE = 0 ∧ t.boot.heldNs = s.boot.heldNs + (s.now - s.boot.holdFrom) ∧ t.boot.began = s.boot.began ∧ t.mem = s.mem)) ∧
      (s.boot.resume = false → s.boot.dieLater = [] → s.boot.flrLater = [] → Does .wakeFromHold s (fun t => Up t ∧ rd t .PS_STATUS_STATE = 1 ∧
        (∀ p ∈ s.boot.lostPages, rd s .DK_RETIRE_COUNT_COUNT + s.boot.lostPages.length ≤ 16384 → p ∈ t.deck.retired) ∧
        (∀ n ∈ s.boot.lost, ∀ x, getCtx s n = some x → x.st ≠ .dead → x.st ≠ .killing → ∃ y, getCtx t n = some y ∧ y.st = .killing ∧ y.mgr = true) ∧
        (s.time.snaps = [] → t.mem = s.mem)))) ∧
    (∀ (dead closed bad : List Nat),
      (st ≠ 0 ∨ rd s .PS_BOOT_LAST_STEP ≠ 4 ∨ starting s = false ∨ inputGood s = false ∨ flag s .KB_STATUS_SHED = true → Does (.bootInputGood dead closed bad) s (fun t => t = s)) ∧
      (st = 0 → rd s .PS_BOOT_LAST_STEP = 4 → starting s = true → inputGood s = true → flag s .KB_STATUS_SHED = false → s.die.faulted = [] →
        (∀ h < 8, ∃ c ∈ liveS s h, c ∉ dead) → Does (.bootInputGood dead [] []) s (fun t => rd t .PS_STATUS_STATE = 1 ∧ rd t .PS_BOOT_LAST_STEP = 8 ∧ rd t .PS_BOOT_FAILS = 0 ∧ rd t .PS_STATUS_DIE_DOWN = 0 ∧
          t.boot.began = none ∧ t.boot.vio = true ∧ (∀ c ∈ dead, coreLive t c = false) ∧ (∀ c, c ∉ dead → coreLive t c = coreLive s c) ∧
          (flag s .SEC_STATUS_TRIAL = true → s.boot.running = rd s .SEC_STATUS_PREFERRED → rd t .SEC_STATUS_TRIAL = 0 ∧
            rd t .SEC_STATUS_MIN_SVN = max (rd s .SEC_STATUS_MIN_SVN) (((getBank s s.boot.running).map (·.img.svn)).getD 0) % 128) ∧
          (s.time.snaps = [] → ∀ a, (Kept s a → readByte t.mem a = readByte s.mem a) ∧ (¬Kept s a → readByte t.mem a = 0))))) ∧
    (∀ reason detail : Nat,
      (s.boot.began = none ∨ st ≠ 0 → Does (.startTimeout reason detail) s (fun t => t = s)) ∧
      (∀ b, s.boot.began = some b → st = 0 →
        let Fail : Nat → Nat → State → Prop := fun r d t => Cold s 1 t ∧ rd t .PS_REPORT_REASON 0 = r ∧ rd t .PS_REPORT_DETAIL 0 = d ∧ rd t .PS_REPORT_STEP 0 = rd s .PS_BOOT_LAST_STEP % 16 ∧
          rd t .PS_REPORT_START_S 0 = s.boot.startS % 2 ^ 32 ∧ rd t .PS_REPORT_REASON 1 = rd s .PS_REPORT_REASON 0 % 256 ∧ rd t .PS_REPORT_REASON 2 = rd s .PS_REPORT_REASON 1 % 256
        (s.time.mst < b + s.boot.heldNs + 30000000000 → Does (.startTimeout reason detail) s (fun t => t = s)) ∧
        (b + s.boot.heldNs + 30000000000 ≤ s.time.mst → s.boot.lateReport = none →
          (rd s .PS_BOOT_LAST_STEP = 2 → Does (.startTimeout reason detail) s (Fail 1 ((rd s .PS_BANK_BANK_A + 256 * rd s .PS_BANK_BANK_B) % 65536))) ∧
          (rd s .PS_BOOT_LAST_STEP = 5 → Does (.startTimeout reason detail) s (Fail 5 (rd s .PS_STATUS_DIE_DOWN % 65536))) ∧
          (rd s .PS_BOOT_LAST_STEP = 4 → reason = 3 → ¬(40000 ≤ s.sup.busMv ∧ s.sup.busMv ≤ 60000) → Does (.startTimeout reason detail) s (Fail 3 (s.sup.busMv / 10 % 65536))) ∧
          (rd s .PS_BOOT_LAST_STEP = 4 → reason ∈ [4, 6, 7, 8, 9] → Does (.startTimeout reason detail) s (Fail reason (detail % 65536))) ∧
          (rd s .PS_BOOT_LAST_STEP = 4 → reason ∉ [3, 4, 6, 7, 8, 9] → Does (.startTimeout reason detail) s (Fail 10 4))))) ∧
    (rd s .PS_BOOT_LAST_STEP = 0 → Does .mcWatchdog s (fun t => t = s)) ∧
    (rd s .PS_BOOT_LAST_STEP ≠ 0 → Does .mcWatchdog s (fun t => Cold s 3 t ∧ (starting s = true → t.boot.lateReport = some (2, rd s .PS_BOOT_LAST_STEP, rd s .PS_BOOT_LAST_STEP, s.boot.startS) ∨
      (rd t .PS_REPORT_REASON 0 = 2 ∧ rd t .PS_REPORT_STEP 0 = rd s .PS_BOOT_LAST_STEP % 16)))) ∧
    Does .standbyLoss s (fun t => rd t .PS_BOOT_LAST_STEP = 0 ∧ rd t .PS_STATUS_STATE = 0 ∧ t.sup.stbyMv = 0 ∧ Gone t ∧ (∀ a, (Kept s a → readByte t.mem a = readByte s.mem a) ∧ (¬Kept s a → readByte t.mem a = 0)) ∧
      ∀ f i, f.spec.cls = .persist → f ≠ .HA_MODE_SPLIT_NEXT → f ≠ .HA_MODE_MAX_RATE_NEXT → rd t f i = rd s f i)

/-- Firmware, attestation, fences, tests and ageing (R431, R448-R458, R465, R470, R471, R473, R475, R476, R478-R481): an update is written to the other bank and becomes a trial only if it verifies; the responder
answers, and reports an unlocked device; a fence takes a core out of service and a test brings it back, or not; a core reset; a resurvey never raises a ceiling and never lowers a table. SPDM's codes and bytes are the
model's (log 125, DESIGN CHOICE). -/
def Obligations.SecurityAndReliability : Prop :=
  let liveFlds : List Fld := [.ORG_LIVE_LIVE, .ORG_LIVE_COUNT_LIVE_M, .ORG_LIVE_COUNT_LIVE_V, .ORG_LIVE_COUNT_LIVE_S, .ORG_LIVE_COUNT_CHANGES]
  let logFlds : List Fld := [.RL_ERR_HEAD_COUNT, .RL_ERR_HEAD_WRAPPED]
  let fenceFlds : List Fld := [.RL_FENCE_STATUS_CORE, .RL_FENCE_STATUS_BUSY, .RL_FENCE_STATUS_FENCES, .TH_TICKET_WAIT_MAX_COUNT]
  let testFlds : List Fld := [.RL_TEST_STATUS_CORE, .RL_TEST_STATUS_STATE, .RL_TEST_STATUS_PHASE, .RL_TEST_STATUS_ABORTED, .RL_TEST_STATUS_TESTS, .RL_TEST_STATUS_FAILS]
  let bankFlds : List Fld := [.PS_BANK_BANK_A, .PS_BANK_BANK_B, .PS_BANK_VER_A, .PS_BANK_VER_B, .SEC_STATUS_FAIL_A, .SEC_STATUS_FAIL_B]
  let Logged : State → Nat → Nat → Nat → State → Prop := fun s code loc detail t =>
    ∃ r : ErrRec, t.rel.log.get (rd s .RL_ERR_HEAD_COUNT % 1024) = some r ∧ r.code = code ∧ r.loc = loc ∧ r.detail = detail
  let Only : State → Nat → State → Prop := fun s core t => coreLive t core = false ∧ (∀ c, c ≠ core → coreLive t c = coreLive s c) ∧
    rd t (liveCountFld core) = (rd s (liveCountFld core) - 1) % 2 ^ (liveCountFld core).spec.w ∧ rd t .ORG_LIVE_COUNT_CHANGES = (rd s .ORG_LIVE_COUNT_CHANGES + 2) % 65536 ∧
    (getCore t core).gated = true ∧ (getCore t core).halted = true ∧ (getCore t core).l1 = [] ∧ (getCore t core).tlb = [] ∧ (getCore t core).outs = [] ∧ (getCore t core).ctx = (getCore s core).ctx ∧
    (∀ c, c ≠ core → getCore t c = getCore s c) ∧ t.coh.lines = s.coh.lines ∧ t.mem = s.mem ∧ (∀ q ∈ t.coh.refused, q.msg.req ≠ .core core) ∧
    (∀ e ∈ t.coh.tickets, ∀ x ∈ e.2, x.agent ≠ .core core) ∧ ((∀ e ∈ s.coh.tickets, ∀ x ∈ e.2, x.agent ≠ .core core) → t.coh.net = s.coh.net) ∧
    rd t .RL_FENCE_STATUS_FENCES = min (rd s .RL_FENCE_STATUS_FENCES + 1) 65535
  (∀ (s : State) (img : Image),
    let st := rd s .PS_STATUS_STATE
    let run := mcRuns s = true ∨ st = 5
    (¬run ∨ flag s .SEC_STATUS_TRIAL = true → Does (.firmwareUpdate img) s (fun t => t = s)) ∧
    (run → flag s .SEC_STATUS_TRIAL = false →
      let k := imageStep s { img := img }
      (∀ b, st ≠ 5 → b = 1 - s.boot.running →
        (k ≠ 0 → Does (.firmwareUpdate img) s (fun t => t.boot.banks.get b = some { img := img } ∧ rd t .SEC_STATUS_PREFERRED = rd s .SEC_STATUS_PREFERRED ∧ rd t .SEC_STATUS_TRIAL = rd s .SEC_STATUS_TRIAL ∧
          rd t (if b = 0 then .SEC_STATUS_FAIL_A else .SEC_STATUS_FAIL_B) = k ∧ tb (rd t (if b = 0 then .PS_BANK_BANK_A else .PS_BANK_BANK_B)) 1 = false ∧ FldFrame s t bankFlds ∧ t = { s with flds := t.flds, boot := t.boot })) ∧
        (k = 0 → Does (.firmwareUpdate img) s (fun t => t.boot.banks.get b = some { img := img } ∧ rd t .SEC_STATUS_PREFERRED = b ∧ rd t .SEC_STATUS_TRIAL = 1 ∧
          tb (rd t (if b = 0 then .PS_BANK_BANK_A else .PS_BANK_BANK_B)) 1 = true ∧ FldFrame s t [.SEC_STATUS_PREFERRED, .SEC_STATUS_TRIAL] bankFlds ∧ t = { s with flds := t.flds, boot := t.boot }))) ∧
      (st = 5 → k = 0 → ∀ b, b < 2 → tb (rd s .PS_BANK_BANK_A) 1 = decide (b = 1) → tb (rd s .PS_BANK_BANK_B) 1 = decide (b = 0) →
        Does (.firmwareUpdate img) s (fun t => rd t .PS_STATUS_STATE = 0 ∧ rd t .PS_STATUS_LAST_RESET = 4 ∧ rd t .PS_BOOT_FAILS = 1 ∧ rd t .PS_BOOT_LAST_STEP = 4 ∧ rd t .SEC_STATUS_PREFERRED = b ∧
          rd t .SEC_STATUS_TRIAL = 1 ∧ t.boot.running = b ∧ t.boot.banks.get b = some { img := img } ∧ t.cores = []))) ∧
    (mcRuns s = true → flag s .SEC_STATUS_TRIAL = true → Does .firmwareActivate s (fun t => exec (.coldReset 4) s = .next t)) ∧
    (mcRuns s = false ∨ flag s .SEC_STATUS_TRIAL = false → Does .firmwareActivate s (fun t => t = s))) ∧
  (∀ (s : State) (asym hash slot off len nonce index : Nat) (signed ed ml : Bool),
    let c := s.boot.spdm
    let Sgn : List Nat → List Nat := fun l => if signed = true then l ++ aliasSigs s l else l
    let Ans : Nat → Nat × Nat → List Nat → State → Prop := fun code c l t => t = { s with boot := { s.boot with spdm := c }, host := { s.host with reply := .data (Config.spdm code (c.1 :: c.2 :: l)) } }
    (mcRuns s = false → ∀ i ∈ ([.getVersion, .getCapabilities, .negotiateAlgorithms asym hash, .getDigests, .getCertificate slot off len, .challenge slot nonce, .getMeasurements index signed, .debugUnlock ed ml] : List Instr),
      Does i s (fun t => t = s)) ∧
    (mcRuns s = true →
      Does .getVersion s (Ans 0x04 (1, 0) []) ∧ Does .getCapabilities s (Ans 0x61 (if c.1 = 0 then 0 else 2, 0) []) ∧ Does .getDigests s (Ans 0x01 c ([0, 1] ++ slotChain s 0 ++ slotChain s 1)) ∧
      Does (.negotiateAlgorithms asym hash) s (fun t => (asym.testBit 9 = true → hash.testBit 1 = true → Ans 0x63 (if c.1 < 2 then c.1 else 3, 3) [] t) ∧
        (asym.testBit 9 = false → hash.testBit 1 = false → Ans 0x63 (if c.1 < 2 then c.1 else 3, 0) [] t) ∧ t.flds = s.flds ∧ t.cores = s.cores ∧ t.mem = s.mem) ∧
      (slot ≤ 1 → Does (.getCertificate slot off len) s (Ans 0x02 c ([slot, off, len] ++ slotChain s slot)) ∧
        Does (.challenge slot nonce) s (fun t => ∃ l, let m := slot :: nonce :: l ++ [8, rd s .SEC_STATUS_DEBUG]; Ans 0x03 c (m ++ aliasSigs s m) t)) ∧
      (1 < slot → Does (.getCertificate slot off len) s (Ans 0x7F c [slot]) ∧ Does (.challenge slot nonce) s (Ans 0x7F c [slot])) ∧
      (index = 0 → Does (.getMeasurements index signed) s (Ans 0x60 c (Sgn [signed.toNat, rd s .SEC_STATUS_DEBUG, 8]))) ∧
      (index = 8 → Does (.getMeasurements index signed) s (Ans 0x60 c (Sgn [signed.toNat, rd s .SEC_STATUS_DEBUG, 8, rd s .SEC_STATUS_DEBUG]))) ∧
      (∀ v, index ∉ [0, 8, 255] → s.boot.meas.get index = some v → Does (.getMeasurements index signed) s (Ans 0x60 c (Sgn [signed.toNat, rd s .SEC_STATUS_DEBUG, index, v]))) ∧
      (index = 255 → Does (.getMeasurements index signed) s (fun t => ∃ l, Ans 0x60 c (Sgn (signed.toNat :: rd s .SEC_STATUS_DEBUG :: l ++ [8, rd s .SEC_STATUS_DEBUG])) t)) ∧
      (index ∉ [0, 8, 255] → s.boot.meas.get index = none → Does (.getMeasurements index signed) s (Ans 0x7F c [index])) ∧
      (ed = true → ml = true → Does (.debugUnlock ed ml) s (fun t => rd t .SEC_STATUS_DEBUG = 1 ∧ FldFrame s t [.SEC_STATUS_DEBUG] ∧ t = { s with flds := t.flds })) ∧
      (ed = false ∨ ml = false → Does (.debugUnlock ed ml) s (fun t => t = s)))) ∧
  (∀ (s : State) (core cause : Nat),
    let live := coreLive s core
    let idle := (getCore s core).ctx = none
    let busy := flag s .RL_FENCE_STATUS_BUSY
    let mine := ∃ x, s.rel.fencing = some (core, x)
    (cause ∉ [1, 3] ∨ 832 ≤ core ∨ busy = true → Does (.fencePlanned core cause) s (fun t => t = s)) ∧
    (cause ∈ [1, 3] → core < 832 → busy = false →
      (live = false → Does (.fencePlanned core cause) s (fun t => rd t .RL_FENCE_STATUS_CORE = core ∧ FldFrame s t [.RL_FENCE_STATUS_CORE] ∧ t = { s with flds := t.flds })) ∧
      (live = true → idle → Does (.fencePlanned core cause) s (fun t => Only s core t ∧ Logged s 0x0701 core cause t ∧ rd t .RL_FENCE_STATUS_CORE = core ∧ rd t .RL_FENCE_STATUS_BUSY = 0 ∧ t.rel.fencing = none ∧
        t.sched.faults = s.sched.faults ∧ FldFrame s t (liveFlds ++ logFlds ++ fenceFlds))) ∧
      (live = true → ¬idle → Does (.fencePlanned core cause) s (fun t => rd t .RL_FENCE_STATUS_CORE = core ∧ rd t .RL_FENCE_STATUS_BUSY = 1 ∧ t.rel.fencing = some (core, cause) ∧ coreLive t core = true ∧
        ((getCore s core).preempting = true ∨ core ∈ t.sched.wantPre) ∧ t.cores = s.cores ∧ t.mem = s.mem ∧ FldFrame s t [.RL_FENCE_STATUS_CORE, .RL_FENCE_STATUS_BUSY]))) ∧
    (
     let may := cause = 2 ∨ cause = 5 ∨ (cause = 4 ∧ core ∈ s.rel.mustFence)
     let waits := cause = 2 ∧ busy = true ∧ ¬mine
     (¬may ∨ 832 ≤ core ∨ waits → Does (.fenceForced core cause) s (fun t => t = s)) ∧
     (may → core < 832 → ¬waits →
      (live = true → Does (.fenceForced core cause) s (fun t => Only s core t ∧ Logged s 0x0701 core cause t ∧ core ∉ t.rel.mustFence ∧ core ∉ t.sched.wantPre ∧ (getCore t core).preempting = false ∧
        (∀ n, (getCore s core).ctx = some n → ∃ r l, t.sched.faults = s.sched.faults ++ r :: l ∧ r.ctx = n ∧ r.code = 0x0401 ∧ r.detail = core ∧ r.core = core ∧ (∀ f ∈ l, f.ctx = n ∧ f.code = 0x0206 ∧ f.core = core) ∧
          l.length = (s.coh.refused.filter (fun q => q.msg.req = .core core && q.msg.kind ≠ .strip)).length) ∧ (idle → t.sched.faults = s.sched.faults) ∧
        (s.rel.fencing = none ∨ mine → t.rel.fencing = none ∧ rd t .RL_FENCE_STATUS_BUSY = 0) ∧ (∀ x, s.rel.fencing = some x → ¬mine → t.rel.fencing = some x ∧ rd t .RL_FENCE_STATUS_BUSY = 1) ∧
        FldFrame s t (liveFlds ++ logFlds ++ fenceFlds))) ∧
      (live = false → Does (.fenceForced core cause) s (fun t => core ∉ t.rel.mustFence ∧ (cause = 2 → rd t .RL_FENCE_STATUS_CORE = core) ∧
        (rd s .RL_TEST_STATUS_STATE = 1 → rd s .RL_TEST_STATUS_CORE = core → t.rel.testForced = true) ∧ FldFrame s t [.RL_FENCE_STATUS_CORE] ∧ t = { s with flds := t.flds, rel := t.rel }))))) ∧
  (∀ (s : State) (core : Nat),
    let testing := rd s .RL_TEST_STATUS_STATE = 1
    let factory := core < 832 ∧ (rd s .ORG_FACTORY_LIVE_LIVE (core / 64)).testBit (core % 64) = true
    let Runs : State → Prop := fun t => rd t .RL_TEST_STATUS_CORE = core ∧ rd t .RL_TEST_STATUS_STATE = 1 ∧ rd t .RL_TEST_STATUS_PHASE = 1 ∧ rd t .RL_TEST_STATUS_ABORTED = 0 ∧
      rd t .RL_TEST_STATUS_TESTS = min (rd s .RL_TEST_STATUS_TESTS + 1) 65535 ∧ core ∉ t.rel.cands
    (testing ∨ ¬factory → Does (.onlineTest core false) s (fun t => rd t .RL_TEST_STATUS_REFUSED = 1 ∧ FldFrame s t [.RL_TEST_STATUS_REFUSED] ∧ t = { s with flds := t.flds }) ∧
      Does (.onlineTest core true) s (fun t => t = s)) ∧
    (flag s .RL_CFG_AUTO_TEST = false ∨ s.rel.cands.head? ≠ some core → Does (.onlineTest core true) s (fun t => t = s)) ∧
    (¬testing → factory → ∀ auto, auto = false ∨ (flag s .RL_CFG_AUTO_TEST = true ∧ s.rel.cands.head? = some core) →
      (coreLive s core = false → Does (.onlineTest core auto) s (fun t => Runs t ∧ FldFrame s t testFlds ∧ t = { s with flds := t.flds, rel := t.rel })) ∧
      (coreLive s core = true → flag s .RL_FENCE_STATUS_BUSY = true → (∀ x, s.rel.fencing ≠ some (core, x)) → Does (.onlineTest core auto) s (fun t => t = s)) ∧
      (coreLive s core = true → flag s .RL_FENCE_STATUS_BUSY = false → (getCore s core).ctx = none → Does (.onlineTest core auto) s (fun t => Runs t ∧ Only s core t ∧ Logged s 0x0701 core 3 t ∧
        FldFrame s t (liveFlds ++ logFlds ++ fenceFlds ++ testFlds))) ∧
      (coreLive s core = true → flag s .RL_FENCE_STATUS_BUSY = false → (getCore s core).ctx ≠ none → Does (.onlineTest core auto) s (fun t => Runs t ∧ coreLive t core = true ∧ rd t .RL_FENCE_STATUS_BUSY = 1 ∧
        t.rel.fencing = some (core, 3) ∧ t.cores = s.cores ∧ t.mem = s.mem))) ∧
    (¬testing → Does .testAbort s (fun t => t = s)) ∧
    (testing → Does .testAbort s (fun t => rd t .RL_TEST_STATUS_STATE = 0 ∧ rd t .RL_TEST_STATUS_ABORTED = 1 ∧ Logged s 0x0704 (rd s .RL_TEST_STATUS_CORE) 3 t ∧
      FldFrame s t ([.RL_TEST_STATUS_STATE, .RL_TEST_STATUS_ABORTED] ++ logFlds) ∧ t = { s with flds := t.flds, rel := t.rel })) ∧
    (∀ failPhase us, rd s .RL_TEST_STATUS_CORE = core →
      let phases := if coreType core = 1 then [1, 2, 3, 4, 5, 6, 7] else [1, 2, 3, 4, 7]
      let code := rd s .PW_DIE_STATUS_CODE (coreDie core)
      (¬testing ∨ coreLive s core = true ∨ (∃ x, s.rel.fencing = some (core, x)) ∨ (failPhase ≠ 0 ∧ failPhase ∉ phases) → Does (.testComplete failPhase us) s (fun t => t = s)) ∧
      (testing → coreLive s core = false → core < 832 → (∀ x, s.rel.fencing ≠ some (core, x)) →
        (failPhase = 0 → Does (.testComplete failPhase us) s (fun t => rd t .RL_TEST_STATUS_STATE = 2 ∧ rd t .RL_TEST_STATUS_PHASE = 0 ∧ Logged s 0x0702 core (us % 2 ^ 32 + code * 2 ^ 32) t ∧ (getCore t core).ctx = none ∧
          (s.rel.testForced = false → stopClosed s core = false → coreLive t core = true ∧ getCore t core = { nextOp := (getCore s core).nextOp, resumes := (getCore s core).resumes, gate := (getCore s core).gate } ∧
            rd t (liveCountFld core) = (rd s (liveCountFld core) + 1) % 2 ^ (liveCountFld core).spec.w ∧ rd t .ORG_LIVE_COUNT_CHANGES = (rd s .ORG_LIVE_COUNT_CHANGES + 2) % 65536) ∧ (s.rel.testForced = true ∨ stopClosed s core = true → coreLive t core = false ∧ (getCore t core).gated = (getCore s core).gated) ∧
          (∀ c, c ≠ core → coreLive t c = coreLive s c ∧ getCore t c = getCore s c) ∧ FldFrame s t (liveFlds ++ logFlds ++ testFlds))) ∧
        (failPhase ∈ phases → Does (.testComplete failPhase us) s (fun t => rd t .RL_TEST_STATUS_STATE = 3 ∧ rd t .RL_TEST_STATUS_PHASE = failPhase ∧
          rd t .RL_TEST_STATUS_FAILS = min (rd s .RL_TEST_STATUS_FAILS + 1) 65535 ∧ Logged s 0x0703 core (failPhase + code * 2 ^ 32) t ∧ coreLive t core = false ∧
          FldFrame s t (logFlds ++ testFlds) ∧ t = { s with flds := t.flds, rel := t.rel })))) ∧
    (832 ≤ core ∨ (getCore s core).ctx ≠ none → Does (.coreReset core) s (fun t => t = s)) ∧
    (core < 832 → (getCore s core).ctx = none → Does (.coreReset core) s (fun t => t.flds = s.flds ∧ (∀ c, c ≠ core → getCore t c = getCore s c) ∧
      getCore t core = { nextOp := (getCore s core).nextOp, resumes := (getCore s core).resumes, gated := (getCore s core).gated, gate := (getCore s core).gate } ∧
      (∀ a, loftAt core ≤ a → a < loftAt core + loftStride → readByte t.mem a = 0) ∧ (∀ a, ¬(loftAt core ≤ a ∧ a < loftAt core + loftStride) → readByte t.mem a = readByte s.mem a) ∧
      (coreType core = 1 → ∀ j < 4, ∀ d ∈ (getChan t (nearChan core + j)).queue, d.turnpike = true ∨ d.core ≠ core) ∧
      (∀ ch, { getChan t ch with queue := [], sub := [] } = { getChan s ch with queue := [], sub := [] }) ∧ (isAgent s core = true → t.sched.agents.get (coreHalf core) = some (0, some s.now)) ∧ t.coh = s.coh))) ∧
  (∀ (s : State) (ppm : List Nat),
    (resurveyDue s = false ∨ diesRun s = false → Does (.resurvey ppm) s (fun t => t = s)) ∧
    (resurveyDue s = true → diesRun s = true → Does (.resurvey ppm) s (fun t =>
      (∀ h < 8,
        let d := ((ppm.drop (16 * h)).take 16).foldl max 0
        let tab := newTable s h d
        let ceil := min (rd s .RL_AGE_STATUS_CEIL h) (((List.range 57).filter (fun c => tab.getD c 0 ≤ 900 - rd s .RL_AGE_CFG_MARGIN_MIN_MV)).getLastD 0)
        (halfAge t h).table = tab ∧ rd t .RL_AGE_STATUS_D_MAX h = d % 65536 ∧ rd t .RL_AGE_STATUS_CEIL h = ceil ∧ rd t .RL_AGE_STATUS_MARGIN_TOP h = wrap 16 (900 - (tab.getD 56 0 : Int)) ∧
        rd t .RL_AGE_STATUS_MARGIN_RATED h = wrap 16 (900 - (tab.getD 42 0 : Int)) ∧ ceil ≤ rd s .RL_AGE_STATUS_CEIL h ∧ (∀ c < 57, (ageTable s h).length = 57 → (ageTable s h).getD c 0 ≤ tab.getD c 0) ∧
        (∃ (k : Nat) (r : ErrRec), t.rel.log.get k = some r ∧ r.code = 0x0801 ∧ r.loc = h) ∧
        (ceil < rd s .RL_AGE_STATUS_CEIL h → ∃ (k : Nat) (r : ErrRec), t.rel.log.get k = some r ∧ r.code = 0x0802 ∧ r.loc = h ∧ r.detail = detail2 (rd s .RL_AGE_STATUS_CEIL h) ceil) ∧
        (900 - (tab.getD 42 0 : Int) < rd s .RL_AGE_CFG_RATED_WARN_MV → tab.getD 42 0 < 2 ^ 15 → ∃ (k : Nat) (r : ErrRec), t.rel.log.get k = some r ∧ r.code = 0x0803 ∧ r.loc = h)) ∧
      (∀ d < 4, rd t .PW_DIE_STATUS_AGE_CEIL d = min (rd t .RL_AGE_STATUS_CEIL (2 * d)) (rd t .RL_AGE_STATUS_CEIL (2 * d + 1))) ∧
      rd t .RL_AGE_HOURS_LAST_RESURVEY_H = rd s .RL_AGE_HOURS_RUN_HOURS % 2 ^ 32 ∧ rd t .RL_AGE_CTRL_BUSY = 0 ∧ t.mem = s.mem ∧ t.cores = s.cores ∧
      FldFrame s t ([.RL_AGE_STATUS_D_MAX, .RL_AGE_STATUS_DV_MV, .RL_AGE_STATUS_CEIL, .RL_AGE_STATUS_MARGIN_TOP, .RL_AGE_STATUS_MARGIN_RATED, .RL_AGE_HOURS_LAST_RESURVEY_H, .RL_AGE_CTRL_BUSY,
        .PW_DIE_STATUS_AGE_CEIL] ++ logFlds) powFlds)) ∧
    (s.boot.runNs < s.boot.hourMark + 3600000000000 → Does (.ageMeasure ppm) s (fun t => t = s)) ∧
    (s.boot.hourMark + 3600000000000 ≤ s.boot.runNs → ppm.length = 128 → Does (.ageMeasure ppm) s (fun t => rd t .RL_AGE_HOURS_RUN_HOURS = (rd s .RL_AGE_HOURS_RUN_HOURS + 1) % 2 ^ 32 ∧
      t.boot.hourMark = s.boot.hourMark + 3600000000000 ∧ (∀ h < 8, halfAge t h = { halfAge s h with d := (ppm.drop (16 * h)).take 16 }) ∧ FldFrame s t [.RL_AGE_HOURS_RUN_HOURS] ∧ t.mem = s.mem ∧ t.cores = s.cores)))

/-- Register writes and invalidations (R4, R6, R7, R8, R312, R331, R372, R373, R447, R487, R488, R494): which writes are ignored; what an 8-byte and a 4-byte write do to each field by its access code; the registers whose write is a
command of its own; function blocks, which a PF reaches from 16 MiB on in this model (log 126, DESIGN CHOICE); mailboxes; and the invalidation of a context's translations. -/
def Obligations.RegisterWrites : Prop :=
  let special : List Fld := [.MST_STATUS_SOURCE, .MST_NEXT_PPS_NEXT, .MST_CTRL_REF_EN, .MT_TIME_TIME, .MT_ANGLE_ANGLE, .MT_ARG0_ARG, .MT_ARG1_ARG, .MT_CTRL_ARMED, .DK_RETIRE_REQ_PAGE, .LK_DEVNUM_DEV, .LK_CTRL_MAX_RATE,
    .TP_CTX_CMD_CONTEXT, .TP_SEQ_BASE_BASE, .IN_CMD_OP, .IN_CFG_ATTACH, .IN_WM_BASE, .IN_SEL_INSTANCE, .IN_UNIT_IDX_UNIT, .IN_RES_WAYS, .IN_ARG_ARG, .IN_CORES_CORES, .IN_STATUS_STATE, .SUP_CTRL_SHED_V, .KB_CTRL_EN,
    .FR_CTRL_MODE, .FR_POINT_OFFSET, .PW_DIE_CTRL_REQ_CODE, .PW_HALF_CTRL_REQ_RATIO, .PS_CTRL_REQ, .PS_CORE_RESET_CORE, .SEC_ARG_ARG, .RL_FENCE_CORE, .RL_TEST_CTRL_CORE, .RL_AGE_CTRL_GO, .AT_INV_CMD_CONTEXT]
  (∀ (s : State) (v : W64),
    let n := bits v.toNat 0 12
    let all := v.toNat.testBit 12 = true
    let go := v.toNat.testBit 15
    ∀ lo hi, (all → lo = 0 ∧ hi = 2 ^ 48) → (¬all → lo = rd s .AT_INV_VA_VA * 65536 ∧ hi = lo + rd s .AT_INV_LEN_LEN * 65536) →
    (flag s .AT_INV_STATUS_BUSY = false → go = false → Does (.atInvalidate v) s (fun t => t = s)) ∧
    (flag s .AT_INV_STATUS_BUSY = false → go = true → Does (.atInvalidate v) s (fun t =>
      (∀ c, ∀ x ∈ (getCore t c).tlb, ¬(lo < hi ∧ x.ctx = n ∧ x.va < hi ∧ lo < x.va + 2 ^ x.log2)) ∧
      (∀ k, ∀ x ∈ t.deck.engTlb.getD k [] ++ t.deck.walkTlb.getD k [], ¬(lo < hi ∧ x.ctx = n ∧ x.va < hi ∧ lo < x.va + 2 ^ x.log2)) ∧
      (∀ c, ∀ x ∈ (getCore s c).tlb, (hi ≤ lo ∨ x.ctx ≠ n ∨ hi ≤ x.va ∨ x.va + 2 ^ x.log2 ≤ lo) → x ∈ (getCore t c).tlb) ∧
      (invalPending s n lo hi = false → rd t .AT_INV_STATUS_BUSY = 0 ∧ rd t .AT_INV_STATUS_DONE = (rd s .AT_INV_STATUS_DONE + 1) % 2 ^ 32 ∧ t.sched.inval = none) ∧
      (invalPending s n lo hi = true → rd t .AT_INV_STATUS_BUSY = 1 ∧ rd t .AT_INV_STATUS_DONE = rd s .AT_INV_STATUS_DONE ∧ t.sched.inval = some (n, lo, hi)) ∧
      FldFrame s t [.AT_INV_STATUS_BUSY, .AT_INV_STATUS_DONE] ∧ t.mem = s.mem ∧ t.coh = s.coh)) ∧
    (∀ m a b, flag s .AT_INV_STATUS_BUSY = true → s.sched.inval = some (m, a, b) →
      (invalPending s m a b = true → Does (.atInvalidate v) s (fun t => t = s)) ∧
      (invalPending s m a b = false → Does (.atInvalidate v) s (fun t => rd t .AT_INV_STATUS_BUSY = 0 ∧ rd t .AT_INV_STATUS_DONE = (rd s .AT_INV_STATUS_DONE + 1) % 2 ^ 32 ∧ t.sched.inval = none ∧
        FldFrame s t [.AT_INV_STATUS_BUSY, .AT_INV_STATUS_DONE] ∧ t.mem = s.mem ∧ t.cores = s.cores)))) ∧
  (∀ (s : State) (who : Who) (off size : Nat) (v : W64), (who = .mc ∧ off ≠ 0x1000028) ∨ (∃ a, a ∈ attachments s ∧ who = .pf a ∧ off < 0x1000000) →
    (accessOk off size = false → Does (.registerWrite who off size v) s (fun t => t = s)) ∧
    (mailAt off = none →
      (regAt regTable (off / 8 * 8) = none → Does (.registerWrite who off size v) s (fun t => t = s)) ∧
      (∀ (r : RegRow) (i : Nat), regAt regTable (off / 8 * 8) = some (r, i) →
        let j := regIndex s r.name i
        let x : Fld → Nat := fun f => bits v.toNat f.spec.lo f.spec.w
        let Here : State → Prop := fun t => t = { s with flds := t.flds } ∧ FldFrame s t r.flds ∧ ∀ f ∈ r.flds, ∀ k, k % 4194304 ≠ j % 4194304 → rd t f k = rd s f k
        (served s off r.name i = false → Does (.registerWrite who off size v) s (fun t => t = s)) ∧
        (size = 4 → wideOnly r.name = true → Does (.registerWrite who off size v) s (fun t => t = s)) ∧
        (served s off r.name i = true → r.name ∉ special →
          (size = 8 → off % 8 = 0 → Does (.registerWrite who off size v) s (fun t => Here t ∧ ∀ f ∈ r.flds,
            (f.spec.acc = .rw → fldOk f (x f) = true → rd t f j = x f) ∧ (f.spec.acc = .rw → fldOk f (x f) = false → rd t f j = rd s f j) ∧
            (f.spec.acc = .w1c → x f ≠ 0 → rd t f j = 0) ∧ (f.spec.acc = .w1c → x f = 0 → rd t f j = rd s f j) ∧ (f.spec.acc = .ro ∨ f.spec.acc = .wo → rd t f j = rd s f j))) ∧
          (size = 4 → off % 4 = 0 → wideOnly r.name = false →
            let at_ := 8 * (off % 8)
            let y : Fld → Nat := fun f => bits v.toNat (f.spec.lo - at_) f.spec.w
            Does (.registerWrite who off size v) s (fun t => Here t ∧ ∀ f ∈ r.flds,
              (at_ ≤ f.spec.lo → f.spec.lo + f.spec.w ≤ at_ + 32 → (f.spec.acc = .rw → fldOk f (y f) = true → rd t f j = y f) ∧ (f.spec.acc = .w1c → y f ≠ 0 → rd t f j = 0)) ∧
              (f.spec.lo + f.spec.w ≤ at_ ∨ at_ + 32 ≤ f.spec.lo → rd s f j < 2 ^ f.spec.w → rd t f j = rd s f j) ∧ (f.spec.acc = .ro ∨ f.spec.acc = .wo → rd t f j = rd s f j)))))) ∧
    (∀ n k, mailAt off = some (n, k) → size = 8 → off % 8 = 0 → served s off .IN_SEL_INSTANCE 0 = true →
      (instWriter s who n = false → Does (.registerWrite who off size v) s (fun t => t = s)) ∧
      (instWriter s who n = true → 0x840 ≤ k → Does (.registerWrite who off size v) s (fun t => t = { s with inst := t.inst } ∧
        (∀ b < 8, readByte t.inst.mail (n * 4096 + k + b) = BitVec.ofNat 8 (v.toNat / 2 ^ (8 * b))) ∧ ∀ a, (a < n * 4096 + k ∨ n * 4096 + k + 8 ≤ a) → readByte t.inst.mail a = readByte s.inst.mail a)) ∧
      (instWriter s who n = true → 0x40 ≤ k → k < 0x800 → Does (.registerWrite who off size v) s (fun t => t = s)) ∧
      (instWriter s who n = true → k = 0x10 → Does (.registerWrite who off size v) s (fun t => ∀ b < 8, readByte t.inst.mail (n * 4096 + 0x10 + b) = BitVec.ofNat 8 (v.toNat / 2 ^ (8 * b)))))) ∧
  (∀ (s : State) (who : Who), who = .mc ∨ (∃ a, a ∈ attachments s ∧ who = .pf a) → rd s .PS_BOOT_LAST_STEP ≠ 0 →
    let Is : Nat → W64 → Instr → Prop := fun off v i => Does (.registerWrite who off 8 v) s (fun t => exec i s = .next t)
    (∀ q ∈ ([(1, .reqRun), (2, .reqTrim), (3, .reqHold), (4, .reqWatch), (0x100, .warmReset), (0x200, .coldReset 1), (0x400, .clearFails), (0x10000, .dieReset 0), (0x20000, .dieReset 1), (0x40000, .dieReset 2),
      (0x80000, .dieReset 3)] : List (Nat × Instr)), Is 0xB0000 (BitVec.ofNat 64 q.1) q.2) ∧
    (∀ v : W64, Is 0x20018 v (.mstNextPpsWrite v) ∧ Is 0x90078 v (.frModeWrite v) ∧ Is 0x90010 v (.supCtrlWrite v) ∧ (flag s .AT_INV_STATUS_BUSY = false → Is 0x20 v (.atInvalidate v)) ∧
      (∀ e < 256, (v.toNat.testBit 0 = true → Is (0x21010 + 64 * e) v (.mtArm e v 0)) ∧ (v.toNat.testBit 0 = false → Is (0x21010 + 64 * e) v (.mtDisarm e v))) ∧
      (∀ d < 4, Is (0xA0000 + 8 * d) v (.reqCodeWrite d v)) ∧ ∀ h < 8, Is (0xA0040 + 8 * h) v (.reqRatioWrite h v)) ∧
    (∀ core < 1024, Is 0xB0040 (BitVec.ofNat 64 (0x8000 + core)) (.coreReset core) ∧ Is 0xD0090 (BitVec.ofNat 64 (0x8000 + core)) (.onlineTest core false) ∧
      (flag s .RL_FENCE_STATUS_BUSY = false → Is 0xD0080 (BitVec.ofNat 64 (0x8000 + core)) (.fencePlanned core 1) ∧ Is 0xD0080 (BitVec.ofNat 64 (0x9000 + core)) (.fenceForced core 2))) ∧
    Is 0xD0090 0x10000 .testAbort ∧
    (rd s .PS_STATUS_STATE = 1 →
      (∀ n < 4096, (∀ q ∈ ([(1, .create n), (2, .suspend n), (3, .resume n), (4, .kill n), (5, .destroy n)] : List (Nat × Instr)), Is 0x80008 (BitVec.ofNat 64 (n + 65536 * q.1)) q.2) ∧
        ∀ w < 65536, Is 0x80008 (BitVec.ofNat 64 (n + 65536 * 6 + 2 ^ 32 * w)) (.setWeight n w)) ∧
      (
       let n := rd s .IN_SEL_INSTANCE
       let arg := rd s .IN_ARG_ARG n
       (instWriter s who n = true →
        (∀ q ∈ ([(1, .enable who n), (2, .disable who n), (3, .reset who n), (4, .freeze who n), (8, .thaw who n), (9, .addUnit who n arg), (10, .removeUnit who n arg), (11, .setCores who n)] : List (Nat × Instr)),
          Is 0x100008 (BitVec.ofNat 64 q.1) q.2) ∧ ∀ sec < 65536, Is 0x100008 (BitVec.ofNat 64 (5 + 65536 * sec)) (.save who n sec)) ∧
       (instWriter s who n = false → ∀ off ∈ [0x100008, 0x100010, 0x100030], ∀ v, Does (.registerWrite who off 8 v) s (fun t => t = s))))) ∧
  (∀ (s : State) (a n size off : Nat) (v : W64),
    (∀ who, who = .mgmt ∨ who = .vf a 0 ∨ (who = .pf a ∧ a ∉ attachments s) → Does (.registerWrite who off size v) s (fun t => t = s)) ∧
    (n ≠ 0 →
      let fid := a * 128 + n
      n < 128 →
      (fnPresent s fid = false ∨ accessOk off size = false → Does (.registerWrite (.vf a n) off size v) s (fun t => t = s)) ∧
      (fnPresent s fid = true →
        let Fn : Nat → Instr → Prop := fun o i => Does (.registerWrite (.vf a n) o 8 v) s (fun t => exec i s = .next t)
        Fn 0x8000 (.doorbell fid v) ∧
        (∀ r < 32, Fn (0x108 + 64 * r) (.ringEnable fid r v) ∧ Fn (0x128 + 64 * r) (.cqHeadWrite fid r v) ∧
          let k := rkey fid r
          (flag s .RING_CFG_EN k = true → Does (.registerWrite (.vf a n) (0x100 + 64 * r) 8 v) s (fun t => rd t .RING_STATUS_CFG_ERR k = 1 ∧ FldFrame s t [.RING_STATUS_CFG_ERR] ∧ t = { s with flds := t.flds })) ∧
          (flag s .RING_CFG_EN k = false → Does (.registerWrite (.vf a n) (0x100 + 64 * r) 8 v) s (fun t => rd t .RING_BASE_BASE k = bits v.toNat 12 52 ∧ FldFrame s t [.RING_BASE_BASE] ∧ t = { s with flds := t.flds }))) ∧
        (∀ k, 0x40 ≤ k → k < 0x800 → k % 8 = 0 →
          (instState s n ∈ [2, 3, 4] → Does (.registerWrite (.vf a n) (0xF000 + k) 8 v) s (fun t => t = s)) ∧
          (instState s n ∉ [2, 3, 4] → Does (.registerWrite (.vf a n) (0xF000 + k) 8 v) s (fun t => t = { s with inst := t.inst } ∧
            ∀ b < 8, readByte t.inst.mail (n * 4096 + k + b) = BitVec.ofNat 8 (v.toNat / 2 ^ (8 * b))))))) ∧
    (a ∈ attachments s → Does (.registerWrite (.pf a) 0x1000008 8 v) s (fun t => exec (.attachAck a a (bits v.toNat 32 16)) s = .next t) ∧
      Does (.registerWrite (.pf a) 0x1000028 8 v) s (fun t => exec (.haModeWrite a v) s = .next t)))
end

