-- ==== Sys2Proof/Laws/SMap.lean ====
section
/-! SUPPORT. Sparse maps: read after write, and the canonical form that every operation keeps. -/

namespace Sys2Proof.Machine

variable {V : Type}

@[simp] theorem SMap.get_nil (k : Nat) : SMap.get ([] : SMap V) k = none := rfl

theorem SMap.get_put (m : SMap V) (k j : Nat) (v : V) : (m.put k v).get j = if j = k then some v else m.get j := by
  induction m with
  | nil => simp [SMap.put, SMap.get, eq_comm]
  | cons e t ih =>
    obtain ⟨a, w⟩ := e
    simp only [SMap.put]
    split
    · simp only [SMap.get, eq_comm (a := k)]
    · split
      · rename_i h; subst h
        simp only [SMap.get, eq_comm (a := k)]
        split <;> simp_all
      · rename_i h
        simp only [SMap.get, ih]
        by_cases e : a = j
        · subst e; simp [Ne.symm h]
        · simp [e]

@[simp] theorem SMap.get_put_self (m : SMap V) (k : Nat) (v : V) : (m.put k v).get k = some v := by simp [SMap.get_put]

theorem SMap.get_del (m : SMap V) (k j : Nat) : (m.del k).get j = if j = k then none else m.get j := by
  induction m with
  | nil => simp [SMap.del]
  | cons e t ih =>
    obtain ⟨a, w⟩ := e
    simp only [SMap.del] at ih ⊢
    by_cases h : a = k
    · subst h
      simp only [List.filter, ne_eq, not_true_eq_false, decide_false, ih, SMap.get]
      by_cases e : j = a
      · simp [e]
      · simp [e, Ne.symm e]
    · simp only [List.filter, h, ne_eq, not_false_eq_true, decide_true, SMap.get, ih]
      by_cases e : a = j
      · subst e; simp [h]
      · simp [e]

theorem SMap.get_set [DecidableEq V] (m : SMap V) (k j : Nat) (d v : V) :
    (m.set k d v).get j = if j = k then (if v = d then none else some v) else m.get j := by
  unfold SMap.set
  split <;> simp [SMap.get_put, SMap.get_del]

/-- Reading back what was set: the value at the key, and everything else as before. -/
theorem SMap.getD_set [DecidableEq V] (m : SMap V) (k j : Nat) (d v e : V) :
    (m.set k d v).getD j e = if j = k then (if v = d then e else v) else m.getD j e := by
  simp only [SMap.getD, SMap.get_set]
  split
  · split <;> simp
  · rfl

@[simp] theorem SMap.getD_set_self [DecidableEq V] (m : SMap V) (k : Nat) (d v : V) : (m.set k d v).getD k d = v := by
  simp only [SMap.getD_set, if_true]; split <;> simp_all

theorem SMap.getD_set_ne [DecidableEq V] (m : SMap V) {k j : Nat} (d v e : V) (h : j ≠ k) : (m.set k d v).getD j e = m.getD j e := by
  simp [SMap.getD_set, h]

theorem SMap.getD_put (m : SMap V) (k j : Nat) (v e : V) : (m.put k v).getD j e = if j = k then v else m.getD j e := by
  simp only [SMap.getD, SMap.get_put]; split <;> simp

/-- Every key of `put` is the new one or an old one. -/
theorem SMap.mem_put {m : SMap V} {k : Nat} {v : V} {e : Nat × V} (h : e ∈ m.put k v) : e = (k, v) ∨ e ∈ m := by
  induction m with
  | nil => simpa [SMap.put] using h
  | cons a t ih =>
    obtain ⟨a, w⟩ := a
    simp only [SMap.put] at h
    split at h
    · simpa using h
    · split at h
      · simp at h; tauto
      · simp at h; rcases h with h | h
        · simp [h]
        · rcases ih h with h | h <;> simp [h]

theorem SMap.wf_put {m : SMap V} (h : m.wf) (k : Nat) (v : V) : (m.put k v).wf := by
  induction m with
  | nil => simp [SMap.wf, SMap.put]
  | cons a t ih =>
    obtain ⟨a, w⟩ := a
    have ht : SMap.wf t := List.Pairwise.of_cons h
    have ha : ∀ e ∈ t, a < e.1 := fun e he => List.rel_of_pairwise_cons h he
    simp only [SMap.put]
    split
    · rename_i hk
      refine List.Pairwise.cons (fun e he => ?_) h
      simp at he; rcases he with rfl | he
      · exact hk
      · exact lt_trans hk (ha e he)
    · split
      · rename_i hk; subst hk; exact List.Pairwise.cons ha ht
      · rename_i h1 h2
        refine List.Pairwise.cons (fun e he => ?_) (ih ht)
        rcases SMap.mem_put he with rfl | he
        · simp; omega
        · exact ha e he

theorem SMap.wf_filter {m : SMap V} (h : m.wf) (p : Nat × V → Bool) : SMap.wf (m.filter p) := List.Pairwise.filter p h

theorem SMap.wf_del {m : SMap V} (h : m.wf) (k : Nat) : (m.del k).wf := SMap.wf_filter h _

theorem SMap.wf_set [DecidableEq V] {m : SMap V} (h : m.wf) (k : Nat) (d v : V) : (m.set k d v).wf := by
  unfold SMap.set; split
  · exact SMap.wf_del h k
  · exact SMap.wf_put h k v

/-- In canonical form a filter that goes by key keeps exactly the entries of the keys it passes. -/
theorem SMap.get_filter_key (m : SMap V) (p : Nat → Bool) (k : Nat) :
    SMap.get (m.filter (fun e => p e.1)) k = if p k then m.get k else none := by
  induction m with
  | nil => simp [SMap.get]
  | cons e t ih =>
    obtain ⟨a, w⟩ := e
    by_cases h : p a
    · simp only [List.filter, h, SMap.get, ih]
      by_cases e : a = k
      · subst e; simp [h]
      · simp [e]
    · simp only [List.filter, h, SMap.get, ih]
      by_cases e : a = k
      · subst e; simp [h]
      · simp [e]

/-! ### Memory -/

@[simp] theorem readByte_writeByte (m : List Host.Cell) (a : Nat) (b : Byte) : readByte (writeByte m a b) a = b := by
  simp [readByte, writeByte]

theorem readByte_writeByte_ne (m : List Host.Cell) {a c : Nat} (b : Byte) (h : c ≠ a) : readByte (writeByte m a b) c = readByte m c := by
  simp [readByte, writeByte, SMap.getD_set_ne _ _ _ _ h]

theorem Memory.wf_writeByte {m : List Host.Cell} (h : Memory.wf m) (a : Nat) (b : Byte) : Memory.wf (writeByte m a b) := by
  refine ⟨SMap.wf_set h.1 a 0 b, fun c hc => ?_⟩
  unfold writeByte SMap.set at hc
  split at hc
  · exact h.2 c (List.mem_of_mem_filter hc)
  · rcases SMap.mem_put hc with rfl | hc
    · assumption
    · exact h.2 c hc

theorem Memory.wf_writeBytes {m : List Host.Cell} (h : Memory.wf m) (a : Nat) (bs : List Byte) : Memory.wf (writeBytes m a bs) := by
  induction bs generalizing m a with
  | nil => exact h
  | cons b t ih => exact ih (Memory.wf_writeByte h a b) (a + 1)

theorem Memory.wf_writeNat {m : List Host.Cell} (h : Memory.wf m) (a n v : Nat) : Memory.wf (writeNat m a n v) :=
  Memory.wf_writeBytes h a _

theorem Memory.wf_filter {m : List Host.Cell} (h : Memory.wf m) (p : Host.Cell → Bool) : Memory.wf (m.filter p) :=
  ⟨SMap.wf_filter h.1 p, fun c hc => h.2 c (List.mem_of_mem_filter hc)⟩

/-- Bytes outside the written range are as before. -/
theorem readByte_writeBytes_out (m : List Host.Cell) (a c : Nat) (bs : List Byte) (h : c < a ∨ a + bs.length ≤ c) :
    readByte (writeBytes m a bs) c = readByte m c := by
  induction bs generalizing m a with
  | nil => rfl
  | cons b t ih =>
    simp only [List.length_cons] at h
    rw [writeBytes, ih _ (a + 1) (by omega), readByte_writeByte_ne _ _ (by omega)]

/-- Bytes of the written range read as written. -/
theorem readByte_writeBytes_in (m : List Host.Cell) (a k : Nat) (bs : List Byte) (h : k < bs.length) :
    readByte (writeBytes m a bs) (a + k) = bs[k] := by
  induction bs generalizing m a k with
  | nil => simp at h
  | cons b t ih =>
    cases k with
    | zero => rw [writeBytes, readByte_writeBytes_out _ _ _ _ (by omega)]; simp
    | succ k =>
      have := ih (writeByte m a b) (a + 1) k (by simpa using h)
      simpa [writeBytes, Nat.add_assoc, Nat.add_comm 1 k] using this

end Sys2Proof.Machine
end

