-- ==== Sys2Proof/Laws/Flds.lean ====
section
/-! SUPPORT. Register fields: what a write changes, widths, and what each named operation leaves as it was. -/

namespace Sys2Proof.Machine

theorem Fld.ctorIdx_inj {f h : Fld} (e : f.ctorIdx = h.ctorIdx) : f = h := by
  rw [← Fld.ofNat_ctorIdx f, ← Fld.ofNat_ctorIdx h, e]

/-- Keys of different fields differ, and copies of one field share a key only beyond the copies there are. -/
theorem Fld.key_eq {f h : Fld} {i j : Nat} : f.key i = h.key j ↔ f = h ∧ i % 4194304 = j % 4194304 := by
  constructor
  · intro e
    unfold Fld.key at e
    have hc : f.ctorIdx = h.ctorIdx := by omega
    exact ⟨Fld.ctorIdx_inj hc, by omega⟩
  · rintro ⟨rfl, e⟩; unfold Fld.key; omega

theorem Fld.key_ne {f h : Fld} (i j : Nat) (e : f ≠ h) : f.key i ≠ h.key j := fun k => e (Fld.key_eq.1 k).1

@[simp] theorem rd_wr_self (s : State) (f : Fld) (i v : Nat) : rd (wr s f i v) f i = v % 2 ^ f.spec.w := by simp [rd, wr]

theorem rd_wr_fld (s : State) {f h : Fld} (i j v : Nat) (e : h ≠ f) : rd (wr s f i v) h j = rd s h j := by
  simp [rd, wr, SMap.getD_set_ne _ _ _ _ (Fld.key_ne j i e)]

theorem rd_wr_copy (s : State) (f : Fld) {i j : Nat} (v : Nat) (e : j % 4194304 ≠ i % 4194304) : rd (wr s f i v) f j = rd s f j := by
  have : f.key j ≠ f.key i := fun k => e (Fld.key_eq.1 k).2
  simp [rd, wr, SMap.getD_set_ne _ _ _ _ this]

/-- A write of a field reads back at that field alone. -/
theorem rd_wr (s : State) (f h : Fld) (i j v : Nat) (hi : i < 4194304) (hj : j < 4194304) :
    rd (wr s f i v) h j = if h = f ∧ j = i then v % 2 ^ f.spec.w else rd s h j := by
  by_cases e : h = f
  · subst e
    by_cases k : j = i
    · subst k; simp
    · rw [rd_wr_copy _ _ _ (by omega)]; simp [k]
  · rw [rd_wr_fld _ _ _ _ e]; simp [e]

/-- A register read looks at the register fields alone. -/
theorem rd_congr {s t : State} (h : s.flds = t.flds) (f : Fld) (i : Nat) : rd s f i = rd t f i := by simp [rd, h]

@[simp] theorem wr_mem (s : State) (f : Fld) (i v : Nat) : (wr s f i v).mem = s.mem := rfl
@[simp] theorem wr_pending (s : State) (f : Fld) (i v : Nat) : (wr s f i v).pending = s.pending := rfl
@[simp] theorem wr_now (s : State) (f : Fld) (i v : Nat) : (wr s f i v).now = s.now := rfl
@[simp] theorem wr_freeCtr (s : State) (f : Fld) (i v : Nat) : (wr s f i v).freeCtr = s.freeCtr := rfl
@[simp] theorem wr_cyc (s : State) (f : Fld) (i v : Nat) : (wr s f i v).cyc = s.cyc := rfl
@[simp] theorem wr_cores (s : State) (f : Fld) (i v : Nat) : (wr s f i v).cores = s.cores := rfl
@[simp] theorem wr_coh (s : State) (f : Fld) (i v : Nat) : (wr s f i v).coh = s.coh := rfl
@[simp] theorem wr_deck (s : State) (f : Fld) (i v : Nat) : (wr s f i v).deck = s.deck := rfl
@[simp] theorem wr_wm (s : State) (f : Fld) (i v : Nat) : (wr s f i v).wm = s.wm := rfl
@[simp] theorem wr_die (s : State) (f : Fld) (i v : Nat) : (wr s f i v).die = s.die := rfl
@[simp] theorem wr_time (s : State) (f : Fld) (i v : Nat) : (wr s f i v).time = s.time := rfl
@[simp] theorem wr_sched (s : State) (f : Fld) (i v : Nat) : (wr s f i v).sched = s.sched := rfl
@[simp] theorem wr_sup (s : State) (f : Fld) (i v : Nat) : (wr s f i v).sup = s.sup := rfl
@[simp] theorem wr_pow (s : State) (f : Fld) (i v : Nat) : (wr s f i v).pow = s.pow := rfl
@[simp] theorem wr_boot (s : State) (f : Fld) (i v : Nat) : (wr s f i v).boot = s.boot := rfl
@[simp] theorem wr_link (s : State) (f : Fld) (i v : Nat) : (wr s f i v).link = s.link := rfl
@[simp] theorem wr_rel (s : State) (f : Fld) (i v : Nat) : (wr s f i v).rel = s.rel := rfl
@[simp] theorem wr_host (s : State) (f : Fld) (i v : Nat) : (wr s f i v).host = s.host := rfl
@[simp] theorem wr_inst (s : State) (f : Fld) (i v : Nat) : (wr s f i v).inst = s.inst := rfl

/-- What holds of every element of a list and of the default holds of `getD`. -/
theorem List.getD_of_all {α : Type} {P : α → Prop} (l : List α) (i : Nat) (d : α) (h : ∀ x ∈ l, P x) (hd : P d) : P (l.getD i d) := by
  rw [List.getD_eq_getElem?_getD]
  cases e : l[i]? with
  | none => simpa using hd
  | some x => simpa using h x (List.mem_of_getElem? e)

/-- The default of every copy of a field fits its width. -/
theorem Fld.dflt_lt (f : Fld) (i : Nat) : f.dflt i < 2 ^ f.spec.w := by
  by_cases h1 : f = .FR_POINT_OFFSET
  · subst h1; exact List.getD_of_all (P := fun p => p.1 < 2 ^ 16) frCurve i (0, 0) (by decide) (by decide)
  by_cases h2 : f = .FR_POINT_CAP_PM
  · subst h2; exact List.getD_of_all (P := fun p => p.2 < 2 ^ 10) frCurve i (0, 0) (by decide) (by decide)
  by_cases h3 : f = .TP_EWEIGHT_PJ
  · subst h3; exact List.getD_of_all (P := fun p => p < 2 ^ 32) [150, 900, 100, 900, 10, 80, 16] i 0 (by decide) (by decide)
  have h : f.dflt i = f.spec.dflt := by
    unfold Fld.dflt; split
    · exact absurd rfl h1
    · exact absurd rfl h2
    · exact absurd rfl h3
    · rfl
  rw [h]
  cases f <;> decide

end Sys2Proof.Machine
end

