-- ==== Sys2Proof/Laws/Deck.lean ====
section
/-! SUPPORT. What the allocator of first touch can answer (R223, R224). -/

namespace Sys2Proof.Machine

/-- A channel has no free page for an instance that owns no unit of the channel's die. -/
theorem freePages_nil {s : State} {inst ch : Nat} (h : ∀ u < 96, rd s .IN_UNIT_DATA_OWNER (ch / 512 * 96 + u) = inst → rd s .IN_UNIT_DATA_STATE (ch / 512 * 96 + u) ≠ 1) :
    freePages s inst ch = [] := by
  have e : (List.range 96).filter (fun u => rd s .IN_UNIT_DATA_OWNER (ch / 512 * 96 + u) = inst && rd s .IN_UNIT_DATA_STATE (ch / 512 * 96 + u) = 1) = [] := by
    simp only [List.filter_eq_nil_iff, List.mem_range]
    intro u hu; simpa using h u hu
  rw [freePages, chanPages]; simp only [e, List.flatMap_nil, List.filter_nil]

/-- Among channels without a free page none has the most. -/
theorem mostFree_none {s : State} {inst : Nat} {l : List Nat} (h : ∀ ch ∈ l, freePages s inst ch = []) : mostFree s inst l = none := by
  unfold mostFree
  induction l with
  | nil => rfl
  | cons a l ih => simpa [h a (by simp)] using ih (fun ch m => h ch (by simp [m]))

/-- Without a free page a first touch finds no channel. -/
theorem touchChan_none {s : State} {x : Ctx} (v : Nat) (core : Option Nat) (eng : Bool) (h : ∀ ch, freePages s x.inst ch = []) : touchChan s x v core eng = none := by
  have m : ∀ l, mostFree s x.inst l = none := fun l => mostFree_none (fun ch _ => h ch)
  cases core with
  | none => simp [touchChan, h, m]
  | some c =>
    simp only [touchChan, h, m, List.isEmpty_nil, Bool.not_true]
    split <;> simp_all

end Sys2Proof.Machine
end

