-- ==== Sys2Proof/Laws/State.lean ====
section
/-! SUPPORT. The accessors of State's parts: what each update changes, field by field. -/

namespace Sys2Proof.Machine

/-! ### Cores and groups -/

@[simp] theorem getCore_setCore_self (s : State) (c : Nat) (k : Core) : getCore (setCore s c k) c = k := by simp [getCore, setCore]

theorem getCore_setCore (s : State) (c d : Nat) (k : Core) : getCore (setCore s c k) d = if d = c then k else getCore s d := by
  by_cases h : d = c
  · subst h; simp
  · simp [getCore, setCore, SMap.getD_set_ne _ _ _ _ h, h]

@[simp] theorem setCore_flds (s : State) (c : Nat) (k : Core) : (setCore s c k).flds = s.flds := rfl
@[simp] theorem setCore_mem (s : State) (c : Nat) (k : Core) : (setCore s c k).mem = s.mem := rfl
@[simp] theorem setCore_sched (s : State) (c : Nat) (k : Core) : (setCore s c k).sched = s.sched := rfl
@[simp] theorem setCore_coh (s : State) (c : Nat) (k : Core) : (setCore s c k).coh = s.coh := rfl
@[simp] theorem setCore_deck (s : State) (c : Nat) (k : Core) : (setCore s c k).deck = s.deck := rfl
@[simp] theorem setCore_wm (s : State) (c : Nat) (k : Core) : (setCore s c k).wm = s.wm := rfl
@[simp] theorem setCore_time (s : State) (c : Nat) (k : Core) : (setCore s c k).time = s.time := rfl
@[simp] theorem setCore_cyc (s : State) (c : Nat) (k : Core) : (setCore s c k).cyc = s.cyc := rfl
@[simp] theorem setCore_now (s : State) (c : Nat) (k : Core) : (setCore s c k).now = s.now := rfl
@[simp] theorem setCore_pending (s : State) (c : Nat) (k : Core) : (setCore s c k).pending = s.pending := rfl
@[simp] theorem setCore_freeCtr (s : State) (c : Nat) (k : Core) : (setCore s c k).freeCtr = s.freeCtr := rfl
@[simp] theorem rd_setCore (s : State) (c : Nat) (k : Core) (f : Fld) (i : Nat) : rd (setCore s c k) f i = rd s f i := rfl

@[simp] theorem getGroup_setGroup_self (s : State) (g : Grp) (x : Group) : getGroup (setGroup s g x) g = some x := by
  simp [getGroup, setGroup]

theorem getGroup_setGroup_core (s : State) {g h : Grp} (x : Group) (e : h.core ≠ g.core) : getGroup (setGroup s g x) h = getGroup s h := by
  simp [getGroup, setGroup, getCore_setCore, e]

theorem getGroup_setGroup_slot (s : State) {g h : Grp} (x : Group) (e : gkey h ≠ gkey g) : getGroup (setGroup s g x) h = getGroup s h := by
  by_cases c : h.core = g.core
  · simp [getGroup, setGroup, c, SMap.get_put, e]
  · exact getGroup_setGroup_core s x c

@[simp] theorem setGroup_flds (s : State) (g : Grp) (x : Group) : (setGroup s g x).flds = s.flds := rfl
@[simp] theorem setGroup_mem (s : State) (g : Grp) (x : Group) : (setGroup s g x).mem = s.mem := rfl
@[simp] theorem setGroup_sched (s : State) (g : Grp) (x : Group) : (setGroup s g x).sched = s.sched := rfl
@[simp] theorem setGroup_pending (s : State) (g : Grp) (x : Group) : (setGroup s g x).pending = s.pending := rfl
@[simp] theorem setGroup_freeCtr (s : State) (g : Grp) (x : Group) : (setGroup s g x).freeCtr = s.freeCtr := rfl
@[simp] theorem rd_setGroup (s : State) (g : Grp) (x : Group) (f : Fld) (i : Nat) : rd (setGroup s g x) f i = rd s f i := rfl

/-- A group's slot changes nothing else of its core. -/
theorem getCore_setGroup (s : State) (g : Grp) (x : Group) :
    getCore (setGroup s g x) g.core = { getCore s g.core with groups := (getCore s g.core).groups.put (gkey g) x } := by simp [setGroup]

/-! ### Contexts and channels -/

theorem getCtx_setCtx (s : State) (n m : Nat) (x : Ctx) : getCtx (setCtx s n x) m = if m = n then some x else getCtx s m := by
  simp [getCtx, setCtx, SMap.get_put]

@[simp] theorem getCtx_setCtx_self (s : State) (n : Nat) (x : Ctx) : getCtx (setCtx s n x) n = some x := by simp [getCtx_setCtx]

@[simp] theorem setCtx_flds (s : State) (n : Nat) (x : Ctx) : (setCtx s n x).flds = s.flds := rfl
@[simp] theorem setCtx_mem (s : State) (n : Nat) (x : Ctx) : (setCtx s n x).mem = s.mem := rfl
@[simp] theorem setCtx_cores (s : State) (n : Nat) (x : Ctx) : (setCtx s n x).cores = s.cores := rfl
@[simp] theorem setCtx_pending (s : State) (n : Nat) (x : Ctx) : (setCtx s n x).pending = s.pending := rfl
@[simp] theorem rd_setCtx (s : State) (n : Nat) (x : Ctx) (f : Fld) (i : Nat) : rd (setCtx s n x) f i = rd s f i := rfl

theorem getChan_setChan (s : State) (c d : Nat) (x : Chan) : getChan (setChan s c x) d = if d = c then x else getChan s d := by
  by_cases h : d = c
  · subst h; simp [getChan, setChan]
  · simp [getChan, setChan, SMap.getD_set_ne _ _ _ _ h, h]

@[simp] theorem setChan_flds (s : State) (c : Nat) (x : Chan) : (setChan s c x).flds = s.flds := rfl
@[simp] theorem setChan_mem (s : State) (c : Nat) (x : Chan) : (setChan s c x).mem = s.mem := rfl
@[simp] theorem setChan_pending (s : State) (c : Nat) (x : Chan) : (setChan s c x).pending = s.pending := rfl

/-! ### Iteration -/

/-- What every step of an iteration keeps, the iteration keeps. -/
theorem each_keeps {α : Type} {P : State → Prop} (l : List α) (f : State → α → State) (h : ∀ s a, a ∈ l → P s → P (f s a)) (s : State)
    (hs : P s) : P (each l f s) := by
  induction l generalizing s with
  | nil => exact hs
  | cons a t ih => exact ih (fun s b hb => h s b (List.mem_cons_of_mem a hb)) (f s a) (h s a List.mem_cons_self hs)

@[simp] theorem each_nil {α : Type} (f : State → α → State) (s : State) : each [] f s = s := rfl
@[simp] theorem each_cons {α : Type} (a : α) (l : List α) (f : State → α → State) (s : State) : each (a :: l) f s = each l f (f s a) := rfl

/-! ### Registers of a group -/

theorem Group.xreg_setX (x : Group) (w r t v q u : Nat) (ht : t < 32) (hu : u < 32) :
    (x.setX w r t v).xreg q u = if q = r ∧ u = t then v % 2 ^ w else x.xreg q u := by
  unfold Group.xreg Group.setX
  by_cases e : q = r ∧ u = t
  · obtain ⟨rfl, rfl⟩ := e; simp
  · rw [SMap.getD_set_ne _ _ _ _ (by omega)]; simp [e]

end Sys2Proof.Machine
end

