-- ==== Sys2Proof/Laws/Inv.lean ====
section
/-! SUPPORT. The invariant of Safety.lean: that the operations on register fields and memory keep it. -/

namespace Sys2Proof.Machine

/-- Whatever leaves register fields and memory alone keeps the invariant. -/
theorem Inv.congr {s t : State} (h : Inv s) (hf : t.flds = s.flds) (hm : t.mem = s.mem) : Inv t := by
  refine ⟨⟨hf ▸ h.1.1, fun f i => ?_⟩, hm ▸ h.2⟩
  rw [rd_congr hf]; exact h.1.2 f i

theorem Inv.of_mem {s : State} (h : Inv s) {m : List Host.Cell} (hm : Memory.wf m) : Inv { s with mem := m } := ⟨⟨h.1.1, h.1.2⟩, hm⟩

theorem inv_wr {s : State} (h : Inv s) (f : Fld) (i v : Nat) : Inv (wr s f i v) := by
  refine ⟨⟨SMap.wf_set h.1.1 _ _ _, fun f' i' => ?_⟩, h.2⟩
  by_cases e : f' = f
  · subst e
    by_cases k : i' % 4194304 = i % 4194304
    · have hk : f'.key i' = f'.key i := Fld.key_eq.2 ⟨rfl, k⟩
      simp only [rd, wr, hk, SMap.getD_set, if_true]
      split
      · exact Fld.dflt_lt f' i'
      · exact Nat.mod_lt _ (Nat.two_pow_pos _)
    · rw [rd_wr_copy _ _ _ k]; exact h.1.2 f' i'
  · rw [rd_wr_fld _ _ _ _ e]; exact h.1.2 f' i'

/-- Fields that return to their defaults keep the invariant, whichever keys go. -/
theorem inv_filter {s : State} (h : Inv s) (p : Nat → Bool) : Inv { s with flds := s.flds.filter (fun e => p e.1) } := by
  refine ⟨⟨SMap.wf_filter h.1.1 _, fun f i => ?_⟩, h.2⟩
  have := h.1.2 f i
  simp only [rd, SMap.getD] at this ⊢
  rw [SMap.get_filter_key]
  split
  · exact this
  · simpa using Fld.dflt_lt f i

theorem inv_setCore {s : State} (h : Inv s) (c : Nat) (k : Core) : Inv (setCore s c k) := h.congr rfl rfl
theorem inv_setGroup {s : State} (h : Inv s) (g : Grp) (x : Group) : Inv (setGroup s g x) := h.congr rfl rfl
theorem inv_setCtx {s : State} (h : Inv s) (n : Nat) (x : Ctx) : Inv (setCtx s n x) := h.congr rfl rfl
theorem inv_setChan {s : State} (h : Inv s) (c : Nat) (x : Chan) : Inv (setChan s c x) := h.congr rfl rfl

theorem inv_each {α : Type} (l : List α) (f : State → α → State) (h : ∀ s a, a ∈ l → Inv s → Inv (f s a)) {s : State} (hs : Inv s) :
    Inv (each l f s) := each_keeps l f h s hs

theorem inv_bump {s : State} (h : Inv s) (f : Fld) (i : Nat) : Inv (bump s f i) := inv_wr h f i _
theorem inv_bumpSat {s : State} (h : Inv s) (f : Fld) (i n : Nat) : Inv (bumpSat s f i n) := inv_wr h f i _
theorem inv_setFlag {s : State} (h : Inv s) (f : Fld) (i : Nat) (b : Bool) : Inv (setFlag s f i b) := inv_wr h f i _
theorem inv_wr0 {s : State} (h : Inv s) (f : Fld) (v : Nat) : Inv (wr0 s f v) := inv_wr h f 0 v

theorem inv_setLive {s : State} (h : Inv s) (c : Nat) (b : Bool) : Inv (setLive s c b) := by
  unfold setLive
  split
  · exact h
  · exact inv_bump (inv_wr0 (inv_wr (inv_bump h _ 0) _ _ _) _ _) _ 0

theorem inv_toll {s : State} (h : Inv s) (ctx k n : Nat) : Inv (toll s ctx k n) := by
  unfold toll
  split
  · exact h
  · exact h.congr rfl rfl

theorem inv_logErr {s : State} (h : Inv s) (r : ErrRec) : Inv (logErr s r) := by
  have hs : Inv { s with rel := { s.rel with log := s.rel.log.put (rd s .RL_ERR_HEAD_COUNT % 1024) { r with mst := mstNow s } } } := h.congr rfl rfl
  have hb := inv_bump hs .RL_ERR_HEAD_COUNT 0
  unfold logErr
  dsimp only
  split
  · exact inv_wr0 hb _ _
  · exact hb

end Sys2Proof.Machine
end

