-- ==== Sys2Proof/Laws/Parts.lean ====
section
/-! SUPPORT. The parts of State behind the cores: what a read of one gives after a write of one, what such a write leaves alone, and all that the
networks and the link credits can do. -/

namespace Sys2Proof.Machine

/-! ### Slices -/

theorem lkey_inj {d e l m : Nat} (hl : l < 2 ^ 46) (hm : m < 2 ^ 46) : lkey d l = lkey e m ↔ d = e ∧ l = m := by
  unfold lkey; omega

theorem getLine_setLine (s : State) (d l e m : Nat) (x : SEntry) :
    getLine (setLine s d l x) e m = if lkey e m = lkey d l then some x else getLine s e m := by simp [getLine, setLine, SMap.get_put]

@[simp] theorem getLine_setLine_self (s : State) (d l : Nat) (x : SEntry) : getLine (setLine s d l x) d l = some x := by simp [getLine_setLine]

theorem getLine_delLine (s : State) (d l e m : Nat) :
    getLine (delLine s d l) e m = if lkey e m = lkey d l then none else getLine s e m := by simp [getLine, delLine, SMap.get_del]

@[simp] theorem getLine_delLine_self (s : State) (d l : Nat) : getLine (delLine s d l) d l = none := by simp [getLine_delLine]

theorem getBusy_setBusy (s : State) (d l e m : Nat) (x : Txn) :
    getBusy (setBusy s d l x) e m = if lkey e m = lkey d l then some x else getBusy s e m := by simp [getBusy, setBusy, SMap.get_put]

@[simp] theorem getLine_setBusy (s : State) (d l e m : Nat) (x : Txn) : getLine (setBusy s d l x) e m = getLine s e m := rfl
@[simp] theorem getBusy_setLine (s : State) (d l e m : Nat) (x : SEntry) : getBusy (setLine s d l x) e m = getBusy s e m := rfl
@[simp] theorem getLine_send (s : State) (q : Msg) (e m : Nat) : getLine (send s q) e m = getLine s e m := rfl
@[simp] theorem getBusy_send (s : State) (q : Msg) (e m : Nat) : getBusy (send s q) e m = getBusy s e m := rfl

@[simp] theorem setLine_flds (s : State) (d l : Nat) (x : SEntry) : (setLine s d l x).flds = s.flds := rfl
@[simp] theorem setLine_mem (s : State) (d l : Nat) (x : SEntry) : (setLine s d l x).mem = s.mem := rfl
@[simp] theorem setLine_cores (s : State) (d l : Nat) (x : SEntry) : (setLine s d l x).cores = s.cores := rfl
@[simp] theorem setBusy_flds (s : State) (d l : Nat) (x : Txn) : (setBusy s d l x).flds = s.flds := rfl
@[simp] theorem setBusy_mem (s : State) (d l : Nat) (x : Txn) : (setBusy s d l x).mem = s.mem := rfl
@[simp] theorem setBusy_cores (s : State) (d l : Nat) (x : Txn) : (setBusy s d l x).cores = s.cores := rfl
@[simp] theorem send_flds (s : State) (q : Msg) : (send s q).flds = s.flds := rfl
@[simp] theorem send_mem (s : State) (q : Msg) : (send s q).mem = s.mem := rfl
@[simp] theorem send_cores (s : State) (q : Msg) : (send s q).cores = s.cores := rfl
@[simp] theorem send_net (s : State) (q : Msg) : (send s q).coh.net = s.coh.net ++ [q] := rfl

/-- A message that is taken was in the networks with none ahead of it, and nothing else changes. -/
theorem takeMsg_some {s t : State} {m : Msg} (h : takeMsg s m = some t) :
    s.coh.net.find? (aheadOf s m) = some m ∧ m ∈ s.coh.net ∧ t = { s with coh := { s.coh with net := s.coh.net.erase m } } := by
  unfold takeMsg at h
  split at h
  · next e => exact ⟨e, List.mem_of_find?_eq_some e, (Option.some.inj h).symm⟩
  · cases h

/-! ### Marks of deck lines -/

theorem getMark_setMark (s : State) (l k : Nat) (m : Option Mark) : getMark (setMark s l m) k = if k = l then m else getMark s k := by
  cases m <;> simp [getMark, setMark, SMap.get_put, SMap.get_del]

@[simp] theorem getMark_setMark_self (s : State) (l : Nat) (m : Option Mark) : getMark (setMark s l m) l = m := by simp [getMark_setMark]
@[simp] theorem setMark_flds (s : State) (l : Nat) (m : Option Mark) : (setMark s l m).flds = s.flds := rfl
@[simp] theorem setMark_mem (s : State) (l : Nat) (m : Option Mark) : (setMark s l m).mem = s.mem := rfl

/-! ### Engines -/

@[simp] theorem getEng_setEng_self (s : State) (c e : Nat) (x : Engine) : getEng (getCore (setEng s c e x) c) e = x := by simp [getEng, setEng]

theorem getEng_setEng_ne (s : State) (c : Nat) {e f : Nat} (x : Engine) (h : f ≠ e) :
    getEng (getCore (setEng s c e x) c) f = getEng (getCore s c) f := by simp [getEng, setEng, SMap.getD_set_ne _ _ _ _ h]

theorem getCore_setEng_ne (s : State) {c d : Nat} (e : Nat) (x : Engine) (h : d ≠ c) : getCore (setEng s c e x) d = getCore s d := by
  simp [setEng, getCore_setCore, h]

/-! ### Ports and their credits (R292) -/

theorem getPort_setPort (s : State) (p q : Nat) (x : Port) : getPort (setPort s p x) q = if q = p then x else getPort s q := by
  by_cases h : q = p
  · subst h; simp [getPort, setPort]
  · simp [getPort, setPort, SMap.getD_set_ne _ _ _ _ h, h]

@[simp] theorem getPort_setPort_self (s : State) (p : Nat) (x : Port) : getPort (setPort s p x) p = x := by simp [getPort_setPort]
@[simp] theorem setPort_flds (s : State) (p : Nat) (x : Port) : (setPort s p x).flds = s.flds := rfl
@[simp] theorem setPort_mem (s : State) (p : Nat) (x : Port) : (setPort s p x).mem = s.mem := rfl
@[simp] theorem setPort_cores (s : State) (p : Nat) (x : Port) : (setPort s p x).cores = s.cores := rfl
@[simp] theorem rd_setPort (s : State) (p : Nat) (x : Port) (f : Fld) (i : Nat) : rd (setPort s p x) f i = rd s f i := rfl

/-- Freeing the slots of a message changes only what its port owes. -/
theorem freeSlots_port (s : State) {p : Nat} (hp : p < 8) (m : LMsg) (q : Nat) :
    getPort (freeSlots s p m) q = if q = p then (getPort s p).owe (vcOf m.op m.sub) m.slots else getPort s q := by
  simp [freeSlots, hp, getPort_setPort]

/-- A message that is taken off a port was the first of its channel there, and nothing else changes. -/
theorem takeIn_some {s t : State} {p : Nat} {f : LMsg → Bool} {m : LMsg} (h : takeIn s p f = some (m, t)) :
    p < 8 ∧ (getPort s p).firsts.find? f = some m ∧ f m = true ∧ t = setPort s p { getPort s p with inbox := (getPort s p).inbox.erase m } := by
  unfold takeIn at h
  split at h
  · cases h
  · next hp =>
    split at h
    · cases h
    · next e =>
      cases h
      exact ⟨by omega, e, List.find?_some e, rfl⟩

/-! ### Waymark events in flight (R271, R280) -/

@[simp] theorem putFlight_flight (s : State) (l : List WmFlight) : (putFlight s l).wm.flight = l := rfl
@[simp] theorem putFlight_flds (s : State) (l : List WmFlight) : (putFlight s l).flds = s.flds := rfl
@[simp] theorem putFlight_mem (s : State) (l : List WmFlight) : (putFlight s l).mem = s.mem := rfl
@[simp] theorem putFlight_cores (s : State) (l : List WmFlight) : (putFlight s l).cores = s.cores := rfl

/-- An event that is delivered was the first of its lane in flight and had crossed every boundary; nothing else changes. -/
theorem takeWm_some {s t : State} {e : WmEvent} (h : takeWm s e = some t) :
    ∃ f ∈ s.wm.flight, f.ev = e ∧ f.pend = [] ∧ s.wm.flight.find? (fun g => evLane g.ev = evLane e) = some f ∧ t = putFlight s (s.wm.flight.erase f) := by
  unfold takeWm at h
  split at h
  · next f hf =>
    split at h
    · cases h
    · next hc =>
      simp only [Bool.or_eq_true, decide_eq_true_eq, not_or, Bool.not_eq_true, Bool.not_eq_false'] at hc
      refine ⟨f, List.mem_of_find?_eq_some hf, ?_, ?_, hf, (Option.some.inj h).symm⟩
      · simpa using hc.1
      · simpa using hc.2
  · cases h

end Sys2Proof.Machine
end

