-- ==== Sys2Proof/Tests/Slice0.lean ====
section
/-! SUPPORT. Tests of the model against the spec's words: the checks of WellFormed refuse, the spec's worked examples come out, and for each
statement of Certificates/Slice0/Obligations.lean states and operands that meet its hypotheses. -/

namespace Sys2Proof.Machine.Tests

open Sys2Proof Sys2Proof.Machine

-- one theorem at a time: the kernel evaluates each of them, and many at once would ask for a thread apiece
set_option Elab.async false

/-! ### Small states -/

def dG : Grp := ⟨0, 0, 0⟩
def dPath : Path := { pc := 0x1000, mask := 0xFFFFFFFF }
def dGroup : Group := { block := 0, n := 64, run := some dPath }
def dR : RForm := { pr := 0, pn := false, d := 4, a := 6, b := 8, c := 10, ty := 12, rm := 0, sat := false, sub := 0 }
def dI : IForm := { pr := 0, pn := false, d := 4, a := 6, imm := 9 }
def dM : MForm := { pr := 0, pn := false, d := 4, a := 6, b := 8, c := 0xC8, size := 2, space := 0, hint := 0, aop := 0, ty := 0 }
/-- Core `c` runs context 5 with one group. -/
def dCore (x : Group) : Core := { ctx := some 5, blocks := [0], groups := [(gkey dG, x)] }
def dS (c : Nat) (x : Group) : State := { State.reset with cores := [(c, dCore x)] }
def dE (c : Nat) (x : Group) : Env := { g := { dG with core := c }, ct := coreType c, k := dCore x, ctx := 5, x := x, p := x.run.getD dPath, ex := (x.run.getD dPath).mask }
/-- A translation of the lowest 2 MiB of context 5 to the deck at 2 MiB, all rights. -/
def dTlb : TlbEntry := { ctx := 5, va := 0, log2 := 21, leaf := 0x20000F }
/-- One thread; X8 of it holds `v`. -/
def dOne (v : Nat := 0) : Group := { dGroup with run := some { dPath with mask := 1 }, xs := if v = 0 then [] else [(8 * 32, v)] }
/-- The same with the translation and with context 5 in the table. -/
def dSt (c : Nat) (x : Group) : State :=
  { State.reset with cores := [(c, { dCore x with tlb := [dTlb] })], sched := { State.reset.sched with ctxs := [(5, {})] }, flds := [(Fld.key .PS_STATUS_STATE 0, 1), (Fld.key .PS_BOOT_LAST_STEP 0, 8)] }
def dEt (c : Nat) (x : Group) : Env := { dE c x with k := { dCore x with tlb := [dTlb] } }
/-- A state with these register fields. -/
def fl (l : List (Fld × Nat × Nat)) (s : State := State.reset) : State := l.foldl (fun s p => wr s p.1 p.2.1 p.2.2) s
/-- In Run. -/
def dRun : State := fl [(.PS_STATUS_STATE, 0, 1), (.PS_BOOT_LAST_STEP, 0, 8)]

/-! ### Arithmetic and issue: what the statements assume -/

theorem test_wit_StepRunsFront : ({ State.reset with pending := [.warmReset] } : State).pending = .warmReset :: [] := rfl
theorem test_wit_IdleStepIsATick : State.reset.pending = [] ∧ rd { State.reset with flds := [(Fld.key .PS_BOOT_LAST_STEP 0, 4)] } .PS_BOOT_LAST_STEP ≠ 0 ∧ State.reset.time.slew = 0 := by decide +kernel
theorem test_wit_EveryStepKeepsInv : SMap.wf State.reset.flds ∧ Memory.wf State.reset.mem ∧ ∃ t, step State.reset = .next t := ⟨by decide +kernel, by decide +kernel, _, rfl⟩

/-- The group of core `c` can issue with these operands, and the guard and the path are as given. -/
def can (c : Nat) (x : Group) (ops : List OField) : Prop := CanIssue (dS c x) { dG with core := c } 0 false (dE c x) ops
theorem can_of (c : Nat) (x : Group) (ops : List OField) (h : env? (dS c x) { dG with core := c } 0 false = some (dE c x))
    (h2 : ∀ o ∈ ops, o.ok (dE c x).sc = true ∧ o.range (dE c x).sc (dE c x).x.n = none) (h3 : regsReady (dS c x) (dE c x) ops = true) : can c x ops :=
  ⟨h, by simp, h2, h3⟩

def z (f : RForm) : RForm := { f with c := 0xC8 }
def zz (f : RForm) : RForm := { f with b := 0xC8, c := 0xC8 }
def zzz (f : RForm) : RForm := { f with a := 0xC8, b := 0xC8, c := 0xC8 }
theorem test_wit_IntegerResults : (dR.ty = 12 ∧ dR.rm = 0 ∧ dR.sat = false ∧ dR.sub = 0) ∧ can 0 dGroup (rOps (z dR) (wk 32) (wk 32) (wk 32) .z) ∧ can 100 dGroup (rOps (z dR) (wk 64) (wk 64) (wk 64) .z) ∧ can 0 dGroup (rOps (zz dR) (wk 64) (wk 64) .z .z) ∧ can 0 dGroup (rOps dR (wk 32) (wk 32) (wk 32) (wk 32)) ∧ can 0 dGroup (rOps { dR with c := 0xC1 } (wk 32) (wk 32) (wk 32) .p) :=
  ⟨by decide +kernel, can_of _ _ _ (by decide +kernel) (by decide +kernel) (by decide +kernel), can_of _ _ _ (by decide +kernel) (by decide +kernel) (by decide +kernel), can_of _ _ _ (by decide +kernel) (by decide +kernel) (by decide +kernel), can_of _ _ _ (by decide +kernel) (by decide +kernel) (by decide +kernel), can_of _ _ _ (by decide +kernel) (by decide +kernel) (by decide +kernel)⟩
theorem test_wit_ImmediateResults : can 0 dGroup (iOps dI .r .r) ∧ can 0 dGroup (iOps { dI with a := 0xC8 } .r .z) ∧ can 0 dGroup (rOps (zzz dR) .w .z .z .z) ∧ can 0 dGroup (rOps (zz dR) .r .r .z .z) :=
  ⟨can_of _ _ _ (by decide +kernel) (by decide +kernel) (by decide +kernel), can_of _ _ _ (by decide +kernel) (by decide +kernel) (by decide +kernel), can_of _ _ _ (by decide +kernel) (by decide +kernel) (by decide +kernel), can_of _ _ _ (by decide +kernel) (by decide +kernel) (by decide +kernel)⟩
theorem test_wit_CrossThreadResults : ((dE 0 dGroup).ct ≠ 3) ∧ can 0 dGroup (rOps (z dR) .r .r .r .z) ∧ can 0 dGroup (rOps { (zz dR) with d := 0xC2, a := 0xC1 } .p .p .z .z) ∧ can 0 dGroup (rOps { (zz dR) with a := 0xC1 } .r .p .z .z) :=
  ⟨by decide +kernel, can_of _ _ _ (by decide +kernel) (by decide +kernel) (by decide +kernel), can_of _ _ _ (by decide +kernel) (by decide +kernel) (by decide +kernel), can_of _ _ _ (by decide +kernel) (by decide +kernel) (by decide +kernel)⟩
theorem test_wit_CompareResults : can 0 dGroup (rOps { (z dR) with d := 0xC1 } .p (wk 32) (wk 32) .z) ∧ can 0 dGroup (rOps { (z dR) with d := 0xC1, a := 0xC2, b := 0xC3 } .p .p .p .z) :=
  ⟨can_of _ _ _ (by decide +kernel) (by decide +kernel) (by decide +kernel), can_of _ _ _ (by decide +kernel) (by decide +kernel) (by decide +kernel)⟩
theorem test_wit_FloatResults : (floatTy 1 1 = true ∧ floatTy 2 0 = true ∧ cvtDst 1 1 = true ∧ cvtOk 1 1 12 = true) ∧ can 0 dGroup (rOps (z dR) (wk 32) (wk 32) (wk 32) .z) ∧ can 0 dGroup (rOps (zz dR) (wk 64) (wk 64) .z .z) ∧ can 0 dGroup (rOps dR (wk 32) (wk 32) (wk 32) (wk 32)) ∧ can 64 dGroup (rOps (zz dR) .r .r .z .z) ∧ can 0 dGroup (rOps { (z dR) with d := 0xC1 } .p (wk 32) (wk 32) .z) :=
  ⟨by decide +kernel, can_of _ _ _ (by decide +kernel) (by decide +kernel) (by decide +kernel), can_of _ _ _ (by decide +kernel) (by decide +kernel) (by decide +kernel), can_of _ _ _ (by decide +kernel) (by decide +kernel) (by decide +kernel), can_of _ _ _ (by decide +kernel) (by decide +kernel) (by decide +kernel), can_of _ _ _ (by decide +kernel) (by decide +kernel) (by decide +kernel)⟩
theorem test_wit_FloatLaws : (fmtOf 1).isSome = true ∧ ∃ f, fmtOf 1 = some f ∧ (f.dec 0x7FC00000).1 = .nan ∧ (f.dec 0xFF800000).1 ≠ .nan := ⟨by decide +kernel, _, rfl, by decide +kernel, by decide +kernel⟩
theorem test_wit_RegisterOpsFrame : env? (dS 0 dGroup) dG 0 false = some (dE 0 dGroup) ∧ (∃ t, exec (.iadd dG (z dR)) (dS 0 dGroup) = .next t) ∧ (∃ t, exec (.iaddi dG dI) (dS 0 dGroup) = .next t) ∧
    ∃ t, exec (.movl dG ⟨zzz { dR with ty := 0 }, 7⟩) (dS 0 dGroup) = .next t := ⟨by decide +kernel, ⟨_, rfl⟩, ⟨_, rfl⟩, ⟨_, rfl⟩⟩
/-- Each way not to issue: nothing resident; an S-core; the reserved guard; a reserved SUB; a register beyond N; a register awaited; an operation that no core has. -/
theorem test_wit_IssueChecks : env? State.reset dG 0 false = none ∧ env? (dS 96 dGroup) { dG with core := 96 } 0 false = some (dE 96 dGroup) ∧ (dE 96 dGroup).ct = 3 ∧
    (env? (dS 0 dGroup) dG 0 true).isSome = true ∧ (∀ o ∈ rOps { z dR with ty := 13, sub := 1 } .r .r .r .z, o.ok false = true) ∧
    (∀ o ∈ rOps { z dR with ty := 13, d := 64 } .r .r .r .z, o.ok false = true) ∧
    regsReady { dS 0 dGroup with cores := [(0, { dCore dGroup with outs := [{ id := 0, pipe := 0, slot := 0, pathLow := 0, kind := .load 2 false false, parts := [⟨0, 0, 4, 0⟩], regs := [4] }] })] }
      { dE 0 dGroup with k := { dCore dGroup with outs := [{ id := 0, pipe := 0, slot := 0, pathLow := 0, kind := .load 2 false false, parts := [⟨0, 0, 4, 0⟩], regs := [4] }] } } (rOps (z dR) .r .r .r .z) = false ∧
    (definedOps ((0xFFC0 : W64).extractLsb' 4 2).toNat).contains ((0xFFC0 : W64).extractLsb' 6 10).toNat = false := by decide +kernel

/-! ### Control -/

def dB : BForm := { pr := 0, pn := false, rpc := 0, target := 4 }
def dQ : Path := { pc := 0x2000, mask := 0xF0 }
/-- The group with a second path ready. -/
def dTwo : Group := { dGroup with run := some { dPath with mask := 0xF }, others := [dQ] }
def noX : List OField := []

theorem test_wit_ControlTransfers_plain : can 0 dGroup (rOps { zzz dR with d := 0xC8, ty := 0 } .z .z .z .z) ∧ can 0 dTwo (rOps { zzz dR with d := 0xC8, ty := 0 } .z .z .z .z) ∧ can 0 dGroup [] :=
  ⟨can_of _ _ _ (by decide +kernel) (by decide +kernel) (by decide +kernel), can_of _ _ _ (by decide +kernel) (by decide +kernel) (by decide +kernel),
    can_of _ _ _ (by decide +kernel) (by decide +kernel) (by decide +kernel)⟩
theorem test_wit_ControlTransfers : (dE 0 dGroup).x.region = none ∧ (dE 0 dGroup).p.entry = none ∧ dGroup.others.any Path.runnable = false ∧ dGroup.entries = [] ∧
    dTwo.others = [dQ] ∧ dQ.stat = .ready ∧ dQ.yielding = false ∧ targetFault (dS 0 dGroup) 5 (BitVec.ofNat 64 (dGroup.ureg 63)) = none ∧ targetFault (dS 0 dGroup) 5 0x1020 = none ∧
    (dE 0 dGroup).p.mask ≠ 0 ∧ (dE 0 dGroup).ex = (dE 0 dGroup).p.mask ∧ regsReady (dS 0 dGroup) (dE 0 dGroup) [linkReg] = true := by decide +kernel
/-- A guard that no thread passes. -/
theorem test_wit_ControlTransfers_none : (env? (dS 0 dGroup) dG 1 false).map (·.ex) = some 0 := by decide +kernel
theorem test_wit_ControlTransfers_bri : can 0 dGroup (rOps { dR with d := 0xC8, b := 0xC8, c := 0xC8, ty := 0 } .z .wr .z .z) ∧
    (∀ k < 32, has (dE 0 dGroup).ex k = true → BitVec.ofNat 64 (dGroup.opnd false 64 6 k) = (0 : W64)) ∧ targetFault (dS 0 dGroup) 5 0 = none :=
  ⟨can_of _ _ _ (by decide +kernel) (by decide +kernel) (by decide +kernel), by decide +kernel, by decide +kernel⟩

/-- Predicate P1 holds for threads 0-3: a guarded BRA divides the group; at fifteen and at sixteen entries. -/
def dDiv (n : Nat) : Group := { dGroup with preds := [(1, 0xF)], nextEntry := n, entries := (List.range n).map (fun i => { id := i, parent := none, rpc := 0x3000, members := 0xFF, arrived := 0 }) }
theorem test_wit_BranchDiverges : (env? (dS 0 (dDiv 15)) dG 1 false).map (fun e => (e.ex, e.p.mask &&& ~~~e.ex)) = some (0xF, 0xFFFFFFF0) ∧ (dDiv 15).entries.length < 16 ∧
    (∀ n ∈ (dDiv 15).entries, n.members &&& ~~~n.arrived ≠ 0 ∧ n.id < (dDiv 15).nextEntry) ∧ (dDiv 15).others = [] ∧ (dDiv 16).entries.length = 16 ∧
    (env? (dS 0 (dDiv 16)) dG 1 false).map (·.ex) = some 0xF ∧ targetFault (dS 0 (dDiv 16)) 5 0x1020 = none ∧ (0x1020 : W64) ≠ 0x1008 ∧ (0x1028 : W64) ≠ 0x1020 := by decide +kernel
def dIn : Group := { dGroup with region := some { entry := 0xFFFFFFFF, start := 0xFF8, stop := 0x2000 } }
theorem test_wit_TrapsAndRegions : can 0 dGroup (iOps { dI with d := 0xC8, a := 0xC8 } .z .z) ∧ can 0 dIn (iOps { dI with d := 0xC8, a := 0xC8 } .z .z) ∧ (dE 0 dGroup).ex ≠ 0 ∧ (dE 0 dGroup).ct = 1 ∧
    0 < dI.imm.toInt ∧ dI.imm.toInt ≠ 1 ∧ dGroup.region = none ∧ dIn.region.isSome = true :=
  ⟨can_of _ _ _ (by decide +kernel) (by decide +kernel) (by decide +kernel), can_of _ _ _ (by decide +kernel) (by decide +kernel) (by decide +kernel), by decide +kernel⟩
theorem test_wit_SpecialRegisters : can 0 dGroup (iOps { dI with imm := 0, a := 0xC8 } .wr .z) ∧ can 96 dGroup (iOps { dI with imm := 8, a := 0xC8 } .r .z) ∧ can 0 dGroup (iOps { dI with imm := 1, d := 0xC8 } .z .w) ∧
    can 96 dGroup (iOps { dI with imm := 8, d := 0xC8 } .z .r) ∧ can 0 dGroup (iOps { dI with imm := 9, a := 0xC8 } .r .z) :=
  ⟨can_of _ _ _ (by decide +kernel) (by decide +kernel) (by decide +kernel), can_of _ _ _ (by decide +kernel) (by decide +kernel) (by decide +kernel),
    can_of _ _ _ (by decide +kernel) (by decide +kernel) (by decide +kernel), can_of _ _ _ (by decide +kernel) (by decide +kernel) (by decide +kernel),
    can_of _ _ _ (by decide +kernel) (by decide +kernel) (by decide +kernel)⟩
theorem test_wit_PipeEvents : (let x : Group := { dTwo with others := [{ dQ with yielding := true }], issued := 64 }
    getGroup (dS 0 x) dG = some x ∧ x.run = some { dPath with mask := 0xF } ∧ 64 ≤ x.issued) ∧
    (let x : Group := { dGroup with run := none, others := [dQ] }; getGroup (dS 0 x) dG = some x ∧ x.run = none ∧ x.yieldCyc + 64 ≤ cycles { dS 0 x with cyc := [(0, 64 * cycUnit)] } 0) ∧
    (let s : State := { dSt 0 dGroup with cyc := [(0, 2 ^ 24 * cycUnit)] }
     (getCore s 0).ctx = some 5 ∧ getCtx s 5 = some {} ∧ (getCore s 0).halted = false ∧ anyWaiting dGroup = false ∧ dGroup.done = false ∧ dGroup.wpCyc + budgetOf s {} ≤ cycles s 0) := by decide +kernel

/-! ### Memory -/

/-- One thread with X8 = `v` and, for the cacheable accesses, X6:X7 = 0. -/
abbrev sM (v : Nat := 0) : State := dSt 0 (dOne v)
abbrev eM (v : Nat := 0) : Env := dEt 0 (dOne v)
def mOps (a : BitVec 8) (d : OKind) (b : BitVec 8) (bk : OKind) (base : OKind) : List OField := [⟨16, if d = .z then 0xC8 else 4, d⟩, ⟨24, a, base⟩, ⟨32, b, bk⟩, ⟨40, 0xC8, .r⟩]

theorem test_wit_LoftAccess : CanIssue (sM 9) dG 0 false (eM 9) (mOps 6 .r 0xC8 .z (baseKind 1)) ∧ CanIssue (sM 9) dG 0 false (eM 9) (mOps 6 .z 8 .r (baseKind 1)) ∧ CanIssue (sM 9) dG 0 false (eM 9) (mOps 6 (dataKind 3) 0xC8 .z (baseKind 1)) ∧ CanIssue (sM 9) dG 0 false (eM 9) (mOps 6 .z 8 (dataKind 0) (baseKind 1)) ∧
    (eM 9).p.fences = [] ∧ heldRanges (sM 9) 0 = [] ∧ (∀ k < 32, has (eM 9).ex k = true → ((eM 9).x.opnd false 32 6 k + (eM 9).x.opnd false 32 0xC8 k) % 2 ^ 32 = 0) ∧ has (eM 9).ex 0 = true ∧ 0 < loftSize 0 := by
  unfold CanIssue; decide +kernel
theorem test_wit_CacheableAccess : CanIssue (sM 9) dG 0 false (eM 9) (mOps 6 .r 0xC8 .z (baseKind 0)) ∧ CanIssue (sM 9) dG 0 false (eM 9) (mOps 6 .z 8 .r (baseKind 0)) ∧ farCount (eM 9).k ≤ 256 ∧ (eM 9).ex ≠ 0 ∧ isLoft (sM 9) 0x200000 = false ∧
    isLocal (sM 9) (0x200000 / 64) = true ∧ (∀ k < 32, has (eM 9).ex k = true → (eM 9).x.opnd false 64 6 k = 0 ∧ (eM 9).x.opnd false 32 0xC8 k = 0) ∧ transl (sM 9) (eM 9) 0 .read = .ok 0x200000 false ∧ transl (sM 9) (eM 9) 0 .write = .ok 0x200000 false ∧
    (eM 9).k.l1.get (0x200000 / 64) = none ∧ threads (eM 9).ex = [0] := by unfold CanIssue; decide +kernel
/-- With the line in L1. -/
def kHit : Core := { dCore (dOne 9) with tlb := [dTlb], l1 := [(0x200000 / 64, 0x77)] }
theorem test_wit_CacheableAccess_hit : CanIssue { sM 9 with cores := [(0, kHit)] } dG 0 false { eM 9 with k := kHit } (mOps 6 .r 0xC8 .z (baseKind 0)) ∧ kHit.l1.get (0x200000 / 64) = some 0x77 ∧
    transl { sM 9 with cores := [(0, kHit)] } { eM 9 with k := kHit } 0 .read = .ok 0x200000 false := by unfold CanIssue; decide +kernel
theorem test_wit_GatherStripAndPrefetch_gather : CanIssue (sM 9) dG 0 false (eM 9) [⟨16, 4, .q⟩, ⟨24, 6, .wr⟩, ⟨32, 0xC8, .z⟩, ⟨40, 0xC8, .r⟩] ∧ (∀ k < 32, has (eM 9).ex k = true → (eM 9).x.opnd false 64 6 k % 16 = 0 ∧
    (eM 9).x.opnd false 64 6 k + 16 * (eM 9).x.opnd false 32 0xC8 k = 0) := by unfold CanIssue; decide +kernel
theorem test_wit_AtomicAccess : CanIssue (sM 9) dG 0 false (eM 9) (mOps 6 (wk 32) 8 (wk 32) (baseKind 1)) ∧ CanIssue (sM 9) dG 0 false (eM 9) (mOps 6 .z 8 (wk 64) (baseKind 1)) ∧ CanIssue (sM 9) dG 0 false (eM 9) (mOps 6 (wk 64) 8 (wk 64) (baseKind 0)) ∧
    CanIssue (sM 9) dG 0 false (eM 9) (mOps 6 .z 8 (wk 32) (baseKind 0)) ∧ transl (sM 9) (eM 9) 0 .atomic = .ok 0x200000 false := by unfold CanIssue; decide +kernel
/-- X12 = 0x200000, one past the loft's last byte; X14 = 2; X16:X17 = 2^48. -/
def xF : Group := { dOne 9 with xs := [(8 * 32, 9), (12 * 32, 0x200000), (14 * 32, 2), (17 * 32, 0x10000)] }
theorem test_wit_AccessFaults : CanIssue (dSt 0 xF) dG 0 false (dEt 0 xF) (mOps 12 .z 8 .r (baseKind 1)) ∧ xF.opnd false 32 12 0 = loftSize 0 ∧ CanIssue (dSt 0 xF) dG 0 false (dEt 0 xF) (mOps 14 .z 8 .r (baseKind 1)) ∧ xF.opnd false 32 14 0 % 4 ≠ 0 ∧
    CanIssue (dSt 0 xF) dG 0 false (dEt 0 xF) (mOps 16 .z 8 .r (baseKind 0)) ∧ xF.opnd false 64 16 0 = 2 ^ 48 ∧ CanIssue (dSt 0 xF) dG 0 false (dEt 0 xF) (mOps 14 .z 8 .r (baseKind 0)) ∧ xF.opnd false 64 14 0 = 2 ∧ tlbFind [dTlb] 5 0x200000 = none ∧
    xF.opnd false 64 12 0 = 0x200000 ∧ (let e : Env := { dEt 0 xF with k := { dCore xF with tlb := [{ dTlb with leaf := 0x200003 }] } }
      transl { dSt 0 xF with cores := [(0, e.k)] } e 0 .write = .fault 0x0202 1) := by unfold CanIssue; decide +kernel
theorem test_wit_FencesAndLocks : CanIssue (sM 9) dG 0 false (eM 9) (rOps { dR with d := 0xC8, a := 0xC8, b := 0xC8, c := 0xC8, ty := 0 } .z .z .z .z) ∧ contributed (sM 9) 0 = [] ∧ (sM 9).deck.chans = [] ∧ (getCtx (sM 9) (eM 9).ctx).bind (·.farTag) = none ∧
    CanIssue (sM 9) dG 0 false (eM 9) (rOps { z dR with d := 0xC8, ty := 13 } .z .wr .r .r) ∧ (eM 9).ct ≠ 3 ∧ Straight (eM 9) ∧ CanIssue (sM 9) dG 0 false (eM 9) (mOps 6 .z 0xC8 .z (baseKind 1)) := by unfold CanIssue Straight; decide +kernel
theorem test_wit_FencesAndLocks_retire : (let r : FenceRec := { acquire := false, scope := 1, ops := [3], lines := [], advance := false }
    let x : Group := { dGroup with run := some { dPath with fences := [r] } }; getGroup (dS 0 x) dG = some x ∧ ∀ o ∈ (getCore (dS 0 x) 0).outs, o.id ∉ r.ops) := by decide +kernel
/-- X8 = 64: one line; ZERO: a length of zero. -/
theorem test_wit_GatherStripAndPrefetch : CanIssue (sM 64) dG 0 false (eM 64) [⟨16, 0xC8, .z⟩, ⟨24, 6, baseKind 0⟩, ⟨32, 8, .r⟩, ⟨40, 0xC8, .z⟩] ∧ (eM 64).x.opnd false 32 8 0 = 64 ∧ (eM 64).x.opnd false 32 0xC8 0 = 0 ∧
    CanIssue (sM 64) dG 0 false (eM 64) [⟨16, 0xC8, .z⟩, ⟨24, 6, baseKind 0⟩, ⟨32, 0xC8, .r⟩, ⟨40, 0xC8, .z⟩] ∧ CanIssue (sM 64) dG 0 false (eM 64) [⟨16, 0xC8, .z⟩, ⟨24, 6, baseKind 0⟩, ⟨32, 0xC8, .r⟩, ⟨40, 0xC8, .r⟩] ∧
    tlbFind (eM 64).k.tlb 5 0 = some dTlb ∧ rightsOk dTlb.leaf.toNat .read = true ∧ tb dTlb.leaf.toNat 5 = false ∧ leafAddr dTlb.leaf dTlb.log2 0 = 0x200000 ∧ (getCtx (sM 64) 5).isSome = true ∧ dieUp (sM 64) (homeDie (0x200000 / 64)) = true ∧
    (eM 64).k.l1.get (0x200000 / 64) = none := by unfold CanIssue; decide +kernel

/-! ### Waits and waymarks -/

/-- X8:X9 = 5: a time that has not come at MST 0, and has at MST 5. -/
abbrev sW (mst : Nat) : State := { sM 5 with time := { State.reset.time with mst := mst } }
theorem test_wit_WaitsBlockAndEnd : CanIssue (sW 0) dG 0 false (eM 5) [⟨24, 0xC8, .z⟩, ⟨32, 8, .w⟩] ∧ CanIssue (sW 5) dG 0 false (eM 5) [⟨24, 0xC8, .z⟩, ⟨32, 8, .w⟩] ∧ (eM 5).x.opnd false 64 8 0 = 5 ∧ Straight (eM 5) ∧ (eM 5).ex = 1 ∧
    (eM 5).x.others = [] ∧ (eM 5).x.entries = [] ∧ (eM 5).p.yielding = false ∧ (getCore (sW 0) 0).preempting = false ∧ CanIssue (sM 5) dG 0 false (eM 5) [⟨24, 6, .r⟩, ⟨32, 8, .r⟩] ∧ getCtx (sM 5) 5 = some {} ∧
    ((({} : Ctx).wmBase + (eM 5).x.opnd false 32 6 0 % 2 ^ ({} : Ctx).wmLog2) % 4096 = 0) ∧ CanSend (sM 5) { kind := .read, wm := 0, half := coreHalf 0, core := 0 } ∧ CanSend (sM 5) { kind := .read, wm := 4095, half := 7, core := 831 } := by unfold CanIssue Straight CanSend; decide +kernel
/-- One path that waits. -/
def xWait (w : WaitRec) : Group := { dGroup with run := none, others := [{ dPath with stat := .waiting w }] }
def wMst : WaitRec := { kind := 5, cond := 2, acq := 0, target := [(0, 0, 5)], left := 1 }
def wFlag : WaitRec := { kind := 1, cond := 0, acq := 0, target := [(0, 0x1800000000, 7)], left := 1 }
theorem test_wit_WaitsBlockAndEnd_blocked : (∀ w ∈ ([wMst, { wMst with left := 0, kind := 0 }, wFlag, { wFlag with kind := 0, target := [(0, 9, 7)] }] : List WaitRec),
      getGroup (dS 0 (xWait w)) dG = some (xWait w) ∧ w.acq = 0 ∧ w.notBefore = 0) ∧ (∀ j < 32, has wMst.left j = true → ∃ q ∈ wMst.target, q.1 = j) ∧ bit 32 0 = wFlag.left := by decide +kernel
theorem test_wit_WaitsBlockAndEnd_flag : (let s : State := { dS 0 (xWait { wFlag with target := [(0, BitVec.ofNat 64 (loftAt 0), 7)] }) with mem := [(loftAt 0, 7)] }
    devOf (loftAt 0) = myDev s ∧ isLoft s (loftAt 0) = true ∧ readNat s.mem (locOf (loftAt 0)) 4 = 7) := by decide +kernel
theorem test_wit_WaymarkInstructions : CanIssue (sM 9) dG 0 false (eM 9) (rOps { z dR with d := 0xC8, ty := 0 } .z .r .r .r) ∧ (eM 9).x.opnd false 32 8 0 ≠ 0 ∧ (eM 0).x.opnd false 32 8 0 = 0 ∧ CanIssue (sM 0) dG 0 false (eM 0) (rOps { z dR with d := 0xC8, ty := 0 } .z .r .r .r) ∧
    CanIssue (sM 9) dG 0 false (eM 9) (rOps { z dR with d := 0xC8, ty := 0 } .z .r .r .z) ∧ CanIssue (sM 9) dG 0 false (eM 9) (rOps { zz dR with ty := 0 } .r .r .z .z) ∧ CanSend (sM 9) { kind := .read, wm := 0, half := coreHalf 0 } := by unfold CanIssue CanSend; decide +kernel
def evAdd : WmEvent := { kind := .add, wm := 0, half := 0, count := 3, abs := some 77 }
abbrev sEv (e : WmEvent) (s : State := State.reset) : State := { s with wm := { s.wm with flight := [{ ev := e, pend := [] }] } }
theorem test_wit_WaymarkBank : (getWm (sEv evAdd) 0).watch = 0 ∧ mstNow (sEv evAdd) + evAdd.lead < 2 ^ 64 ∧ CanSend (sEv { evAdd with kind := .read }) { kind := .value, wm := 0, half := 7, core := 831 } ∧
    (sEv evAdd).wm.flight = { ev := evAdd, pend := [] } :: [] := by unfold CanSend; decide +kernel
/-- An event of half 0 for half 7's waymark at its first boundary, counted there; an UPDATE and a VALUE of one lane there. -/
def sPend (l : List WmEvent) (p : Nat := 1) : State :=
  let s : State := { dRun with wm := { dRun.wm with flight := l.map (fun e => { ev := e, pend := evRoute e }) } }
  match (l.map evRoute).headD [] with | b :: _ => wr s (pendFld b).1 b.2.1 p | [] => s
def evFar (k : EvKind) (n : W32) : WmEvent := { kind := k, wm := if k = .add then 7 * 512 else 0, half := if k = .add then 0 else 7, core := 831, count := n }
theorem test_wit_WaymarkCrossings : (∃ b c l, evRoute (evFar .add 1) = b :: c :: l ∧ rd (sPend [evFar .add 1]) (pendFld b).1 b.2.1 = 1 ∧ b.2.1 < 16 ∧ c.2.1 < 16 ∧ ((pendFld c).1, c.2.1) ≠ ((pendFld b).1, b.2.1) ∧ boundaryOpen (sPend [evFar .add 1]) c = true ∧
      rd (sPend [evFar .add 1]) (pendFld c).1 c.2.1 = 0 ∧ rd (fl [((pendFld c).1, c.2.1, 255)] (sPend [evFar .add 1])) (pendFld c).1 c.2.1 = 255) ∧ evLane (evFar .update 1) = evLane (evFar .value 2) ∧
    (∃ b l, evRoute (evFar .update 1) = b :: l ∧ evRoute (evFar .value 1) = b :: l ∧ boundaryOpen (sPend [evFar .update 1]) b = true ∧ rd (sPend [evFar .update 1]) (pendFld b).1 b.2.1 < 255) ∧
    (evFar .update 1).wm = (evFar .update 2).wm ∧ evFar .update 1 ≠ evFar .update 2 :=
  ⟨⟨_, _, _, rfl, by decide +kernel, by decide +kernel, by decide +kernel, by decide +kernel, by decide +kernel, by decide +kernel, by decide +kernel⟩, by decide +kernel, ⟨_, _, rfl, rfl, by decide +kernel, by decide +kernel⟩, by decide +kernel, by decide +kernel⟩
def sRd : State := { dS 0 dGroup with wm := { State.reset.wm with flight := [{ ev := { kind := .value, wm := 7, half := 0, core := 0, count := 3, lead := 0 }, pend := [] }], reads := [⟨0, 0, gkey dG, 4, 1, 7⟩] } }
def sUp : State := sEv { kind := .update, wm := 7, half := 0, count := 3, rel := 0 } (dS 0 (xWait { kind := 0, cond := 2, acq := 0, target := [(0, 7, 3)], left := 1 }))
theorem test_wit_WaymarkStops : gkey dG / 16 = dG.pipe ∧ gkey dG % 16 = dG.slot ∧ coreLive sRd 0 = true ∧ (getCore sRd 0).gated = false ∧ (getGroup sRd dG).isSome = true ∧ coreType 0 = 1 ∧
    has (1 : BitVec 8) (coreHalf 0) = true ∧ sUp.cores.keys = [0] ∧ (getCore sUp 0).groups.keys = [gkey dG] := by decide +kernel
/-- Port 0 up; convoy 3's window valid. -/
def sCv : State := fl [(.LK_STATUS_STATE, 0, 2), (.TP_CONVOY_DATA_VALID, 3, 1), (.LK_ROUTE_DATA_VALID, 9, 1)]
theorem test_wit_ConvoyAdds : portUp sCv 0 = true ∧ flag sCv .TP_CONVOY_DATA_VALID 3 = true ∧ flag sCv .TP_CONVOY_DATA_VALID 255 = false ∧ CanSend sCv { kind := .add, wm := 0, half := 8, core := 1, count := 1, lead := 0 } ∧
    flag sCv .LK_ROUTE_DATA_VALID 9 = true ∧ rd sCv .LK_ROUTE_DATA_PORT 9 = 0 ∧
    (getPort sCv 0).egress = [] ∧ (getPort sCv 0).replay = [] := by unfold CanSend; decide +kernel
theorem test_wit_ConvoyAdds_inbox : (let q : LMsg := { op := 0x60, dest := 0, src := 1, param := 3, data := BitVec.ofNat 512 (wmAddBody 9 2 0) };
    (getPort { sCv with link := { sCv.link with ports := [(0, { inbox := [q] })] } } 0).inbox = q :: [] ∧ q.data.toNat = wmAddBody 9 (2 : W32).toNat 0) := by decide +kernel
def xCv : Group := { dOne 9 with xs := [(4 * 32, 9), (8 * 32, 2)] }
theorem test_wit_ConvoyAdds_remote : CanIssue (dSt 0 xCv) dG 0 false (dEt 0 xCv) (rOps { z dR with sub := 1, ty := 0 } .r .r .r .r) ∧ (dEt 0 xCv).x.opnd false 32 8 0 ≠ 0 ∧ (dEt 0 xCv).x.opnd false 32 4 0 % 4096 = 9 ∧ (getCtx (dSt 0 xCv) 5).map (·.convoyEn) = some false := by
  unfold CanIssue; decide +kernel

/-! ### Milestone Time, entries, supply -/

abbrev tm (t : TimeS) (s : State := State.reset) : State := { s with time := t }
theorem test_wit_MilestoneTimeInputs : (let s := fl [(.MST_CTRL_REF_EN, 0, 1), (.MST_STATUS_REF10_OK, 0, 1), (.MST_STATUS_NEXT_ARMED, 0, 1), (.MST_STATUS_PPS_OK, 0, 1), (.MST_STATUS_SOURCE, 0, 1)];
    flag s .MST_CTRL_REF_EN = true ∧ flag s .MST_STATUS_REF10_OK = true ∧ flag s .MST_STATUS_NEXT_ARMED = true ∧ s.time.isSet = false ∧ rd s .MST_STATUS_SOURCE = 1 ∧ linkTimeOk s = false ∧ flag s .MST_STATUS_PPS_OK = true ∧
    flag (fl [(.MST_STATUS_NEXT_ARMED, 0, 0), (.MST_CTRL_STEP_OK, 0, 0)] s) .MST_STATUS_NEXT_ARMED = false ∧
    rd (tm { State.reset.time with mst := 5, isSet := true } s) .MST_NEXT_PPS_NEXT < 5 ∧ linkTimeOk (fl [(.MST_CTRL_LINK_EN, 0, 1), (.LK_TT_VALID, 0, 1)] s) = true ∧
    (tm { State.reset.time with ppsAt := some 0 } { s with now := 1100000000 }).time.ppsAt = some 0) := by decide +kernel
/-- RELEASE_WAYMARK of waymark 0, once, basis 2,000 ns from now: armed; the same with a reserved bit of ARG1: not. -/
theorem test_wit_MilestoneArming : (let v : W64 := 0x11; let s := fl [(.MT_TIME_TIME, 255, 2000), (.MT_ARG0_ARG, 255, 0x10000)]
    bits v.toNat 24 8 = 0 ∧ tb v.toNat 0 = true ∧ flag s .MT_CTRL_ARMED 255 = false ∧ s.time.due.get 255 = none ∧ actionOk 0 1 0x10000 0 = true ∧ ownerMay s 0 1 0x10000 0 = true ∧ tb v.toNat 1 = false ∧ tb v.toNat 2 = false ∧
    s.time.mst + 2000 ≤ rd s .MT_TIME_TIME 255 ∧ actionOk 0 1 0x10000 1 = false ∧ rd s .MT_ARG0_ARG 255 = 0x10000 ∧ bits v.toNat 4 4 = 1) := by decide +kernel
theorem test_wit_MilestoneArming_disarm : (let s := tm { State.reset.time with basis := [(255, 2000)] } (fl [(.MT_CTRL_ARMED, 255, 1)]);
    flag s .MT_CTRL_ARMED 255 = true ∧ flag s .MT_CTRL_KIND 255 = false ∧ s.time.due.get 255 = none ∧ s.time.basis.get 255 = some 2000 ∧ (0 : Nat) + 2000 ≤ 2000 ∧ (1999 : Nat) < 0 + 2000) := by decide +kernel
/-- Entry 2 due with entry 3, in one instant. -/
def sDue (act : Nat) (rep : Nat) : State := tm { State.reset.time with due := [(2, ⟨50, true, false, false⟩), (3, ⟨50, false, false, false⟩)], basis := [(2, 50)] }
    (fl [(.MT_CTRL_ARMED, 2, 1), (.MT_CTRL_ACTION, 2, act), (.MT_CTRL_REPEAT, 2, rep), (.MT_CTRL_PERIOD, 2, 1000), (.MT_ARG0_ARG, 2, 0x10000)])
theorem test_wit_MilestoneFiring : ((sDue 0 0).time.due.get 2).isSome = true ∧ ((sDue 0 0).time.due.get 3).isSome = true ∧ (∀ e ∈ (sDue 0 0).time.due, e.2.at_ = 50 → 2 ≤ e.1) ∧ (∃ e ∈ (sDue 0 0).time.due, e.2.at_ = 50 ∧ e.1 < 3) ∧
    flag (sDue 0 0) .MT_CTRL_ARMED 2 = true ∧ rd (sDue 0 0) .MT_CTRL_ACTION 2 = 0 ∧ flag (sDue 0 1) .MT_CTRL_REPEAT 2 = true ∧ flag (sDue 0 1) .MT_CTRL_KIND 2 = false ∧ (sDue 0 1).time.mst < 50 + rd (sDue 0 1) .MT_CTRL_PERIOD 2 ∧
    rd (sDue 1 0) .MT_CTRL_ACTION 2 = 1 ∧ dieDown (fl [(.PS_STATUS_STATE, 0, 1), (.PS_BOOT_LAST_STEP, 0, 8)] (sDue 1 0)) 0 = false ∧ bits (rd (sDue 1 0) .MT_ARG0_ARG 2) 16 16 ≠ 0 ∧ rd (sDue 1 0) .MT_CTRL_OWNER 2 = 0 ∧
    CanSend (sDue 1 0) { kind := .add, wm := 0, half := 8 } ∧ (2 : Nat) ∉ (sDue 0 0).time.disarm ∧ (2 : Nat) ∈ ({ (sDue 0 0).time with disarm := [2] } : TimeS).disarm := by unfold CanSend; decide +kernel

abbrev su (u : SupS) (s : State := State.reset) : State := { s with sup := u }
theorem test_wit_SupplyInputs : rd State.reset .PS_STATUS_STATE ≠ 5 ∧ mcRuns dRun = true ∧ (let s := fl [(.SUP_CTRL_AUTO_SHED, 0, 1), (.SUP_CTRL_AUTO_HOLD, 0, 1)] dRun;
      flag s .SUP_CTRL_AUTO_SHED = true ∧ flag s .KB_STATUS_BUS = false ∧ diesRun s = true ∧ flag s .KB_STATUS_SHED = false ∧ flag s .SUP_CTRL_AUTO_HOLD = true) ∧
    (10 : Nat) ≤ (su { State.reset.sup with lowShed := 10 }).sup.lowShed ∧ (su { State.reset.sup with lowShed := 9 }).sup.lowShed < 10 ∧ flag (fl [(.KB_STATUS_BUS, 0, 1)]) .KB_STATUS_BUS = true ∧ State.reset.sup.held = false ∧
    (let v : W64 := 0x0001C3500001_9470; bits v.toNat 0 16 = 38000 ∧ bits v.toNat 32 16 = 50000) := by decide +kernel
theorem test_wit_KerbSheds : mcRuns (fl [(.KB_CTRL_EN, 0, 1)] dRun) = true ∧ flag (fl [(.KB_CTRL_EN, 0, 1)] dRun) .KB_STATUS_KERB = false ∧ flag (fl [(.KB_CTRL_EN, 0, 0)]) .KB_CTRL_EN = false ∧ flag (fl [(.KB_CTRL_EN, 0, 1)]) .KB_CTRL_EN = true ∧ flag State.reset .KB_STATUS_KERB = false ∧
    (let s := fl [(.KB_STATUS_KERB, 0, 1), (.KB_STATUS_SHED, 0, 1), (.KB_CTRL_EXIT_EDGES, 0, 4)] dRun;
      flag s .KB_STATUS_KERB = true ∧ flag s .KB_STATUS_SHED = true ∧ flag s .KB_STATUS_BUS = false ∧ diesRun s = true ∧ s.boot.hold = .awake ∧ (s.now - s.sup.kerbLow) * 1000 < rd s .KB_CTRL_EXIT_EDGES * 9999 ∧
      rd s .KB_CTRL_EXIT_EDGES * 9999 ≤ (({ s with now := 40 } : State).now - s.sup.kerbLow) * 1000) := by decide +kernel
/-- A curve that ascends in frequency and one that does not. -/
theorem test_wit_FrequencyResponse : frAscending (fl ((List.range 8).map (fun i => (Fld.FR_POINT_OFFSET, i, 100 * i + 1)))) = true ∧ frAscending (fl ((List.range 8).map (fun i => (Fld.FR_POINT_OFFSET, i, 100)))) = false ∧ rd State.reset .FR_CTRL_MODE = 0 ∧
    (let s := su { State.reset.sup with applyQ := [(0, 500)], target := 1000, sendDue := true } (fl [(.FR_CTRL_MODE, 0, 3), (.FR_STATUS_CAP_PM, 0, 400), (.LK_BCAST_ORIG, 0, 1), (.LK_STATUS_STATE, 0, 2), (.LK_CONVOY_LOCAL, 0, 1), (.FR_CTRL_TIMEOUT, 0, 10)]);
      s.sup.applyQ = (0, 500) :: [] ∧ rd s .FR_STATUS_CAP_PM < s.sup.target ∧ rd s .FR_CTRL_MODE = 3 ∧ flag s .FR_STATUS_LEADER_LOST = false ∧ s.time.mst < s.sup.stepAt + 10000000 ∧
      s.sup.heard + rd s .FR_CTRL_TIMEOUT * 10000000 ≤ ({ s.time with mst := 100000000 } : TimeS).mst ∧ portUp s 0 = true ∧ flag s .LK_CONVOY_LOCAL 0 = true ∧ bcastNewer s 0 7 = true ∧ rd s .LK_BCAST_CONVOY = 0 ∧ rd s .FR_CTRL_LEADER = 0 ∧
      tb (rd s .LK_BCAST_ORIG) 0 = true ∧ (getPort s 0).egress = [] ∧ (getPort s 0).replay = [] ∧ 2 ≤ (getPort s 0).shared ∧ bcastNewer { s with link := { s.link with bcast := [(0, (7, 0))] } } 0 7 = false) := by decide +kernel
/-- A POWER and a BEACON broadcast as they arrive. -/
theorem test_wit_Broadcasts : (let p : PowerBody := ⟨800, -50, 7⟩; let b : BeaconBody := ⟨true, false, false, 2, 30, 5, 1000⟩;
    (BitVec.ofNat 512 (leNat (natLe 2 7 ++ natLe 1 3 ++ natLe 1 1 ++ powerBytes p.capPm p.offset p.applyMst))).toNat = leNat (natLe 2 7 ++ natLe 1 3 ++ natLe 1 1 ++ powerBytes p.capPm p.offset p.applyMst) ∧
    (BitVec.ofNat 512 (leNat (natLe 2 7 ++ natLe 1 3 ++ natLe 1 1 ++ beaconBytes b))).toNat = leNat (natLe 2 7 ++ natLe 1 3 ++ natLe 1 1 ++ beaconBytes b)) := by decide +kernel
/-- Half-cycles of 10 ms: 50 Hz. -/
theorem test_wit_MainsMeasurement : (let s := tm { State.reset.time with mhz := 50000, lossAt := some 0, missAt := 0 } (fl [(.MAINS_STATUS_LOCK, 0, 1), (.MAINS_STATUS_VALID, 0, 1), (.FR_CTRL_MODE, 0, 1), (.MAINS_STATUS_FLYWHEEL, 0, 1), (.FR_CTRL_NOMINAL, 0, 50000)] dRun);
    rd s .PS_STATUS_STATE ≠ 5 ∧ nearest (10 ^ 12) (2 * 10000000) = 50000 ∧ flag s .MAINS_STATUS_LOCK = true ∧ flag s .MAINS_STATUS_VALID = true ∧ frCurveCap s 0 < 1024 ∧ s.time.badHalves = 0 ∧
    3 * 10 ^ 12 ≤ (({ s with now := 15000000 } : State).now - s.time.missAt) * 4 * s.time.mhz ∧ s.time.lossAt = some 0 ∧ flag s .MAINS_STATUS_FLYWHEEL = true ∧ s.sup.open_.get 3 = none ∧ s.time.due.get 3 = none ∧ diesRun dRun = true) := by decide +kernel

/-! ### Power -/

/-- In Run, die 0 at code `c` with every bound at 56. -/
def sPow (c : Nat) : State := fl [(.PW_DIE_STATUS_CODE, 0, c), (.PW_DIE_CTRL_REQ_CODE, 0, 50), (.PW_DIE_STATUS_THERM_CEIL, 0, 56), (.PW_DIE_STATUS_AGE_CEIL, 0, 56), (.PW_DIE_STATUS_PACE_CEIL, 0, 56), (.PW_HALF_CTRL_REQ_RATIO, 0, 0), (.PW_HALF_STATUS_RATIO, 0, 3), (.FR_STATUS_CAP_PM, 0, 1000)] { dRun with now := 100000000 }
abbrev pw (p : PowS) (s : State) : State := { s with pow := p }
def pow0 : PowS := State.reset.pow
theorem test_wit_RatiosAndBudgets : halfRuns (sPow 30) 0 = true ∧ shedding (sPow 30) = false ∧ upFree (sPow 30) 7 ∧ rd (sPow 30) .PW_HALF_STATUS_RATIO 0 < 15 ∧ wantedN (sPow 30) 0 < rd (sPow 30) .PW_HALF_STATUS_RATIO 0 ∧
    (pw { pow0 with samples := [(0, [10])] } (sPow 30)).pow.samples.get 0 = some (10 :: []) ∧ (pw { pow0 with raised := [(0, .limit)], ratioAt := [(0, 0)] } (sPow 30)).pow.raised.get 0 = some .limit ∧ (sPow 30).pow.samples.get 0 = none ∧
    (sPow 30).pow.raised.get 0 ≠ some .limit ∧ (sPow 30).pow.paceN.getD 0 0 = 0 ∧ rd (sPow 30) .PW_HALF_STATUS_RATIO 1 ≤ wantedN (sPow 30) 1 ∧ rd (sPow 30) .PW_INPUT_P_LIM < 60000 ∧ rd (sPow 30) .PW_LIMIT_TRIP_FAST < 2047 := by unfold upFree; decide +kernel
theorem test_wit_DieCodes : (let s := sPow 42;
    rd s .PW_DIE_STATUS_CODE 0 = 42 ∧ diesRun s = true ∧ dieUp s 0 = true ∧ shedding s = false ∧ inTrim s = false ∧ flag s .PW_DIE_STATUS_TRANSITION 0 = false ∧ boundOf s 0 = 50 ∧ ceilOf s 0 = 56 ∧ s.pow.target.get 0 = none ∧ s.pow.stepAt.getD 0 0 + 100000 ≤ s.now ∧
    s.pow.downAt.get 0 = none ∧ s.pow.grantAt.get 0 = none ∧ (∀ h ∈ dieHalves 0, s.pow.above.get h = none ∧ i1msAbove s h (rd s .PW_LIMIT_GRANT_PCT) 100 = false) ∧
    i1msAbove (pw { pow0 with samples := [(0, [2000])] } s) 0 100 100 = true ∧ i1msAbove (pw { pow0 with samples := [(0, [2000])] } s) 0 (rd s .PW_LIMIT_GRANT_PCT) 100 = true ∧ rd s .PW_DIE_CTRL_REQ_CODE 0 = 50 ∧ 57 ≤ bits 57 0 6 ∧ allowedOf (sPow 30) 0 = 42 ∧
    (∀ h ∈ dieHalves 0, rd (fl [(.PW_HALF_STATUS_RATIO, 0, 0)] s) .PW_HALF_STATUS_RATIO h ≤ wantedN s h)) ∧
    (let s := pw { pow0 with target := [(0, 43)], thermAt := [(0, 0)] } (fl [(.PW_DIE_STATUS_TRANSITION, 0, 1), (.DK_TEMP_CEIL90, 0, 1)] (sPow 42));
     flag s .PW_DIE_STATUS_TRANSITION 0 = true ∧ s.pow.target.get 0 = some 43 ∧ 43 ≤ boundOf s 0 ∧ s.pow.thermAt.get 0 = some 0 ∧ rd s .PW_DIE_STATUS_THERM_CEIL 0 ≤ 56 ∧ flag s .DK_TEMP_CEIL90 0 = true) := by decide +kernel
def sCmd (op : Nat) (more : Nat := 0) (s : State := dRun) : State := { s with sched := { s.sched with ctxs := [(5, {})] }, host := { s.host with cmds := [{ ref := ⟨0, 0, 0⟩, raw := BitVec.ofNat 512 (op + 5 * 65536 + more) }] } }
abbrev cmdOf (s : State) : Cmd := s.host.cmds.headD { ref := ⟨0, 0, 0⟩, raw := 0 }
theorem test_wit_DroopHintsPeaks : halfRuns (sPow 30) 0 = true ∧ (0 : Nat) ∉ (sPow 30).pow.tripped ∧ (sPow 30).pow.stretch.get 0 = none ∧ (pw { pow0 with stretch := [(0, 0)] } { sPow 30 with cyc := [(0, 256 * cycUnit)] }).pow.stretch.get 0 = some 0 ∧
    0 + 256 ≤ cycles { sPow 30 with cyc := [(0, 256 * cycUnit)] } 0 ∧ upFree (sPow 30) 0 ∧ Starts (sCmd 5) ⟨0, 0, 0⟩ (cmdOf (sCmd 5)) {} ∧ (cmdOf (sCmd 5)).op = 5 ∧ (cmdOf (sCmd 5)).fld 8 1 = 0 ∧ Starts (sCmd 5 (2 ^ 64)) ⟨0, 0, 0⟩ (cmdOf (sCmd 5 (2 ^ 64))) {} ∧
    (cmdOf (sCmd 5 (2 ^ 64))).fld 8 1 = 1 ∧ pLimit (sPow 30) = 9000 ∧ shedding (sPow 30) = false ∧ flag (sPow 30) .PW_INPUT_RECOVERY = false ∧ (pw { pow0 with hints := [(3, ⟨true, 255, 0, false⟩)], peakSince := some 0, recovery := some 0 } (sPow 30)).pow.hints.get 3 = some ⟨true, 255, 0, false⟩ ∧
    (sPow 30).now ≥ 0 + 90000000 ∧ flag (fl [(.PW_HALF_STATUS_PEAK, 7, 1)]) .PW_HALF_STATUS_PEAK 7 = true := by unfold upFree Starts; decide +kernel
theorem test_wit_ConvoyBeacons : (let s := fl [(.LK_STATUS_STATE, 0, 2), (.LK_CONVOY_LOCAL, 0, 1), (.PW_CONVOY_CTRL_BEACON_EN, 0, 1), (.LK_BCAST_ORIG, 0, 1), (.LK_DEVNUM_DEV, 0, 2)] { State.reset with now := 10 ^ 12 };
    portUp s 0 = true ∧ bcastNewer s 9 0 = true ∧ flag s .LK_CONVOY_LOCAL 0 = true ∧ rd s .LK_BCAST_CONVOY = 0 ∧ flag s .PW_CONVOY_CTRL_PACE_EN = false ∧ s.pow.beacons = [] ∧ flag s .PW_CONVOY_STATUS_THROTTLED = false ∧ rd s .LK_DEVNUM_DEV ≠ 9 ∧
    rd s .PW_CONVOY_STATUS_SLOW_DEV ≠ 9 ∧ flag s .PW_CONVOY_CTRL_BEACON_EN = true ∧ s.pow.beaconAt + rd s .PW_CONVOY_CTRL_PERIOD * 10000 ≤ s.now ∧ tb (rd s .LK_BCAST_ORIG) 0 = true ∧ (getPort s 0).egress = [] ∧ (getPort s 0).replay = [] ∧ 2 ≤ (getPort s 0).shared ∧ portUp s 1 = false ∧
    (pw { pow0 with beacons := [(9, ⟨1000, true, 0⟩)] } s).pow.beacons.get 9 = some ⟨1000, true, 0⟩ ∧ 0 + rd s .PW_CONVOY_CTRL_STALE * rd s .PW_CONVOY_CTRL_PERIOD * 10000 ≤ s.now) := by decide +kernel

/-! ### Matrix engines -/

/-- INT8, M = N = 1, K = 2, bank 0, engine 0; X6 = 0 and X8 = 0x1000 hold the tiles. -/
def iMma : LForm := ⟨{ dR with d := 0xC8, c := 0xC8, ty := 9, sub := 9 }, BitVec.ofNat 64 (1 * 4096)⟩
abbrev sX : State := dS 0 (dOne 0x1000)
abbrev eX : Env := dE 0 (dOne 0x1000)
def iTload : LForm := ⟨{ dR with d := 8, b := 8, c := 0xC8, ty := 9 }, BitVec.ofNat 64 0⟩
def iTstore : LForm := ⟨{ dR with d := 6, a := 8, c := 0xC8, ty := 9 }, BitVec.ofNat 64 0⟩
theorem test_wit_MatrixIssue : Straight eX ∧ coreType 0 = 1 ∧ eX.ex ≠ 0 ∧ fenceHolds eX.p false = false ∧ CanIssue sX dG 0 false eX (mmaOps iMma) ∧ (∀ f ∈ mmaFields iMma, f.2 = true) ∧ (getEng eX.k (engOf iMma)).queue = [] ∧
    loftFault 0 ((mmaTiles iMma eX).map (fun x => (x.1, x.2.1))) = none ∧ CanIssue sX dG 0 false eX (tloadOps iTload) ∧ (∀ f ∈ tloadFields iTload, f.2 = true) ∧ tloadFault iTload eX = none ∧ CanIssue sX dG 0 false eX (tstoreOps iTstore) ∧
    (∀ f ∈ tstoreFields iTstore, f.2 = true) ∧ tstoreFault iTstore eX = none ∧ (loftFault 0 ((mmaTiles iMma (dE 0 (dOne 0x1FFFF0))).map (fun x => (x.1, x.2.1)))).isSome = true ∧
    threads eX.p.mask = 0 :: [] ∧ CanIssue sX dG 0 false eX (rOps { iTload.r with b := 0xC8 } .r .wr .z .z) ∧ eX.x.opnd false 32 8 0 + tileLen 9 1 1 ≤ loftSize 0 := by unfold CanIssue Straight; decide +kernel
/-- A warm engine 0 of core 0 with one command; A = (3, -2) and B = (4, 5). -/
def cMma (op : MOp) : MCmd := { id := 4, pipe := 0, slot := 0, op := op, rm := 0, sat := false, ranges := [], seq := 0 }
def sEng (op : MOp) : State := { dRun with cores := [(0, { dCore dGroup with engines := [(0, { warm := true, queue := [cMma op] })] })], mem := [(loftAt 0, 3), (loftAt 0 + 1, 0xFE), (loftAt 0 + 64, 4), (loftAt 0 + 65, 5)] }
def opMma : MOp := .mma 0 0 64 0 0 9 9 0 1 1 2 0 false false false false false false false
theorem test_wit_MatrixExecution : (∀ op ∈ ([opMma, .tload 64 0 64 9 1 2 0 false true 0, .tstore 64 0 64 0 9 1 2 0 false true false 0] : List MOp),
      (getCore (sEng op) 0).ctx = some 5 ∧ (getCore (sEng op) 0).halted = false ∧ (getCore (sEng op) 0).gated = false ∧ (getCore (sEng op) 0).preempting = false ∧ sbReady (sEng op) 0 (cMma op) = true ∧ unitHead (getEng (getCore (sEng op) 0) 0) (op != opMma) = some (cMma op)) ∧
    arrayGo (sEng opMma) 0 0 = true ∧ arrayGo (fl [(.KB_STATUS_SHED, 0, 1)] (sEng opMma)) 0 0 = false ∧ rowBytes 9 2 ≤ 64 ∧ (getEng (getCore (sEng opMma) 0) 0).warm = true ∧ stopOn (sEng opMma) 0 = false := by decide +kernel
/-- 3 × 4 + (-2) × 5 = 2. -/
theorem test_mma_int8 : (match exec (.matrixCmdComplete 0 0 ⟨false, none⟩) (sEng opMma) with
    | .next t => some ((getEng (getCore t 0) 0).banks.getD 0 0, (getEng (getCore t 0) 0).queue.length) | _ => none) = some (2, 0) := by decide +kernel

/-! ### Scheduling -/

def dLaunch : Launch := { ctx := 5, cmd := some ⟨0, 0, 0⟩, entry := 0x1000, args := 7, wblocks := 1, groups := 1, ctype := 1, n := 64, arith := {} }
/-- Core 0 alone in instance 0's pool, free; context 5 with a launch of one block. -/
def sPl : State := { fl [(.IN_UNIT_DATA_STATE, 0, 3)] dRun with inst := { State.reset.inst with cores := [(0, 0)] }, sched := { State.reset.sched with ctxs := [(5, {})], launches := [(9, dLaunch)], nextId := 10 } }
theorem test_wit_PlacementAndPreemption : (getCore sPl 0).ctx = none ∧ chosen sPl 0 = some (5, .fresh 9) ∧ comesFirst sPl 0 5 (.fresh 9) = true ∧ sPl.sched.launches.get 9 = some dLaunch ∧ coreType 0 = 1 ∧
    (liveS State.reset 0).head? = some 96 ∧ freeSlot sPl 0 = some 0 ∧ freeSlot dRun 0 = none := by decide +kernel
/-- Its block has run to the end; it is being pre-empted; it is saved. -/
def dBlk (st : BlkSt) : Block := { ctx := 5, launch := 9, number := 0, st := st }
def sRun (x : Group) (pre : Bool) : State := { sPl with cores := [(0, { dCore x with blocks := [8], preempting := pre })], sched := { sPl.sched with blocks := [(8, dBlk (.running 0))], launches := [(9, { dLaunch with fresh := 1 })] }, inst := { sPl.inst with cores := [] } }
def dImg : SaveImg := { ctype := 1, source := 0, groups := [(0, dGroup)], engines := [], outs := [], descs := [], loft := [(3, 7)], loftSaved := 64 }
theorem test_wit_PlacementAndPreemption_end : (let s := sRun { dGroup with run := none } false;
    (getCore s 0).ctx = some 5 ∧ contributed s 0 = [] ∧ s.deck.chans = [] ∧ s.rel.fencing = none ∧ s.inst.cores.get 0 = none ∧ (getCore s 0).blocks = [8] ∧ coreDone s 0 = true ∧ (getCore s 0).halted = false ∧ s.sched.blocks.get 8 = some (dBlk (.running 0)) ∧
    dLaunch.wblocks ≤ 0 + 1 ∧ savedUp (sRun { dGroup with run := none, stopped := true } true) 0 = true) ∧
    (let s : State := { sPl with sched := { sPl.sched with blocks := [(8, dBlk .saved)], images := [(8, dImg)], launches := [(9, { dLaunch with fresh := 1 })] } };
     chosen s 0 = some (5, .saved 8) ∧ comesFirst s 0 5 (.saved 8) = true ∧ SMap.wf dImg.loft ∧ (∀ e ∈ dImg.loft, e.1 < dImg.loftSaved)) := by decide +kernel
theorem test_wit_PlacementAndPreemption_slots : savePasses sPl 0 = true ∧ savePasses sPl 96 = true := by decide +kernel
def dFault : FaultRec := { ctx := 5, code := 0x0107, detail := 9 }
/-- Context 5 is being killed for a TRAP, with its LAUNCH outstanding. -/
def xKill : Ctx := { st := .killing, fault := some dFault, faultAddr := 0x4001 }
def sKill : State := let s := sCmd 1; { s with sched := { s.sched with ctxs := [(5, xKill)], faults := [dFault] }, host := { s.host with cmds := [{ cmdOf s with started := true }] } }
theorem test_wit_KillSequence : getCtx sKill 5 = some xKill ∧ sKill.sched.faults.filter (fun r => r.ctx = 5) = [dFault] ∧ killDrained sKill 5 = true ∧ rd sKill .IN_STATUS_STATE 0 ≠ 3 ∧ attLost sKill (fnAtt (instFn sKill 0)) = false ∧ sKill.sched.seqCmds = [] ∧
    (∀ q ∈ sKill.host.cmds, q.ctx = 5 ∧ fnNum q.ref.fid = 0 ∧ q.fin = none ∧ q.started = true ∧ q.op = 1) ∧ (getCore (sRun dGroup false) 0).killed = false := by decide +kernel
/-- A descriptor of context 7 at address 0 of the deck: weight 1, window of one waymark at 64. -/
def sDesc : State := { dRun with mem := [(0, 7), (4, 1), (12, 64)] }
theorem test_wit_ContextCommands : (let d := leNat (orderBytes sDesc (myDev sDesc * 2 ^ 40) 64);
    isDeck sDesc (myDev sDesc * 2 ^ 40) = true ∧ dieUp sDesc (homeDie (myDev sDesc * 2 ^ 40 / 64)) = true ∧ bits d 0 16 = 7 ∧ getCtx sDesc 7 = none ∧ descriptorOk d = true ∧ wmInside sDesc (ctxOf d) = true ∧ (ctxOf d).farEn = false ∧ freeTag sDesc = some 0) ∧
    getCtx sPl 5 = some {} ∧ ({} : Ctx).st = .ready ∧ getCtx sKill 5 = some xKill := by decide +kernel

/-! ### Coherence and the deck -/

/-- A request of core 0 for line 0 at its home, slice die 0. -/
def mReq (k : MsgKind) : Msg := { kind := k, req := .core 0, die := 0, slice := sliceOf 0, line := 0, id := 1, data := 5, mask := 0xF }
def sCoh (m : Msg) (e : Option SEntry := none) (s : State := dRun) : State := { s with coh := { s.coh with net := [m], lines := (match e with | some e => [(lkey m.die m.line, e)] | none => []) } }
def busyT (m : Msg) : Txn := { msg := m, acks := 1, needData := false }
theorem test_wit_HomeSlice : AtHome (sCoh (mReq .gets)) (mReq .gets) ∧ getLine (sCoh (mReq .gets)) 0 0 = none ∧ AtHome (sCoh (mReq .wr) (some { st := .hd })) (mReq .wr) ∧ ((getLine (sCoh (mReq .wr) (some { st := .hd })) 0 0).map (·.st)) = some .hd ∧
    AtHome (sCoh { mReq .putm with req := .guest 1 0 } (some { st := .hg, guests := bit 4 1 })) { mReq .putm with req := .guest 1 0 } ∧ (({ st := .hd, sharers := bit208 7 } : SEntry).sharers &&& ~~~writerBit { st := .hd, sharers := bit208 7 } (mReq .wr)) ≠ 0 ∧
    (({ st := .hd, sharers := bit208 0 } : SEntry).sharers &&& ~~~writerBit { st := .hd, sharers := bit208 0 } (mReq .wr)) = 0 := by unfold AtHome Taken AtSlice Arrived LineFree; decide +kernel
theorem test_wit_HomeSlice_refusals : (let s : State := { sCoh { mReq .wr with tries := 7 } with coh := { (sCoh { mReq .wr with tries := 7 }).coh with busy := [(lkey 0 0, busyT (mReq .gets))] } };
    AtSlice s { mReq .wr with tries := 7 } ∧ (reqHalves { mReq .wr with tries := 7 }).all (halfUp s) = true ∧ s.coh.tickets.get (lkey 0 0) = none ∧ dieUp s 0 = true ∧ (getBusy s 0 0).isSome = true ∧ homeDie 0 = 0 ∧ dieUp { s with die := { s.die with down := [0] } } 0 = false) := by unfold AtSlice Arrived; decide +kernel
theorem test_wit_HomeSlice_ways : FreeWay (sCoh (mReq .gets)) (mReq .gets) ∧ getsAlloc (mReq .gets) = true ∧ stripFlag (sCoh (mReq .atom) (some { st := .hd })) (mReq .atom) = 0 ∧ FreeWay (sCoh { mReq .red with die := 1, req := .core 208 }) { mReq .red with die := 1, req := .core 208 } :=
  ⟨⟨0, by decide +kernel, by decide +kernel, by decide +kernel⟩, by decide +kernel, by decide +kernel, ⟨0, by decide +kernel, by decide +kernel, by decide +kernel⟩⟩
theorem test_wit_GuestSlicesAndOwners : (let m : Msg := { mReq .red with die := 1, req := .core 208 };
    AtGuest (sCoh m) m ∧ getLine (sCoh m) 1 0 = none ∧ m.flags % 8 ≠ 2) ∧ (let m : Msg := { mReq .wr with die := 1, req := .core 208 };
    AtGuest (sCoh m (some { st := .gm })) m ∧ (getLine (sCoh m (some { st := .gm })) 1 0) = some { st := .gm } ∧ (({ st := .gm } : SEntry).sharers &&& ~~~writerBit { st := .gm } m) = 0) ∧
    (let m : Msg := { mReq .inv with die := 1, req := .guest 1 0 }; Arrived (sCoh m (some { st := .gs })) m ∧ getLine (sCoh m (some { st := .gs })) 1 0 = some { st := .gs } ∧ invOut (sCoh m (some { st := .gs })) 1 0 = false) ∧
    (let m : Msg := { mReq .fwdShare with die := 1 }; let s := sCoh m (some { st := .gm }); Arrived s m ∧ getLine s 1 0 = some { st := .gm } ∧ invOut s 1 0 = false ∧ getBusy s 1 0 = none) ∧
    (partLines (sCoh (mReq .red)) 1 0).length < 64 := by unfold AtGuest Taken AtSlice Arrived LineFree; decide +kernel
def dOut (k : OpKind) (n : Nat) : OutOp := { id := 1, pipe := 0, slot := 0, pathLow := 0, kind := k, parts := [⟨0, 0, n, 0⟩], regs := [4] }
theorem test_wit_AnswersAndEpochs : (∀ k ∈ ([.data, .atomResult, .ack, .fenced, .nack, .ticket, .go, .putack] : List MsgKind), Arrived (sCoh (mReq k)) (mReq k)) ∧ (∀ k ∈ ([.load 4 false false, .atom 4, .write] : List OpKind), (({ dCore dGroup with outs := [dOut k 4] } : Core).outs.find? (fun q => q.id = (mReq .data).id)) = some (dOut k 4)) ∧ (dOut .write 64).parts = [⟨0, 0, 64, 0⟩] ∧
    getMark dRun (locLine 0) = none ∧ coreType 0 ≠ 3 ∧ refusedOf { dRun with coh := { dRun.coh with refused := [{ msg := { mReq .wr with tries := 1 }, ready := 0 }] } } (mReq .nack) = some { msg := { mReq .wr with tries := 1 }, ready := 0 } ∧
    getBusy { dRun with coh := { dRun.coh with busy := [(lkey 0 0, busyT (mReq .wr))] } } 0 0 = some (busyT (mReq .wr)) ∧ dRun.coh.pendInv = [] ∧ dRun.coh.tickets.get (lkey 0 0) = none ∧
    (let k : Coh := { dRun.coh with epochs := [(5 * 256 + 3, 0xFFFF)], advances := [(3, [5, 6])], sweeps := [(7, 3)] }; k.advances.find? (fun x => x.1 = 3) = some (3, [5, 6]) ∧ 0xFFFF ≤ k.epochs.getD (5 * 256 + 3) 0 ∧ k.epochs.getD (6 * 256 + 3) 0 < 0xFFFF ∧ (5, 3) ∉ k.sweeps ∧ (7, 3) ∈ k.sweeps) ∧ dRun.rel.corr.get (unitSlice 0 (sliceOf 0)) = none := by unfold Arrived; decide +kernel
/-- Bytes of a small number at an address. -/
def cells (a v : Nat) : List (Nat × Byte) := ((List.range 6).map (fun i => (a + i, BitVec.ofNat 8 (v / 256 ^ i)))).filter (fun e => e.2 ≠ 0)
/-- Context 5's tables at 0x10000, 0x11000, 0x12000 and 0x13000, with this last entry. -/
def sWalk (pte : Nat) : State := { dRun with
  sched := { dRun.sched with ctxs := [(5, { ptRoot := 0x10000 })] }
  mem := cells 0x10000 0x11001 ++ cells 0x11000 0x12001 ++ cells 0x12000 0x13001 ++ cells 0x13000 pte
  deck := { dRun.deck with walks := [{ half := 0, ctx := 5, va := 0x40, acc := .read, agent := .engine 0, pipe := 0, slot := 0 }] } }
theorem test_wit_DeckAccess : (mReq .deckRead ∈ (sCoh (mReq .deckRead)).coh.net ∧ getMark (sCoh (mReq .deckRead)) 0 = none ∧ (∀ w ∈ (sCoh (mReq .deckRead)).coh.net, w.kind = .writeBack → w.line ≠ 0) ∧ [1, 2].all (fun h => serves (sCoh (mReq .deckRead)) (chanOf 0) (readClass (mReq .deckRead)) h) = true ∧
    mReq .writeBack ∈ (sCoh (mReq .writeBack)).coh.net ∧ serves (sCoh (mReq .writeBack)) (chanOf 0) .norm = true) ∧ (getCtx (sWalk 0) 5).isSome = true ∧
    walkVa (sWalk 0) { ptRoot := 0x10000 } 0x40 .read = .fault 0x0201 3 ∧ walkVa (sWalk 0x40) { ptRoot := 0x10000 } 0x40 .read = .defer 0x13000 ∧ walkVa (sWalk 0x200007) { ptRoot := 0x10000 } 0x40 .read = .leaf 0x200007 16 ∧ walkVa (sWalk 0x200003) { ptRoot := 0x10000 } 0x40 .read = .fault 0x0202 0 ∧ ((sWalk 0).deck.walks.find? (fun w => !w.deferred && w.half = 0 && w.ctx = 5 && w.va = 0x40 && w.acc = .read)).isSome = true ∧ agentUp (sWalk 0) 0 = true ∧ (∀ c, (touchCore (.engine 0)).1 = some c → c = 0) ∧ coreLive (sWalk 0x40) 0 = true ∧
    pageHeld dRun 0 = false ∧ pageHeld (fl [(.IN_UNIT_DATA_STATE, 0, 3)] dRun) 0 = true ∧ rd dRun .DK_RETIRE_COUNT_COUNT < 16384 ∧ getWcb { dRun with deck := { dRun.deck with chans := [(chanOf 0, { wcb := [⟨0, 5, 1, 0, [0]⟩] })] } } 0 = some ⟨0, 5, 1, 0, [0]⟩ := by decide +kernel
/-- A core's walk, of a table whose home die is in reset; an entry of the write-combining buffer 2 µs old, one younger, and one held up by a refresh. -/
theorem test_wit_DeckAccess_more : walkVa { sWalk 0 with die := { dRun.die with down := [0] } } { ptRoot := 0x10000 } 0x40 .read = .fenced 0x10000 ∧
    (let s : State := { sWalk 0 with cores := [(0, dCore dGroup)], deck := { dRun.deck with walks := [{ half := 0, ctx := 5, va := 0x40, acc := .read, agent := .core 0, pipe := 0, slot := 0 }] } };
      (getCore s 0).ctx = some 5 ∧ getGroup s { core := 0, pipe := 0, slot := 0 } = some dGroup ∧ walkVa s { ptRoot := 0x10000 } 0x40 .read = .fault 0x0201 3) ∧
    (let s : State := { dRun with now := 2000, deck := { dRun.deck with chans := [(chanOf 0, { wcb := [⟨0, 5, 1, 0, [0]⟩] })] } };
      (0 : Nat) + 2000 ≤ s.now ∧ serves s (chanOf 0) .norm 4 = true ∧ getMark s 0 = none ∧ (1 : BitVec 64) ≠ BitVec.allOnes 64 ∧
      serves { s with deck := { s.deck with chans := [(chanOf 0, { wcb := [⟨0, 5, 1, 0, [0]⟩], refBusy := some 1900 })] } } (chanOf 0) .norm 4 = false) := by decide +kernel
/-- No unit has an owner, so no page is free; with unit 0 owned and a context that stripes over the half, the near channel has pages. -/
theorem test_wit_DeckAccess_touch : touchChan (sWalk 0x40) { ptRoot := 0x10000 } 0 (touchCore (.engine 0)).1 (touchCore (.engine 0)).2 = none :=
  touchChan_none _ _ _ (fun _ => freePages_nil (fun u _ _ => by
    rw [rd_congr (s := sWalk 0x40) (t := wr (wr State.reset .PS_STATUS_STATE 0 1) .PS_BOOT_LAST_STEP 0 8) rfl, rd_wr_fld _ _ _ _ (by decide), rd_wr_fld _ _ _ _ (by decide)]; simp [rd, State.reset, SMap.getD, Fld.dflt, Fld.spec]))
theorem test_wit_DeckAccess_page : touchChan (fl [(.IN_UNIT_DATA_STATE, 0, 1)] (sWalk 0x40)) { ptRoot := 0x10000, policy := 1 } 0 (touchCore (.core 0)).1 (touchCore (.core 0)).2 = some 0 ∧
    freePages (fl [(.IN_UNIT_DATA_STATE, 0, 1)] (sWalk 0x40)) 0 0 ≠ [] := by decide +kernel
theorem test_wit_DeckUpkeep : refreshed dRun 0 = true ∧ dieRuns dRun 3 = true ∧ flag State.reset .DK_CHAN_STATUS_HOT 0 = false ∧ (getChan dRun 0).refBusy = none ∧ dRun.deck.wins.get 0 = none ∧ rd dRun .DK_CHAN_STATUS_OWED 0 = 0 ∧
    (getChan { dRun with deck := { dRun.deck with chans := [(0, { refBusy := some 0 })] } } 0).refBusy = some 0 ∧ critQueued dRun 0 = false ∧ critRoom dRun 0 2 = true ∧ scrubDue dRun ≤ dRun.boot.runNs ∧ serves dRun (chanOf 0) .back = true ∧
    critQueued (sCoh { mReq .deckRead with op := 1 }) 0 = true ∧ dRun.deck.scrubbed < 1023 ∧ getMark dRun 0 = none ∧ flag (fl [(.DK_SCRUB_CTRL_EN, 0, 1)] dRun) .DK_SCRUB_CTRL_EN = true ∧
    flag (fl [(.DK_SCRUB_CTRL_EN, 0, 0)] dRun) .DK_SCRUB_CTRL_EN = false ∧ tb (dRun.deck.quads.getD 0 0) 1 = false ∧ (getChan { dRun with deck := { dRun.deck with chans := [(0, { forced := true })] } } 0).forced = true ∧
    dRun.deck.wins.get 0 = none ∧ serves (fl [(.DK_CHAN_STATUS_OWED, 0, 1)] dRun) 0 .back = true ∧ ({ dRun.deck with wins := [(0, { until_ := 5 })] } : Deck).wins.get 0 = some { until_ := 5 } := by decide +kernel
/-- A TLOAD of a page that has no translation: its walk is asked for; of one whose address lies beyond the space: it faults; of memory that is there: no trouble. -/
theorem test_wit_MatrixExecution_far : cmdTrouble (sWalk 0x20000F) 5 (.tload 64 0x40 64 9 1 2 0 false false 0) = none ∧ (∃ a, cmdTrouble (sWalk 0) 5 (.tload 64 0x40 64 9 1 2 0 false false 0) = some (a, some 0x0301)) := ⟨by decide +kernel, 0x40, by decide +kernel⟩

/-! ### Deck engines, dies, links -/

/-- COPY of 4 bytes, FILL of 4 bytes and CRC32C, between lofts; as the descriptor at the head of channel 0. -/
def rawD (op flags : Nat) : Line := BitVec.ofNat 512 (op + flags * 256 + 0x100 * 2 ^ 128 + 4 * 2 ^ 320)
def dD (raw : Line) (ph : Nat := 0) : DDesc := { id := 0, raw := raw, ctx := 5, core := 0, phase := ph }
def sD (d : DDesc) : State := { dSt 0 dGroup with deck := { State.reset.deck with chans := [(0, { queue := [d] })] } }
def vD (d : DDesc) : Dv := { dview d.raw with rm := d.rm, sat := d.sat }
theorem test_wit_DeckEngines : (∀ p ∈ [(1, 3), (2, 2), (9, 1)], AtEngine (sD (dD (rawD p.1 p.2))) 0 (dD (rawD p.1 p.2)) [] (vD (dD (rawD p.1 p.2))) ∧ DescOk 0 (dD (rawD p.1 p.2)) (vD (dD (rawD p.1 p.2))) ∧ (vD (dD (rawD p.1 p.2))).zeroOp = false ∧
      (∀ r ∈ (vD (dD (rawD p.1 p.2))).runs, runStop (sD (dD (rawD p.1 p.2))) 0 5 r = none) ∧ unitCount (vD (dD (rawD p.1 p.2))) {} ≠ 0 ∧
      descLeft (sD (dD (rawD p.1 p.2))) 0 (dD (rawD p.1 p.2)) (vD (dD (rawD p.1 p.2))) {} = [] ∧ descAsks (sD (dD (rawD p.1 p.2))) 0 (dD (rawD p.1 p.2)) (vD (dD (rawD p.1 p.2))) {} = []) ∧
    ¬DescOk 0 (dD (rawD 0 0)) (vD (dD (rawD 0 0))) ∧ chanCore 0 = 0 ∧ nearChan 0 = 0 ∧ (getCtx (sD (dD 0)) 5).isSome = true ∧ CanIssue (dSt 0 (dOne 1)) dG 0 false (dEt 0 (dOne 1)) (rOps { z dR with d := 0xC8, ty := 0 } .z .r .r .z) ∧
    sbBlocked (dSt 0 (dOne 1)) 0 [rng true false 0 64] = false ∧ (∀ e ∈ (sD (dD 0)).deck.chans, ∀ w ∈ e.2.wcb, engWriter 0 ∉ w.writers) ∧
    CanSend (sD (dD 0)) { kind := .add, wm := wmIndex {} 0, half := chanHalf 0, core := chanCore 0, count := 1 } := by unfold AtEngine DescOk CanIssue CanSend; decide +kernel
/-- COPY from the deck, its page at address `a`: not yet read, its line given up and read, to be asked for. -/
def sFar (a : Nat) (d : DDesc) (r : Nat := 0) : State := { sD d with deck := { (sD d).deck with engTlb := [(0, [{ ctx := 5, va := 0, log2 := 16, leaf := BitVec.ofNat 64 (a + 15) }])], res := if r = 0 then [] else [(pageOf a, r)] } }
def dCp : DDesc := dD (rawD 1 2)
theorem test_wit_DeckEngines_lines :
    (∀ a ∈ [0, 0x10000], AtEngine (sFar a dCp) 0 dCp [] (vD dCp) ∧ DescOk 0 dCp (vD dCp) ∧ (∀ r ∈ (vD dCp).runs, runStop (sFar a dCp) 0 5 r = none) ∧ unitCount (vD dCp) {} ≠ 0 ∧ descAsks (sFar a dCp) 0 dCp (vD dCp) {} = []) ∧
    ((descLeft (sFar 0 dCp) 0 dCp (vD dCp) {}).filter (fun l => l.chan = 0)).length = 1 ∧ getMark (sFar 0 dCp) 0 = none ∧ ((descLeft (sFar 0x10000 dCp) 0 dCp (vD dCp) {}).any (fun l => l.chan ≠ 0)) = true ∧
    AtEngine (sFar 0 { dCp with read := [0] } 1) 0 { dCp with read := [0] } [] (vD dCp) ∧ descAsks (sFar 0 { dCp with read := [0] } 1) 0 { dCp with read := [0] } (vD dCp) {} ≠ [] ∧ descLeft (sFar 0 { dCp with read := [0] } 1) 0 { dCp with read := [0] } (vD dCp) {} = [] ∧
    (match (vD dCp).runs.findSome? (runStop (sD dCp) 0 5) with | some (.wait _ _) => true | _ => false) = true := by unfold AtEngine DescOk; decide +kernel
theorem test_wit_DeckEngines_rows : ∀ p ∈ [(1, 3), (2, 2), (9, 1)], (match tableRows (sD (dD (rawD p.1 p.2))) 0 5 (vD (dD (rawD p.1 p.2))) with | .ok r => some r | .error _ => none) = some {} := by decide +kernel
/-- FILL writes its bytes of PARAM to the loft. -/
theorem test_fill : (let d := dD (BitVec.ofNat 512 ((rawD 2 2).toNat + 0x0807060504030201 * 2 ^ 448)); match exec (.fill ⟨0, .ok⟩) (sD d) with
    | .next t => readBytes t.mem (loftAt 0 + 0xFF) 6 | _ => []) = [0, 1, 2, 3, 4, 0] := by decide +kernel
theorem test_wit_DieFaults : testing dRun = false ∧ dieRuns dRun 0 = true ∧ dieRuns dRun 3 = true ∧ dRun.die.isolated.get 7 = none ∧ (({ dRun.die with isolated := [(6, 0)] } : DieS).isolated.get (7 + 1 - 2 * (7 % 2))).isSome = true ∧ dRun.die.faulted = [] ∧ (let s := fun (n : Nat) => ({ dRun with die := { dRun.die with resync := [(3, n * cycUnit)] } } : State); ((3 :: (bridgesOf 3).map (8 + ·)).filter (resyncOver (s 63)) = [] ∧ (3 :: (bridgesOf 3).map (8 + ·)).filter (resyncOver (s 64)) = [3])) ∧ dRun.link.waits = [] ∧ diesRun dRun = true ∧ rd (fl [(.PS_STATUS_STATE, 0, 3)]) .PS_STATUS_STATE = 3 := by decide +kernel
abbrev sP (st : Nat) (x : Port := {}) : State := { fl [(.LK_STATUS_STATE, 7, st), (.LK_CTRL_EN, 7, 1), (.LK_STATUS_PARTNER_TT, 7, 1)] dRun with link := { State.reset.link with ports := [(7, x)] }, now := 1000000 }
def mL : LMsg := { op := 3, dest := 1, src := 0 }
/-- A flit as the partner writes it: an IDLE one with an acknowledgement or with credits, one of no message, one with a response, one of a reserved operation, one for device 9. -/
def wF (f : TxFlit) : FlitV := readFlit f.word
def zE : List (Nat × Nat) := List.replicate 8 (0, 0)
theorem test_wit_LinkPorts : linksOn (sP 0) = true ∧ rd (sP 0) .LK_STATUS_STATE 7 = 0 ∧ flag (sP 2) .LK_CTRL_EN 7 = true ∧ rd (sP 3) .LK_STATUS_STATE 7 = 3 ∧ (trainChoice (sP 1) 7 2 255 4).2 = some (3, 255) ∧ (trainChoice (sP 1) 7 2 1 4).2 = none ∧ (trainChoice (sP 1) 7 0 255 7).1 = 0 ∧
    (trainChoice (sP 3 { full := false }) 7 2 255 4).1 = rd (sP 3) .LK_STATUS_RATE 7 ∧ (getPort (sP 1 { clean := 64 }) 7).clean = 64 ∧ laneGroup (255 - 128) = some (2, 15) ∧ laneGroup (Nat.land (255 - 128) 192) = none ∧ (sP 2).link.waits = [] ∧
    (getPort (sP 1 { tries := 2 }) 7).tries = 2 ∧ tb (rd (sP 2) .LK_STATUS_FAULTY 7) 7 = false ∧ portDiscards (sP 0) 7 = true ∧ portDiscards (sP 2) 7 = false ∧ (getPort (sP 2) 7).egress = [] ∧ (getPort (sP 2 { replay := [(0, mL)] }) 7).replay ≠ [] ∧
    (let s := sP 2 { replay := [(4095, mL)], replaysNow := 15, nakIn := some 4095 }; (getPort s 7).nakIn = some 4095 ∧ (4095 % 4096, mL) ∈ (getPort s 7).replay ∧ (getPort s 7).ackAt + 4000 ≤ s.now ∧ (getPort s 7).heads = [] ∧ (getPort s 7).lastAckSent + 100 ≤ s.now) := by decide +kernel
theorem test_wit_LinkPorts_frames : zE.length = 8 ∧ (zE.map (·.1)).sum = 0 ∧ (([(16, 0)] ++ List.replicate 7 (0, 0) : List (Nat × Nat)).map (·.1)).sum = 16 ∧ (getPort (sP 2) 7).bad = List.replicate 8 0 ∧ (wF { kind := 1, msg := some mL, seq := 5 }).crcOk = true ∧ (readFlit 0).crcOk = false ∧
    (let f := wF { kind := 2, seq := 4095 }; f.crcOk = true ∧ f.reserved = false ∧ f.ack = none ∧ f.cr = [] ∧ f.kind = 2) ∧ (let f := wF { kind := 1 }; f.crcOk = true ∧ f.reserved = false ∧ f.seq = (getPort (sP 2) 7).expect ∧ f.start = 0 ∧ (getPort (sP 2) 7).part = []) := by decide +kernel
theorem test_wit_LinkPorts_messages : (let f := wF { kind := 1, msg := some { mL with op := 0x21, dest := 0, data := 77 } }; let h := f.slots.headD 0; let l := (f.slots.drop 1).take (bits h 36 3);
      f.crcOk = true ∧ f.start = 1 ∧ slotsOk h l = true ∧ (msgOfSlots h l).dest = myDev (sP 2) ∧ (msgOfSlots h l).data = 77) ∧
    (let f := wF { kind := 1, msg := some { mL with op := 0x2F } }; let h := f.slots.headD 0; f.start = 1 ∧ slotsOk h ((f.slots.drop 1).take (bits h 36 3)) = false ∧ bits h 0 3 = 1) ∧
    (let f := wF { kind := 0, ack := some 3 }; f.crcOk = true ∧ f.kind = 0 ∧ f.cr = [] ∧ f.ack = some 3 ∧ (getPort (sP 2 { replay := [(2, mL), (3, mL)] }) 7).replay = [(2, mL)] ++ [(3, mL)]) ∧
    (let f := wF { kind := 0, cr := [(9, 5)] }; f.crcOk = true ∧ f.ack = none ∧ f.cr = [(9, 5)]) := by decide +kernel
def rL (a n : Nat) : LinkReq := { src := 1, tag := 0, gen := 0, addr := a, size := n, mask := 0xF }
/-- A request stands first in port 7's inbox. -/
def sIn (m : LMsg) : State := sP 2 { inbox := [m] }
theorem test_wit_LinkRequests : portUp (sP 2) 7 = true ∧ (∀ k ∈ ([.gets, .wr, .atom, .red, .strip] : List MsgKind), (getPort (sIn (reqMsg k (rL 0 64) 0)) 7).inbox = reqMsg k (rL 0 64) (myDev (sP 2)) :: []) ∧ devOf 0 = myDev (sP 2) ∧ devOf (2 ^ 40) ≠ myDev (sP 2) ∧ rd (sP 2) .PS_STATUS_STATE ≠ 3 ∧
    dieUp (sP 2) (homeDie 0) = true ∧ isLoft (sP 2) (loftAt 0) = true ∧ deckBytes ≤ locOf (loftAt 0) ∧ coreLive (sP 2) 0 = true ∧ (locOf (loftAt 0) - loftBase) % loftStride < loftSize 0 ∧ (rL 0 64).mask ≠ 0 ∧
    (rd (fl [(.PS_STATUS_STATE, 0, 3)] (sP 2)) .PS_STATUS_STATE = 3) ∧ dieUp { sP 2 with die := { (sP 2).die with down := [0] } } (homeDie 0) = false := by decide +kernel
/-- What is for device 9 leaves at port 6, which is up. -/
def sTr : State := fl [(.LK_STATUS_STATE, 6, 2), (.LK_ROUTE_DATA_VALID, 9, 1), (.LK_ROUTE_DATA_PORT, 9, 6)] (sP 2)
theorem test_wit_LinkRequests_transit : portUp sTr 7 = true ∧ portUp sTr 6 = true ∧ (getPort sTr 6).egress = [] ∧ (getPort sTr 6).replay = [] ∧ flag sTr .LK_ROUTE_DATA_VALID 9 = true ∧ rd sTr .LK_ROUTE_DATA_PORT 9 = 6 ∧ flag sTr .LK_ROUTE_DATA_VALID 8 = false ∧
    (∀ q ∈ ([(9, 1), (8, 9)] : List (Nat × Nat)), let f := wF { kind := 1, msg := some { mL with op := 1, dest := q.1, src := q.2 } }; let h := f.slots.headD 0; let l := (f.slots.drop 1).take (bits h 36 3); let m := msgOfSlots h l;
      f.crcOk = true ∧ f.reserved = false ∧ f.ack = none ∧ f.cr = [] ∧ f.kind = 1 ∧ f.seq = (getPort sTr 7).expect ∧ f.start = 1 ∧ slotsOk h l = true ∧ m.dest = q.1 ∧ m.dest ≠ myDev sTr ∧ asks m = true ∧ m.slots ≤ (getPort sTr 6).shared ∧ m.src = q.2) := by decide +kernel
/-- A request of core 0 for a line of device 1 is out at port 7 under tag 4. -/
def sAns (k : MsgKind) (q : LMsg) (gen : Nat := 0) : State :=
  let m : Msg := { mReq k with line := 2 ^ 34 }
  let o : OutOp := { dOut .write 4 with parts := [⟨0, 2 ^ 40, 4, 0⟩] }
  { sIn q with cores := [(0, { dCore dGroup with outs := [o] })], coh := { dRun.coh with busy := [(lkey 0 (2 ^ 34), { msg := m, acks := 0, needData := true })] },
               link := { (sIn q).link with far := [{ tag := 4, port := 7, msg := m, ctx := 5, inst := 0, gen := gen }] } }
theorem test_wit_LinkRequests_answers : (∀ p ∈ ([(0x20, .wr, .ack), (0x21, .atom, .result 77), (0x40, .gets, .data 77), (0x22, .wr, .fenced), (0x23, .wr, .error)] : List (Nat × MsgKind × LinkAns)),
      let q : LMsg := { mL with op := p.1, dest := 0, tag := 4, data := if p.1 = 0x21 ∨ p.1 = 0x40 then 77 else 0 };
      let s := sAns p.2.1 q; (getPort s 7).inbox = q :: [] ∧ q.ans = some p.2.2 ∧ s.link.waits = [] ∧ (s.link.far.find? (fun f => f.port = 7 && f.tag = 4)).isSome = true ∧ rd s .IN_STATUS_GEN 0 = 0 ∧
        (s.link.far.find? (fun f => f.port = 7 && f.tag = 3)) = none ∧ (getBusy s 0 (2 ^ 34)).map (·.msg) = some { mReq p.2.1 with line := 2 ^ 34 } ∧ ((getCore s 0).outs.find? (fun o => o.id = 1)).isSome = true ∧ (getCore s 0).ctx = some 5 ∧
        getGroup s { core := 0, pipe := 0, slot := 0 } = some dGroup) := by decide +kernel
theorem test_wit_LinkRequests_managing : (getPort (sIn { mL with op := 0x80, addr := 8, param := 8 }) 7).inbox = [{ mL with op := 0x80, addr := 8, param := 8 }] ∧ flag (fl [(.RG_MGMT_RD_EN, 0, 1), (.RG_MGMT_WR_EN, 0, 1)] (sP 2)) .RG_MGMT_RD_EN = true ∧
    flag (fl [(.RG_MGMT_RD_EN, 0, 1), (.RG_MGMT_WR_EN, 0, 1)] (sP 2)) .RG_MGMT_WR_EN = true ∧ flag (fl [(.RG_MGMT_RD_EN, 0, 0)] (sP 2)) .RG_MGMT_RD_EN = false ∧ flag (sP 2) .LK_STATUS_PARTNER_TT 7 = true ∧
    (let s := sP 2 { ttSent := some 5, inbox := [{ mL with op := 0x64, data := BitVec.ofNat 512 5 }] }; (getPort s 7).ttSent = some 5 ∧ (getPort s 7).ttAt + 125000 ≤ s.now) ∧
    (let s := sP 2 { ttOrigin := some ⟨1, 2, 3, 4, false, 7⟩, tt := List.replicate 63 (0, 0) }; (getPort s 7).ttOrigin = some ⟨1, 2, 3, 4, false, 7⟩ ∧ 63 ≤ (getPort s 7).tt.length ∧ rd s .MST_CTRL_LINK_PORT ≠ 7 ∧
      rd (fl [(.MST_CTRL_LINK_PORT, 0, 7), (.MST_CTRL_LINK_EN, 0, 1)] s) .MST_CTRL_LINK_PORT = 7 ∧ flag (fl [(.MST_CTRL_LINK_PORT, 0, 7), (.MST_CTRL_LINK_EN, 0, 1)] s) .MST_CTRL_LINK_EN = true ∧ rd s .MST_STATUS_SOURCE ≠ 1) := by decide +kernel


/-! ### The host -/

/-- Ring 31 of PF0, enabled, four entries announced. -/
def sH : State := fl [(.RING_CFG_EN, 31, 1), (.RING_STATUS_ACTIVE, 31, 1), (.RING_STATUS_DB_PI, 31, 4), (.HA_LINK_MODE, 0, 4)] dRun
def hS (f : HostS → HostS) (s : State := sH) : State := { s with host := f s.host }
/-- An entry with the SEAL of index 0 (R320), and one without. -/
def eOk : BitVec 512 := BitVec.ofNat 512 (128 * 2 ^ 504)
def qEnt : HostRd := ⟨0, 0, 0, 64, .entry 0 31⟩
def rRec : CRec := ⟨0, 31, 0, 0, 0, 0, 0, 0, 0, 0⟩
theorem test_wit_HostAttachment : fnPresent sH 0 = true ∧ rkey 0 31 = 31 ∧ bits (31 * 2 ^ 32 + 5) 32 5 = 31 ∧ flag sH .RING_CFG_EN 31 = true ∧ flag sH .RING_STATUS_DETACHED 31 = false ∧ flag sH .RING_CFG_EN 30 = false ∧ ringSize sH 31 = 128 ∧ (ringX sH 31).stopped = false ∧ homeRuns sH 0 = true ∧ homeRuns { sH with die := { sH.die with down := [0] } } 0 = false ∧
    (ringX sH 31).reread = none ∧ attLost sH 0 = false ∧ instOpen sH 0 = true ∧ retraining sH 0 = false ∧ sH.host.reads = [] ∧ (dropEntryRead (hS (fun h => { h with reads := [qEnt] })) 0 31).isSome = true ∧ rd sH .RING_CI_CI 31 ≠ rd sH .RING_STATUS_DB_PI 31 ∧
    sealOk sH 31 0 eOk = true ∧ sealOk sH 31 0 0 = false ∧ (ringX (hS (fun h => { h with rings := [(31, { reread := some (15, 0) })] })) 31).reread = some (15, 0) ∧ (ringX sH 31).held = [] ∧
    (ringX (hS (fun h => { h with rings := [(31, { held := [rRec] })] })) 31).held = [rRec] := by decide +kernel
theorem test_wit_HostAttachment_window : windowAt sH 0 0 = some (0, false) ∧ windowAt sH 0 deckBytes = none ∧ windowAt (fl [(.HA_LINK_MODE, 0, 0)] sH) 0 0 = none ∧ (windowAt (fl [(.HA_LINK_MODE, 0, 1)] sH) 0 0).isSome = true ∧ getMark sH 0 = none ∧
    (hS (fun h => { h with reads := [qEnt] })).host.reads.find? (fun r => r.att = 0 && r.tag = 0) = some qEnt ∧ (hS (fun h => { h with left := [(0, (0, false))] })).host.left.get 0 = some (0, false) ∧ rd (fl [(.HA_LINK_MODE, 0, 0)] sH) .HA_LINK_MODE 0 = 0 ∧
    attLost (fl [(.HA_ATTACH_LOST, 0, 1)] sH) 0 = true := by decide +kernel
/-- COPY to the host of nothing, FILL, LAUNCH of no block, WAYMARK WAIT for 0 and ADD of 0; a malformed entry; one of no context. -/
theorem test_wit_RingCommands : (∀ p ∈ [(0, 0), (1, 2 ^ 240), (2, 0), (3, 0), (4, 0), (0x20, 0), (0x21, 0), (0x22, 2 ^ 240), (0x23, 0), (0x24, 0)], Starts (sCmd p.1 p.2) ⟨0, 0, 0⟩ (cmdOf (sCmd p.1 p.2)) {} ∧ (cmdOf (sCmd p.1 p.2)).op = p.1) ∧ malformed (cmdOf (sCmd 0 (2 ^ 500))) = some 500 ∧
    (cmdOf (sCmd 2)).part = 0 ∧ (cmdOf (sCmd 2)).sent = 0 ∧ cmdCtx { sCmd 0 with sched := State.reset.sched } (cmdOf (sCmd 0)) = none ∧ (({} : Ctx).batch = false) ∧ startable (sCmd 0) ⟨0, 0, 0⟩ = some (cmdOf (sCmd 0)) ∧ (cmdOf (sCmd 4)).fld 10 1 = 0 ∧ (cmdOf (sCmd 4 (2 ^ 80))).fld 10 1 = 1 ∧
    CanSend (sCmd 4) { kind := .add, wm := 0, half := 8, count := 1 } := by unfold Starts CanSend; decide +kernel
theorem test_wit_RingCommands_end : (let s : State := { sCmd 0 with host := { (sCmd 0).host with cmds := [{ cmdOf (sCmd 0) with started := true, fin := some (0, 0) }] } };
    (getCmd s ⟨0, 0, 0⟩).map (fun c => (c.started, c.fin, tb c.flags 0, c.flush, c.op)) = some (true, some (0, 0), false, 0, 0) ∧ (getCmd s ⟨0, 0, 0⟩).map (·.far) = some [] ∧ (ringX s 0).held = [] ∧ attLost s 0 = false ∧ flag s .RING_STATUS_DETACHED 0 = false ∧ cqRoom s 0 = true ∧
    cqRoom (fl [(.CQ_TAIL_TAIL, 0, 128)] s) 0 = false) := by decide +kernel
theorem test_wit_RingCommands_batch : seqGet sH 0 0 1 = 0 ∧ placing dRun = true ∧ orphans dRun 5 = false ∧ instOpen dRun 0 = true ∧ (getCtx { sCmd 0x20 with sched := { State.reset.sched with ctxs := [(5, { batch := true })] } } 5).map (·.batch) = some true := by decide +kernel
/-- A write of attachment 0's window that awaits the answer of line 0, and that answer. -/
def wWr : HdmAcc := { no := 1, att := 0, kind := .write true, sent := [(1, 0)] }
def sWin (w : HdmAcc) (k : MsgKind) : State := { sCoh { mReq k with req := .host 0 } none sH with host := { sH.host with window := [w] } }
theorem test_wit_HostAttachment_accesses : (∀ k ∈ ([.ack, .data, .fenced] : List MsgKind), Arrived (sWin wWr k) { mReq k with req := .host 0 } ∧ (mReq k).op = 0 ∧ (sWin wWr k).host.window = [wWr] ∧ wWr.sent = [((mReq k).id, (mReq k).line)]) ∧
    ({ wWr with kind := .read 8 16 } : HdmAcc).wait = [] ∧ (8 + 16 - 1) / 64 = (mReq .data).line ∧ cxlMode (fl [(.HA_LINK_MODE, 0, 1)] sH) 0 = true ∧ cxlMode sH 0 = false ∧ linePieces 0 [1] ≠ [] ∧
    (let s := sCoh (mReq .data) (some { st := .hd, data := 7 }) sH; getLine s (homeDie 0) 0 = some { st := .hd, data := 7 } ∧ isLocal s 0 = true ∧ getBusy s (homeDie 0) 0 = none ∧ (∀ n, getMark s n = none)) ∧
    getWcb { sH with deck := { sH.deck with chans := [(chanOf 0, { wcb := [⟨0, 5, 1, 0, [hostWriter]⟩] })] } } 0 = some ⟨0, 5, 1, 0, [hostWriter]⟩ := by
  refine ⟨?_, by decide +kernel, by decide +kernel, by decide +kernel, by decide +kernel, by decide +kernel, ⟨by decide +kernel, by decide +kernel, by decide +kernel, fun n => rfl⟩, by decide +kernel⟩
  unfold Arrived; decide +kernel
/-- A posted write of a COPY and of a record; a COPY of 16 bytes from the host, which has answered. -/
def hWr (p : HPay) : HostWr := { att := 0, tag := 3, addr := 0, bytes := [], relaxed := true, pay := p }
def sRead : State := let s := sCmd 2 (0x40 * 2 ^ 128 + 16 * 2 ^ 192) (sWalk 0x20000F); hS (fun h => { h with reads := [⟨0, 0, 0, 16, .copy ⟨0, 0, 0⟩ 0 16⟩], cmds := [{ cmdOf s with started := true, sent := 16 }] }) { s with sched := (sWalk 0).sched }
/-- What a run is translated to. -/
def runOf (s : State) (va n : Nat) (acc : Access) : List (Nat × Nat) := match tpRun s 5 va n acc with | .ok (l, _) => l | .error _ => []
theorem test_wit_HostAttachment_answers : (hS (fun h => { h with out := [hWr (.record rRec 0)] })).host.out.find? (fun w => w.att = 0 && w.tag = 3) = some (hWr (.record rRec 0)) ∧
    (getCmd { sCmd 2 with host := { (sCmd 2).host with out := [hWr (.copy ⟨0, 0, 0⟩ 0 0)] } } ⟨0, 0, 0⟩).map (·.fin) = some none ∧ (sRead.host.reads.find? (fun r => r.att = 0 && r.tag = 0)).map (·.kind) = some (.copy ⟨0, 0, 0⟩ 0 16) ∧
    (getCmd sRead ⟨0, 0, 0⟩).map (fun c => (c.fin, c.ctx, c.fld 16 8, c.copyLen)) = some (none, 5, 0x40, 16) ∧ runOf sRead 0x40 16 .write = [(0x200040, 16)] ∧ isLoft sRead 0x200040 = false ∧ (∀ p ∈ linePieces 0x200040 (List.replicate 16 1), isLocal sRead p.1 = true) ∧
    (hS (fun h => { h with left := [(0, (0, true))] })).host.left.get 0 = some (0, true) ∧ fnPresent sH 0 = true ∧ attLost (fl [(.HA_ATTACH_LOST, 0, 1)] sH) 0 = true ∧ rd sH .HA_LINK_MODE 0 ≠ 0 := by decide +kernel
/-- A LAUNCH whose header is to come and one that has it: an S-core's, at 0x40; a FILL and a COPY of the same page. -/
def hdrLine : Line := BitVec.ofNat 512 (0x4B414947 + 1 * 2 ^ 32 + 3 * 2 ^ 40 + 0x1000 * 2 ^ 128)
def sLn (got : List (Nat × Line)) : State := let s := sCmd 1 (0x40 * 2 ^ 64 + 2 ^ 192 + 2 ^ 224 + 3 * 2 ^ 240) (sWalk 0x20001F); { s with sched := (sWalk 0).sched, host := { s.host with cmds := [{ cmdOf s with started := true, got := got }] } }
def saysOf (s : State) : Nat := match (header s ⟨0, 0, 0⟩ 5 0x40 3 1 (cmdLaunch (cmdOf s))).1 with | .ask => 1 | .ok _ => 2 | .groups => 3 | .nothing => 4 | .stop _ => 5
theorem test_wit_RingCommands_launch : saysOf (sLn []) = 1 ∧ saysOf (sLn [(0x200040 / 64, hdrLine)]) = 2 ∧ saysOf (sLn [(0x200040 / 64, BitVec.ofNat 512 (hdrLine.toNat - 0x1000 * 2 ^ 128))]) = 4 ∧ saysOf (sLn [(0x200040 / 64, 0)]) = 5 ∧
    groupsBad 3 9 = true ∧ groupsBad 1 16 = false := by decide +kernel
theorem test_wit_RingCommands_moves : (let s := sLn []; runOf s 0x40 16 .write = [(0x200040, 16)] ∧ runOf s 0x40 16 .read = [(0x200040, 16)] ∧ memLinesOf s [(0x200040, 16)] = [0x8001] ∧ isLocal s 0x8001 = true ∧ faulted s 5 = false) ∧
    (match tpRun (sLn [(0x8001, 9)]) 5 0x40 16 .read with | .ok (l, s2) => (tpAsk s2 ⟨0, 0, 0⟩ 0x40 l).1 | .error _ => false) = true := by decide +kernel

/-! ### Instances -/

/-- Instance 64 in state `st` with unit 383 of state 1, core 831 live and free. -/
def sI (st : Nat) (x : InstX := {}) : State := { fl [(.IN_STATUS_STATE, 64, st), (.IN_UNIT_DATA_OWNER, 383, 64), (.IN_UNIT_DATA_STATE, 383, 1), (.IN_CFG_POOL_GIB, 64, 1), (.IN_CFG_SCRUB_ON_RESET, 64, 0)] dRun with inst := { State.reset.inst with x := [(64, x)] } }
theorem test_wit_InstanceCommands : instWriter (sI 0) .mc 64 = true ∧ flag (sI 0) .IN_RESULT_BUSY 64 = false ∧ instState (sI 5) 64 = 5 ∧ rd (sI 0) .IN_UNIT_DATA_STATE 0 = 0 ∧ rd (sI 1) .IN_UNIT_DATA_OWNER 383 = 64 ∧ (sI 1).deck.owner = [] ∧
    unitsIn (sI 0) 64 [1] = [383] ∧ rd (sI 0) .IN_WM_BASE 64 % 2 ^ rd (sI 0) .IN_WM_LOG2 64 = 0 ∧ rd (sI 0) .IN_CFG_POOL_GIB 64 ≤ 1 ∧ (∀ m < 65, m ≠ 0 → m ≠ 64 → instState (sI 0) m = 0) ∧ flag (sI 0) .IN_CFG_SCRUB_ON_RESET 64 = false ∧
    flag (fl [(.IN_CFG_SCRUB_ON_RESET, 64, 1)] (sI 0)) .IN_CFG_SCRUB_ON_RESET 64 = true ∧ (instX (sI 1) 64).kind = 0 ∧ (instX (sI 5) 64).key = none ∧ (sI 0).inst.cores.filter (fun e => e.2 = 64) = [] := by decide +kernel
theorem test_wit_InstanceCommands_more : (let s := sI 5 { unwrapped := some 7, sections := 2, restored := [0], key := some 3 };
    (instX s 64).unwrapped = some 7 ∧ (instX s 64).restored ≠ [] ∧ (instX s 64).key ≠ none ∧ flag s .SEC_STATUS_DEBUG = false ∧ rd s .IN_ARG_ARG 64 + 16384 ≤ deckBytes ∧ (instX s 64).incomplete = false) ∧
    frozenNow (sI 2 { freezing := true }) 64 = true ∧ (instX (sI 2 { freezing := true }) 64).freezing = true ∧ drained (sI 2 { kind := 1 }) 64 = true ∧ (instX (sI 2 { kind := 3 }) 64).kind = 3 ∧ (sI 2).sched.ctxs = [] ∧
    (let s := { sI 4 { kind := 4 } with inst := { (sI 4 { kind := 4 }).inst with scrubs := [383], keep := [(383, 1)] } };
     s.inst.scrubs.find? (fun u => u / 96 = 383 / 96) = some 383 ∧ unitQuiet s 383 = true ∧ dieUp s (383 / 96) = true ∧ diesRun s = true ∧ s.inst.keep.getD 383 0 = 1 ∧ unitsIn (fl [(.IN_UNIT_DATA_STATE, 383, 2)] s) 64 [2] = [383] ∧ (instX s 64).kind = 4) ∧
    flag (sI 5) .SEC_RESULT_BUSY = false ∧ bn (orderBytes { sI 5 with mem := [(0, 0x57), (1, 0x52), (2, 0x41), (3, 0x50)] } (myDev (sI 5) * 2 ^ 40) 12) 0 4 = 0x50415257 := by decide +kernel

/-! ### Resets and power states -/

def sB (st step : Nat) (b : BootS → BootS) (u : SupS := State.reset.sup) : State := let s := fl [(.PS_STATUS_STATE, 0, st), (.PS_BOOT_LAST_STEP, 0, step)]; { s with boot := b s.boot, sup := u, now := 10 ^ 11, time := { s.time with mst := 10 ^ 11 } }
def uGood : SupS := { State.reset.sup with busMv := 54000, last1ms := [54000], goodSince := some 0, okSince := some 0 }
theorem test_wit_BootAndPower : mcRuns (sB 1 8 id) = true ∧ mcRuns State.reset = false ∧ attachments dRun = [0] ∧ 0 ∈ attachments dRun ∧ 1 ∉ attachments dRun ∧ rd (sB 0 4 id) .PS_BOOT_FAILS < 3 ∧ 3 ≤ rd (fl [(.PS_BOOT_FAILS, 0, 3)]) .PS_BOOT_FAILS ∧
    diesRun (sB 1 8 id) = true ∧ (sB 2 8 id).boot.hold = .awake ∧ resetting (sB 1 8 id) = false ∧ resetting (fl [(.IN_STATUS_STATE, 64, 3)]) = true ∧ starting (sB 0 4 (fun b => { b with began := some 0 })) = true ∧
    (let s := sB 1 8 (fun b => { b with hold := .entering, holdReq := true });
     coresEmpty s = true ∧ partials s = [] ∧ fabricQuiet s = true ∧ s.deck.chans = [] ∧ dirtyHome s = [] ∧ inputLow s = true ∧ s.boot.watchReq = false ∧ coresEmpty { s with cores := [(0, dCore dGroup)] } = false) ∧
    (let s := sB 3 8 (fun b => { b with hold := .asleep, wakeReq := some 2, vio := true }) uGood;
     s.boot.wakeReq = some 2 ∧ inputLow s = false ∧ s.sup.stageOff = false ∧ s.boot.resume = false ∧ s.boot.dieLater = [] ∧ s.boot.flrLater = [] ∧ s.boot.lost = [] ∧ s.time.snaps = [] ∧ s.boot.vio = true ∧ s.sup.goodSince = some 0 ∧ s.boot.holdFrom ≤ 0) ∧
    (let s := sB 0 4 (fun b => { b with began := some 0 }) uGood;
     inputGood s = true ∧ flag s .KB_STATUS_SHED = false ∧ s.die.faulted = [] ∧ (liveS s 7).head? = some 824 ∧ s.boot.began = some 0 ∧ 0 + s.boot.heldNs + 30000000000 ≤ s.time.mst ∧ s.boot.lateReport = none) ∧
    (10 ≤ ({ uGood with ov := 10 } : SupS).ov ∧ rd (fl [(.PS_CFG_HOLD_MAX_S, 0, 1)]) .PS_CFG_HOLD_MAX_S ≠ 0 ∧ flag (fl [(.PS_CFG_AUTO_WAKE, 0, 1), (.PS_CFG_LINK_WAKE, 0, 1)]) .PS_CFG_LINK_WAKE = true) := by decide +kernel

/-! ### Firmware, reliability, registers -/

def dImage : Image := { version := 2, svn := 1, slot := 0, structOk := true, keysOk := true, edOk := true, mldsaOk := true, bodyOk := true, digest := 9 }
theorem test_wit_SecurityAndReliability : mcRuns dRun = true ∧ flag dRun .SEC_STATUS_TRIAL = false ∧ imageStep dRun { img := dImage } = 0 ∧ imageStep dRun { img := { dImage with bodyOk := false } } = 6 ∧ flag (fl [(.SEC_STATUS_TRIAL, 0, 1)] dRun) .SEC_STATUS_TRIAL = true ∧
    coreLive dRun 831 = true ∧ (getCore dRun 831).ctx = none ∧ flag dRun .RL_FENCE_STATUS_BUSY = false ∧ (getCore (dS 0 dGroup) 0).ctx ≠ none ∧ coreLive (setLive dRun 831 false) 831 = false ∧ dRun.rel.fencing = none ∧
    (rd dRun .ORG_FACTORY_LIVE_LIVE (831 / 64)).testBit (831 % 64) = true ∧ rd dRun .RL_TEST_STATUS_STATE ≠ 1 ∧ rd (fl [(.RL_TEST_STATUS_STATE, 0, 1), (.RL_TEST_STATUS_CORE, 0, 831)]) .RL_TEST_STATUS_CORE = 831 ∧
    resurveyDue (fl [(.RL_AGE_CTRL_BUSY, 0, 1)] dRun) = true ∧ (ageTable dRun 0).length = 57 ∧ dRun.boot.hourMark + 3600000000000 ≤ ({ dRun.boot with runNs := 3600000000000 } : BootS).runNs ∧ (List.replicate 128 3).length = 128 := by decide +kernel
theorem test_wit_RegisterWrites : flag dRun .AT_INV_STATUS_BUSY = false ∧ invalPending dRun 5 0 (2 ^ 48) = false ∧ invalPending { dRun with cores := [(0, { dCore dGroup with outs := [dOut .write 4] })] } 5 0 (2 ^ 48) = true ∧
    (regAt regTable 0x20020).isSome = true ∧ regAt regTable 0x1FF8 = none ∧ accessOk 0x20020 8 = true ∧ accessOk 0x20024 8 = false ∧ mailAt 0x20020 = none ∧ mailAt 0x110840 = some (1, 0x840) ∧ served dRun 0x110840 .IN_SEL_INSTANCE 0 = true ∧
    instWriter dRun (.pf 0) 1 = true ∧ 0 ∈ attachments dRun ∧ rd dRun .PS_BOOT_LAST_STEP ≠ 0 ∧ rd dRun .PS_STATUS_STATE = 1 ∧ fnPresent (fl [(.IN_STATUS_STATE, 64, 1), (.IN_CFG_ATTACH, 64, 0)] dRun) 64 = true := by decide +kernel

/-! ### WellFormed refuses what is out of range -/

theorem test_wf_groups : [(.nop ⟨831, 0, 7⟩ dR : Instr), .nop ⟨63, 1, 15⟩ dR, .nop ⟨95, 7, 15⟩ dR].all Instr.wf = true ∧
    [(.nop ⟨832, 0, 0⟩ dR : Instr), .nop ⟨0, 2, 0⟩ dR, .nop ⟨0, 0, 16⟩ dR, .nop ⟨64, 8, 0⟩ dR, .nop ⟨64, 0, 16⟩ dR, .nop ⟨96, 1, 0⟩ dR, .nop ⟨96, 0, 8⟩ dR].any Instr.wf = false := by decide +kernel
theorem test_wf_messages : (Instr.ack (mReq .ack)).wf = true ∧
    [Instr.ack { mReq .ack with die := 4 }, .ack { mReq .ack with slice := 96 }, .ack { mReq .ack with op := 16 }, .ack { mReq .ack with ty := 16 }, .ack { mReq .ack with thread := 32 }, .ack { mReq .ack with req := .core 832 },
      .ack { mReq .ack with req := .guest 4 0 }, .ack { mReq .ack with req := .guest 0 96 }, .ack { mReq .ack with req := .engine 2048 }, .ack { mReq .ack with req := .walker 8 }, .ack { mReq .ack with req := .port 8 }, .ack { mReq .ack with req := .host 2 }].any
      Instr.wf = false := by decide +kernel
theorem test_wf_waymarks : (Instr.add { evAdd with wm := 4095, half := 8 }).wf = true ∧ (Instr.add { evAdd with wm := 4096 }).wf = false ∧ (Instr.add { evAdd with half := 9 }).wf = false := by decide +kernel
theorem test_wf_numbers : [Instr.matrixCmdComplete 832 0 ⟨false, none⟩, .matrixCmdComplete 0 8 ⟨false, none⟩, .coreKill 0 4096, .epoch ⟨256, [0]⟩, .epoch ⟨0, [384]⟩, .firstTouch 8 0 0, .critWindow 2048, .deckTempChange 4 0 0 0, .deckTempChange 0 16 0 0, .deckTempChange 0 0 4 0, .routerFault 0 208, .mtFire 256,
    .linkEnable 8, .laneFault 0 8, .linkRead 0 { rL 0 64 with src := 4096 }, .linkRead 0 { rL 0 64 with op := 16 }, .linkResponse 0 8192 0 .ack].any Instr.wf = false := by decide +kernel
theorem test_wf_more : Instr.wf (.doorbell 256 0) = false ∧ Instr.wf (.entryRead 0 32 []) = false ∧ Instr.wf (.hostLoss 2 1) = false ∧ Instr.wf (.cmdNop ⟨256, 0, 0⟩) = false ∧ Instr.wf (.cmdNop ⟨0, 32, 0⟩) = false ∧ Instr.wf (.flr 65) = false ∧ Instr.wf (.unitScrubDone 384) = false ∧
    Instr.wf (.enable (.vf 0 0) 1) = false ∧ Instr.wf (.enable (.vf 0 65) 1) = false ∧ Instr.wf (.enable (.pf 2) 1) = false ∧ Instr.wf (.enable .mc 65) = false ∧ Instr.wf (.coreReset 1024) = false ∧ Instr.wf (.challenge 8 0) = false ∧ Instr.wf (.droopTrip 0 8) = false ∧
    Instr.wf (.beaconStale 4096) = false ∧ Instr.wf (.dieReset 4) = false ∧ Instr.wf (.halfReturn 8) = false ∧ Instr.wf (.enable (.vf 1 64) 64) = true := by decide +kernel
/-- No row of the table gives bits. -/
theorem test_no_words : decodeTableWord 64 0 = none := rfl

/-! ### The spec's worked examples -/

/-- 01_organization.md: cores 459 and 600; 20_address_map.md: channel 325 of CD1 is a near channel of its core 17 of half E. -/
theorem test_example_organization : coreDie 459 = 2 ∧ coreLocal 459 = 43 ∧ coreType 459 = 1 ∧ stopCol 43 = 4 ∧ stopRow 43 = 3 ∧ quadOf 43 = 1 ∧ nearChan 459 = 1196 ∧ chanCore 1199 = 459 ∧ coreDie 600 = 2 ∧ coreHalf 600 = 5 ∧ coreLocal 600 = 80 ∧ coreType 600 = 2 ∧ quadOf 80 = 4 ∧
    chanOf 0x1803450000 = 512 + 325 ∧ chanHalf (512 + 325) = 3 ∧ chanCore (512 + 325) = 208 + 104 + 17 := by decide +kernel
/-- 08_thatch_cache.md: local address 0x30_0001_2340 is homed at T40 of CD2. -/
theorem test_example_slice : homeDie (0x3000012340 / 64) = 2 ∧ sliceOf (0x3000012340 / 64) = 40 := by decide +kernel
/-- 20_address_map.md: the indices of 0x0000_2000_015E_0000 and its L0 entry's target. -/
theorem test_example_walk : (List.range 4).map (fun l => ptIndex l 0x2000015E0000) = [64, 0, 10, 30] ∧ leafAddr 0x000000180345000F 16 0x2000015E0000 = 0x1803450000 ∧ pteForm 3 0x000000180345000F = true ∧ rightsOk 0x000000180345000F .read = true ∧
    rightsOk 0x000000180345000F .write = true ∧ rightsOk 0x000000180345000F .fetch = false := by decide +kernel
/-- 10_networks_ridge.md, R279: CD0 half W to CD3 half W crosses five die boundaries. -/
theorem test_example_route : (evRoute { kind := .add, wm := 6 * 512, half := 0 }).length = 5 := by decide +kernel
/-- Half of a binary32 value, as the block scale 2 gives it. -/
def half32 (v : Nat) : Val := match (decTy 1 v).1 with | .fin n m e => .fin n m (e - 1) | x => x
/-- 03_number_formats.md: 1,000, 3.3 and 0.01 in a block-scaled E4M3 block, RNE with SAT = 1. -/
theorem test_example_block : blockScale 5 [(decTy 1 0x447A0000).1, (decTy 1 0x40533333).1] = some 128 ∧ encTy 5 (rmodeOf 0 0) true (half32 0x447A0000) = (0x7E, fSaturated ||| fInexact) ∧ encTy 5 (rmodeOf 0 0) true (half32 0x40533333) = (0x3D, fInexact) ∧
    encTy 5 (rmodeOf 0 0) true (half32 0x3C23D70A) = (0x03, fUnderflow ||| fInexact) := by decide +kernel
/-- 15_supply_and_grid.md: the default curve at the offsets of the convoy's example, and the steps of the applied cap. -/
theorem test_example_curve : ([-20, -100, -110, -200, -300, -150, 0] : List Int).map (frCurveCap State.reset) = [1000, 900, 885, 750, 600, 825, 1000] ∧ capStep State.reset 600 825 = 625 ∧ capStep State.reset 625 1000 = 650 ∧ capStep State.reset 1000 900 = 900 := by decide +kernel
/-- 19_reliability_service.md: voltages of the resurvey's example, rounded up to 5 mV. -/
theorem test_example_ageing : up5 (750000 + 5 * 3000) = 765 ∧ up5 (750000 + 5 * 4200) = 775 ∧ up5 (870000 + 5 * 4200) = 895 ∧ up5 (890000 + 5 * 3000) = 905 := by decide +kernel
/-- The check value of the standard CRC-32C, over the digits 1 to 9, whole and in two parts. -/
theorem test_crc32c : crc32c 0 [0x31, 0x32, 0x33, 0x34, 0x35, 0x36, 0x37, 0x38, 0x39] = 0xE3069283 ∧ crc32c (crc32c 0 [0x31, 0x32, 0x33, 0x34]) [0x35, 0x36, 0x37, 0x38, 0x39] = 0xE3069283 := by decide +kernel
/-- IEEE 754 by hand: 1 + 2^-24 is a tie and goes to even; 1 + 2^-24 + 2^-47 lies above it; infinity less infinity is invalid. -/
theorem test_binary32_add : fElem ⟨8, 23, 127, .ieee⟩ 0 (rmodeOf 0 0) false 0 0x3F800000 0x33800000 0 = (0x3F800000, fInexact) ∧ fElem ⟨8, 23, 127, .ieee⟩ 0 (rmodeOf 0 0) false 0 0x3F800000 0x33800001 0 = (0x3F800001, fInexact) ∧
    fElem ⟨8, 23, 127, .ieee⟩ 0 (rmodeOf 0 0) false 0 0x7F800000 0xFF800000 0 = (0x7FC00000, fInvalid) := by decide +kernel

end Sys2Proof.Machine.Tests
end

section
/-! SUPPORT. O60 fails at its clause of the tenant's mailbox: the writes that R373 has ignored are those during a reset, while IN_STATUS shows DRAINING
during a FREEZE as well (R374; log 96). -/

namespace Sys2Proof.Machine

/-- VF 1's tenant is ACTIVE, everything else as at reset. -/
def activeOne : State := setInst State.reset 1 1

/-- What the MC's FREEZE of that tenant leaves: it goes on, and no reset is under way. -/
def freezingOne : State := thenDo (execFreeze .mc 1 activeOne) activeOne

theorem freezingOne_drains : fnPresent freezingOne 1 = true ∧ instState freezingOne 1 ∈ [2, 3, 4] ∧ (instX freezingOne 1).freezing = true ∧
    (instX freezingOne 1).kind = 0 := by decide +kernel

/-- The tenant's write of the first payload bytes lands in the mailbox while the FREEZE goes on. -/
theorem mailWrite_during_freeze :
    readByte (thenDo (exec (.registerWrite (.vf 0 1) 0xF040 8 1) freezingOne) freezingOne).inst.mail (4096 + 0x40) = 1 ∧
      readByte freezingOne.inst.mail (4096 + 0x40) = 0 := by decide +kernel

/-- Refutes O60: in DRAINING by a FREEZE, where no reset runs, a VF's write to its mailbox's payload is done and not ignored. -/
theorem not_registerWrites : ¬ Obligations.RegisterWrites := by
  unfold Obligations.RegisterWrites
  intro h
  obtain ⟨-, -, -, hBlocks⟩ := h
  obtain ⟨-, hVf, -⟩ := hBlocks freezingOne 0 1 8 0 1
  obtain ⟨-, hServed⟩ := hVf (by decide) (by decide)
  obtain ⟨hPresent, hDraining, -, -⟩ := freezingOne_drains
  obtain ⟨-, -, hMail⟩ := hServed hPresent
  obtain ⟨hIgnored, -⟩ := hMail 0x40 (by decide) (by decide) (by decide)
  obtain ⟨t, hExec, rfl⟩ := hIgnored hDraining
  obtain ⟨hWritten, hBefore⟩ := mailWrite_during_freeze
  rw [hExec] at hWritten
  simp [thenDo, hBefore] at hWritten

end Sys2Proof.Machine
end

section
/-! SUPPORT. Issue, and a path that goes on: what an instruction that issues sees, and what its path's move changes and leaves alone. -/

namespace Sys2Proof.Machine

/-! ### Threads of a mask -/

theorem mem_threads {m : W32} {k : Nat} : k ∈ threads m ↔ k < 32 ∧ has m k = true := by simp [threads]

theorem threads_ne_nil {m : W32} (h : m ≠ 0) : threads m ≠ [] := by
  intro hnil
  refine h (BitVec.eq_of_getLsbD_eq fun i hi => ?_)
  have hno : ¬(i < 32 ∧ has m i = true) := by rw [← mem_threads, hnil]; simp
  simpa [has, hi] using hno

/-! ### Issue (R100-R103, R110, R125) -/

/-- What an instruction that issues sees: its own group and core, with a path that runs. -/
theorem env?_some {s : State} {g : Grp} {pr : BitVec 3} {pn : Bool} {e : Env} (h : env? s g pr pn = some e) :
    e.g = g ∧ e.k = getCore s g.core ∧ getGroup s g = some e.x ∧ e.x.run = some e.p := by
  unfold env? at h
  dsimp only at h
  split at h
  · next hx =>
    split at h
    · next hp =>
      split at h
      · cases h
      · cases h; exact ⟨rfl, rfl, hx, hp⟩
    · cases h
  · cases h

theorem decodeCheck_none {ct n : Nat} {pr : BitVec 3} {pn : Bool} {ops : List OField} {fields : List (Nat × Bool)} (hg : ¬(pr = 0 ∧ pn = true))
    (ho : ∀ o ∈ ops, o.ok (decide (ct = 3)) = true ∧ o.range (decide (ct = 3)) n = none) (hf : ∀ p ∈ fields, p.2 = true) :
    decodeCheck ct n true pr pn false ops fields = none := by
  have hops : ops.filter (fun o => !o.ok (decide (ct = 3))) = [] := by
    simp only [List.filter_eq_nil_iff]; intro o h; simp [(ho o h).1]
  have hfields : fields.filter (fun p => !p.2) = [] := by
    simp only [List.filter_eq_nil_iff]; intro p h; simp [hf p h]
  have hrange : firstRange ops (decide (ct = 3)) n = none := by
    simp only [firstRange, List.findSome?_eq_none_iff]; exact fun o h => (ho o h).2
  have hguard : (!(decide (pr = 0) && pn)) = true := by simpa [imp_iff_not_or] using hg
  simp only [decodeCheck, hops, hfields, hrange, hguard]
  rfl

/-- An instruction whose path can issue and whose fields are legal has its own effect; the effect sees what issued, and the instruction's first word. -/
theorem issue_of_canIssue {s : State} {g : Grp} {pr : BitVec 3} {pn : Bool} {e : Env} {l : List OField} {form op : Nat} {d a : BitVec 8}
    {prov : Nat → Bool} {ops : Nat → List OField} {fields : Nat → List (Nat × Bool)} {body : Env → State} {P : State → Prop} (h : CanIssue s g pr pn e l)
    (hp : prov e.ct = true) (hl : ops e.ct = l) (hf : ∀ p ∈ fields e.ct, p.2 = true) (hb : ∀ e' : Env, e' = { e with insn := e'.insn } → P (body e')) :
    P (issue s g pr pn false form op d a prov ops fields body) := by
  obtain ⟨he, hg, ho, hr⟩ := h
  have hissue : issue s g pr pn false form op d a prov ops fields body = body { e with insn := insnWord pr pn form op d a } := by
    simp [issue, he, hp, hl, decodeCheck_none hg ho hf, hr]
  rw [hissue]
  exact hb _ rfl

/-- Views of one issue that differ in the instruction's first word agree in all that an effect reads. -/
theorem Env.eq_of_insn {e e' : Env} (h : e' = { e with insn := e'.insn }) :
    e'.g = e.g ∧ e'.k = e.k ∧ e'.ctx = e.ctx ∧ e'.x = e.x ∧ e'.p = e.p ∧ e'.ex = e.ex ∧ e'.sc = e.sc ∧ ∀ s va acc, transl s e' va acc = transl s e va acc := by
  rw [h]
  exact ⟨rfl, rfl, rfl, rfl, rfl, rfl, rfl, fun _ _ _ => rfl⟩

/-! ### Registers while a path moves (R80, R143) -/

theorem SameRegs.refl (x : Group) : SameRegs x x := ⟨rfl, rfl, rfl, rfl⟩

theorem SameRegs.trans {x y z : Group} (h : SameRegs x y) (k : SameRegs y z) : SameRegs x z := by
  obtain ⟨hxs, hus, hpreds, harith⟩ := h
  obtain ⟨kxs, kus, kpreds, karith⟩ := k
  exact ⟨kxs.trans hxs, kus.trans hus, kpreds.trans hpreds, karith.trans harith⟩

theorem settle_sameRegs (n : Nat) (x : Group) : SameRegs x (settle n x) := by
  induction n generalizing x with
  | zero => exact .refl x
  | succ n ih =>
    unfold settle
    split
    · exact .refl x
    · refine SameRegs.trans ?_ (ih _)
      split
      · exact ⟨rfl, rfl, rfl, rfl⟩
      · split
        · exact ⟨rfl, rfl, rfl, rfl⟩
        · split <;> exact ⟨rfl, rfl, rfl, rfl⟩

theorem choose_sameRegs (x : Group) (last : Nat) (prefer : Option Nat) : SameRegs x (choose x last prefer) := by
  unfold choose
  split
  · exact .refl x
  · dsimp only
    split
    · exact .refl x
    · split
      · exact .refl x
      · exact ⟨rfl, rfl, rfl, rfl⟩

theorem parkRun_sameRegs (x : Group) (cyc : Nat) : SameRegs x (parkRun x cyc) := by
  unfold parkRun
  split
  · exact .refl x
  · split
    · split
      · refine .trans ?_ (choose_sameRegs _ _ _)
        refine .trans ?_ (settle_sameRegs _ _)
        exact ⟨rfl, rfl, rfl, rfl⟩
      · exact .refl x
    · exact .refl x

theorem leaveRegion_sameRegs (x : Group) (m : W32) : SameRegs x (leaveRegion x m).1 := by
  unfold leaveRegion
  split
  · exact .refl x
  · dsimp only
    split
    · exact .refl x
    · split <;> exact ⟨rfl, rfl, rfl, rfl⟩

theorem regionCheck_sameRegs (x : Group) (taken : Bool) : SameRegs x (regionCheck x taken).1 := by
  unfold regionCheck
  split
  · split
    · exact leaveRegion_sameRegs _ _
    · exact .refl x
  · exact .refl x

theorem moveTo_sameRegs (x : Group) (pc : W64) (taken : Bool) (cyc : Nat) : SameRegs x (moveTo x pc taken cyc).1 := by
  unfold moveTo
  split
  · exact .refl x
  · refine .trans ?_ (parkRun_sameRegs _ _)
    refine .trans ?_ (regionCheck_sameRegs _ _)
    exact ⟨rfl, rfl, rfl, rfl⟩

/-- Outside any divergence and any region a path that moves just stands at its new PC. -/
theorem moveTo_straight {x : Group} {p : Path} (pc : W64) (taken : Bool) (cyc : Nat) (hr : x.run = some p) (hx : x.region = none) (hp : p.entry = none) :
    moveTo x pc taken cyc = ({ x with run := some { p with pc := pc } }, none) := by
  simp [moveTo, hr, regionCheck, hx, parkRun, hp]

/-! ### What a fault and a move leave alone -/

/-- Memory, the Thatch, groups and outstanding operations are as before. -/
def KeepsWork (s t : State) : Prop :=
  t.mem = s.mem ∧ t.coh = s.coh ∧ ∀ c, (getCore t c).groups = (getCore s c).groups ∧ (getCore t c).outs = (getCore s c).outs

theorem KeepsWork.refl (s : State) : KeepsWork s s := ⟨rfl, rfl, fun _ => ⟨rfl, rfl⟩⟩

theorem raiseFault_keepsWork (s : State) (f : FaultRec) : KeepsWork s (raiseFault s f) := by
  refine each_keeps (P := KeepsWork s) _ _ (fun t c _ ht => ?_) _ (.refl _)
  obtain ⟨hm, hn, hc⟩ := ht
  refine ⟨hm, hn, fun d => ?_⟩
  rw [getCore_setCore]
  split
  · next h => subst h; exact hc d
  · exact hc d

theorem pathFault_keepsWork (s : State) (g : Grp) (code detail : Nat) (insn addr : Option Nat) (m : W32) (pc : W64) :
    KeepsWork s (pathFault s g code detail insn addr m pc) := by
  unfold pathFault
  split
  · exact raiseFault_keepsWork _ _
  · exact .refl s

theorem groupFault_keepsWork (s : State) (g : Grp) (code detail : Nat) (insn addr : Option Nat) :
    KeepsWork s (groupFault s g code detail insn addr) := by
  unfold groupFault
  split
  · exact pathFault_keepsWork _ _ _ _ _ _ _ _
  · exact .refl s

theorem finish_keepsWork (s : State) (g : Grp) (r : Group × Option (Nat × Nat)) : KeepsWork (setGroup s g r.1) (finish s g r) := by
  unfold finish
  split
  · exact .refl _
  · exact pathFault_keepsWork _ _ _ _ _ _ _ _
  · exact groupFault_keepsWork _ _ _ _ _ _

theorem getCore_setGroup_outs (s : State) (g : Grp) (x : Group) (c : Nat) : (getCore (setGroup s g x) c).outs = (getCore s c).outs := by
  by_cases h : c = g.core
  · subst h; simp [getCore_setGroup]
  · simp [setGroup, getCore_setCore, h]

/-- A path that goes on leaves its group with the registers it is given, and memory, messages and outstanding operations alone. -/
theorem advance_keeps (s : State) (g : Grp) (x : Group) (len : Nat) :
    (∃ y, getGroup (advance s g x len) g = some y ∧ SameRegs x y) ∧ (advance s g x len).mem = s.mem ∧ (advance s g x len).coh = s.coh ∧
      ∀ c, (getCore (advance s g x len) c).outs = (getCore s c).outs := by
  obtain ⟨y, hy, hw⟩ : ∃ y, SameRegs x y ∧ KeepsWork (setGroup s g y) (advance s g x len) := by
    unfold advance
    split
    · exact ⟨x, .refl x, .refl _⟩
    · exact ⟨_, .trans ⟨rfl, rfl, rfl, rfl⟩ (moveTo_sameRegs (countIssue x) _ _ _), finish_keepsWork _ _ _⟩
  obtain ⟨hm, hn, hc⟩ := hw
  refine ⟨⟨y, ?_, hy⟩, hm, hn, fun c => by rw [(hc c).2, getCore_setGroup_outs]⟩
  rw [getGroup, (hc g.core).1]
  exact getGroup_setGroup_self s g y

/-- A path outside any divergence and any region goes on behind its instruction. -/
theorem advance_runsAt {s : State} {g : Grp} {pr : BitVec 3} {pn : Bool} {e : Env} (he : env? s g pr pn = some e) (hs : Straight e) (t : State) (len : Nat) :
    RunsAt (advance t g e.x len) e (e.p.pc + BitVec.ofNat 64 len) := by
  obtain ⟨rfl, -, -, hr⟩ := env?_some he
  obtain ⟨hx, hp⟩ := hs
  refine ⟨{ countIssue e.x with run := some { e.p with pc := e.p.pc + BitVec.ofNat 64 len } }, ?_, rfl⟩
  simp only [advance, hr]
  rw [moveTo_straight (x := countIssue e.x) (p := e.p) _ _ _ hr hx hp]
  simp [finish]

end Sys2Proof.Machine
end

section
/-! SUPPORT. Accesses of memory instructions and the requests that a core sends for them. -/

namespace Sys2Proof.Machine

/-! ### Accesses of a memory instruction (R87, R115, R147) -/

/-- Addresses within 48 bits on their boundary raise neither fault. -/
theorem addrFault_none {e : Env} {align : Nat} {l : List Acc1} (h : ∀ q ∈ l, q.2 < 2 ^ 48 ∧ q.2 % align = 0) : addrFault e false align l = none := by
  have hrange : l.findSome? (fun q => if q.2 / 2 ^ 48 ≠ 0 then some (0x0201, 0, q.2) else none) = none := by
    simp only [List.findSome?_eq_none_iff]
    intro q hq
    rw [if_neg (not_not.2 (Nat.div_eq_of_lt (h q hq).1))]
  have halign : l.findSome? (fun q => if q.2 % align ≠ 0 then some (0x0203, align, q.2) else none) = none := by
    simp only [List.findSome?_eq_none_iff]
    intro q hq
    rw [if_neg (not_not.2 (h q hq).2)]
  unfold addrFault
  simp only [Bool.false_eq_true, if_false]
  rw [hrange, halign]
  rfl

/-- A core without held ranges blocks no access. -/
theorem sbBlocked_of_no_ranges {s : State} {c : Nat} (h : heldRanges s c = []) (l : List Rng) : sbBlocked s c l = false := by simp [sbBlocked, h]

theorem fenceHolds_of_no_fences {p : Path} (h : p.fences = []) (isLoad : Bool) : fenceHolds p isLoad = false := by simp [fenceHolds, h]

/-- Accesses that all translate are answered with their system addresses. -/
theorem translAll_ok {s : State} {e : Env} {acc : Access} {l : List Acc1} {sa : Nat → Nat} (h : ∀ q ∈ l, transl s e q.2 acc = .ok (sa q.1) false) :
    translAll s e acc l = .ok (l.map (fun q => (q.1, q.2, sa q.1, false))) := by
  have hr : l.map (fun q => (q, transl s e q.2 acc)) = l.map (fun q => (q, .ok (sa q.1) false)) :=
    List.map_congr_left fun q hq => by rw [h q hq]
  have hnone : ∀ {β : Type}, l.findSome? (fun _ => (none : Option β)) = none := by simp [List.findSome?_eq_none_iff]
  simp only [translAll, hr, List.findSome?_map, Function.comp_def, hnone, List.filterMap_map]
  rw [← List.filterMap_eq_map]
  rfl

/-- A window of lofts ends on a line, so a whole line is in it or out of it. -/
theorem isLoft_line (s : State) (a : Nat) : isLoft s (a / 64 * 64) = isLoft s a := by
  have hdev : devOf (a / 64 * 64) = devOf a := by unfold devOf; omega
  have hloc : locOf (a / 64 * 64) = locOf a / 64 * 64 := by unfold locOf; omega
  have hwin : ∀ n, n % 64 = 0 → (n ≤ locOf a / 64 * 64 ↔ n ≤ locOf a) := fun n hn => by omega
  have hlo : (loftBase ≤ locOf a / 64 * 64) = (loftBase ≤ locOf a) := propext (hwin _ (by decide))
  have hhi : (locOf a / 64 * 64 < loftBase + 832 * loftStride) = (locOf a < loftBase + 832 * loftStride) :=
    propext (by rw [← not_le, hwin _ (by decide), not_le])
  simp only [isLoft, hdev, hloc, hlo, hhi]

theorem mem_distinct {l : List Nat} {a : Nat} : a ∈ distinct l ↔ a ∈ l := by
  have key : ∀ acc : List Nat, a ∈ l.foldl (fun a v => if a.contains v then a else a ++ [v]) acc ↔ a ∈ acc ∨ a ∈ l := by
    induction l with
    | nil => simp
    | cons v t ih =>
      intro acc
      rw [List.foldl_cons, ih, List.mem_cons]
      split
      · next hv =>
        have : a = v → a ∈ acc := fun e => e ▸ List.contains_iff_mem.1 hv
        tauto
      · simp only [List.mem_append, List.mem_singleton]; tauto
  simpa [distinct] using key []

/-- Translated accesses of cacheable memory of this device. -/
def Cacheable (s : State) (r : List (Nat × Nat × Nat × Bool)) : Prop :=
  ∀ q ∈ r, isLoft s q.2.2.1 = false ∧ isLocal s (q.2.2.1 / 64) = true ∧ q.2.2.2 = false

theorem Cacheable.uncLines_eq_nil {s : State} {r : List (Nat × Nat × Nat × Bool)} (h : Cacheable s r) : uncLines s r = [] := by
  have : r.filter (fun q => q.2.2.2 && isLocal s (q.2.2.1 / 64) && !isLoft s q.2.2.1) = [] := by
    simp only [List.filter_eq_nil_iff]
    intro q hq
    obtain ⟨-, -, hcached⟩ := h q hq
    simp [hcached]
  simp [uncLines, this, distinct]

theorem Cacheable.filter_far_eq_nil {s : State} {r : List (Nat × Nat × Nat × Bool)} (h : Cacheable s r) : r.filter (fun q => !isLocal s (q.2.2.1 / 64)) = [] := by
  simp only [List.filter_eq_nil_iff]
  intro q hq
  obtain ⟨-, hlocal, -⟩ := h q hq
  simp [hlocal]

/-! ### Requests of a core (R184) -/

/-- Requests sent one after another stand behind those in flight, in their order; nothing else changes. -/
theorem each_send {α : Type} (l : List α) (f : α → Msg) (s : State) :
    each l (fun s a => send s (f a)) s = { s with coh := { s.coh with net := s.coh.net ++ l.map f } } := by
  induction l generalizing s with
  | nil => simp
  | cons a t ih => rw [each_cons, ih]; simp [send]

theorem getCore_addOut (s : State) (c : Nat) (o : OutOp) :
    getCore (addOut s c o) c = { getCore s c with outs := (getCore s c).outs ++ [{ o with id := (getCore s c).nextOp }], nextOp := (getCore s c).nextOp + 1 } := by
  simp [addOut]

@[simp] theorem isLocal_setGroup (s : State) (g : Grp) (x : Group) (line : Nat) : isLocal (setGroup s g x) line = isLocal s line := rfl
@[simp] theorem isLocal_addOut (s : State) (c : Nat) (o : OutOp) (line : Nat) : isLocal (addOut s c o) line = isLocal s line := rfl
@[simp] theorem addOut_mem (s : State) (c : Nat) (o : OutOp) : (addOut s c o).mem = s.mem := rfl
@[simp] theorem addOut_coh (s : State) (c : Nat) (o : OutOp) : (addOut s c o).coh = s.coh := rfl
@[simp] theorem l1Stale_mem (s : State) (c line : Nat) : (l1Stale s c line).mem = s.mem := rfl
@[simp] theorem l1Stale_coh (s : State) (c line : Nat) : (l1Stale s c line).coh = s.coh := rfl

/-- GATHER asks the slices for the lines of its granules, past L1, under one outstanding operation (R116). -/
theorem doLoads_gather {s : State} {e : Env} {r : List (Nat × Nat × Nat × Bool)} (hint : Nat) (d : BitVec 8) (h : Cacheable s r) (hr : r ≠ []) :
    ∃ (o : OutOp) (ask : Nat → Msg), o.kind = .load d false true ∧ o.regs = destRegs e.sc 16 d ∧
      (∀ a, (ask a).kind = .gets ∧ (ask a).req = .core e.g.core ∧ (ask a).line = a / 4 ∧ (ask a).slice = sliceOf (a / 4) ∧ (ask a).id = (getCore s e.g.core).nextOp) ∧
      doLoads s e r 16 hint d false true =
        advance (each (distinct (r.map (fun q => q.2.2.1 / 64 * 4))) (fun s a => send s (ask a)) (addOut (setGroup s e.g e.x) e.g.core o)) e.g e.x 8 := by
  have hunc : r.filter (fun q => isLocal s (q.2.2.1 / 64) && q.2.2.2 && !isLoft s q.2.2.1) = [] := by
    simp only [List.filter_eq_nil_iff]
    intro q hq
    obtain ⟨-, -, hcached⟩ := h q hq
    simp [hcached]
  unfold doLoads
  extract_lets c low s0 now x rest uc held
  have hnow : ∀ q ∈ r, now q = none := fun q hq => by
    obtain ⟨hloft, -, hcached⟩ := h q hq
    simp [now, s0, hloft, hcached]
  have hrest : rest = r := List.filter_eq_self.2 fun q hq => by rw [hnow q hq]; rfl
  have huc : uc = [] := by simp [uc, s0, hunc, distinct]
  have hx : x = e.x := by
    have hfold : x = r.foldl (fun y _ => y) e.x := List.foldl_ext _ _ _ fun y q hq => by rw [hnow q hq]
    rw [hfold, List.foldl_fixed]
  have hheld : held = none := by
    have hnone : r.filter (fun q => (now q).isSome && !q.2.2.2 && !isLoft s0 q.2.2.1) = [] := by
      simp only [List.filter_eq_nil_iff]
      intro q hq
      simp [hnow q hq]
    simp only [held, hnone, List.findSome?_nil]
  have hslots : uncSlots s r hint 1 = s := by simp [uncSlots, h.uncLines_eq_nil]
  have hgran : r.map (fun q => if (true && !isLocal s (q.2.2.1 / 64)) = true then q.2.2.1 / 16 else q.2.2.1 / 64 * 4) = r.map (fun q => q.2.2.1 / 64 * 4) :=
    List.map_congr_left fun q hq => by
      obtain ⟨-, hlocal, -⟩ := h q hq
      simp [hlocal]
  rw [huc, hheld, hx, hrest]
  simp only [if_true, hslots, uncachedRead, List.foldl_nil, Option.orElse, List.isEmpty_iff, hr, if_false, isLocal_addOut, isLocal_setGroup, hgran]
  refine ⟨_, _, ?_, ?_, ?_, rfl⟩
  · rfl
  · rfl
  · exact fun a => ⟨rfl, rfl, rfl, rfl, by simp [coreMsg, c, getCore_setGroup]⟩

end Sys2Proof.Machine
end

section
/-! SUPPORT. STRIP, PREFETCH and GATHER (R116, R118, R210), and O20. -/

namespace Sys2Proof.Machine

/-! ### STRIP, PREFETCH and GATHER of one issue (R116, R118, R210) -/

theorem mChecks_ok {i : MForm} {sizes aops : List Nat} {ty : Bool} (hs : i.size.toNat ∈ sizes) (hsp : i.space.toNat ≤ 1) (hh : i.hint.toNat ≤ 4)
    (ha : i.aop.toNat ∈ aops) (ht : ty = true) : ∀ p ∈ mChecks i sizes aops ty, p.2 = true := by
  simp [mChecks, hs, hsp, hh, ha, ht]

/-- The width of a length operand: a 64-bit register gives a 64-bit length. -/
def lenWidth (sc : Bool) (b : BitVec 8) : Nat := if sc = true ∨ 0x80 ≤ b.toNat then 64 else 32

/-- Whichever way the condition is decided. -/
theorem ite_eq_lenWidth (sc : Bool) (b : BitVec 8) [Decidable (sc = true ∨ 0x80 ≤ b.toNat)] :
    (if sc = true ∨ 0x80 ≤ b.toNat then 64 else 32) = lenWidth sc b := by unfold lenWidth; congr

section
variable {s : State} {g : Grp} {f : MForm} {e : Env} {k sa : Nat}
  (hfields : ∀ p ∈ mChecks f [0, 1, 2, 3, 4] [0] (f.ty = 0), p.2 = true) (hfences : e.p.fences = [])
include hfields hfences

/-- A range of no line, in the loft or in memory, is passed over. -/
theorem execStrip_of_zero (hk : threads e.ex = [k]) (hcan : CanIssue s g f.pr f.pn e [⟨16, f.d, .z⟩, ⟨24, f.a, baseKind f.space⟩, ⟨32, f.b, .r⟩, ⟨40, f.c, .z⟩])
    (hheld : heldRanges s g.core = []) (hlen : e.x.opnd e.sc (lenWidth e.sc f.b) f.b k = 0) : execStrip g f s = .next (advance s g e.x 8) := by
  refine congrArg Host.Outcome.next (issue_of_canIssue (P := (· = advance s g e.x 8)) hcan rfl rfl hfields fun e' he => ?_)
  obtain ⟨-, -, -, hx, hp, hex, hsc, -⟩ := Env.eq_of_insn he
  simp [hx, hp, hex, hsc, fenceHolds_of_no_fences hfences, ite_eq_lenWidth, hk, hlen, lineRange, sbBlocked_of_no_ranges hheld, addrFault, translAll]

/-- One line of cacheable memory is asked to be stripped, under one outstanding operation, and L1 gives its copy up. -/
theorem execStrip_of_line (hk : threads e.ex = [k]) (hcan : CanIssue s g f.pr f.pn e [⟨16, f.d, .z⟩, ⟨24, f.a, baseKind f.space⟩, ⟨32, f.b, .r⟩, ⟨40, f.c, .z⟩])
    (hheld : heldRanges s g.core = []) (hspace : f.space = 0) (hlen : e.x.opnd e.sc (lenWidth e.sc f.b) f.b k = 64)
    (hva : e.x.opnd e.sc 64 f.a k < 2 ^ 48) (hline : e.x.opnd e.sc 64 f.a k % 64 = 0)
    (htransl : transl s e (e.x.opnd e.sc 64 f.a k) .atomic = .ok sa false) (hloft : isLoft s sa = false) :
    ∃ o, execStrip g f s = .next (advance (send (addOut (l1Stale s g.core (sa / 64)) g.core o)
      { coreMsg g.core e.k.nextOp (sa / 64) .strip with op := e.ctx }) g e.x 8) := by
  refine issue_of_canIssue (P := fun t => ∃ o, Host.Outcome.next t = .next (advance (send (addOut (l1Stale s g.core (sa / 64)) g.core o)
      { coreMsg g.core e.k.nextOp (sa / 64) .strip with op := e.ctx }) g e.x 8)) hcan rfl rfl hfields fun e' he => ?_
  obtain ⟨-, hcore, hctx, hx, hp, hex, hsc, ht⟩ := Env.eq_of_insn he
  have hrange : ∀ v, lineRange v 64 = [v] := fun v => by simp [lineRange]
  have hfault : addrFault e' false 1 [(k, e.x.opnd e.sc 64 f.a k), (k, e.x.opnd e.sc 64 f.a k)] = none := addrFault_none (by simpa [Nat.mod_one] using hva)
  have hall : translAll s e' .atomic [(k, e.x.opnd e.sc 64 f.a k)] = .ok [(k, e.x.opnd e.sc 64 f.a k, sa, false)] :=
    translAll_ok (sa := fun _ => sa) (by simp [ht, htransl])
  simp only [hx, hp, hex, hsc, hcore, hctx]
  simp [fenceHolds_of_no_fences hfences, ite_eq_lenWidth, hk, hspace, hlen, hrange, hfault, hline, sbBlocked_of_no_ranges hheld, hall, hloft]
  exact ⟨_, rfl⟩

/-- A length of zero fetches nothing. -/
theorem execPrefetch_of_zero (hk : threads e.ex = [k]) (hcan : CanIssue s g f.pr f.pn e [⟨16, f.d, .z⟩, ⟨24, f.a, baseKind f.space⟩, ⟨32, f.b, .r⟩, ⟨40, f.c, .r⟩])
    (hlen : e.x.opnd e.sc (lenWidth e.sc f.b) f.b k = 0) : execPrefetch g f s = .next (advance s g e.x 8) := by
  refine congrArg Host.Outcome.next (issue_of_canIssue (P := (· = advance s g e.x 8)) hcan rfl rfl hfields fun e' he => ?_)
  obtain ⟨-, -, -, hx, hp, hex, hsc, -⟩ := Env.eq_of_insn he
  cases hctx : getCtx s e'.ctx with
  | none => simp [hx, hp, fenceHolds_of_no_fences hfences]
  | some c => simp [hx, hp, hsc, hex, fenceHolds_of_no_fences hfences, ite_eq_lenWidth, addrs, hk, hlen, distinct]

section
variable {q : TlbEntry} {va : Nat} (hspace : f.space = 0) (hlen : e.x.opnd e.sc (lenWidth e.sc f.b) f.b k ≠ 0)
  (haddr : addrs e false f.a f.c = [(k, va)]) (hva : va < 2 ^ 48) (htlb : tlbFind e.k.tlb e.ctx va = some q)
  (hread : rightsOk q.leaf.toNat .read = true) (hcached : tb q.leaf.toNat 5 = false) (hsa : leafAddr q.leaf q.log2 va = sa)
  (hctx : (getCtx s e.ctx).isSome = true)
include hspace hlen haddr hva htlb hread hcached hsa hctx

/-- A line that L1 holds is not asked for. -/
theorem execPrefetch_of_hit (hcan : CanIssue s g f.pr f.pn e [⟨16, f.d, .z⟩, ⟨24, f.a, baseKind f.space⟩, ⟨32, f.b, .r⟩, ⟨40, f.c, .r⟩])
    (hhit : (e.k.l1.get (sa / 64)).isSome = true) : execPrefetch g f s = .next (advance s g e.x 8) := by
  refine congrArg Host.Outcome.next (issue_of_canIssue (P := (· = advance s g e.x 8)) hcan rfl rfl hfields fun e' he => ?_)
  obtain ⟨-, hcore, hc, hx, hp, hex, hsc, -⟩ := Env.eq_of_insn he
  obtain ⟨c, hctx⟩ := Option.isSome_iff_exists.1 hctx
  obtain ⟨ln, hln⟩ := Option.isSome_iff_exists.1 hhit
  have haddr' : addrs e' false f.a f.c = [(k, va)] := by rw [← haddr]; simp only [addrs, hx, hsc, hex]
  simp only [hx, hp, hc, hcore, hsc, haddr']
  simp [fenceHolds_of_no_fences hfences, hctx, ite_eq_lenWidth, hspace, hlen, show va < 281474976710656 from hva, htlb, hread, hcached, hsa, distinct, hln]

/-- A line of this device that L1 lacks is asked for, under one outstanding operation. -/
theorem execPrefetch_of_miss (hcan : CanIssue s g f.pr f.pn e [⟨16, f.d, .z⟩, ⟨24, f.a, baseKind f.space⟩, ⟨32, f.b, .r⟩, ⟨40, f.c, .r⟩])
    (hmiss : e.k.l1.get (sa / 64) = none) (hloft : isLoft s sa = false) (hlocal : isLocal s (sa / 64) = true) (hup : dieUp s (homeDie (sa / 64)) = true) :
    ∃ (o : OutOp) (m : Msg), execPrefetch g f s = .next (advance (send (addOut s g.core o) m) g e.x 8) ∧
      m.kind = .gets ∧ m.req = .core g.core ∧ m.line = sa / 64 := by
  refine issue_of_canIssue (P := fun t => ∃ (o : OutOp) (m : Msg), Host.Outcome.next t = .next (advance (send (addOut s g.core o) m) g e.x 8) ∧
      m.kind = .gets ∧ m.req = .core g.core ∧ m.line = sa / 64) hcan rfl rfl hfields fun e' he => ?_
  obtain ⟨-, hcore, hc, hx, hp, hex, hsc, -⟩ := Env.eq_of_insn he
  obtain ⟨c, hctx⟩ := Option.isSome_iff_exists.1 hctx
  have haddr' : addrs e' false f.a f.c = [(k, va)] := by rw [← haddr]; simp only [addrs, hx, hsc, hex]
  simp only [hx, hp, hc, hcore, hsc, haddr']
  simp [fenceHolds_of_no_fences hfences, hctx, ite_eq_lenWidth, hspace, hlen, show va < 281474976710656 from hva, htlb, hread, hcached, hsa, distinct, hmiss,
    isLoft_line, hloft, hlocal, hup]
  exact ⟨_, _, rfl, rfl, rfl, rfl⟩

end

end

/-- The address of a thread's granule (R116). -/
def granule (e : Env) (f : MForm) (k : Nat) : Nat := (e.x.opnd e.sc 64 f.a k + 16 * e.x.opnd e.sc 32 f.c k) % 2 ^ 64

/-- GATHER of granules that all translate loads them. -/
theorem execGather_of_transl {s : State} {g : Grp} {f : MForm} {e : Env} {sa : Nat → Nat}
    (hcan : CanIssue s g f.pr f.pn e [⟨16, f.d, .q⟩, ⟨24, f.a, .wr⟩, ⟨32, f.b, .z⟩, ⟨40, f.c, .r⟩])
    (hfields : ∀ p ∈ (51, decide (f.space = 0)) :: mChecks f [4] [0] (f.ty = 0), p.2 = true) (hfences : e.p.fences = []) (hheld : heldRanges s g.core = [])
    (hfar : farCount e.k ≤ 256) (hsa : Cacheable s ((threads e.ex).map (fun k => (k, granule e f k, sa k, false))))
    (hga : ∀ k ∈ threads e.ex, e.x.opnd e.sc 64 f.a k % 16 = 0 ∧ granule e f k < 2 ^ 48 ∧ transl s e (granule e f k) .read = .ok (sa k) false) :
    ∃ e' : Env, e' = { e with insn := e'.insn } ∧
      execGather g f s = .next (doLoads s e' ((threads e.ex).map (fun k => (k, granule e f k, sa k, false))) 16 f.hint.toNat f.d false true) := by
  refine issue_of_canIssue (P := fun t => ∃ e' : Env, e' = { e with insn := e'.insn } ∧ Host.Outcome.next t = .next (doLoads s e'
    ((threads e.ex).map (fun k => (k, granule e f k, sa k, false))) 16 f.hint.toNat f.d false true)) hcan rfl rfl hfields fun e' he => ⟨e', he, ?_⟩
  obtain ⟨-, hcore, -, hx, hp, hex, hsc, ht⟩ := Env.eq_of_insn he
  have hrange : addrFault e' false 1 ((threads e.ex).map (fun k => (k, granule e f k))) = none := addrFault_none (by
    simp only [List.forall_mem_map]
    exact fun k hk => ⟨(hga k hk).2.1, Nat.mod_one _⟩)
  have halign : addrFault e' false 16 ((threads e.ex).map (fun k => (k, e.x.opnd e.sc 64 f.a k % 2 ^ 48))) = none := addrFault_none (by
    simp only [List.forall_mem_map]
    intro k hk
    obtain ⟨hbase, -, -⟩ := hga k hk
    omega)
  have hall : translAll s e' .read ((threads e.ex).map (fun k => (k, granule e f k))) = .ok ((threads e.ex).map (fun k => (k, granule e f k, sa k, false))) := by
    rw [translAll_ok (sa := sa) (by simpa only [List.forall_mem_map, ht] using fun k hk => (hga k hk).2.2), List.map_map]
    rfl
  have hheld' : uncHeld s ((threads e.ex).map (fun k => (k, granule e f k, sa k, false))) f.hint.toNat = false := by simp [uncHeld, hsa.uncLines_eq_nil]
  have hfar' : ¬(farCount e.k + (((threads e.ex).map (fun k => (k, granule e f k, sa k, false))).filter (fun q => !isLocal s (q.2.2.1 / 64))).length > 256) := by
    rw [hsa.filter_far_eq_nil]; simpa using hfar
  simp only [granule] at *
  simp only [hx, hp, hex, hsc, hcore, List.map_map, Function.comp_def, fenceHolds_of_no_fences hfences, Bool.false_eq_true, if_false, hrange, halign,
    sbBlocked_of_no_ranges hheld, hall, hheld', hfar', Bool.false_or, decide_false]

theorem addrs_of_one {e : Env} {k : Nat} (hk : threads e.ex = [k]) (a c : BitVec 8) :
    addrs e false a c = [(k, wrap 64 ((e.x.opnd e.sc 64 a k : Int) + sext 32 (e.x.opnd e.sc 32 c k)))] := by
  simp [addrs, hk]

/-- Where a group goes on behind requests of one operation: they are in the networks, and the operation is outstanding under its number. -/
theorem advance_asks (s : State) (g : Grp) (x : Group) (o : OutOp) (l : List Nat) (ask : Nat → Msg) :
    let t := advance (each l (fun s a => send s (ask a)) (addOut s g.core o)) g x 8
    (∃ y, getGroup t g = some y ∧ SameRegs x y) ∧ t.mem = s.mem ∧ (∀ a ∈ l, ask a ∈ t.coh.net) ∧
      { o with id := (getCore s g.core).nextOp } ∈ (getCore t g.core).outs := by
  obtain ⟨hregs, hmem, hcoh, houts⟩ := advance_keeps (each l (fun s a => send s (ask a)) (addOut s g.core o)) g x 8
  refine ⟨hregs, ?_, fun a ha => ?_, ?_⟩
  · rw [hmem, each_send, addOut_mem]
  · rw [hcoh, each_send]; simpa using .inr ⟨a, ha, rfl⟩
  · rw [houts, each_send]
    change _ ∈ (getCore (addOut s g.core o) g.core).outs
    simp [getCore_addOut]

section
variable {s : State} {g : Grp} {pr : BitVec 3} {pn : Bool} {e : Env} {i : Instr} (he : env? s g pr pn = some e) (hs : Straight e)
include he hs

/-- What an instruction does that just lets its path go on. -/
theorem does_advance (hexec : exec i s = .next (advance s g e.x 8)) :
    Does i s (fun t => RunsAt t e (e.p.pc + 8) ∧ KeepsRegs t e ∧ t.mem = s.mem ∧ t.coh = s.coh) := by
  obtain ⟨hregs, hmem, hcoh, -⟩ := advance_keeps s g e.x 8
  obtain ⟨rfl, -⟩ := env?_some he
  exact ⟨_, hexec, advance_runsAt he hs s 8, hregs, hmem, hcoh⟩

/-- What an instruction does that lets its path go on behind one request. -/
theorem does_advance_send {u : State} {m : Msg} {Q : Msg → Prop} (hexec : exec i s = .next (advance (send u m) g e.x 8)) (hm : u.mem = s.mem)
    (hn : u.coh = s.coh) (hq : Q m) :
    Does i s (fun t => RunsAt t e (e.p.pc + 8) ∧ KeepsRegs t e ∧ t.mem = s.mem ∧ ∃ m : Msg, t.coh.net = s.coh.net ++ [m] ∧ Q m) := by
  obtain ⟨hregs, hmem, hcoh, -⟩ := advance_keeps (send u m) g e.x 8
  obtain ⟨rfl, -⟩ := env?_some he
  exact ⟨_, hexec, advance_runsAt he hs _ 8, hregs, hmem.trans hm, m, by rw [hcoh, send_net, hn], hq⟩

end

/-- Settles O20: each of the three, once it issues, lets its path go on behind the requests that it sends. -/
theorem gatherStripAndPrefetch : Obligations.GatherStripAndPrefetch := by
  unfold Obligations.GatherStripAndPrefetch
  refine ⟨?_, ?_⟩
  · intro s g f e sa hspace hsize hhint haop hty hfences hheld hfar hex hcache ga hga hcan
    obtain ⟨rfl, hk, -⟩ := env?_some hcan.1
    have hr : Cacheable s ((threads e.ex).map (fun k => (k, granule e f k, sa k, false))) := by
      simp only [Cacheable, List.forall_mem_map]
      intro k hk
      obtain ⟨hlt, -⟩ := mem_threads.1 hk
      obtain ⟨hloft, hlocal⟩ := hcache k hlt
      exact ⟨hloft, hlocal, trivial⟩
    obtain ⟨e', he, hexec⟩ := execGather_of_transl hcan (by simp [mChecks, hspace, hsize, hhint, haop, hty]) hfences hheld hfar hr
      (fun k hk => hga k (mem_threads.1 hk).1 (mem_threads.1 hk).2)
    obtain ⟨o, ask, hkind, hregs, hask, hload⟩ := doLoads_gather (e := e') f.hint.toNat f.d hr (by simpa using threads_ne_nil hex)
    obtain ⟨hg', -, -, hx', -, -, hsc', -⟩ := Env.eq_of_insn he
    rw [hload, hx', hg'] at hexec
    rw [hg', ← hk] at hask
    obtain ⟨hkeeps, hmem, hnet, hout⟩ := advance_asks (setGroup s e.g e.x) e.g e.x o _ ask
    refine ⟨_, hexec, hmem, hkeeps, fun k hlt hin => ?_, _, hout, ?_, hkind, ?_⟩
    · have hasked := hnet (sa k / 64 * 4) (mem_distinct.2 (by simpa using ⟨k, mem_threads.2 ⟨hlt, hin⟩, rfl⟩))
      obtain ⟨hgets, hreq, hline, hslice, hid⟩ := hask (sa k / 64 * 4)
      rw [Nat.mul_div_cancel _ (by decide)] at hline hslice
      exact ⟨_, hasked, hgets, hreq, hline, hslice, hid⟩
    · simp [getCore_setGroup, hk]
    · rw [← hsc']; exact hregs
  · intro s g f e k sa hs hsize hhint haop hty hfences hheld hk hloft hlocal len
    have hfields : f.space.toNat ≤ 1 → ∀ p ∈ mChecks f [0, 1, 2, 3, 4] [0] (f.ty = 0), p.2 = true := fun hspace => by
      have : f.size.toNat ∈ [0, 1, 2, 3, 4] := by simp; omega
      exact mChecks_ok this hspace hhint (by simp [haop]) (by simp [hty])
    refine ⟨fun hcan => ⟨fun hspace hlen => ?_, fun hspace hlen => ?_⟩, fun hcan hspace => ⟨fun hlen => ?_, ?_⟩⟩
    · exact does_advance hcan.1 hs (execStrip_of_zero (hfields hspace) hfences hk hcan hheld hlen)
    · intro va hva hline htransl
      obtain ⟨o, hexec⟩ := execStrip_of_line (hfields (by simp [hspace])) hfences hk hcan hheld hspace hlen hva hline htransl hloft
      exact does_advance_send (Q := fun m => m.kind = .strip ∧ m.req = .core g.core ∧ m.line = sa / 64 ∧ m.slice = sliceOf (sa / 64) ∧ m.id = e.k.nextOp)
        hcan.1 hs hexec (by simp) (by simp) ⟨rfl, rfl, rfl, rfl, rfl⟩
    · exact does_advance hcan.1 hs (execPrefetch_of_zero (hfields (by simp [hspace])) hfences hk hcan hlen)
    · intro va q hlen hva htlb hread hcached hsa hctx hup
      have haddr := addrs_of_one hk f.a f.c
      refine ⟨fun hmiss => ?_, fun hhit => ?_⟩
      · obtain ⟨o, m, hexec, hm⟩ := execPrefetch_of_miss (hfields (by simp [hspace])) hfences hspace hlen haddr hva htlb hread hcached hsa hctx hcan hmiss hloft hlocal hup
        exact does_advance_send (Q := fun m => m.kind = .gets ∧ m.req = .core g.core ∧ m.line = sa / 64) hcan.1 hs hexec (addOut_mem _ _ _) (addOut_coh _ _ _) hm
      · exact does_advance hcan.1 hs (execPrefetch_of_hit (hfields (by simp [hspace])) hfences hspace hlen haddr hva htlb hread hcached hsa hctx hcan hhit)

end Sys2Proof.Machine
end

section
/-! SUPPORT. O52 fails at its clause of the memory that a lost die leaves as it was. The accesses of the host to the die end with it (R313), and with the last of
them a read of HDM_FLUSH that waited for it (R315), which brings the dirty lines of the surviving dies' slices into the deck (R173; log 158). -/

namespace Sys2Proof.Machine

/-- What a command that completes has done holds of the state after it. -/
theorem Does.thenDo {i : Instr} {s : State} {P : State → Prop} (h : Does i s P) : P (thenDo (exec i s) s) := by
  obtain ⟨t, hExec, hP⟩ := h
  rw [hExec]
  exact hP

/-- The state after commands, one after another. -/
def afterCmds (s : State) (l : List Instr) : State := each l (fun s i => thenDo (exec i s) s) s

/-- A device in Run whose first attachment has trained, so that PF0's window is there. -/
def windowOpen : State := wr (wr (wr State.reset .PS_STATUS_STATE 0 1) .PS_BOOT_LAST_STEP 0 8) .HA_LINK_MODE 0 4

/-- The host has written the first line of die 1's deck: its WR has been performed at the home slice, and the answer has arrived. -/
def lineWritten : State :=
  let asked := afterCmds windowOpen [.hdmWrite 0 dieBytes (.data (List.replicate 64 1))]
  let performed := afterCmds asked (asked.coh.net.map .wr)
  afterCmds performed (performed.coh.net.map .ack)

/-- Then it has sent a write to die 0, which is still on its way, and a read of HDM_FLUSH, which waits for that write. -/
def flushWaiting : State := afterCmds lineWritten [.hdmWrite 0 0 (.data [1]), .hdmFlush 0]

/-- Die 0 runs; the line of die 1 is dirty in its slice; the write is out to a line of die 0, and the flush stands behind it. -/
theorem flushWaiting_pending : testing flushWaiting = false ∧ dieRuns flushWaiting 0 = true ∧
    (getLine flushWaiting 1 (dieBytes / 64)).map (·.st) = some .hd ∧ homeDie (dieBytes / 64) = 1 ∧
    flushWaiting.host.window.map (fun w => (w.kind, w.sent.map (fun p => homeDie p.2))) = [(.write false, [0]), (.flush 0 [2], [])] := by decide +kernel

/-- The loss of die 0 ends the write, so the flush goes on and die 1's line reaches the arrays. -/
theorem routerFault_flushes : readByte (thenDo (exec (.routerFault 0 0) flushWaiting) flushWaiting).mem dieBytes = 1 ∧
    readByte flushWaiting.mem dieBytes = 0 := by decide +kernel

/-- Die 1's deck lies below every loft window. -/
theorem dieBytes_lt_loftAt (c : Nat) : dieBytes < loftAt c := Nat.lt_add_right _ (by decide)

/-- Refutes O52: after a router fault on die 0, a byte of die 1's deck, which lies in no loft, reads otherwise than before. -/
theorem not_dieFaults : ¬ Obligations.DieFaults := by
  unfold Obligations.DieFaults
  intro h
  obtain ⟨hTesting, hRuns, -, -, -⟩ := flushWaiting_pending
  obtain ⟨hFaults, -, -⟩ := h flushWaiting 0 hTesting
  obtain ⟨hRouter, -, -⟩ := hFaults hRuns
  obtain ⟨⟨-, -, -, -, hMem⟩, -⟩ := (hRouter 0 (by decide)).thenDo
  obtain ⟨hAfter, hBefore⟩ := routerFault_flushes
  have hKept := hMem dieBytes (fun c _ => .inl (dieBytes_lt_loftAt c))
  rw [hAfter, hBefore] at hKept
  exact absurd hKept (by decide)

end Sys2Proof.Machine
end

section
/-! SUPPORT. Register frames of operations, and the operations on Milestone Time (R31-R34, R38, R44): what each moves and what it leaves alone. -/

namespace Sys2Proof.Machine

/-! ### Frames of register fields -/

theorem FldFrame.of_flds {s t : State} {fs gs : List Fld} (h : t.flds = s.flds) : FldFrame s t fs gs := fun f i _ _ => rd_congr h f i

theorem FldFrame.refl (s : State) (fs gs : List Fld) : FldFrame s s fs gs := .of_flds rfl

theorem FldFrame.trans {s t u : State} {fs gs : List Fld} (h : FldFrame s t fs gs) (k : FldFrame t u fs gs) : FldFrame s u fs gs :=
  fun f i hf hg => (k f i hf hg).trans (h f i hf hg)

theorem FldFrame.mono {s t : State} {fs fs' gs gs' : List Fld} (h : FldFrame s t fs gs) (hf : fs ⊆ fs') (hg : gs ⊆ gs') : FldFrame s t fs' gs' :=
  fun f i hf' hg' => h f i (fun hm => hf' (hf hm)) (fun hm => hg' (hg hm))

/-- A write of one of the fields stays within the frame. -/
theorem FldFrame.wr {s t : State} {fs gs : List Fld} (h : FldFrame s t fs gs) {f : Fld} (i v : Nat) (hf : f ∈ fs ∨ f ∈ gs) :
    FldFrame s (wr t f i v) fs gs := by
  intro k j hk hg
  rw [rd_wr_fld _ _ _ _ fun e => by subst e; exact hf.elim hk hg]
  exact h k j hk hg

/-! ### Entries falling due -/

/-- Entries that fall due move nothing but the list of those that are due, and their crossings to come. -/
theorem each_markDue (l : List (Nat × Nat)) (late noMains : Bool) (at_ : State → Nat × Nat → Nat) (s : State) :
    ∃ due skip, each l (fun s e => markDue s e.1 late noMains (at_ s e)) s = { s with time := { s.time with due := due, skip := skip } } := by
  refine each_keeps (P := fun t => ∃ due skip, t = { s with time := { s.time with due := due, skip := skip } }) l _ ?_ s ⟨_, _, rfl⟩
  rintro _ e - ⟨due, skip, rfl⟩
  unfold markDue
  split
  · exact ⟨_, _, rfl⟩
  · exact ⟨_, _, rfl⟩

/-- The entries that MST passes fall due; registers, memory and the rest of Milestone Time stay. -/
theorem dueByTime_keeps (s : State) (late : Bool) :
    (dueByTime s late).flds = s.flds ∧ (dueByTime s late).mem = s.mem ∧
      ∃ due skip, (dueByTime s late).time = { s.time with due := due, skip := skip } := by
  obtain ⟨due, skip, h⟩ := each_markDue (s.time.basis.filter (fun e => rd s .MT_CTRL_KIND e.1 = 0 && e.2 ≤ s.time.mst)) late false
    (fun s e => if late then s.time.mst else e.2) s
  rw [dueByTime, h]
  exact ⟨rfl, rfl, due, skip, rfl⟩

/-! ### MST -/

@[simp] theorem ttRebase_time (s : State) (d : Int) : (ttRebase s d).time = s.time := rfl

/-- A step cancels exchanges of stamps; registers, memory and Milestone Time stay. -/
theorem ttCancel_keeps (s : State) : (ttCancel s).flds = s.flds ∧ (ttCancel s).mem = s.mem ∧ (ttCancel s).time = s.time := by
  refine each_keeps (P := fun t => t.flds = s.flds ∧ t.mem = s.mem ∧ t.time = s.time) _ _ ?_ s ⟨rfl, rfl, rfl⟩
  exact fun _ _ _ ht => ht

/-- MST with its new value, before the entries that it passes fall due. -/
def mstPut (s : State) (v : Nat) : State :=
  let u := ttCancel (ttRebase s ((v : Int) - s.time.mst))
  wr0 { u with time := { u.time with mst := v, slew := 0, slewPh := 0, isSet := true } } .MST_STATUS_SLEWING 0

theorem mstLoad_eq (s : State) (v : Nat) :
    mstLoad s v = if s.time.mst < v then dueByTime (wr0 (mstPut s v) .MST_STATUS_STEPPED 1) true else mstPut s v := rfl

theorem mstPut_spec (s : State) (v : Nat) :
    (mstPut s v).time = { s.time with mst := v, slew := 0, slewPh := 0, isSet := true } ∧ (mstPut s v).mem = s.mem ∧
      FldFrame s (mstPut s v) [.MST_STATUS_SLEWING, .MST_STATUS_STEPPED] := by
  obtain ⟨hflds, hmem, htime⟩ := ttCancel_keeps (ttRebase s ((v : Int) - s.time.mst))
  refine ⟨?_, hmem, FldFrame.wr (.of_flds hflds) _ _ (.inl (by decide))⟩
  simp only [mstPut, wr0, wr_time, htime, ttRebase_time]

/-- A step gives MST its value, which then is set; the reference's edges, memory and all registers but two stay (R33, R34). -/
theorem mstLoad_spec (s : State) (v : Nat) :
    (mstLoad s v).time.mst = v ∧ (mstLoad s v).time.isSet = true ∧ (mstLoad s v).time.ppsAt = s.time.ppsAt ∧ (mstLoad s v).mem = s.mem ∧
      FldFrame s (mstLoad s v) [.MST_STATUS_SLEWING, .MST_STATUS_STEPPED] := by
  obtain ⟨htime, hmem, hframe⟩ := mstPut_spec s v
  rw [mstLoad_eq]
  split
  · obtain ⟨dflds, dmem, due, skip, dtime⟩ := dueByTime_keeps (wr0 (mstPut s v) .MST_STATUS_STEPPED 1) true
    rw [dtime, dmem]
    simp only [wr0, wr_time, wr_mem, htime, hmem]
    exact ⟨trivial, trivial, trivial, trivial, (hframe.wr 0 1 (.inl (by decide))).trans (.of_flds dflds)⟩
  · rw [htime]
    exact ⟨rfl, rfl, rfl, hmem, hframe⟩

/-- A correction never steps MST back (R34). -/
theorem mstCorrect_spec (s : State) (off : Int) :
    s.time.mst ≤ (mstCorrect s off).time.mst ∧ FldFrame s (mstCorrect s off) [.MST_STATUS_SLEWING, .MST_STATUS_STEPPED] := by
  unfold mstCorrect
  split
  · obtain ⟨hmst, -, -, -, hflds⟩ := mstLoad_spec s (s.time.mst + off.toNat)
    exact ⟨by omega, hflds⟩
  · exact ⟨le_rfl, (FldFrame.of_flds (t := { s with time := { s.time with slew := off } }) rfl).wr _ _ (.inl (by decide))⟩

/-- Without STEP_OK a correction is a slew. -/
theorem mstCorrect_slews {s : State} (h : flag s .MST_CTRL_STEP_OK = false) (off : Int) : (mstCorrect s off).time = { s.time with slew := off } := by
  simp [mstCorrect, h, wr0]

@[simp] theorem mstSource_time (s : State) (src uncert : Nat) : (mstSource s src uncert).time = { s.time with holdSince := none } := rfl
@[simp] theorem mstSource_mem (s : State) (src uncert : Nat) : (mstSource s src uncert).mem = s.mem := rfl

theorem mstSource_frame (s : State) (src uncert : Nat) : FldFrame s (mstSource s src uncert) [.MST_STATUS_SOURCE, .MST_STATUS_HOLDOVER_S, .MST_STATUS_UNCERT] := by
  have h : FldFrame s { s with time := { s.time with holdSince := none } } [.MST_STATUS_SOURCE, .MST_STATUS_HOLDOVER_S, .MST_STATUS_UNCERT] := .of_flds rfl
  exact ((h.wr _ _ (.inl (by decide))).wr _ _ (.inl (by decide))).wr _ _ (.inl (by decide))

theorem rd_mstSource_source (s : State) (src uncert : Nat) : rd (mstSource s src uncert) .MST_STATUS_SOURCE = src % 4 := by
  unfold mstSource wr0
  rw [rd_wr_fld _ _ _ _ (by decide), rd_wr_fld _ _ _ _ (by decide)]
  exact rd_wr_self _ _ _ _

/-! ### REF_PPS edges (R31, R33) -/

/-- REF_PPS is present from the edge on. -/
def edgeSeen (s : State) : State := wr0 { s with time := { s.time with ppsAt := some s.now } } .MST_STATUS_PPS_OK 1

/-- An edge that counts uses the preset up. -/
def edgeTaken (s : State) : State := wr0 (edgeSeen s) .MST_STATUS_NEXT_ARMED 0

theorem edgeSeen_frame (s : State) : FldFrame s (edgeSeen s) [.MST_STATUS_PPS_OK] :=
  FldFrame.wr (.of_flds (t := { s with time := { s.time with ppsAt := some s.now } }) rfl) _ _ (.inl (by decide))

theorem edgeTaken_frame (s : State) : FldFrame (edgeSeen s) (edgeTaken s) [.MST_STATUS_NEXT_ARMED] :=
  (FldFrame.refl _ _ _).wr _ _ (.inl (by decide))

@[simp] theorem edgeTaken_time (s : State) : (edgeTaken s).time = { s.time with ppsAt := some s.now } := rfl
@[simp] theorem edgeTaken_mem (s : State) : (edgeTaken s).mem = s.mem := rfl

theorem rd_edgeTaken_nextArmed (s : State) : rd (edgeTaken s) .MST_STATUS_NEXT_ARMED = 0 := rd_wr_self _ _ _ _

theorem rd_edgeTaken_ppsOk (s : State) : rd (edgeTaken s) .MST_STATUS_PPS_OK = 1 :=
  (edgeTaken_frame s _ _ (by decide) (by decide)).trans (rd_wr_self _ _ _ _)

/-- The second for which an edge stands (log 27): the nearest to MST among those that lie whole seconds after the edge before. -/
def edgeSecond (s : State) : Nat :=
  (s.time.mst + 1500000000 - s.time.ppsBase.getD 0 % 1000000000) / 1000000000 * 1000000000 + s.time.ppsBase.getD 0 % 1000000000 - 1000000000

/-- It lies within half a second of MST. -/
theorem edgeSecond_near (s : State) : ((edgeSecond s : Int) - s.time.mst).natAbs ≤ 500000000 := by
  unfold edgeSecond
  generalize s.time.ppsBase.getD 0 = b
  omega

section
variable {s : State} (hen : flag s .MST_CTRL_REF_EN = true) (h10 : flag s .MST_STATUS_REF10_OK = true)
include hen h10

/-- What an edge that counts does (R33): it loads an armed preset that steps no set MST back, gives an MST that is not set the next whole second, and
corrects one that is. -/
theorem execRefPpsEdge_counts :
    execRefPpsEdge s = .next (
      let v := rd s .MST_NEXT_PPS_NEXT
      if flag s .MST_STATUS_NEXT_ARMED && !(s.time.isSet && v < s.time.mst) then
        let u := wr0 (mstLoad (edgeTaken s) v) .MST_STATUS_EPOCH 1
        mstSource { u with time := { u.time with ppsBase := some v } } 1 2
      else
        let u := if flag s .MST_STATUS_NEXT_ARMED then wr0 (edgeTaken s) .MST_STATUS_EPOCH_ERR 1 else edgeTaken s
        if !u.time.isSet then
          let v := (u.time.mst + 999999999) / 1000000000 * 1000000000
          mstSource { mstLoad u v with time := { (mstLoad u v).time with ppsBase := some v } } 1 2
        else
          let w := mstCorrect u ((edgeSecond u : Int) - u.time.mst)
          mstSource { w with time := { w.time with ppsBase := some (edgeSecond u) } } 1 2) := by
  have hread : ∀ f, f ∉ [Fld.MST_STATUS_PPS_OK] → rd (edgeSeen s) f = rd s f := fun f hf => edgeSeen_frame s f 0 hf (by simp)
  have hen' : flag (edgeSeen s) .MST_CTRL_REF_EN = true := by rw [← hen, flag, hread _ (by decide), flag]
  have h10' : flag (edgeSeen s) .MST_STATUS_REF10_OK = true := by rw [← h10, flag, hread _ (by decide), flag]
  have harmed : flag (edgeSeen s) .MST_STATUS_NEXT_ARMED = flag s .MST_STATUS_NEXT_ARMED := by rw [flag, hread _ (by decide), flag]
  have hcounts : ¬(!(flag (edgeSeen s) .MST_CTRL_REF_EN && flag (edgeSeen s) .MST_STATUS_REF10_OK)) = true := by simp [hen', h10']
  rw [← harmed, ← hread _ (by decide)]
  exact congrArg Host.Outcome.next (if_neg hcounts)

/-- The preset is loaded as a step, and REF is the source. -/
theorem refPpsEdge_loads (ha : flag s .MST_STATUS_NEXT_ARMED = true) (hv : s.time.isSet = true → s.time.mst ≤ rd s .MST_NEXT_PPS_NEXT) :
    Does .refPpsEdge s (fun t => t.time.mst = rd s .MST_NEXT_PPS_NEXT ∧ t.time.isSet = true ∧ rd t .MST_STATUS_EPOCH = 1 ∧ rd t .MST_STATUS_SOURCE = 1 ∧
      rd t .MST_STATUS_NEXT_ARMED = 0 ∧ rd t .MST_STATUS_PPS_OK = 1 ∧ t.time.ppsAt = some s.now ∧ t.mem = s.mem) := by
  have hback : (flag s .MST_STATUS_NEXT_ARMED && !(s.time.isSet && decide (rd s .MST_NEXT_PPS_NEXT < s.time.mst))) = true := by
    simp only [ha, Bool.true_and, Bool.not_eq_true', Bool.and_eq_false_imp, decide_eq_false_iff_not, not_lt]
    exact hv
  refine ⟨_, (execRefPpsEdge_counts hen h10).trans (congrArg _ (if_pos hback)), ?_⟩
  obtain ⟨hmst, hset, hpps, hmem, hload⟩ := mstLoad_spec (edgeTaken s) (rd s .MST_NEXT_PPS_NEXT)
  extract_lets u
  have hu : FldFrame (edgeTaken s) u [.MST_STATUS_SLEWING, .MST_STATUS_STEPPED, .MST_STATUS_EPOCH] :=
    (hload.mono (by simp) (by simp)).wr _ _ (.inl (by decide))
  have hsource : FldFrame u (mstSource { u with time := { u.time with ppsBase := some (rd s .MST_NEXT_PPS_NEXT) } } 1 2) _ := mstSource_frame _ 1 2
  refine ⟨hmst, hset, ?_, rd_mstSource_source _ _ _, ?_, ?_, hpps, hmem⟩
  · exact (hsource _ _ (by decide) (by decide)).trans (rd_wr_self _ _ _ _)
  · exact (hsource _ _ (by decide) (by decide)).trans ((hu _ _ (by decide) (by decide)).trans (rd_edgeTaken_nextArmed s))
  · exact (hsource _ _ (by decide) (by decide)).trans ((hu _ _ (by decide) (by decide)).trans (rd_edgeTaken_ppsOk s))

/-- A preset that lies behind a set MST is not loaded: the edge corrects MST forward or not at all, and EPOCH_ERR sets. -/
theorem refPpsEdge_keeps_forward (ha : flag s .MST_STATUS_NEXT_ARMED = true) (hset : s.time.isSet = true) (hv : rd s .MST_NEXT_PPS_NEXT < s.time.mst) :
    Does .refPpsEdge s (fun t => s.time.mst ≤ t.time.mst ∧ rd t .MST_STATUS_EPOCH_ERR = 1 ∧ rd t .MST_STATUS_NEXT_ARMED = 0) := by
  refine ⟨_, execRefPpsEdge_counts hen h10, ?_⟩
  simp only [ha, hset, hv, decide_true, Bool.and_self, Bool.not_true, Bool.and_false, Bool.false_eq_true, if_false, if_true, wr0, wr_time, edgeTaken_time]
  obtain ⟨hmst, hcorrect⟩ := mstCorrect_spec (wr (edgeTaken s) .MST_STATUS_EPOCH_ERR 0 1) ((edgeSecond (wr (edgeTaken s) .MST_STATUS_EPOCH_ERR 0 1) : Int) - s.time.mst)
  generalize mstCorrect _ _ = w at hmst hcorrect ⊢
  have hsource := mstSource_frame { w with time := { w.time with ppsBase := some (edgeSecond (wr (edgeTaken s) .MST_STATUS_EPOCH_ERR 0 1)) } } 1 2
  refine ⟨hmst, ?_, ?_⟩
  · exact (hsource _ _ (by decide) (by decide)).trans ((hcorrect _ _ (by decide) (by decide)).trans (rd_wr_self _ _ _ _))
  · refine (hsource _ _ (by decide) (by decide)).trans ((hcorrect _ _ (by decide) (by decide)).trans ?_)
    rw [rd_wr_fld _ _ _ _ (by decide)]
    exact rd_edgeTaken_nextArmed s

/-- Without a preset and without STEP_OK an edge slews a set MST to the second that it stands for. -/
theorem refPpsEdge_slews (ha : flag s .MST_STATUS_NEXT_ARMED = false) (hset : s.time.isSet = true) (hstep : flag s .MST_CTRL_STEP_OK = false) :
    Does .refPpsEdge s (fun t => t.time.mst = s.time.mst ∧ rd t .MST_STATUS_SOURCE = 1 ∧ t.time.slew.natAbs ≤ 500000000) := by
  have hstep' : flag (edgeTaken s) .MST_CTRL_STEP_OK = false := by
    rw [← hstep, flag, edgeTaken_frame s _ _ (by decide) (by decide), edgeSeen_frame s _ _ (by decide) (by decide), flag]
  refine ⟨_, execRefPpsEdge_counts hen h10, ?_⟩
  simp only [ha, hset, Bool.false_and, Bool.not_true, Bool.false_eq_true, if_false, edgeTaken_time]
  refine ⟨?_, rd_mstSource_source _ _ _, ?_⟩
  · rw [mstSource_time, mstCorrect_slews hstep']; rfl
  · rw [mstSource_time, mstCorrect_slews hstep']; exact edgeSecond_near (edgeTaken s)

end

/-! ### Loss of the reference (R31, R32) -/

/-- With neither source usable a set MST goes on in holdover. -/
theorem mstFall_holdover {s : State} (hset : s.time.isSet = true) (hlink : linkTimeOk s = false) :
    rd (mstFall s) .MST_STATUS_SOURCE = 3 ∧ (mstFall s).time = { s.time with holdSince := some s.now } ∧
      FldFrame s (mstFall s) [.MST_STATUS_SOURCE, .MST_STATUS_UNCERT] := by
  have h : FldFrame s { s with time := { s.time with holdSince := some s.now } } [.MST_STATUS_SOURCE, .MST_STATUS_UNCERT] := .of_flds rfl
  simp only [mstFall, hset, hlink, Bool.not_true, Bool.false_eq_true, if_false, bumpSat, wr0]
  refine ⟨?_, rfl, (h.wr _ _ (.inl (by decide))).wr _ _ (.inl (by decide))⟩
  rw [rd_wr_fld _ _ _ _ (by decide)]
  exact rd_wr_self _ _ _ _

/-- With valid link time a set MST goes on from the link. -/
theorem mstFall_link {s : State} (hset : s.time.isSet = true) (hlink : linkTimeOk s = true) :
    rd (mstFall s) .MST_STATUS_SOURCE = 2 ∧ (mstFall s).time = { s.time with holdSince := none } ∧
      FldFrame s (mstFall s) [.MST_STATUS_SOURCE, .MST_STATUS_UNCERT] := by
  have h : FldFrame s { s with time := { s.time with holdSince := none } } [.MST_STATUS_SOURCE, .MST_STATUS_UNCERT] := .of_flds rfl
  simp only [mstFall, hset, hlink, Bool.not_true, Bool.false_eq_true, if_false, if_true, wr0]
  refine ⟨?_, rfl, (h.wr _ _ (.inl (by decide))).wr _ _ (.inl (by decide))⟩
  rw [rd_wr_fld _ _ _ _ (by decide)]
  exact rd_wr_self _ _ _ _

/-- An input's status bit has no part in whether link time is valid. -/
theorem linkTimeOk_wr (s : State) {f : Fld} (v : Nat) (h : f ∉ [Fld.MST_CTRL_LINK_EN, .LK_TT_VALID, .MST_CTRL_LINK_PORT]) :
    linkTimeOk (wr0 s f v) = linkTimeOk s := by
  simp only [List.mem_cons, List.not_mem_nil, or_false, not_or] at h
  obtain ⟨hen, hvalid, hport⟩ := h
  simp only [linkTimeOk, flag, wr0, rd_wr_fld _ _ _ _ (Ne.symm hen), rd_wr_fld _ _ _ _ (Ne.symm hvalid), rd_wr_fld _ _ _ _ (Ne.symm hport)]

/-- An input in use that shows no edges gives way to the next source. -/
theorem refLost_wr {s : State} (hsource : rd s .MST_STATUS_SOURCE = 1) {f : Fld} (hf : f ≠ .MST_STATUS_SOURCE) (v : Nat) : refLost (wr0 s f v) = mstFall (wr0 s f v) :=
  if_pos ((rd_wr_fld _ _ _ _ (Ne.symm hf)).trans hsource)

/-- Settles O30: each input's event by the operation on MST that it comes to, a step, a correction or the next source. -/
theorem milestoneTimeInputs : Obligations.MilestoneTimeInputs := by
  unfold Obligations.MilestoneTimeInputs
  refine fun s => ⟨fun v => ⟨_, rfl, ?_, rd_wr_self _ _ _ _, rfl, rfl⟩, fun hen h10 => ⟨refPpsEdge_loads hen h10, refPpsEdge_keeps_forward hen h10,
    refPpsEdge_slews hen h10⟩, ?_, ?_, ⟨_, rfl, rd_wr_self _ _ _ _, rfl, rfl⟩⟩
  · rw [wr0, rd_wr_fld _ _ _ _ (by decide), wr0, rd_wr_self]
    exact Nat.mod_eq_of_lt v.isLt
  · intro p hp hlate hok hset hsource hlink
    have hexec : execRefPpsLoss s = .next (mstFall (wr0 s .MST_STATUS_PPS_OK 0)) := by
      simp only [execRefPpsLoss, hp, hlate, hok, decide_true, Bool.and_self, if_true, refLost_wr hsource (show Fld.MST_STATUS_PPS_OK ≠ _ by decide)]
    obtain ⟨hsrc, htime, hframe⟩ := mstFall_holdover (s := wr0 s .MST_STATUS_PPS_OK 0) hset ((linkTimeOk_wr s 0 (by decide)).trans hlink)
    refine ⟨_, hexec, (hframe _ _ (by decide) (by decide)).trans (rd_wr_self _ _ _ _), hsrc, ?_, ?_⟩
    · rw [htime]; rfl
    · rw [htime]; rfl
  · intro hok hset hsource hlink
    have hexec : execRef10mLoss s = .next (mstFall (wr0 s .MST_STATUS_REF10_OK 0)) := by
      simp only [execRef10mLoss, hok, if_true, refLost_wr hsource (show Fld.MST_STATUS_REF10_OK ≠ _ by decide)]
    obtain ⟨hsrc, htime, hframe⟩ := mstFall_link (s := wr0 s .MST_STATUS_REF10_OK 0) hset ((linkTimeOk_wr s 0 (by decide)).trans hlink)
    refine ⟨_, hexec, (hframe _ _ (by decide) (by decide)).trans (rd_wr_self _ _ _ _), hsrc, ?_⟩
    rw [htime]; rfl

end Sys2Proof.Machine
end

section
/-! SUPPORT. Arming and disarming milestone entries (R38-R40, R43): the fields that a write gives an entry, its checks and its schedule. -/

namespace Sys2Proof.Machine

/-! ### The fields of a write of MT_CTRL -/

theorem tb_of_bits_eq_zero {v lo w k : Nat} (h : bits v lo w = 0) (hk : k < w) : tb v (lo + k) = false := by
  have hbit : (bits v lo w).testBit k = false := by rw [h, Nat.zero_testBit]
  simpa [bits, tb, Nat.testBit_mod_two_pow, hk, Nat.testBit_div_two_pow, Nat.add_comm] using hbit

theorem bits_one_eq_toNat (v i : Nat) : bits v i 1 = (tb v i).toNat := by
  simp only [bits, tb, Nat.testBit_eq_decide_div_mod_eq, pow_one]
  rcases Nat.mod_two_eq_zero_or_one (v / 2 ^ i) with h | h <;> simp [h]

/-- A write with no flag set to clear clears none. -/
theorem mtClear_of_no_flags (s : State) (n : Nat) {v : Nat} (h : bits v 24 8 = 0) : mtClear s n v = s := by
  refine each_keeps (P := (· = s)) _ _ ?_ s rfl
  rintro _ ⟨f, k⟩ hk rfl
  have hlt : k < 8 := List.snd_lt_of_mem_zipIdx hk
  rw [tb_of_bits_eq_zero h hlt]
  rfl

/-- An entry's fields as an arming gives them, and when (R39). -/
def mtGiven (s : State) (n v : Nat) : State := wr (mtFields s n v) .MT_ARM_MST_ARM_MST n (mstNow s)

/-- The fields that an arming gives. -/
def givenFlds : List Fld := [.MT_CTRL_KIND, .MT_CTRL_REPEAT, .MT_CTRL_ACTION, .MT_CTRL_PERIOD, .MT_ARM_MST_ARM_MST]

theorem mtGiven_frame (s : State) (n v : Nat) : FldFrame s (mtGiven s n v) givenFlds :=
  (((((FldFrame.refl s _ _).wr _ _ (.inl (by decide))).wr _ _ (.inl (by decide))).wr _ _ (.inl (by decide))).wr _ _ (.inl (by decide))).wr _ _ (.inl (by decide))

theorem mtGiven_keeps (s : State) (n v : Nat) : (mtGiven s n v).time = s.time ∧ (mtGiven s n v).mem = s.mem ∧ (mtGiven s n v).inst = s.inst := by
  simp only [mtGiven, mtFields, wr_time, wr_mem, wr_inst, and_self]

theorem rd_mtGiven (s : State) {n : Nat} (v : Nat) (hn : n < 256) :
    rd (mtGiven s n v) .MT_CTRL_KIND n = (tb v 1).toNat ∧ rd (mtGiven s n v) .MT_CTRL_REPEAT n = (tb v 2).toNat ∧
      rd (mtGiven s n v) .MT_CTRL_ACTION n = bits v 4 4 ∧ rd (mtGiven s n v) .MT_CTRL_PERIOD n = bits v 32 32 ∧
      rd (mtGiven s n v) .MT_ARM_MST_ARM_MST n = mstNow s := by
  have hn' : n < 4194304 := by omega
  have hbits : ∀ lo w, bits v lo w % 2 ^ w = bits v lo w := fun lo w => Nat.mod_mod _ _
  simp only [mtGiven, mtFields, rd_wr _ _ _ _ _ _ hn' hn', reduceCtorEq, false_and, if_false, and_self, if_true, ← bits_one_eq_toNat]
  exact ⟨hbits 1 1, hbits 2 1, hbits 4 4, hbits 32 32, Nat.mod_mod _ _⟩

/-! ### The checks of an arming (R39) -/

/-- What an owner may arm depends on its windows, units and cores alone. -/
theorem ownerMay_congr {s t : State} (hflds : FldFrame s t givenFlds) (hinst : t.inst = s.inst) (owner action a b : Nat) :
    ownerMay t owner action a b = ownerMay s owner action a b := by
  have hwm : ∀ w, wmOwned t owner w = wmOwned s owner w := fun w => by
    simp only [wmOwned, hflds .IN_WM_BASE _ (by decide) (by decide), hflds .IN_WM_LOG2 _ (by decide) (by decide)]
  have hof : unitOf t b = unitOf s b := by
    simp only [unitOf, hflds .IN_UNIT_DATA_OWNER _ (by decide) (by decide), hflds .IN_UNIT_DATA_STATE _ (by decide) (by decide)]
  have hunit : ∀ k, unitHolds t owner b k = unitHolds s owner b k := fun k => by simp only [unitHolds, hof]
  have hcore : ∀ c, inCores t owner c = inCores s owner c := fun c => by simp only [inCores, hinst]
  simp only [ownerMay, targetHeld, hwm, hunit, hcore]

/-- The checks of R39 on what a write gives an entry. -/
def ArmOk (s : State) (n v owner : Nat) : Prop :=
  actionOk owner (bits v 4 4) (rd s .MT_ARG0_ARG n) (rd s .MT_ARG1_ARG n) = true ∧ ¬(tb v 2 = true ∧ bits v 32 32 = 0) ∧
    ownerMay s owner (bits v 4 4) (rd s .MT_ARG0_ARG n) (rd s .MT_ARG1_ARG n) = true

/-- The checks are made of the entry with its new fields, of which they read none. -/
theorem armOk_iff (s : State) (n v owner : Nat) :
    (actionOk owner (bits v 4 4) (rd (mtGiven s n v) .MT_ARG0_ARG n) (rd (mtGiven s n v) .MT_ARG1_ARG n) &&
      !(tb v 2 && decide (bits v 32 32 = 0)) &&
      ownerMay (mtGiven s n v) owner (bits v 4 4) (rd (mtGiven s n v) .MT_ARG0_ARG n) (rd (mtGiven s n v) .MT_ARG1_ARG n)) = true ↔ ArmOk s n v owner := by
  obtain ⟨-, -, hinst⟩ := mtGiven_keeps s n v
  rw [mtGiven_frame s n v .MT_ARG0_ARG n (by decide) (by decide), mtGiven_frame s n v .MT_ARG1_ARG n (by decide) (by decide),
    ownerMay_congr (mtGiven_frame s n v) hinst]
  cases hrepeat : tb v 2 <;> simp [ArmOk, hrepeat, and_assoc]

/-- An entry that has its fields is armed for its owner. -/
def mtArmed (s : State) (n v owner : Nat) : State := wr (wr (mtGiven s n v) .MT_CTRL_ARMED n 1) .MT_CTRL_OWNER n owner

theorem mtArmed_keeps (s : State) (n v owner : Nat) : (mtArmed s n v owner).time = s.time ∧ (mtArmed s n v owner).mem = s.mem := by
  obtain ⟨htime, hmem, -⟩ := mtGiven_keeps s n v
  simp only [mtArmed, wr_time, wr_mem, htime, hmem, and_self]

theorem mtArmed_frame (s : State) (n v owner : Nat) : FldFrame (mtGiven s n v) (mtArmed s n v owner) [.MT_CTRL_ARMED, .MT_CTRL_OWNER] :=
  ((FldFrame.refl _ _ _).wr _ _ (.inl (by decide))).wr _ _ (.inl (by decide))

theorem rd_mtArmed (s : State) (n v : Nat) {owner : Nat} (ho : owner ≤ 64) :
    rd (mtArmed s n v owner) .MT_CTRL_ARMED n = 1 ∧ rd (mtArmed s n v owner) .MT_CTRL_OWNER n = owner := by
  unfold mtArmed
  rw [rd_wr_fld _ _ _ _ (by decide), rd_wr_self, rd_wr_self]
  exact ⟨rfl, Nat.mod_eq_of_lt (show owner < 128 by omega)⟩

theorem rd_mtArmed_time (s : State) (n v owner : Nat) : rd (mtArmed s n v owner) .MT_TIME_TIME n = rd s .MT_TIME_TIME n :=
  (mtArmed_frame s n v owner _ _ (by decide) (by decide)).trans (mtGiven_frame s n v _ _ (by decide) (by decide))

/-- An entry that passes its checks is armed and scheduled. -/
theorem mtArmNew_of_ok {s : State} {n v owner : Nat} (h : ArmOk s n v owner) : mtArmNew s n v owner = mtSchedule (mtArmed s n v owner) n :=
  if_pos ((armOk_iff s n v owner).2 h)

/-- Another has ARM_ERR. -/
theorem mtArmNew_of_not_ok {s : State} {n v owner : Nat} (h : ¬ArmOk s n v owner) : mtArmNew s n v owner = wr (mtGiven s n v) .MT_CTRL_ARM_ERR n 1 :=
  if_neg (mt (armOk_iff s n v owner).1 h)

/-- An entry that is not due does not fire. -/
theorem fireInTurn_of_not_due {s : State} {n : Nat} (h : s.time.due.get n = none) : fireInTurn s n = s := by
  simp [fireInTurn, dueBefore, fireEntry, h]

/-- An entry waits for a basis. -/
def awaitBasis (s : State) (n at_ : Nat) : State := { s with time := { s.time with basis := s.time.basis.put n at_, skip := s.time.skip.put n 0 } }

@[simp] theorem awaitBasis_due (s : State) (n at_ : Nat) : (awaitBasis s n at_).time.due = s.time.due := rfl
@[simp] theorem awaitBasis_mem (s : State) (n at_ : Nat) : (awaitBasis s n at_).mem = s.mem := rfl
@[simp] theorem awaitBasis_basis_self (s : State) (n at_ : Nat) : (awaitBasis s n at_).time.basis.get n = some at_ := SMap.get_put_self _ _ _
@[simp] theorem rd_awaitBasis (s : State) (n at_ : Nat) (f : Fld) (i : Nat) : rd (awaitBasis s n at_) f i = rd s f i := rfl

/-- A KIND 0 entry whose time lies at least 2,000 ns ahead waits for it (R40). -/
theorem mtSchedule_of_ahead {s : State} {n : Nat} (hkind : flag s .MT_CTRL_KIND n = false) (htime : s.time.mst + 2000 ≤ rd s .MT_TIME_TIME n) :
    mtSchedule s n = awaitBasis s n (rd s .MT_TIME_TIME n) := by
  simp only [mtSchedule, hkind, Bool.not_false, if_true, Nat.not_lt.2 htime, if_false, awaitBasis]

/-! ### A write of ARMED = 1 -/

section
variable {s : State} {n owner : Nat} {v : W64} (hn : n < 256) (ho : owner ≤ 64) (hclear : bits v.toNat 24 8 = 0) (hv : tb v.toNat 0 = true)
  (harmed : flag s .MT_CTRL_ARMED n = false)
include hn ho hclear hv harmed

theorem execMtArm_of_disarmed : execMtArm n v owner s = .next (fireInTurn (mtArmNew s n v.toNat owner) n) := by
  have hlegal : (decide (n ≥ 256) || decide (owner > 64) || !tb v.toNat 0) = false := by simp [hv]; omega
  simp only [execMtArm, hlegal, mtClear_of_no_flags _ _ hclear, harmed, Bool.false_eq_true, if_false]

variable (hdue : s.time.due.get n = none)
include hdue

/-- A sound write arms the entry, which waits for its time. -/
theorem mtArm_of_ok (hok : ArmOk s n v.toNat owner) (hkind : tb v.toNat 1 = false) (htime : s.time.mst + 2000 ≤ rd s .MT_TIME_TIME n) :
    Does (.mtArm n v owner) s (fun t => rd t .MT_CTRL_ARMED n = 1 ∧ rd t .MT_CTRL_OWNER n = owner ∧ rd t .MT_CTRL_KIND n = 0 ∧
      rd t .MT_CTRL_REPEAT n = (tb v.toNat 2).toNat ∧ rd t .MT_CTRL_ACTION n = bits v.toNat 4 4 ∧ rd t .MT_CTRL_PERIOD n = bits v.toNat 32 32 ∧
      rd t .MT_ARM_MST_ARM_MST n = mstNow s ∧ t.time.basis.get n = some (rd s .MT_TIME_TIME n) ∧ t.time.due = s.time.due ∧ t.mem = s.mem) := by
  obtain ⟨hk, hgiven⟩ := rd_mtGiven s v.toNat hn
  obtain ⟨htime', hmem⟩ := mtArmed_keeps s n v.toNat owner
  obtain ⟨hone, howner⟩ := rd_mtArmed s n v.toNat ho
  have hframe := mtArmed_frame s n v.toNat owner
  have hset := rd_mtArmed_time s n v.toNat owner
  have hexec := execMtArm_of_disarmed hn ho hclear hv harmed
  rw [mtArmNew_of_ok hok] at hexec
  generalize mtArmed s n v.toNat owner = u at *
  have hkind' : rd u .MT_CTRL_KIND n = 0 := by rw [hframe _ _ (by decide) (by decide), hk, hkind]; rfl
  rw [mtSchedule_of_ahead (by simp [flag, hkind']) (by rwa [hset, htime']), hset, fireInTurn_of_not_due (by rw [awaitBasis_due, htime', hdue])] at hexec
  rw [← hframe _ _ (by decide) (by decide), ← hframe _ _ (by decide) (by decide), ← hframe _ _ (by decide) (by decide),
    ← hframe _ _ (by decide) (by decide)] at hgiven
  obtain ⟨hrepeat, haction, hperiod, hat⟩ := hgiven
  refine ⟨_, hexec, ?_⟩
  simp only [rd_awaitBasis, awaitBasis_due, awaitBasis_mem]
  exact ⟨hone, howner, hkind', hrepeat, haction, hperiod, hat, awaitBasis_basis_self _ _ _, by rw [htime'], hmem⟩

/-- An unsound one sets ARM_ERR and arms nothing. -/
theorem mtArm_of_not_ok (hok : ¬ArmOk s n v.toNat owner) :
    Does (.mtArm n v owner) s (fun t => rd t .MT_CTRL_ARMED n = 0 ∧ rd t .MT_CTRL_ARM_ERR n = 1 ∧ t.time = s.time ∧ t.mem = s.mem) := by
  obtain ⟨htime, hmem, -⟩ := mtGiven_keeps s n v.toNat
  have hexec := execMtArm_of_disarmed hn ho hclear hv harmed
  rw [mtArmNew_of_not_ok hok, fireInTurn_of_not_due (by rw [wr_time, htime, hdue])] at hexec
  refine ⟨_, hexec, ?_, rd_wr_self _ _ _ _, htime, hmem⟩
  rw [rd_wr_fld _ _ _ _ (by decide), mtGiven_frame s n _ _ _ (by decide) (by decide)]
  simpa [flag] using harmed

end

/-! ### A write of ARMED = 0 -/

/-- Disarmed, an entry has no basis and waits for no firing. -/
theorem mtOff_spec (s : State) (n : Nat) :
    rd (mtOff s n) .MT_CTRL_ARMED n = 0 ∧ (mtOff s n).time.basis.get n = none ∧ (mtOff s n).time.due.get n = none ∧ n ∉ (mtOff s n).time.disarm ∧
      FldFrame s (mtOff s n) [.MT_CTRL_ARMED] := by
  refine ⟨rd_wr_self _ _ _ _, ?_, ?_, ?_, FldFrame.wr (.of_flds rfl) _ _ (.inl (by decide))⟩
  · simp [mtOff, SMap.get_del]
  · simp [mtOff, SMap.get_del]
  · simp [mtOff]

@[simp] theorem mtOff_mem (s : State) (n : Nat) : (mtOff s n).mem = s.mem := rfl
@[simp] theorem mtOff_cores (s : State) (n : Nat) : (mtOff s n).cores = s.cores := rfl
@[simp] theorem mtOff_wm (s : State) (n : Nat) : (mtOff s n).wm = s.wm := rfl

/-- A write that would change a field that an armed entry keeps sets ARM_ERR, and nothing else. -/
def mtRefuse (s : State) (n v : Nat) : State := if mtChanges s n v then wr s .MT_CTRL_ARM_ERR n 1 else s

theorem mtRefuse_keeps (s : State) (n v : Nat) :
    (mtRefuse s n v).time = s.time ∧ (mtRefuse s n v).mem = s.mem ∧ FldFrame s (mtRefuse s n v) [.MT_CTRL_ARM_ERR] := by
  unfold mtRefuse
  split
  · exact ⟨rfl, rfl, (FldFrame.refl s _ _).wr _ _ (.inl (by decide))⟩
  · exact ⟨rfl, rfl, .refl s _ _⟩

/-- A KIND 0 entry that is not due is disarmed in time while its basis lies at least 2,000 ns ahead (R43). -/
theorem disarmInTime_of_basis {s : State} {n at_ : Nat} (hdue : s.time.due.get n = none) (hbasis : s.time.basis.get n = some at_)
    (hkind : flag s .MT_CTRL_KIND n = false) : disarmInTime s n = decide (s.time.mst + 2000 ≤ at_) := by
  simp [disarmInTime, hdue, hbasis, hkind]

theorem execMtDisarm_of_armed {s : State} {n : Nat} {v : W64} (hn : n < 256) (hclear : bits v.toNat 24 8 = 0) (hv : tb v.toNat 0 = false)
    (harmed : flag s .MT_CTRL_ARMED n = true) :
    execMtDisarm n v s = .next (
      let u := mtRefuse s n v.toNat
      if disarmInTime u n then mtOff u n else { u with time := { u.time with disarm := u.time.disarm.filter (· ≠ n) ++ [n] } }) := by
  have hlegal : (decide (n ≥ 256) || tb v.toNat 0) = false := by simp [hv]; omega
  simp only [execMtDisarm, hlegal, mtClear_of_no_flags _ _ hclear, harmed, Bool.false_eq_true, Bool.not_true, if_false, mtRefuse]
  rfl

/-- Settles O31: an arming by its checks, a disarm by the time that is left. -/
theorem milestoneArming : Obligations.MilestoneArming := by
  unfold Obligations.MilestoneArming
  intro s n owner v hn ho hclear
  refine ⟨fun hv harmed hdue => ⟨mtArm_of_ok hn ho hclear hv harmed hdue, mtArm_of_not_ok hn ho hclear hv harmed hdue⟩, ?_⟩
  intro hv harmed hkind hdue at_ hbasis
  have hexec := execMtDisarm_of_armed hn hclear hv harmed
  obtain ⟨htime, hmem, hframe⟩ := mtRefuse_keeps s n v.toNat
  have hkind' : flag (mtRefuse s n v.toNat) .MT_CTRL_KIND n = false := by rw [← hkind, flag, hframe _ _ (by decide) (by decide), flag]
  have hin : disarmInTime (mtRefuse s n v.toNat) n = decide (s.time.mst + 2000 ≤ at_) := by
    rw [disarmInTime_of_basis (by rw [htime]; exact hdue) (by rw [htime]; exact hbasis) hkind', htime]
  refine ⟨fun hahead => ⟨_, hexec.trans (congrArg _ (if_pos (by simpa [hin] using hahead))), ?_⟩,
    fun hlate => ⟨_, hexec.trans (congrArg _ (if_neg (by simpa [hin] using hlate))), ?_⟩⟩
  · obtain ⟨hoff, hnone, -, hnot, -⟩ := mtOff_spec (mtRefuse s n v.toNat) n
    exact ⟨hoff, hnone, hnot, hmem⟩
  · refine ⟨?_, by rw [htime]; exact hbasis, by simp, hmem⟩
    change flag (mtRefuse s n v.toNat) _ _ = true
    rw [← harmed, flag, hframe _ _ (by decide) (by decide), flag]

end Sys2Proof.Machine
end

section
/-! SUPPORT. Operations that move registers and some part of the device but neither memory, the cores nor Milestone Time, power control's among them
(R405-R417, R420); and what the action of a milestone entry leaves alone (R47-R49): the entries, their schedule and MST. -/

namespace Sys2Proof.Machine

/-! ### Moves of registers alone -/

/-- Of the registers only these fields move; memory, the cores and Milestone Time are as before. -/
structure Moves (fs : List Fld) (s t : State) : Prop where
  flds : FldFrame s t fs
  mem : t.mem = s.mem
  cores : t.cores = s.cores
  time : t.time = s.time

namespace Moves

variable {fs : List Fld} {s t u : State}

theorem refl (fs : List Fld) (s : State) : Moves fs s s := ⟨.refl s _ _, rfl, rfl, rfl⟩

theorem trans (h : Moves fs s t) (k : Moves fs t u) : Moves fs s u :=
  ⟨h.flds.trans k.flds, k.mem.trans h.mem, k.cores.trans h.cores, k.time.trans h.time⟩

theorem mono {gs : List Fld} (h : Moves fs s t) (hs : fs ⊆ gs) : Moves gs s t := ⟨h.flds.mono hs (List.Subset.refl _), h.mem, h.cores, h.time⟩

theorem wr (h : Moves fs s t) {f : Fld} (i v : Nat) (hf : f ∈ fs) : Moves fs s (wr t f i v) := ⟨h.flds.wr i v (.inl hf), h.mem, h.cores, h.time⟩

theorem sup (h : Moves fs s t) (x : SupS) : Moves fs s { t with sup := x } := ⟨h.flds, h.mem, h.cores, h.time⟩

theorem pow (h : Moves fs s t) (x : PowS) : Moves fs s { t with pow := x } := ⟨h.flds, h.mem, h.cores, h.time⟩

theorem each {α : Type} {l : List α} {f : State → α → State} (h : ∀ s a, a ∈ l → Moves fs s (f s a)) (s : State) : Moves fs s (each l f s) :=
  each_keeps (P := Moves fs s) l f (fun t a ha ht => ht.trans (h t a ha)) s (.refl fs s)

/-- A further step, taken or not. -/
theorem ite (h : Moves fs s t) {c : Prop} [Decidable c] (k : Moves fs t u) : Moves fs s (if c then u else t) := by
  split
  · exact h.trans k
  · exact h

/-- A further step, taken unless. -/
theorem ite_not (h : Moves fs s t) {c : Prop} [Decidable c] (k : Moves fs t u) : Moves fs s (if c then t else u) := by
  split
  · exact h
  · exact h.trans k

end Moves

/-! ### Power control (R406, R407, R410, R416, R420) -/

theorem syncPow_moves (s : State) : Moves powFlds s (syncPow s) := by
  have hcause : Moves powFlds s (each (List.range 4) (fun s d => wr s .PW_DIE_STATUS_CAUSE d (causeOf s d)) s) :=
    .each (fun t d _ => (Moves.refl _ t).wr _ _ (by decide)) s
  exact ((hcause.wr _ _ (by decide)).wr _ _ (by decide)).wr _ _ (by decide)

theorem putCode_moves (s : State) (d c : Nat) : Moves powFlds s (putCode s d c) := ((Moves.refl _ s).wr _ _ (by decide)).wr _ _ (by decide)

theorem lowerTo_moves (s : State) (d c : Nat) : Moves powFlds s (lowerTo s d c) := ((putCode_moves s d c).wr _ _ (by decide)).pow _

theorem raiseTo_moves (s : State) (d c : Nat) : Moves powFlds s (raiseTo s d c) := by
  unfold raiseTo
  split
  · exact (Moves.refl _ s).ite_not ((Moves.refl _ s).pow _)
  · exact ((Moves.refl _ s).wr _ _ (by decide)).pow _

theorem settleDie_moves (s : State) (d : Nat) : Moves powFlds s (settleDie s d) := by
  unfold settleDie
  dsimp only
  split
  · exact lowerTo_moves s d _
  · exact (Moves.refl _ s).ite ((Moves.refl _ s).pow _)

theorem requestCode_moves (s : State) (d : Nat) : Moves powFlds s (requestCode s d) := (settleDie_moves s d).ite (raiseTo_moves _ d _)

/-! ### What an action leaves alone (R47-R49) -/

/-- The fields of the entries and of their firing that no action moves. -/
def entryFlds : List Fld :=
  [.MT_CTRL_ARMED, .MT_CTRL_KIND, .MT_CTRL_REPEAT, .MT_CTRL_ACTION, .MT_CTRL_OWNER, .MT_CTRL_MISSED, .MT_CTRL_FIRED, .MT_CTRL_LATE, .MT_CTRL_NO_MAINS,
   .MT_CTRL_FLYWHEEL, .MT_CTRL_PERIOD, .MT_TIME_TIME, .MT_ANGLE_ANGLE, .MT_ARG0_ARG, .MT_ARG1_ARG, .MT_FIRE_MST_FIRE_MST]

/-- The entries keep these fields, and Milestone Time is as before but for the snapshots that wait. -/
structure KeepsEntries (s t : State) : Prop where
  time : t.time = { s.time with snaps := t.time.snaps }
  flds : ∀ f ∈ entryFlds, ∀ i, rd t f i = rd s f i

namespace KeepsEntries

variable {s t u : State}

/-- What moves neither registers nor Milestone Time. -/
theorem of_eq (htime : t.time = s.time) (hflds : t.flds = s.flds) : KeepsEntries s t := ⟨by rw [htime], fun f _ i => rd_congr hflds f i⟩

theorem refl (s : State) : KeepsEntries s s := .of_eq rfl rfl

theorem trans (h : KeepsEntries s t) (k : KeepsEntries t u) : KeepsEntries s u := by
  refine ⟨?_, fun f hf i => (k.flds f hf i).trans (h.flds f hf i)⟩
  rw [k.time, h.time]

theorem of_moves {fs : List Fld} (h : Moves fs s t) (hfs : ∀ f ∈ entryFlds, f ∉ fs) : KeepsEntries s t :=
  ⟨by rw [h.time], fun f hf i => h.flds f i (hfs f hf) (by simp)⟩

theorem wr (h : KeepsEntries s t) {f : Fld} (i v : Nat) (hf : f ∉ entryFlds) : KeepsEntries s (wr t f i v) :=
  ⟨h.time, fun g hg j => (rd_wr_fld _ _ _ _ fun e : g = f => hf (e ▸ hg)).trans (h.flds g hg j)⟩

theorem each {α : Type} {l : List α} {f : State → α → State} (h : ∀ s a, a ∈ l → KeepsEntries s (f s a)) (s : State) : KeepsEntries s (each l f s) :=
  each_keeps (P := KeepsEntries s) l f (fun t a ha ht => ht.trans (h t a ha)) s (.refl s)

/-- A further step, taken or not. -/
theorem ite (h : KeepsEntries s t) {c : Prop} [Decidable c] (k : KeepsEntries t u) : KeepsEntries s (if c then u else t) := by
  split
  · exact h.trans k
  · exact h

/-- A further step, taken unless. -/
theorem ite_not (h : KeepsEntries s t) {c : Prop} [Decidable c] (k : KeepsEntries t u) : KeepsEntries s (if c then t else u) := by
  split
  · exact h
  · exact h.trans k

end KeepsEntries

/-! ### Groups that a signal wakes (R95, R119) -/

theorem setCore_keepsEntries (s : State) (c : Nat) (k : Core) : KeepsEntries s (setCore s c k) := .of_eq rfl rfl

theorem raiseFault_keepsEntries (s : State) (f : FaultRec) : KeepsEntries s (raiseFault s f) := by
  unfold raiseFault
  extract_lets _ t
  have ht : KeepsEntries s t := .of_eq rfl rfl
  exact ht.trans (.each (fun u c _ => setCore_keepsEntries u c _) t)

theorem pathFault_keepsEntries (s : State) (g : Grp) (code detail : Nat) (insn addr : Option Nat) (m : W32) (pc : W64) :
    KeepsEntries s (pathFault s g code detail insn addr m pc) := by
  unfold pathFault
  split
  · exact raiseFault_keepsEntries s _
  · exact .refl s

theorem groupFault_keepsEntries (s : State) (g : Grp) (code detail : Nat) (insn addr : Option Nat) :
    KeepsEntries s (groupFault s g code detail insn addr) := by
  unfold groupFault
  split
  · exact pathFault_keepsEntries s _ _ _ _ _ _ _
  · exact .refl s

theorem setGroup_keepsEntries (s : State) (g : Grp) (x : Group) : KeepsEntries s (setGroup s g x) := .of_eq rfl rfl

theorem finish_keepsEntries (s : State) (g : Grp) (r : Group × Option (Nat × Nat)) : KeepsEntries s (finish s g r) := by
  unfold finish
  split
  · exact setGroup_keepsEntries s g _
  · exact (setGroup_keepsEntries s g _).trans (pathFault_keepsEntries _ _ _ _ _ _ _ _)
  · exact (setGroup_keepsEntries s g _).trans (groupFault_keepsEntries _ _ _ _ _ _)

theorem startAdvance_keepsEntries (s : State) (ctx : Nat) : KeepsEntries s (startAdvance s ctx).1 := by
  unfold startAdvance
  split
  · exact .refl s
  · split
    · exact .refl s
    · exact .of_eq rfl rfl

theorem endWait_keepsEntries (s : State) (g : Grp) (x : Group) (p : Path) (w : WaitRec) : KeepsEntries s (endWait s g x p w) := by
  refine .trans (t := (if w.acq = 3 then startAdvance s ((getCore s g.core).ctx.getD 0) else (s, false)).1) ?_ (finish_keepsEntries _ g _)
  rw [apply_ite Prod.fst]
  exact (KeepsEntries.refl s).ite (startAdvance_keepsEntries s _)

theorem setGate_keepsEntries (s : State) (c at_ : Nat) : KeepsEntries s (setGate s c at_) := (KeepsEntries.refl s).ite_not (.of_eq rfl rfl)

theorem waitHit_keepsEntries (s : State) (g : Grp) (p : Path) (w : WaitRec) (hit : W32) (rel : Nat) : KeepsEntries s (waitHit s g p w hit rel) := by
  unfold waitHit
  split
  · exact .refl s
  · split
    · exact .refl s
    · extract_lets w' p' y h t
      split
      · exact setGroup_keepsEntries s g _
      · have ht : KeepsEntries s t := (KeepsEntries.refl s).ite (setGate_keepsEntries s _ _)
        split
        · exact ht.trans (endWait_keepsEntries _ _ _ _ _)
        · exact ht.trans (setGroup_keepsEntries _ _ _)

theorem testWaits_keepsEntries (s : State) (g : Grp) (f : State → WaitRec → W32 × Nat) : KeepsEntries s (testWaits s g f) := by
  unfold testWaits
  split
  · exact .refl s
  · exact .each (fun _ _ _ => waitHit_keepsEntries _ _ _ _ _ _) s

theorem retest_keepsEntries (s : State) (g : Grp) : KeepsEntries s (retest s g) := testWaits_keepsEntries s g _

/-! ### Waymark events (R271, R276) -/

theorem pendFld_not_entry (b : Nat × Nat × Nat) : (pendFld b).1 ∉ entryFlds ∧ (pendFld b).2.1 ∉ entryFlds ∧ (pendFld b).2.2 ∉ entryFlds := by
  unfold pendFld
  split <;> decide

theorem offerWm_keepsEntries (s : State) (pre : List WmFlight) (f : WmFlight) (post : List WmFlight) : KeepsEntries s (offerWm s pre f post) := by
  have hput : ∀ l, KeepsEntries s (putFlight s l) := fun l => .of_eq rfl rfl
  unfold offerWm
  split
  · exact hput _
  · next b _ _ =>
    obtain ⟨hpend, hovr, hdrop⟩ := pendFld_not_entry b
    split
    · exact hput _
    · split
      · exact hput _
      · split
        · exact ((hput _).wr _ _ hovr).wr _ _ hdrop
        · exact (hput _).wr _ _ hpend

theorem sendWm_keepsEntries (s : State) (e : WmEvent) : KeepsEntries s (sendWm s e) := offerWm_keepsEntries s _ _ _

/-! ### Writes of a snapshot record (R227-R229, R237, R240, R466) -/

theorem logErr_keepsEntries (s : State) (r : ErrRec) : KeepsEntries s (logErr s r) := by
  unfold logErr
  extract_lets j _ t u
  have ht : KeepsEntries s t := .of_eq rfl rfl
  have hu : KeepsEntries s u := ht.wr _ _ (by decide)
  exact hu.ite ((KeepsEntries.refl u).wr _ _ (by decide))

theorem retirePage_keepsEntries (s : State) (page reason : Nat) : KeepsEntries s (retirePage s page reason) := by
  have hfull : ∀ t : State, KeepsEntries t (wr0 t .DK_RETIRE_COUNT_FULL 1) := fun t => (KeepsEntries.refl t).wr _ _ (by decide)
  unfold retirePage
  extract_lets n r t u v
  have ht : KeepsEntries s t := (((KeepsEntries.refl s).wr _ _ (by decide)).wr _ _ (by decide)).wr _ _ (by decide)
  have hv : KeepsEntries s v := (ht.wr _ _ (by decide)).ite (hfull u)
  split
  · exact (hfull s).trans (logErr_keepsEntries _ _)
  · refine .trans (hv.trans ?_) (logErr_keepsEntries _ r)
    exact .of_eq rfl rfl

theorem pageCandidate_keepsEntries (s : State) (page reason : Nat) : KeepsEntries s (pageCandidate s page reason) := by
  unfold pageCandidate
  split
  · exact .refl s
  · split
    · extract_lets _ t
      have ht : KeepsEntries s t := .of_eq rfl rfl
      exact (ht.wr _ _ (by decide)).trans (logErr_keepsEntries _ _)
    · exact retirePage_keepsEntries s page reason

theorem lineUncorrectable_keepsEntries (s : State) (loc : Nat) (mark : Bool) : KeepsEntries s (lineUncorrectable s loc mark) := by
  unfold lineUncorrectable
  extract_lets ch t u
  have ht : KeepsEntries s t := ((KeepsEntries.refl s).wr _ _ (by decide)).wr _ _ (by decide)
  exact (ht.trans (logErr_keepsEntries t _)).ite_not (pageCandidate_keepsEntries u _ _)

/-- A read of the arrays that meets no new error counts what stands there. -/
theorem arrayRead_keepsEntries (s : State) (loc : Nat) : KeepsEntries s (arrayRead s loc .ok).2 := by
  have hmarked : KeepsEntries s (bumpSat s .DK_ECC_MARKED (chanOf (loc * 64) / 512)) := (KeepsEntries.refl s).wr _ _ (by decide)
  unfold arrayRead
  cases getMark s loc with
  | none => exact .refl s
  | some m =>
    cases m with
    | bad => exact lineUncorrectable_keepsEntries s loc false
    | strip ctx => exact hmarked
    | poison => exact hmarked.trans (lineUncorrectable_keepsEntries _ loc true)

theorem setChan_keepsEntries (s : State) (ch : Nat) (x : Chan) : KeepsEntries s (setChan s ch x) := .of_eq rfl rfl

theorem setMark_keepsEntries (s : State) (loc : Nat) (m : Option Mark) : KeepsEntries s (setMark s loc m) := .of_eq rfl rfl

theorem useSlot_keepsEntries (s : State) (ch : Nat) (q : QClass) (half : Nat) : KeepsEntries s (useSlot s ch q half) := by
  unfold useSlot
  dsimp only
  split <;> exact setChan_keepsEntries s ch _

theorem flushWcb_keepsEntries (s : State) (loc : Nat) : KeepsEntries s (flushWcb s loc) := by
  unfold flushWcb flushAs
  split
  · exact .refl s
  · extract_lets full t u m v
    have ht : KeepsEntries s t := (KeepsEntries.refl s).ite_not (arrayRead_keepsEntries s loc)
    have hv : KeepsEntries u v := .of_eq rfl rfl
    exact ((ht.trans (useSlot_keepsEntries t _ _ _)).trans hv).trans (setMark_keepsEntries v loc _)

theorem putDeck_keepsEntries (s : State) (loc : Nat) (l : Line) : KeepsEntries s (putDeck s loc l) := by
  unfold putDeck
  extract_lets t
  have ht : KeepsEntries s t := (KeepsEntries.refl s).ite (setChan_keepsEntries s _ _)
  exact ht.trans (.of_eq rfl rfl)

theorem combine_keepsEntries (s : State) (loc : Nat) (data : Line) (mask : BitVec 64) (writer : Nat) : KeepsEntries s (combine s loc data mask writer) := by
  unfold combine
  split
  · exact putDeck_keepsEntries s loc data
  · extract_lets t ch c u c'
    have ht : KeepsEntries s t := by
      unfold t
      split
      · exact setMark_keepsEntries s loc none
      · exact .refl s
    split
    · exact ht.trans ((setChan_keepsEntries t ch _).ite (flushWcb_keepsEntries _ loc))
    · have hu : KeepsEntries t u := by
        unfold u
        split
        · split
          · exact flushWcb_keepsEntries t _
          · exact .refl t
        · exact .refl t
      exact (ht.trans hu).trans (setChan_keepsEntries u ch _)

theorem orderWrite_keepsEntries (s : State) (line : Nat) (data : Line) (mask : BitVec 64) (writer : Nat) :
    KeepsEntries s (orderWrite s line data mask writer) := by
  unfold orderWrite
  extract_lets hd here upd full msg _ t
  have ht : KeepsEntries s t := .of_eq rfl rfl
  split
  · exact ht.trans (setMark_keepsEntries t _ _)
  · exact ht.trans (combine_keepsEntries t _ _ _ _)

theorem orderWriteBytes_keepsEntries (s : State) (a : Nat) (bs : List Byte) (writer : Nat) : KeepsEntries s (orderWriteBytes s a bs writer) := by
  unfold orderWriteBytes
  split
  · exact .of_eq rfl rfl
  · exact .each (fun _ _ _ => orderWrite_keepsEntries _ _ _ _ _) s

/-! ### The actions -/

theorem setMt_keepsEntries (s : State) {f : Fld} (n : Nat) (hf : f ∉ entryFlds) : KeepsEntries s (setMt s f n) := (KeepsEntries.refl s).wr _ _ hf

theorem applyVf_keepsEntries (s : State) (n code d : Nat) : KeepsEntries s (applyVf s n code d) := by
  have hpow : ∀ {t u : State}, Moves powFlds t u → KeepsEntries t u := fun h => .of_moves h (by decide)
  unfold applyVf
  extract_lets t u
  have ht : KeepsEntries s t := (KeepsEntries.refl s).wr _ _ (by decide)
  have hu : KeepsEntries t u := (KeepsEntries.refl t).ite (setMt_keepsEntries t n (by decide))
  split
  · exact setMt_keepsEntries s n (by decide)
  · exact (ht.trans hu).trans ((hpow (requestCode_moves u d)).trans (hpow (syncPow_moves _)))

/-- An action keeps the entries, their schedule and MST. -/
theorem mtAct_keepsEntries (s : State) (n basis : Nat) : KeepsEntries s (mtAct s n basis) := by
  have hfenced : KeepsEntries s (setMt s .MT_CTRL_FENCED n) := setMt_keepsEntries s n (by decide)
  unfold mtAct
  extract_lets owner act a b fenced w ramped rampUp t3 u3 halves ev _ c g named up t
  have ht3 : KeepsEntries s t3 := (KeepsEntries.refl s).ite hfenced
  have hu3 : KeepsEntries s u3 := ht3.ite (setMt_keepsEntries t3 n (by decide))
  have ht : KeepsEntries s t := (KeepsEntries.refl s).ite hfenced
  clear_value act
  split
  · exact hfenced
  split
  · split
    · exact hfenced
    · exact (KeepsEntries.refl s).ite_not (sendWm_keepsEntries s _)
  · exact .each (fun _ _ _ => applyVf_keepsEntries _ _ _ _) s
  · refine hu3.ite_not ?_
    exact .of_eq rfl rfl
  · split
    · exact hfenced
    · split
      · exact (setGroup_keepsEntries s g _).trans (retest_keepsEntries _ g)
      · exact .refl s
  · split
    · exact hfenced
    · exact orderWriteBytes_keepsEntries s _ _ _
  · refine ht.ite_not (.each ?_ t)
    exact fun _ _ _ => .of_eq rfl rfl
  · refine ht.trans (.each ?_ t)
    exact fun _ _ _ => .of_eq rfl rfl
  · exact .refl s

/-- So does what stands for it in Hold and Watch. -/
theorem mtActAsleep_keepsEntries (s : State) (n : Nat) : KeepsEntries s (mtActAsleep s n) := by
  have hfenced : KeepsEntries s (setMt s .MT_CTRL_FENCED n) := setMt_keepsEntries s n (by decide)
  have hsuppressed : ∀ t, KeepsEntries t (setMt t .MT_CTRL_SUPPRESSED n) := fun t => setMt_keepsEntries t n (by decide)
  unfold mtActAsleep
  extract_lets act owner a b stop t
  have ht : KeepsEntries s t := (KeepsEntries.refl s).ite hfenced
  have hsnaps : ∀ l, KeepsEntries t { t with time := { t.time with snaps := l } } := fun l => ⟨rfl, fun _ _ _ => rfl⟩
  split
  · exact ht
  · split
    · refine ht.ite_not ?_
      split
      · exact hsnaps _
      · exact hsuppressed t
    · exact ht.trans (hsuppressed t)

end Sys2Proof.Machine
end

section
/-! SUPPORT. The firing of a milestone entry (R41-R44, R47): whose turn it is, what a firing marks, and how it ends; and O32. -/

namespace Sys2Proof.Machine

/-! ### Whose turn it is (R41) -/

theorem dueBefore_iff {s : State} {n : Nat} {d : Due} (hd : s.time.due.get n = some d) :
    dueBefore s n = true ↔ ∃ e ∈ s.time.due, e.2.at_ = d.at_ ∧ e.1 < n := by
  simp [dueBefore, hd]

theorem fireInTurn_of_before {s : State} {n : Nat} {d : Due} (hd : s.time.due.get n = some d) (h : ∃ e ∈ s.time.due, e.2.at_ = d.at_ ∧ e.1 < n) :
    fireInTurn s n = s := if_pos ((dueBefore_iff hd).2 h)

theorem fireInTurn_of_first {s : State} {n : Nat} {d : Due} (hd : s.time.due.get n = some d) (h : ∀ e ∈ s.time.due, e.2.at_ = d.at_ → n ≤ e.1) :
    fireInTurn s n = fireEntry s n := by
  refine if_neg fun hb => ?_
  obtain ⟨e, he, hat, hlt⟩ := (dueBefore_iff hd).1 hb
  exact absurd hlt (Nat.not_lt.2 (h e he hat))

/-! ### What a firing marks (R44) -/

/-- A flag of an entry, set where there is cause. -/
def markIf (s : State) (f : Fld) (n : Nat) (b : Bool) : State := if b then setMt s f n else s

theorem markIf_eq (s : State) (f : Fld) (n : Nat) (b : Bool) : markIf s f n b = { s with flds := (markIf s f n b).flds } := by
  cases b <;> rfl

theorem rd_markIf (s : State) (f g : Fld) {n : Nat} (b : Bool) (hn : n < 256) :
    rd (markIf s f n b) g n = if g = f ∧ b = true then 1 % 2 ^ f.spec.w else rd s g n := by
  have hn' : n < 4194304 := by omega
  cases b
  · simp [markIf]
  · simp [markIf, setMt, rd_wr _ _ _ _ _ _ hn' hn']

theorem markIf_moves {fs : List Fld} (s : State) {f : Fld} (n : Nat) (b : Bool) (hf : f ∈ fs) : Moves fs s (markIf s f n b) :=
  (Moves.refl fs s).ite ((Moves.refl fs s).wr _ _ hf)

/-- The fields that a firing marks. -/
def firedFlds : List Fld := [.MT_CTRL_FIRED, .MT_FIRE_MST_FIRE_MST, .MT_CTRL_LATE, .MT_CTRL_NO_MAINS, .MT_CTRL_FLYWHEEL]

/-- The entry is due no longer. -/
def dueDone (s : State) (n : Nat) : State := { s with time := { s.time with due := s.time.due.del n } }

/-- An entry that was due in this way, marked, before it acts. -/
def fireMarks (s : State) (n : Nat) (d : Due) : State :=
  markIf (markIf (markIf (wr (setMt (dueDone s n) .MT_CTRL_FIRED n) .MT_FIRE_MST_FIRE_MST n d.at_) .MT_CTRL_LATE n d.late)
    .MT_CTRL_NO_MAINS n d.noMains) .MT_CTRL_FLYWHEEL n d.fly

theorem fireMarks_moves (s : State) (n : Nat) (d : Due) : Moves firedFlds (dueDone s n) (fireMarks s n d) := by
  have hfired : Moves firedFlds (dueDone s n) (wr (setMt (dueDone s n) .MT_CTRL_FIRED n) .MT_FIRE_MST_FIRE_MST n d.at_) :=
    ((Moves.refl _ _).wr _ _ (by decide)).wr _ _ (by decide)
  exact ((hfired.trans (markIf_moves _ n _ (by decide))).trans (markIf_moves _ n _ (by decide))).trans (markIf_moves _ n _ (by decide))

theorem fireMarks_frame (s : State) (n : Nat) (d : Due) : FldFrame s (fireMarks s n d) firedFlds :=
  (FldFrame.of_flds (t := dueDone s n) rfl).trans (fireMarks_moves s n d).flds

theorem fireMarks_parts (s : State) (n : Nat) (d : Due) :
    (fireMarks s n d).wm = s.wm ∧ (fireMarks s n d).die = s.die := by
  unfold fireMarks
  rw [markIf_eq, markIf_eq, markIf_eq]
  exact ⟨rfl, rfl⟩

theorem rd_fireMarks (s : State) {n : Nat} (d : Due) (hn : n < 256) :
    rd (fireMarks s n d) .MT_CTRL_FIRED n = 1 ∧ rd (fireMarks s n d) .MT_FIRE_MST_FIRE_MST n = d.at_ % 2 ^ 64 ∧
      rd (fireMarks s n d) .MT_CTRL_LATE n = (if d.late = true then 1 else rd s .MT_CTRL_LATE n) ∧
      rd (fireMarks s n d) .MT_CTRL_NO_MAINS n = (if d.noMains = true then 1 else rd s .MT_CTRL_NO_MAINS n) := by
  have hn' : n < 4194304 := by omega
  have hdone : ∀ f, rd (dueDone s n) f n = rd s f n := fun _ => rfl
  simp only [fireMarks, setMt, rd_markIf _ _ _ _ hn, rd_wr _ _ _ _ _ _ hn' hn', hdone, reduceCtorEq, false_and, true_and, and_self, if_false, if_true]
  exact ⟨rfl, rfl, rfl, rfl⟩

/-! ### The action and the end of a firing (R42, R43, R47) -/

/-- The entry, marked, has acted. -/
def fireAct (s : State) (n : Nat) (d : Due) : State :=
  let t := fireMarks s n d
  if rd t .PS_STATUS_STATE = 3 || rd t .PS_STATUS_STATE = 4 then mtActAsleep t n else mtAct t n d.at_

theorem fireEntry_eq {s : State} {n : Nat} {d : Due} (hd : s.time.due.get n = some d) :
    fireEntry s n = if (fireAct s n d).time.disarm.contains n || !flag (fireAct s n d) .MT_CTRL_REPEAT n then mtOff (fireAct s n d) n
      else mtRepeat (fireAct s n d) n d.noMains := by
  simp only [fireEntry, hd]
  rfl

theorem fireAct_keepsEntries (s : State) (n : Nat) (d : Due) : KeepsEntries (fireMarks s n d) (fireAct s n d) := by
  unfold fireAct
  extract_lets t
  split
  · exact mtActAsleep_keepsEntries t n
  · exact mtAct_keepsEntries t n d.at_

/-- After its action an entry is as its firing has marked it, and due no longer. -/
theorem fireAct_time (s : State) (n : Nat) (d : Due) :
    (fireAct s n d).time = { s.time with due := s.time.due.del n, snaps := (fireAct s n d).time.snaps } := by
  rw [(fireAct_keepsEntries s n d).time, (fireMarks_moves s n d).time]
  rfl

/-- ACTION 0 does nothing, awake or asleep. -/
theorem fireAct_of_none {s : State} {n : Nat} (d : Due) (h : rd s .MT_CTRL_ACTION n = 0) : fireAct s n d = fireMarks s n d := by
  have hact : rd (fireMarks s n d) .MT_CTRL_ACTION n = 0 := (fireMarks_frame s n d _ _ (by decide) (by decide)).trans h
  unfold fireAct
  extract_lets t
  have hheld : ∀ owner a b, targetHeld t owner 0 a b = true := by simp [targetHeld]
  split
  · simp [mtActAsleep, t, hact, hheld, actDies]
  · simp [mtAct, t, hact, hheld]

/-- An entry whose disarm came too late, or that does not repeat, is disarmed by its firing. -/
theorem fireEntry_ends {s : State} {n : Nat} {d : Due} (hn : n < 256) (hd : s.time.due.get n = some d)
    (h : n ∈ s.time.disarm ∨ flag s .MT_CTRL_REPEAT n = false) :
    fireEntry s n = mtOff (fireAct s n d) n ∧ rd (fireEntry s n) .MT_CTRL_FIRED n = 1 := by
  have hacts := fireAct_keepsEntries s n d
  have hrepeat : flag (fireAct s n d) .MT_CTRL_REPEAT n = flag s .MT_CTRL_REPEAT n := by
    rw [flag, hacts.flds _ (by decide), fireMarks_frame s n d _ _ (by decide) (by decide), flag]
  have hend : ((fireAct s n d).time.disarm.contains n || !flag (fireAct s n d) .MT_CTRL_REPEAT n) = true := by
    rw [hrepeat, fireAct_time]
    simpa using h
  have heq : fireEntry s n = mtOff (fireAct s n d) n := (fireEntry_eq hd).trans (if_pos hend)
  obtain ⟨-, -, -, -, hoff⟩ := mtOff_spec (fireAct s n d) n
  obtain ⟨hfired, -⟩ := rd_fireMarks s d hn
  exact ⟨heq, by rw [heq, hoff _ _ (by decide) (by decide), hacts.flds _ (by decide), hfired]⟩

/-- A repeating KIND 0 entry whose next basis lies ahead waits for it (R42). -/
theorem mtRepeat_of_ahead {s : State} {n at_ : Nat} {noMains : Bool} (hkind : flag s .MT_CTRL_KIND n = false) (hbasis : s.time.basis.get n = some at_)
    (hahead : s.time.mst < at_ + rd s .MT_CTRL_PERIOD n) :
    mtRepeat s n noMains = { s with time := { s.time with basis := s.time.basis.put n (at_ + rd s .MT_CTRL_PERIOD n) } } := by
  simp only [mtRepeat, hkind, SMap.getD, hbasis, Option.getD_some, hahead, if_true, Bool.false_eq_true, if_false]

/-! ### RELEASE_WAYMARK (R47, R276) -/

/-- An event that can be sent, and merges with none, stands behind those in flight. -/
theorem sendWm_flight {s : State} {ev : WmEvent} (hkind : ev.kind ≠ .update) (h : CanSend s ev) :
    (sendWm s ev).wm.flight = s.wm.flight ++ [{ ev := ev, pend := evRoute ev }] := by
  unfold sendWm offerWm
  split
  · rfl
  · next b _ hroute =>
    obtain ⟨hopen, hroom⟩ := h b (by rw [show evRoute ev = _ from hroute]; rfl)
    simp only [hopen, hkind, Bool.not_true, Bool.false_eq_true, if_false, Nat.ne_of_lt hroom]
    rfl

theorem CanSend.congr {s t : State} {ev : WmEvent} (h : CanSend s ev) (hdie : t.die = s.die) {fs : List Fld} (hflds : FldFrame s t fs)
    (hfs : ∀ b, (pendFld b).1 ∉ fs) : CanSend t ev := by
  intro b hb
  obtain ⟨hopen, hroom⟩ := h b hb
  refine ⟨?_, by rwa [hflds _ _ (hfs b) (by simp)]⟩
  simpa only [boundaryOpen, halfUp, hdie] using hopen

/-- The ADD of a RELEASE_WAYMARK with this basis and argument (R47). -/
def releaseAdd (basis a : Nat) : WmEvent :=
  { kind := .add, wm := bits a 0 12, half := 8, count := BitVec.ofNat 32 (bits a 16 16), abs := some (BitVec.ofNat 64 (basis + bits a 32 32)) }

theorem mtAct_release {s : State} {n basis : Nat} (hact : rd s .MT_CTRL_ACTION n = 1) (howner : rd s .MT_CTRL_OWNER n = 0)
    (hup : dieDown s (bits (rd s .MT_ARG0_ARG n) 0 12 / 1024) = false) (hcount : bits (rd s .MT_ARG0_ARG n) 16 16 ≠ 0) :
    mtAct s n basis = sendWm s (releaseAdd basis (rd s .MT_ARG0_ARG n)) := by
  simp only [mtAct, howner, hact, targetHeld, decide_true, Bool.true_or, Bool.not_true, Bool.false_eq_true, if_false, hup, hcount]
  rfl

/-! ### O32 -/

section
variable {s : State} {n : Nat} {d : Due} (hn : n < 256) (hd : s.time.due.get n = some d)
include hn hd

/-- An entry with ACTION 0 that does not repeat leaves its marks and is disarmed. -/
theorem fireEntry_none_once (haction : rd s .MT_CTRL_ACTION n = 0) (hrepeat : flag s .MT_CTRL_REPEAT n = false) (hat : d.at_ < 2 ^ 64) :
    let t := fireEntry s n
    rd t .MT_CTRL_FIRED n = 1 ∧ rd t .MT_FIRE_MST_FIRE_MST n = d.at_ ∧ (d.late = true → rd t .MT_CTRL_LATE n = 1) ∧
      (d.late = false → rd t .MT_CTRL_LATE n = rd s .MT_CTRL_LATE n) ∧ (d.noMains = true → rd t .MT_CTRL_NO_MAINS n = 1) ∧
      rd t .MT_CTRL_ARMED n = 0 ∧ t.time.due.get n = none ∧ t.time.basis.get n = none ∧ t.mem = s.mem ∧ t.cores = s.cores := by
  obtain ⟨heq, -⟩ := fireEntry_ends hn hd (.inr hrepeat)
  obtain ⟨hfired, hmst, hlate, hmains⟩ := rd_fireMarks s d hn
  have hmarks := fireMarks_moves s n d
  rw [fireAct_of_none d haction] at heq
  obtain ⟨harmed, hbasis, hdue, -, hoff⟩ := mtOff_spec (fireMarks s n d) n
  rw [← hoff _ _ (by decide) (by decide)] at hfired hmst hlate hmains
  rw [heq]
  refine ⟨hfired, hmst.trans (Nat.mod_eq_of_lt hat), fun h => hlate.trans (if_pos h), fun h => hlate.trans (if_neg (by simp [h])),
    fun h => hmains.trans (if_pos h), harmed, hdue, hbasis, ?_, ?_⟩
  · rw [mtOff_mem, hmarks.mem]; rfl
  · rw [mtOff_cores, hmarks.cores]; rfl

/-- A repeating KIND 0 entry with ACTION 0 leaves its marks and waits one PERIOD more. -/
theorem fireEntry_none_repeats (hkeep : n ∉ s.time.disarm) (harmed : flag s .MT_CTRL_ARMED n = true) (haction : rd s .MT_CTRL_ACTION n = 0)
    (hrepeat : flag s .MT_CTRL_REPEAT n = true) (hkind : flag s .MT_CTRL_KIND n = false) {at_ : Nat} (hbasis : s.time.basis.get n = some at_)
    (hahead : s.time.mst < at_ + rd s .MT_CTRL_PERIOD n) :
    let t := fireEntry s n
    rd t .MT_CTRL_FIRED n = 1 ∧ flag t .MT_CTRL_ARMED n = true ∧ t.time.basis.get n = some (at_ + rd s .MT_CTRL_PERIOD n) ∧ t.time.due.get n = none := by
  have heq := fireEntry_eq hd
  obtain ⟨hfired, -⟩ := rd_fireMarks s d hn
  have hread : ∀ f, f ∉ firedFlds → rd (fireMarks s n d) f n = rd s f n := fun f hf => fireMarks_frame s n d f n hf (by simp)
  have htime := (fireMarks_moves s n d).time
  rw [fireAct_of_none d haction] at heq
  generalize fireMarks s n d = u at *
  have hgoes : ¬(u.time.disarm.contains n || !flag u .MT_CTRL_REPEAT n) = true := by
    rw [htime, flag, hread _ (by decide)]
    simpa [dueDone, flag] using ⟨hkeep, by simpa [flag] using hrepeat⟩
  have hperiod := hread .MT_CTRL_PERIOD (by decide)
  rw [if_neg hgoes, mtRepeat_of_ahead (by rw [← hkind, flag, hread _ (by decide), flag]) (by rw [htime]; exact hbasis)
    (by rw [htime, hperiod]; exact hahead), hperiod] at heq
  rw [heq]
  refine ⟨hfired, ?_, SMap.get_put_self _ _ _, ?_⟩
  · change flag u _ _ = true
    rw [← harmed, flag, hread _ (by decide), flag]
  · change u.time.due.get n = none
    rw [htime]
    simp [dueDone, SMap.get_del]

/-- A RELEASE_WAYMARK that does not repeat sends its ADD and is disarmed. -/
theorem fireEntry_release (haction : rd s .MT_CTRL_ACTION n = 1) (hrepeat : flag s .MT_CTRL_REPEAT n = false) (hhold : rd s .PS_STATUS_STATE ≠ 3)
    (hwatch : rd s .PS_STATUS_STATE ≠ 4) (howner : rd s .MT_CTRL_OWNER n = 0) (hup : dieDown s (bits (rd s .MT_ARG0_ARG n) 0 12 / 1024) = false)
    (hcount : bits (rd s .MT_ARG0_ARG n) 16 16 ≠ 0) (hsend : CanSend s { kind := .add, wm := bits (rd s .MT_ARG0_ARG n) 0 12, half := 8 }) :
    rd (fireEntry s n) .MT_CTRL_FIRED n = 1 ∧ rd (fireEntry s n) .MT_CTRL_ARMED n = 0 ∧
      ∃ f : WmFlight, (fireEntry s n).wm.flight = s.wm.flight ++ [f] ∧ f.ev = releaseAdd d.at_ (rd s .MT_ARG0_ARG n) := by
  obtain ⟨heq, hfired⟩ := fireEntry_ends hn hd (.inr hrepeat)
  obtain ⟨harmed, -⟩ := mtOff_spec (fireAct s n d) n
  obtain ⟨hwm, hdie⟩ := fireMarks_parts s n d
  have hframe := fireMarks_frame s n d
  have hread : ∀ f i, f ∉ firedFlds → rd (fireMarks s n d) f i = rd s f i := fun f i hf => hframe f i hf (by simp)
  have hstate := hread .PS_STATUS_STATE 0 (by decide)
  have harg := hread .MT_ARG0_ARG n (by decide)
  have hdown : dieDown (fireMarks s n d) (bits (rd s .MT_ARG0_ARG n) 0 12 / 1024) = false := by
    rw [← hup]
    simp only [dieDown, diesRun, hstate, hdie]
  have hact : fireAct s n d = sendWm (fireMarks s n d) (releaseAdd d.at_ (rd s .MT_ARG0_ARG n)) := by
    have hawake : ¬(decide (rd (fireMarks s n d) .PS_STATUS_STATE = 3) || decide (rd (fireMarks s n d) .PS_STATUS_STATE = 4)) = true := by
      simp [hstate, hhold, hwatch]
    have h := mtAct_release (s := fireMarks s n d) (n := n) (basis := d.at_) (by rw [hread _ _ (by decide), haction])
      (by rw [hread _ _ (by decide), howner]) (by rwa [harg]) (by rwa [harg])
    rw [harg] at h
    exact (if_neg hawake).trans h
  have hcan : CanSend (fireMarks s n d) (releaseAdd d.at_ (rd s .MT_ARG0_ARG n)) := by
    refine CanSend.congr (s := s) hsend hdie hframe fun b => ?_
    unfold pendFld
    split <;> decide
  refine ⟨hfired, by rw [heq, harmed], ⟨releaseAdd d.at_ (rd s .MT_ARG0_ARG n), evRoute (releaseAdd d.at_ (rd s .MT_ARG0_ARG n))⟩, ?_, rfl⟩
  rw [heq, mtOff_wm, hact, sendWm_flight (show EvKind.add ≠ .update by decide) hcan, hwm]

end

/-- Settles O32: an entry fires in its turn, and ends its firing disarmed or at its next basis. -/
theorem milestoneFiring : Obligations.MilestoneFiring := by
  unfold Obligations.MilestoneFiring
  intro s n d hn hd
  refine ⟨fun hbefore => ⟨_, rfl, fireInTurn_of_before hd hbefore⟩, fun hfirst hdisarm => ?_, fun hfirst hkeep harmed hat => ?_⟩
  · obtain ⟨heq, hfired⟩ := fireEntry_ends hn hd (.inl hdisarm)
    obtain ⟨hoff, hbasis, -, hnot, -⟩ := mtOff_spec (fireAct s n d) n
    rw [← heq] at hoff hbasis hnot
    exact ⟨_, congrArg Host.Outcome.next (fireInTurn_of_first hd hfirst), hfired, hoff, hnot, hbasis⟩
  · have hexec : exec (.mtFire n) s = .next (fireEntry s n) := congrArg Host.Outcome.next (fireInTurn_of_first hd hfirst)
    refine ⟨fun haction hrepeat => ⟨_, hexec, fireEntry_none_once hn hd haction hrepeat hat⟩,
      fun haction hrepeat hkind at_ hbasis hahead => ⟨_, hexec, fireEntry_none_repeats hn hd hkeep harmed haction hrepeat hkind hbasis hahead⟩,
      fun haction hrepeat hhold hwatch howner hup hcount hsend => ⟨_, hexec, ?_⟩⟩
    obtain ⟨hfired, hoff, f, hflight, hev⟩ := fireEntry_release hn hd haction hrepeat hhold hwatch howner hup hcount hsend
    exact ⟨hfired, hoff, f, hflight, by rw [hev]; exact ⟨rfl, rfl, rfl, rfl⟩⟩

end Sys2Proof.Machine
end

section
/-! SUPPORT. The power-quality log (R385, R386), the lock of the mains angle (R36, R384), the applied cap (R396, R397, R410) and the measurement of a
half-cycle (R383): what each gives and what it leaves alone. -/

namespace Sys2Proof.Machine

theorem FldFrame.of_append {s t : State} {fs gs : List Fld} (h : FldFrame s t (fs ++ gs)) : FldFrame s t fs gs :=
  fun f i hf hg => h f i (by simp [hf, hg]) (by simp)

/-! ### The power-quality log -/

theorem pqPut_moves (fs : List Fld) (s : State) (j : Nat) (e : PqEntry) : Moves fs s (pqPut s j e) := (Moves.refl fs s).ite_not ((Moves.refl fs s).sup _)

@[simp] theorem pqPut_open (s : State) (j : Nat) (e : PqEntry) : (pqPut s j e).sup.open_ = s.sup.open_ := by
  unfold pqPut
  split <;> rfl

/-- A change of an open event writes no register. -/
theorem pqChange_moves (fs : List Fld) (s : State) (kind : Nat) (f : PqEntry → PqEntry) : Moves fs s (pqChange s kind f) := by
  unfold pqChange
  split
  · exact .refl fs s
  · exact ((Moves.refl fs s).sup _).trans (pqPut_moves fs _ _ _)

theorem pqLow_moves (fs : List Fld) (s : State) (kind : Nat) (v : Int) : Moves fs s (pqLow s kind v) := pqChange_moves fs s kind _

theorem pqHigh_moves (fs : List Fld) (s : State) (kind : Nat) (v : Int) : Moves fs s (pqHigh s kind v) := pqChange_moves fs s kind _

theorem pqClose_moves (fs : List Fld) (s : State) (kind : Nat) : Moves fs s (pqClose s kind) := by
  unfold pqClose
  split
  · exact .refl fs s
  · exact (pqChange_moves fs s kind _).sup _

theorem pqTouch_moves (fs : List Fld) (s : State) : Moves fs s (pqTouch s) := .each (fun t k _ => pqChange_moves fs t k _) s

theorem pqOpen_moves (s : State) (kind : Nat) (extreme : Int) : Moves pqFlds s (pqOpen s kind extreme) := by
  unfold pqOpen
  split
  · exact .refl _ s
  · extract_lets j e n _ _ t u
    have ht : Moves pqFlds s t := (Moves.refl _ s).sup _
    have hu : Moves pqFlds s u := ht.wr _ _ (by decide)
    exact hu.ite ((Moves.refl _ u).wr _ _ (by decide))

/-- A change of one event leaves which are open, but for what it says of that one. -/
theorem pqChange_open (s : State) (kind k : Nat) (f : PqEntry → PqEntry) (h : k ≠ kind) : (pqChange s kind f).sup.open_.get k = s.sup.open_.get k := by
  unfold pqChange
  split
  · rfl
  · rw [pqPut_open]
    exact (SMap.get_put _ _ _ _).trans (if_neg h)

theorem pqClose_open (s : State) (kind k : Nat) : (pqClose s kind).sup.open_.get k = if k = kind then none else s.sup.open_.get k := by
  unfold pqClose
  split
  · next h =>
    split
    · next e => rw [e, h]
    · rfl
  · extract_lets t
    rw [SMap.get_del]
    split
    · rfl
    · next h => exact pqChange_open s kind k _ h

/-- An event that is not open opens. -/
theorem pqOpen_open (s : State) (kind : Nat) (extreme : Int) : ((pqOpen s kind extreme).sup.open_.get kind).isSome = true := by
  unfold pqOpen
  split
  · assumption
  · extract_lets j e n _ _ t u
    have hu : u.sup.open_.get kind = some (j, e) := SMap.get_put_self _ _ _
    split
    · exact Option.isSome_iff_exists.2 ⟨_, hu⟩
    · exact Option.isSome_iff_exists.2 ⟨_, hu⟩

/-! ### The lock (R36, R384) -/

/-- The fields that follow the lock. -/
def lockFlds : List Fld := [.MAINS_STATUS_LOCK, .MAINS_STATUS_FLYWHEEL, .MAINS_MEAS_VALID]

/-- LOCK and MEAS.VALID, as the lock gives them. -/
def lockFlags (s : State) (b : Bool) : State := setFlag (setFlag s .MAINS_STATUS_LOCK 0 b) .MAINS_MEAS_VALID 0 b

theorem lockFlags_moves {fs : List Fld} (s : State) (b : Bool) (hlock : .MAINS_STATUS_LOCK ∈ fs) (hvalid : .MAINS_MEAS_VALID ∈ fs) :
    Moves fs s (lockFlags s b) := ((Moves.refl fs s).wr _ _ hlock).wr _ _ hvalid

theorem rd_lockFlags (s : State) (b : Bool) : rd (lockFlags s b) .MAINS_STATUS_LOCK = b.toNat ∧ rd (lockFlags s b) .MAINS_MEAS_VALID = b.toNat := by
  have hmod : b.toNat % 2 = b.toNat := by cases b <;> rfl
  unfold lockFlags setFlag
  rw [rd_wr_fld _ _ _ _ (by decide), rd_wr_self, rd_wr_self]
  exact ⟨hmod, hmod⟩

theorem setLock_true (s : State) : setLock s true = pqClose (lockFlags s true) 7 := by simp [setLock, lockFlags]

theorem setLock_false {s : State} (h : flag s .MAINS_STATUS_LOCK = true) : setLock s false = pqOpen (lockFlags s false) 7 0 := by
  simp [setLock, lockFlags, h]

/-- A locked angle stays locked, freewheeling or not; its frequency and MST stay. -/
theorem tryLock_of_locked {s : State} (h : flag s .MAINS_STATUS_LOCK = true) :
    FldFrame s (tryLock s) lockFlds ∧ (tryLock s).mem = s.mem ∧ (tryLock s).cores = s.cores ∧ (tryLock s).time.mhz = s.time.mhz ∧
      (tryLock s).time.mst = s.time.mst ∧ flag (tryLock s) .MAINS_STATUS_LOCK = true := by
  unfold tryLock
  split
  · extract_lets _ t
    have hflags : Moves lockFlds t (setLock t true) := by
      rw [setLock_true]
      exact (lockFlags_moves t true (by decide) (by decide)).trans (pqClose_moves _ _ 7)
    have hclear : Moves lockFlds t (wr0 (setLock t true) .MAINS_STATUS_FLYWHEEL 0) := hflags.wr _ _ (by decide)
    refine ⟨(FldFrame.of_flds (s := s) rfl).trans hclear.flds, hclear.mem, hclear.cores, by rw [hclear.time], by rw [hclear.time], ?_⟩
    obtain ⟨hset, -⟩ := rd_lockFlags t true
    rw [flag, wr0, rd_wr_fld _ _ _ _ (by decide), setLock_true, (pqClose_moves [] _ 7).flds _ _ (by simp) (by simp), hset]
    rfl
  · exact ⟨.refl s _ _, rfl, rfl, rfl, rfl, h⟩

/-- The loss of a lock: LOCK and MEAS.VALID clear, the angle freewheels, and LOCK_LOST opens. -/
theorem lockLost_spec {s : State} (h : flag s .MAINS_STATUS_LOCK = true) :
    rd (lockLost s) .MAINS_STATUS_LOCK = 0 ∧ rd (lockLost s) .MAINS_STATUS_FLYWHEEL = 1 ∧ rd (lockLost s) .MAINS_MEAS_VALID = 0 ∧
      (lockLost s).time.lossAt = some s.now ∧ FldFrame s (lockLost s) lockFlds pqFlds ∧ (lockLost s).mem = s.mem := by
  have heq : ∃ t : State, t.flds = s.flds ∧ t.mem = s.mem ∧ t.time.lossAt = some s.now ∧
      lockLost s = wr0 (pqOpen (lockFlags t false) 7 0) .MAINS_STATUS_FLYWHEEL 1 := by
    refine ⟨{ s with time := { s.time with lossAt := some s.now, phaseErr := 0, goodHalves := 0 } }, rfl, rfl, rfl, ?_⟩
    rw [← setLock_false (by exact h)]
    exact if_neg (by simp [h])
  obtain ⟨t, hflds, hmem, htime, heq⟩ := heq
  have hopen := pqOpen_moves (lockFlags t false) 7 0
  have hmoves : Moves (lockFlds ++ pqFlds) t (lockLost s) := by
    rw [heq]
    exact ((lockFlags_moves t false (by decide) (by decide)).trans (hopen.mono (by simp))).wr _ _ (by decide)
  obtain ⟨hlock, hvalid⟩ := rd_lockFlags t false
  refine ⟨?_, by rw [heq]; exact rd_wr_self _ _ _ _, ?_, by rw [hmoves.time, htime], ((FldFrame.of_flds hflds).trans hmoves.flds).of_append, by rw [hmoves.mem, hmem]⟩
  · rw [heq, wr0, rd_wr_fld _ _ _ _ (by decide), hopen.flds _ _ (by decide) (by decide), hlock]
    rfl
  · rw [heq, wr0, rd_wr_fld _ _ _ _ (by decide), hopen.flds _ _ (by decide) (by decide), hvalid]
    rfl

/-! ### The applied cap (R396, R397, R410) -/

theorem closePeak_moves (s : State) (h : Nat) : Moves powFlds s (closePeak s h) := by
  unfold closePeak
  extract_lets t _ u
  have ht : Moves powFlds s t := (Moves.refl _ s).wr _ _ (by decide)
  have hu : Moves powFlds s u := ht.pow _
  refine (Moves.refl _ s).ite_not ?_
  exact hu.ite_not (((Moves.refl _ u).pow _).wr _ _ (by decide))

/-- P_LIM follows the cap and the shed; windows and budgets follow P_LIM. -/
theorem syncLimit_moves (s : State) : Moves powFlds s (syncLimit s) := by
  unfold syncLimit
  extract_lets new old t u
  have ht : Moves powFlds s t := (Moves.refl _ s).wr _ _ (by decide)
  have hu : Moves powFlds t u := .each (fun v h _ => closePeak_moves v h) t
  exact ht.ite (hu.pow _)

/-- A change of the applied cap moves it and what power control derives from it. -/
theorem setCap_moves (s : State) (c : Nat) : Moves (.FR_STATUS_CAP_PM :: powFlds) s (setCap s c) := by
  have hcap : Moves (.FR_STATUS_CAP_PM :: powFlds) s (wr0 s .FR_STATUS_CAP_PM c) := (Moves.refl _ s).wr _ _ (by simp)
  have hsync := (syncLimit_moves (wr0 s .FR_STATUS_CAP_PM c)).trans (pqTouch_moves _ _)
  exact (Moves.refl _ s).ite_not (hcap.trans ((hsync.trans (syncPow_moves _)).mono (by simp)))

theorem rd_setCap (s : State) {c : Nat} (hc : c < 1024) : rd (setCap s c) .FR_STATUS_CAP_PM = c := by
  unfold setCap
  split
  · next h => exact h.symm
  · have hsync := ((syncLimit_moves (wr0 s .FR_STATUS_CAP_PM c)).trans (pqTouch_moves _ _)).trans (syncPow_moves _)
    rw [hsync.flds _ _ (by decide) (by decide)]
    exact (rd_wr_self _ _ _ _).trans (Nat.mod_eq_of_lt hc)

theorem capStep_lt {s : State} {base target : Nat} (h : target < 1024) : capStep s base target < 1024 := by
  unfold capStep
  split <;> omega

/-- A device on its own curve with a lock takes one step toward the curve's cap (R397, R398). -/
theorem frStep_of_own_curve {s : State} (hmode : rd s .FR_CTRL_MODE = 1) (hlock : flag s .MAINS_STATUS_LOCK = true) (hc : rd s .FR_STATUS_CURVE_PM < 1024) :
    Moves (.FR_STATUS_CAP_PM :: powFlds) s (frStep (retarget s)) ∧
      rd (frStep (retarget s)) .FR_STATUS_CAP_PM = capStep s (rd s .FR_STATUS_CAP_PM) (rd s .FR_STATUS_CURVE_PM) := by
  have htarget : frTarget s = rd s .FR_STATUS_CURVE_PM := by simp [frTarget, hmode, hlock]
  have hstep : ∃ x : SupS, frStep (retarget s) = setCap { s with sup := x } (capStep s (rd s .FR_STATUS_CAP_PM) (rd s .FR_STATUS_CURVE_PM)) := by
    have hlead : ¬rd (retarget s) .FR_CTRL_MODE = 2 := by
      change ¬rd s .FR_CTRL_MODE = 2
      omega
    refine ⟨{ (retarget s).sup with stepAt := s.time.mst }, ?_⟩
    unfold frStep
    simp only [hlead, decide_false, if_false, Bool.not_false, if_true]
    rw [← htarget]
    rfl
  obtain ⟨x, hstep⟩ := hstep
  rw [hstep]
  exact ⟨((Moves.refl _ s).sup x).trans (setCap_moves _ _), rd_setCap _ (capStep_lt hc)⟩

/-- The curve's cap depends on the curve's points alone. -/
theorem frCurveCap_congr {s t : State} {fs : List Fld} (h : FldFrame s t fs) (hoff : .FR_POINT_OFFSET ∉ fs) (hcap : .FR_POINT_CAP_PM ∉ fs) (x : Int) :
    frCurveCap t x = frCurveCap s x := by
  have hoffset : ∀ i, frOffset t i = frOffset s i := fun i => by rw [frOffset, h _ _ hoff (by simp), frOffset]
  have hpoint : ∀ i, rd t .FR_POINT_CAP_PM i = rd s .FR_POINT_CAP_PM i := fun i => h _ _ hcap (by simp)
  simp only [frCurveCap, hoffset, hpoint]

/-! ### The measurement (R383) -/

theorem rmsEvents_moves (s : State) (rms : Nat) : Moves pqFlds s (rmsEvents s rms) := by
  unfold rmsEvents
  extract_lets nom h below t1 t2 t3 t4 t5 t6 t7 t8 t9 q
  have h1 : Moves pqFlds s t1 := (Moves.refl _ s).ite ((pqOpen_moves s 3 rms).trans (pqClose_moves _ _ 1))
  have h3 : Moves pqFlds s t3 := (h1.trans (pqLow_moves _ t1 3 rms)).ite_not (pqClose_moves _ t2 3)
  have h4 : Moves pqFlds s t4 := h3.ite (pqOpen_moves t3 1 rms)
  have h6 : Moves pqFlds s t6 := (h4.trans (pqLow_moves _ t4 1 rms)).ite_not (pqClose_moves _ t5 1)
  have h7 : Moves pqFlds s t7 := h6.ite (pqOpen_moves t6 2 rms)
  have h9 : Moves pqFlds s t9 := (h7.trans (pqHigh_moves _ t7 2 rms)).ite (pqClose_moves _ t8 2)
  exact h9.sup _

theorem freqEvents_moves (s : State) (off : Int) : Moves pqFlds s (freqEvents s off) := by
  unfold freqEvents
  extract_lets band t1 t2 t3 q
  have h1 : Moves pqFlds s t1 := (Moves.refl _ s).ite (pqOpen_moves s 4 off)
  have h3 : Moves pqFlds s t3 := (h1.trans (pqChange_moves _ t1 4 _)).ite (pqClose_moves _ t2 4)
  exact h3.sup _

theorem divOpen_of_dvd {a b : Nat} (h : a % b = 0) : divOpen a b = a / b := by simp [divOpen, h]

/-- A good crossing while the angle is locked: it stays locked, at the half-cycle's frequency. -/
theorem angleCross_of_locked {s : State} {mhz : Nat} (ph : Nat) (hlow : 40000 ≤ mhz) (hhigh : mhz ≤ 70000) (hvalid : flag s .MAINS_STATUS_VALID = true)
    (hlock : flag s .MAINS_STATUS_LOCK = true) :
    FldFrame s (angleCross s ph mhz) lockFlds ∧ (angleCross s ph mhz).mem = s.mem ∧ (angleCross s ph mhz).cores = s.cores ∧
      (angleCross s ph mhz).time.mhz = mhz ∧ (angleCross s ph mhz).time.mst = s.time.mst ∧ flag (angleCross s ph mhz) .MAINS_STATUS_LOCK = true := by
  have heq : ∃ x : TimeS, x.mhz = mhz ∧ x.mst = s.time.mst ∧ angleCross s ph mhz = tryLock { s with time := x } := by
    unfold angleCross
    extract_lets good failed _ t _ u v d err
    have hgood : ¬(!good) = true := by simp [good, hlow, hhigh]
    have hv : flag v .MAINS_STATUS_VALID = true := hvalid
    have hl : (flag v .MAINS_STATUS_LOCK || decide (2 ≤ v.time.goodHalves)) = true := by
      rw [show flag v .MAINS_STATUS_LOCK = true from hlock, Bool.true_or]
    exact ⟨{ v.time with phaseErr := err }, rfl, rfl, (if_neg hgood).trans ((if_pos hv).trans (if_pos hl))⟩
  obtain ⟨x, hmhz, hmst, heq⟩ := heq
  obtain ⟨hframe, hmem, hcores, hmhz', hmst', hlock'⟩ := tryLock_of_locked (s := { s with time := x }) hlock
  rw [heq]
  exact ⟨hframe, hmem, hcores, hmhz'.trans hmhz, hmst'.trans hmst, hlock'⟩

end Sys2Proof.Machine
end

section
/-! SUPPORT. The half-cycle that a locked angle measures, and what follows from it (R36, R383, R396, R397). -/

namespace Sys2Proof.Machine

/-! ### The crossing and its measurement -/

/-- The angle takes a zero crossing, and one upward counts a cycle. -/
def halfAngle (s : State) (pos : Bool) (f : Nat) : State :=
  let t := angleCross s (if pos then 0 else cyclePh / 2) f
  if pos then bump t .MAINS_STATUS_CYCLES else t

/-- While the angle is locked the measurements, the frequency events and the curve's cap follow. -/
def halfMeasures (s : State) (f avg nom rms halfUv cycleUv : Nat) : State :=
  let off : Int := (avg : Int) - rd s .FR_CTRL_NOMINAL
  let t := wr0 (wr0 s .MAINS_MEAS_HALF f) .MAINS_MEAS_AVG avg
  let t := wr0 (wr0 t .MAINS_RMS_HALF rms) .MAINS_RMS_CYCLE (min (divOpen (cycleUv * nom) 1000000) 65535)
  let t := freqEvents (wr0 t .MAINS_RMS_SENSE (min (divOpen halfUv 1000) 65535)) off
  wr0 t .FR_STATUS_CURVE_PM (frCurveCap t off)

/-- The registers of a measurement. -/
def measFlds : List Fld := [.MAINS_MEAS_HALF, .MAINS_MEAS_AVG, .MAINS_RMS_HALF, .MAINS_RMS_CYCLE, .MAINS_RMS_SENSE, .FR_STATUS_CURVE_PM]

theorem halfAngle_of_locked {s : State} {f : Nat} (pos : Bool) (hlow : 40000 ≤ f) (hhigh : f ≤ 70000) (hvalid : flag s .MAINS_STATUS_VALID = true)
    (hlock : flag s .MAINS_STATUS_LOCK = true) :
    let t := halfAngle s pos f
    FldFrame s t (.MAINS_STATUS_CYCLES :: lockFlds) ∧ t.mem = s.mem ∧ t.cores = s.cores ∧ t.time.mhz = f ∧ t.time.mst = s.time.mst ∧
      flag t .MAINS_STATUS_LOCK = true ∧
      rd t .MAINS_STATUS_CYCLES = if pos = true then (rd s .MAINS_STATUS_CYCLES + 1) % 2 ^ 32 else rd s .MAINS_STATUS_CYCLES := by
  obtain ⟨hframe, hmem, hcores, hmhz, hmst, hlock'⟩ := angleCross_of_locked (if pos then 0 else cyclePh / 2) hlow hhigh hvalid hlock
  have hcycles := hframe .MAINS_STATUS_CYCLES 0 (by decide) (by decide)
  have hframe' := hframe.mono (fs' := .MAINS_STATUS_CYCLES :: lockFlds) (by simp) (List.Subset.refl _)
  intro t
  cases pos with
  | false => exact ⟨hframe', hmem, hcores, hmhz, hmst, hlock', hcycles⟩
  | true =>
    refine ⟨hframe'.wr _ _ (.inl (by decide)), hmem, hcores, hmhz, hmst, ?_, ?_⟩
    · exact (congrArg (fun n => decide (n ≠ 0)) (rd_wr_fld _ _ _ _ (by decide))).trans hlock'
    · exact (rd_wr_self _ _ _ _).trans (by rw [hcycles]; rfl)

theorem halfMeasures_spec (s : State) {f avg : Nat} (nom rms halfUv cycleUv : Nat) (hf : f < 2 ^ 20) (havg : avg < 2 ^ 20)
    (hcap : frCurveCap s ((avg : Int) - rd s .FR_CTRL_NOMINAL) < 1024) :
    let t := halfMeasures s f avg nom rms halfUv cycleUv
    Moves (measFlds ++ pqFlds) s t ∧ rd t .MAINS_MEAS_HALF = f ∧ rd t .MAINS_MEAS_AVG = avg ∧
      rd t .FR_STATUS_CURVE_PM = frCurveCap s ((avg : Int) - rd s .FR_CTRL_NOMINAL) := by
  unfold halfMeasures
  extract_lets off t u v
  have ht : Moves measFlds s t := ((Moves.refl _ s).wr _ _ (by decide)).wr _ _ (by decide)
  have hu : Moves [.MAINS_RMS_HALF, .MAINS_RMS_CYCLE, .MAINS_RMS_SENSE] t (wr0 u .MAINS_RMS_SENSE (min (divOpen halfUv 1000) 65535)) :=
    (((Moves.refl _ t).wr _ _ (by decide)).wr _ _ (by decide)).wr _ _ (by decide)
  have hv : Moves pqFlds _ v := freqEvents_moves _ off
  have hmeas : Moves (measFlds ++ pqFlds) s v := ((ht.mono (by simp)).trans (hu.mono (by decide))).trans (hv.mono (by simp))
  have hrest : ∀ g, g ∉ Fld.MAINS_RMS_HALF :: .MAINS_RMS_CYCLE :: .MAINS_RMS_SENSE :: pqFlds → g ≠ .FR_STATUS_CURVE_PM →
      rd (wr0 v .FR_STATUS_CURVE_PM (frCurveCap v off)) g = rd t g := fun g hg hne => by
    rw [wr0, rd_wr_fld _ _ _ _ hne, hv.flds _ _ (by simp_all) (by simp), hu.flds _ _ (by simp_all) (by simp)]
  have hcurve : frCurveCap v off = frCurveCap s off := frCurveCap_congr hmeas.flds (by decide) (by decide) off
  refine ⟨hmeas.wr _ _ (by decide), ?_, ?_, ?_⟩
  · rw [hrest _ (by decide) (by decide)]
    exact (rd_wr_fld _ _ _ _ (by decide)).trans ((rd_wr_self _ _ _ _).trans (Nat.mod_eq_of_lt hf))
  · rw [hrest _ (by decide) (by decide)]
    exact (rd_wr_self _ _ _ _).trans (Nat.mod_eq_of_lt havg)
  · exact (rd_wr_self _ _ _ _).trans ((congrArg (· % 2 ^ 10) hcurve).trans (Nat.mod_eq_of_lt hcap))

/-- The registers of a half-cycle's end, the applied cap among them. -/
def halfFlds : List Fld :=
  [.MAINS_STATUS_LOCK, .MAINS_STATUS_FLYWHEEL, .MAINS_STATUS_CYCLES, .MAINS_MEAS_HALF, .MAINS_MEAS_AVG, .MAINS_MEAS_VALID, .MAINS_RMS_HALF,
    .MAINS_RMS_CYCLE, .MAINS_RMS_SENSE, .FR_STATUS_CURVE_PM, .FR_STATUS_CAP_PM]

/-- The measurement of a locked half-cycle, and the step of the cap toward the curve's. -/
theorem frStep_halfMeasures {s : State} {f avg : Nat} (nom rms half cyc : Nat) (hf : f < 2 ^ 20) (havg : avg < 2 ^ 20)
    (hcap : frCurveCap s ((avg : Int) - rd s .FR_CTRL_NOMINAL) < 1024) (hlock : flag s .MAINS_STATUS_LOCK = true) (hmode : rd s .FR_CTRL_MODE = 1) :
    let c := frCurveCap s ((avg : Int) - rd s .FR_CTRL_NOMINAL)
    let t := frStep (retarget (halfMeasures s f avg nom rms half cyc))
    Moves (measFlds ++ pqFlds ++ .FR_STATUS_CAP_PM :: powFlds) s t ∧ rd t .MAINS_MEAS_HALF = f ∧ rd t .MAINS_MEAS_AVG = avg ∧ rd t .FR_STATUS_CURVE_PM = c ∧
      rd t .FR_STATUS_CAP_PM = capStep s (rd s .FR_STATUS_CAP_PM) c := by
  intro c
  obtain ⟨hmeas, hhalf, hmavg, hcurve⟩ := halfMeasures_spec s nom rms half cyc hf havg hcap
  generalize halfMeasures s f avg nom rms half cyc = u at *
  have hkeep : ∀ g, g ∉ measFlds ++ pqFlds → rd u g = rd s g := fun g hg => hmeas.flds g 0 hg (by simp)
  have hlock' : flag u .MAINS_STATUS_LOCK = true := (congrArg (fun n => decide (n ≠ 0)) (hkeep _ (by decide))).trans hlock
  obtain ⟨hstep, hcapPm⟩ := frStep_of_own_curve ((hkeep _ (by decide)).trans hmode) hlock' (hcurve ▸ hcap)
  have hrest : ∀ g, g ∉ Fld.FR_STATUS_CAP_PM :: powFlds → rd (frStep (retarget u)) g = rd u g := fun g hg => hstep.flds g 0 hg (by simp)
  refine ⟨(hmeas.mono (by simp)).trans (hstep.mono (by simp)), (hrest _ (by decide)).trans hhalf, (hrest _ (by decide)).trans hmavg,
    (hrest _ (by decide)).trans hcurve, ?_⟩
  rw [hcapPm, hcurve, capStep, hkeep _ (by decide), hkeep _ (by decide), capStep]

/-- A crossing while the angle is locked, and the voltage events of its half-cycle. -/
theorem rmsEvents_halfAngle {s : State} {f : Nat} (pos : Bool) (rms : Nat) (hlow : 40000 ≤ f) (hhigh : f ≤ 70000)
    (hvalid : flag s .MAINS_STATUS_VALID = true) (hlock : flag s .MAINS_STATUS_LOCK = true) :
    let t := rmsEvents (halfAngle s pos f) rms
    FldFrame s t (.MAINS_STATUS_CYCLES :: lockFlds ++ pqFlds) ∧ t.mem = s.mem ∧ t.cores = s.cores ∧ t.time.mhz = f ∧ t.time.mst = s.time.mst ∧
      flag t .MAINS_STATUS_LOCK = true ∧
      rd t .MAINS_STATUS_CYCLES = if pos = true then (rd s .MAINS_STATUS_CYCLES + 1) % 2 ^ 32 else rd s .MAINS_STATUS_CYCLES := by
  obtain ⟨hframe, hmem, hcores, hmhz, hmst, hlock', hcycles⟩ := halfAngle_of_locked pos hlow hhigh hvalid hlock
  have hrms := rmsEvents_moves (halfAngle s pos f) rms
  have hkeep : ∀ g, g ∉ pqFlds → rd (rmsEvents (halfAngle s pos f) rms) g = rd (halfAngle s pos f) g := fun g hg => hrms.flds g 0 hg (by simp)
  exact ⟨(hframe.mono (by simp) (by simp)).trans (hrms.flds.mono (by simp) (by simp)), hrms.mem.trans hmem, hrms.cores.trans hcores,
    (congrArg TimeS.mhz hrms.time).trans hmhz, (congrArg TimeS.mst hrms.time).trans hmst,
    (congrArg (fun n => decide (n ≠ 0)) (hkeep _ (by decide))).trans hlock', (hkeep _ (by decide)).trans hcycles⟩

theorem halfCycleEnd_of_locked {s : State} {d : Nat} (half cyc : Nat) (pos : Bool) (hrun : mcRuns s = true) (hd : d ≠ 0)
    (hlock : flag s .MAINS_STATUS_LOCK = true) (hvalid : flag s .MAINS_STATUS_VALID = true) (hmode : rd s .FR_CTRL_MODE = 1) {f prev : Nat}
    (hf : nearest (10 ^ 12) (2 * d) = f) (hprev : rd s .MAINS_MEAS_HALF = prev) (hlow : 40000 ≤ f) (hhigh : f ≤ 70000) (hmax : prev ≤ 70000)
    (heven : (f + prev) % 2 = 0) {c : Nat} (hc : frCurveCap s ((((f + prev) / 2 : Nat) : Int) - rd s .FR_CTRL_NOMINAL) = c) (hcap : c < 1024) :
    Does (.halfCycleEnd d half cyc pos) s (fun t => rd t .MAINS_MEAS_HALF = f ∧ rd t .MAINS_MEAS_AVG = (f + prev) / 2 ∧ rd t .FR_STATUS_CURVE_PM = c ∧
      rd t .FR_STATUS_CAP_PM = capStep s (rd s .FR_STATUS_CAP_PM) c ∧
      rd t .MAINS_STATUS_CYCLES = (if pos = true then (rd s .MAINS_STATUS_CYCLES + 1) % 2 ^ 32 else rd s .MAINS_STATUS_CYCLES) ∧
      t.time.mhz = f ∧ t.time.mst = s.time.mst ∧ FldFrame s t halfFlds (powFlds ++ pqFlds) ∧ t.mem = s.mem ∧ t.cores = s.cores) := by
  change ∃ t, execHalfCycleEnd d half cyc pos s = .next t ∧ _
  unfold execHalfCycleEnd
  rw [if_neg (by simp [hrun, hd]), hf, hprev, hlock, if_pos rfl]
  extract_lets f' prev' t1 t2 nom rms t3 avg off v1 v2 v3 t4 t5 _
  have hf' : f' = f := by omega
  have havg : avg = (f + prev) / 2 := (congrArg (fun n => divOpen (n + prev) 2) hf').trans (divOpen_of_dvd heven)
  have ht3 : t3 = rmsEvents (halfAngle s pos f') rms := rfl
  have ht4 : flag t3 .MAINS_STATUS_LOCK = true → t4 = halfMeasures t3 f' avg nom rms half cyc := fun h => if_neg (by simp [h])
  clear_value t4 t3 avg f'
  subst hf' havg
  have h3 := rmsEvents_halfAngle pos rms hlow hhigh hvalid hlock
  rw [← ht3] at h3
  obtain ⟨hframe, hmem, hcores, hmhz, hmst, hlock', hcycles⟩ := h3
  have hkeep : ∀ g, g ∉ Fld.MAINS_STATUS_CYCLES :: lockFlds ++ pqFlds → rd t3 g = rd s g := fun g hg => hframe g 0 hg (by simp)
  rw [← hkeep .FR_CTRL_NOMINAL (by decide), ← frCurveCap_congr hframe (by decide) (by decide)] at hc
  obtain ⟨hmeas, hhalf, hmavg, hcurve, hcapPm⟩ := frStep_halfMeasures (f := f') (avg := (f' + prev) / 2) nom rms half cyc (by omega) (by omega) (by rwa [hc]) hlock'
    ((hkeep _ (by decide)).trans hmode)
  rw [hc] at hcurve hcapPm
  have ht5 : t5 = frStep (retarget (halfMeasures t3 f' ((f' + prev) / 2) nom rms half cyc)) := congrArg (fun u => frStep (retarget u)) (ht4 hlock')
  clear_value t5
  rw [← ht5] at hmeas hhalf hmavg hcurve hcapPm
  have hmode5 : rd t5 .FR_CTRL_MODE = 1 := (hmeas.flds _ _ (by decide) (by simp)).trans ((hkeep _ (by decide)).trans hmode)
  rw [if_neg (by simp [hmode5])]
  refine ⟨t5, rfl, hhalf, hmavg, hcurve, ?_, (hmeas.flds _ _ (by decide) (by simp)).trans hcycles, by rw [hmeas.time, hmhz], by rw [hmeas.time, hmst],
    FldFrame.of_append (fs := halfFlds) ((hframe.mono (by decide) (by simp)).trans (hmeas.flds.mono (by decide) (by simp))), hmeas.mem.trans hmem, hmeas.cores.trans hcores⟩
  rw [hcapPm, capStep, hkeep _ (by decide), hkeep _ (by decide), capStep]

end Sys2Proof.Machine
end

section
/-! SUPPORT. The loss of the mains angle and of VALID (R36, R44, R401), a mains that is missing (R385) and the summary that is saved (R387); and O36. -/

namespace Sys2Proof.Machine

theorem SMap.mem_of_get {V : Type} {m : SMap V} {k : Nat} {v : V} (h : m.get k = some v) : (k, v) ∈ m := by
  induction m with
  | nil => simp at h
  | cons e t ih =>
    simp only [SMap.get] at h
    split at h
    · next hk =>
      cases h
      exact hk ▸ List.mem_cons_self
    · exact List.mem_cons_of_mem _ (ih h)

/-! ### A missing crossing (R36) -/

/-- A failing half-cycle: it counts, and the next crossing is missed one half-cycle on. -/
def failedHalf (s : State) : State :=
  { s with time := { s.time with badHalves := s.time.badHalves + 1, goodHalves := 0, missAt := s.time.missAt + 10 ^ 12 / (2 * s.time.mhz) } }

theorem execMainsLockLoss_of_missed {s : State} (hmhz : s.time.mhz ≠ 0) (hlock : flag s .MAINS_STATUS_LOCK = true)
    (hmiss : 3 * 10 ^ 12 ≤ (s.now - s.time.missAt) * 4 * s.time.mhz) :
    execMainsLockLoss s = .next (if 2 ≤ s.time.badHalves + 1 then lockLost (failedHalf s) else failedHalf s) :=
  congrArg Host.Outcome.next (if_neg (by simpa [hmhz, hlock] using hmiss))

/-! ### VALID clears (R36, R44, R401) -/

theorem frNoMains_moves (s : State) : Moves [.FR_STATUS_NO_MAINS] s (frNoMains s) :=
  (Moves.refl _ s).ite (((Moves.refl _ s).sup _).wr _ _ (by decide))

/-- A device that follows the mains frequency aims at full power without it. -/
theorem frNoMains_of_mode {s : State} (h : rd s .FR_CTRL_MODE = 1 ∨ rd s .FR_CTRL_MODE = 2) :
    rd (frNoMains s) .FR_STATUS_NO_MAINS = 1 ∧ (frNoMains s).sup.target = 1000 := by
  have heq : frNoMains s = wr0 { s with sup := { s.sup with target := 1000 } } .FR_STATUS_NO_MAINS 1 := if_pos (by simpa using h)
  rw [heq]
  exact ⟨rd_wr_self _ _ _ _, rfl⟩

/-- An entry waits to fire late and without the mains, since instant `m`. -/
def DueNoMains (n m : Nat) (s : State) : Prop :=
  s.time.mst = m ∧ ∃ u : Due, s.time.due.get n = some u ∧ u.late = true ∧ u.noMains = true ∧ u.at_ = m

theorem markDue_mst (s : State) (n : Nat) (late noMains : Bool) (at_ : Nat) : (markDue s n late noMains at_).time.mst = s.time.mst := by
  unfold markDue
  split <;> rfl

theorem markDue_due_of_ne (s : State) {n k : Nat} (late noMains : Bool) (at_ : Nat) (h : k ≠ n) :
    (markDue s n late noMains at_).time.due.get k = s.time.due.get k := by
  unfold markDue
  split
  · rfl
  · exact (SMap.get_put _ _ _ _).trans (if_neg h)

theorem markDue_due_of_some {s : State} {n k : Nat} {u : Due} (late noMains : Bool) (at_ : Nat) (h : s.time.due.get k = some u) :
    (markDue s n late noMains at_).time.due.get k = some u := by
  by_cases hk : k = n
  · subst hk
    rw [markDue, if_pos (by simp [h]), h]
  · rw [markDue_due_of_ne s late noMains at_ hk, h]

theorem DueNoMains.markDue {n m : Nat} {s : State} (h : DueNoMains n m s) (k : Nat) (late noMains : Bool) (at_ : Nat) :
    DueNoMains n m (markDue s k late noMains at_) := by
  obtain ⟨hmst, u, hget, hu⟩ := h
  exact ⟨(markDue_mst ..).trans hmst, u, markDue_due_of_some late noMains at_ hget, hu⟩

theorem dueNoMains_markDue {n : Nat} {s : State} (h : s.time.due.get n = none) : DueNoMains n s.time.mst (markDue s n true true s.time.mst) := by
  rw [markDue, if_neg (by simp [h])]
  exact ⟨rfl, _, SMap.get_put_self _ _ _, rfl, rfl, rfl⟩

/-- Each entry that is named falls due, in the instant at hand. -/
theorem dueNoMains_each {n : Nat} (l : List (Nat × Nat)) {s : State} (hn : ∃ b, (n, b) ∈ l) (h : s.time.due.get n = none) :
    DueNoMains n s.time.mst (each l (fun s e => markDue s e.1 true true s.time.mst) s) := by
  induction l generalizing s with
  | nil => simp at hn
  | cons e l ih =>
    by_cases he : n = e.1
    · subst he
      exact each_keeps (P := DueNoMains e.1 s.time.mst) l _ (fun t k _ ht => ht.markDue ..) _ (dueNoMains_markDue h)
    · have hl : ∃ b, (n, b) ∈ l := by
        obtain ⟨b, hb⟩ := hn
        exact ⟨b, (List.mem_cons.1 hb).resolve_left fun hb => he (congrArg Prod.fst hb)⟩
      have hstep := ih hl ((markDue_due_of_ne s true true s.time.mst he).trans h)
      rwa [markDue_mst] at hstep

/-- The state in which the flywheel's two seconds are over. -/
def flywheelOver (s : State) : State :=
  wr0 (wr0 { s with time := { s.time with lossAt := none, phaseErr := 0 } } .MAINS_STATUS_FLYWHEEL 0) .MAINS_STATUS_VALID 0

theorem execFlywheelExpiry_of_over {s : State} {at_ : Nat} (hloss : s.time.lossAt = some at_) (hfly : flag s .MAINS_STATUS_FLYWHEEL = true)
    (hnow : at_ + 2000000000 ≤ s.now) : execFlywheelExpiry s = .next (dueNoMains (frNoMains (flywheelOver s))) := by
  unfold execFlywheelExpiry
  rw [hloss]
  exact congrArg Host.Outcome.next (if_pos (by simp [hfly, hnow]))

theorem flywheelOver_frame (s : State) : FldFrame s (flywheelOver s) [.MAINS_STATUS_FLYWHEEL, .MAINS_STATUS_VALID] :=
  ((FldFrame.of_flds rfl).wr _ _ (.inl (by decide))).wr _ _ (.inl (by decide))

theorem rd_flywheelOver (s : State) : rd (flywheelOver s) .MAINS_STATUS_FLYWHEEL = 0 ∧ rd (flywheelOver s) .MAINS_STATUS_VALID = 0 :=
  ⟨(rd_wr_fld _ _ _ _ (by decide)).trans (rd_wr_self _ _ _ _), rd_wr_self _ _ _ _⟩

/-- The entries of KIND 1 that wait fall due; nothing but their falling due changes. -/
theorem dueNoMains_spec (s : State) :
    (∃ due skip, dueNoMains s = { s with time := { s.time with due := due, skip := skip } }) ∧
      ∀ n b, s.time.basis.get n = some b → rd s .MT_CTRL_KIND n = 1 → s.time.due.get n = none → DueNoMains n s.time.mst (dueNoMains s) :=
  ⟨each_markDue _ true true (fun s _ => s.time.mst) s, fun n b hb hkind hdue =>
    dueNoMains_each _ ⟨b, List.mem_filter.2 ⟨SMap.mem_of_get hb, by simp [hkind]⟩⟩ hdue⟩

theorem flywheelExpiry_of_over {s : State} {at_ : Nat} (hloss : s.time.lossAt = some at_) (hfly : flag s .MAINS_STATUS_FLYWHEEL = true)
    (hnow : at_ + 2000000000 ≤ s.now) :
    Does .flywheelExpiry s (fun t => rd t .MAINS_STATUS_FLYWHEEL = 0 ∧ rd t .MAINS_STATUS_VALID = 0 ∧
      (rd s .FR_CTRL_MODE = 1 ∨ rd s .FR_CTRL_MODE = 2 → rd t .FR_STATUS_NO_MAINS = 1 ∧ t.sup.target = 1000) ∧
      (∀ n b, s.time.basis.get n = some b → rd s .MT_CTRL_KIND n = 1 → s.time.due.get n = none →
        ∃ u : Due, t.time.due.get n = some u ∧ u.late = true ∧ u.noMains = true ∧ u.at_ = s.time.mst) ∧
      FldFrame s t [.MAINS_STATUS_FLYWHEEL, .MAINS_STATUS_VALID, .FR_STATUS_NO_MAINS] ∧ t.mem = s.mem) := by
  have hover := flywheelOver_frame s
  obtain ⟨hflyOff, hvalidOff⟩ := rd_flywheelOver s
  have hmoves := frNoMains_moves (flywheelOver s)
  have hkeep : ∀ g, g ≠ .FR_STATUS_NO_MAINS → rd (frNoMains (flywheelOver s)) g = rd (flywheelOver s) g := fun g hg =>
    hmoves.flds g 0 (by simpa using hg) (by simp)
  obtain ⟨⟨due, skip, heq⟩, hdue⟩ := dueNoMains_spec (frNoMains (flywheelOver s))
  have hframe : FldFrame s (frNoMains (flywheelOver s)) [.MAINS_STATUS_FLYWHEEL, .MAINS_STATUS_VALID, .FR_STATUS_NO_MAINS] :=
    (hover.mono (by decide) (by simp)).trans (hmoves.flds.mono (by decide) (by simp))
  have hmst : (frNoMains (flywheelOver s)).time.mst = s.time.mst := by rw [hmoves.time]; rfl
  refine ⟨_, execFlywheelExpiry_of_over hloss hfly hnow, ?_, ?_, fun hmode => ?_, fun n b hb hkind hnone => ?_, ?_, ?_⟩
  · rw [heq]
    exact (hkeep _ (by decide)).trans hflyOff
  · rw [heq]
    exact (hkeep _ (by decide)).trans hvalidOff
  · rw [heq]
    exact frNoMains_of_mode (s := flywheelOver s) (by rwa [hover _ _ (by decide) (by simp)])
  · obtain ⟨-, hu⟩ := hdue n b (by rw [hmoves.time]; exact hb) ((hframe _ _ (by decide) (by simp)).trans hkind) (by rw [hmoves.time]; exact hnone)
    rwa [hmst] at hu
  · rw [heq]
    exact hframe
  · rw [heq]
    exact hmoves.mem

/-! ### No crossing for 50 ms (R385) -/

theorem execMainsNoCrossing_of_missing {s : State} (hrun : mcRuns s = true) (hnow : s.time.lastCross + 50000000 ≤ s.now)
    (hopen : s.sup.open_.get 3 = none) :
    execMainsNoCrossing s = .next (pqClose (pqOpen { s with freeCtr := s.freeCtr + 1 } 3 (Config.freeNat s.freeCtr % 65536 : Nat)) 1) :=
  congrArg Host.Outcome.next (if_neg (by simp [hrun, hnow, hopen]))

theorem mainsNoCrossing_of_missing {s : State} (hrun : mcRuns s = true) (hnow : s.time.lastCross + 50000000 ≤ s.now)
    (hopen : s.sup.open_.get 3 = none) :
    Does .mainsNoCrossing s (fun t => (t.sup.open_.get 3).isSome = true ∧ t.sup.open_.get 1 = none ∧ FldFrame s t [] pqFlds ∧ t.mem = s.mem) := by
  refine ⟨_, execMainsNoCrossing_of_missing hrun hnow hopen, ?_⟩
  generalize ((Config.freeNat s.freeCtr % 65536 : Nat) : Int) = x
  have hmoves : Moves pqFlds { s with freeCtr := s.freeCtr + 1 } (pqClose (pqOpen { s with freeCtr := s.freeCtr + 1 } 3 x) 1) :=
    (pqOpen_moves _ 3 x).trans (pqClose_moves _ _ 1)
  refine ⟨?_, ?_, fun f i _ hf => hmoves.flds f i hf (by simp), hmoves.mem⟩
  · rw [pqClose_open, if_neg (by decide)]
    exact pqOpen_open _ 3 x
  · rw [pqClose_open, if_pos rfl]

/-! ### The summary (R387) -/

theorem execPqSummaryUpdate_of_hour {s : State} (hrun : diesRun s = true) (hdue : s.sup.sumAt + 3600000000000 ≤ s.boot.runNs) :
    execPqSummaryUpdate s = .next (saveSummary { s with sup := { s.sup with sumAt := s.boot.runNs } }) :=
  congrArg Host.Outcome.next (if_neg (by simp [hrun, hdue]))

theorem pqSummaryUpdate_of_hour {s : State} (hrun : diesRun s = true) (hdue : s.sup.sumAt + 3600000000000 ≤ s.boot.runNs) :
    Does .pqSummaryUpdate s (fun t => t.sup.flash = { (countShed s).sup.sum with mst := mstNow s } ∧ t.sup.sumAt = s.boot.runNs ∧
      t = { s with sup := t.sup }) := by
  refine ⟨_, execPqSummaryUpdate_of_hour hrun hdue, ?_⟩
  -- The time of a shed that counts is that of the shed's start alone.
  unfold saveSummary countShed
  cases h : s.sup.shedSince <;> exact ⟨rfl, rfl, rfl⟩

/-- Settles O36: each clause from what its instruction does with the hypotheses at hand. -/
theorem mainsMeasurement : Obligations.MainsMeasurement := by
  unfold Obligations.MainsMeasurement
  intro s
  refine ⟨?_, ?_, fun at_ hloss hfly hnow => ?_, mainsNoCrossing_of_missing, pqSummaryUpdate_of_hour⟩
  · intro d half cyc pos hrun hd hlock hvalid hmode f prev hlow hhigh hmax heven c hcap
    obtain ⟨t, hexec, hhalf, havg, hcurve, hcapPm, hcycles, hrest⟩ :=
      halfCycleEnd_of_locked half cyc pos hrun hd hlock hvalid hmode (f := f) rfl (prev := prev) rfl hlow hhigh hmax heven (c := c) rfl hcap
    exact ⟨t, hexec, hhalf, havg, hcurve, hcapPm, fun h => hcycles.trans (if_pos h), fun h => hcycles.trans (if_neg (by simp [h])), hrest⟩
  · intro hmhz hlock hmiss
    have hexec := execMainsLockLoss_of_missed hmhz hlock hmiss
    refine ⟨fun hfirst => ⟨_, hexec.trans (congrArg _ (if_neg (by omega))), hlock, congrArg (· + 1) hfirst, rfl, rfl⟩, fun hsecond => ?_⟩
    obtain ⟨hoff, hfly, hvalid, hloss, hframe, hmem⟩ := lockLost_spec (s := failedHalf s) hlock
    exact ⟨_, hexec.trans (congrArg _ (if_pos (by omega))), hoff, hfly, hvalid, hloss, hframe, hmem⟩
  · exact flywheelExpiry_of_over hloss hfly hnow

end Sys2Proof.Machine
end

section
/-! SUPPORT. Folds of writes, what an operand reads after a result is written (R103), and what a fault halts (R94, R95). -/

namespace Sys2Proof.Machine

/-! ### Reading after a fold of writes -/

section
variable {σ α β : Type} {f : σ → α → σ} {read : σ → β} {hit : α → Prop} {l : List α}

/-- Writes that all miss a place leave what is read there. -/
theorem foldl_read_of_miss (hmiss : ∀ s, ∀ a ∈ l, read (f s a) = read s) (s : σ) : read (l.foldl f s) = read s := by
  induction l generalizing s with
  | nil => rfl
  | cons a t ih =>
    rw [List.foldl_cons, ih (fun s b hb => hmiss s b (List.mem_cons_of_mem a hb)), hmiss s a List.mem_cons_self]

/-- Where some write hits a place, and each that hits it puts the same there, that is what is read in the end. -/
theorem foldl_read_of_hit {v : β} (hhit : ∀ s, ∀ a ∈ l, hit a → read (f s a) = v) (hmiss : ∀ s, ∀ a ∈ l, ¬hit a → read (f s a) = read s)
    (hex : ∃ a ∈ l, hit a) (s : σ) : read (l.foldl f s) = v := by
  have key : ∀ s, (read s = v ∨ ∃ a ∈ l, hit a) → read (l.foldl f s) = v := by
    clear hex
    induction l with
    | nil => simp
    | cons a t ih =>
      intro s hs
      refine ih (fun s b hb => hhit s b (List.mem_cons_of_mem a hb)) (fun s b hb => hmiss s b (List.mem_cons_of_mem a hb)) (f s a) ?_
      by_cases ha : hit a
      · exact .inl (hhit s a List.mem_cons_self ha)
      · rw [hmiss s a List.mem_cons_self ha]
        refine hs.imp id ?_
        rintro ⟨b, hb, hbhit⟩
        rcases List.mem_cons.1 hb with rfl | hb
        · exact absurd hbhit ha
        · exact ⟨b, hb, hbhit⟩
  exact key s (.inr hex)

end

/-! ### Operands after a result (R103) -/

/-- An operand reads the registers alone. -/
theorem SameRegs.opnd {x y : Group} (h : SameRegs x y) (sc : Bool) (w : Nat) (c : BitVec 8) (k : Nat) : y.opnd sc w c k = x.opnd sc w c k := by
  obtain ⟨hxs, hus, hpreds, -⟩ := h
  simp only [Group.opnd, Group.xreg, Group.ureg, Group.pmask, hxs, hus, hpreds]

/-- An extended value is the narrow one in its low bits. -/
theorem extend_mod {w : Nat} (hw : w ≤ 64) (sx : Bool) (v : Nat) : extend w sx v % 2 ^ 64 % 2 ^ w = v % 2 ^ w := by
  have hdvd : 2 ^ w ∣ 2 ^ 64 := Nat.pow_dvd_pow 2 hw
  have hsext : sext w (v % 2 ^ w) % 2 ^ w = (v : Int) % 2 ^ w := by
    unfold sext
    split <;> simp
  have hwrap : ((wrap 64 (sext w (v % 2 ^ w)) : Nat) : Int) = sext w (v % 2 ^ w) % 2 ^ 64 :=
    Int.toNat_of_nonneg (Int.emod_nonneg _ (by decide))
  rw [Nat.mod_mod_of_dvd _ hdvd]
  unfold extend
  split
  · zify
    rw [hwrap, Int.emod_emod_of_dvd _ (by exact_mod_cast hdvd), hsext]
  · exact Nat.mod_mod _ _

/-- The register that a fold over threads has written for one of them. -/
theorem xreg_foldl {f : Group → Nat → Group} {q u n : Nat} {l : List Nat} (hu : u ∈ l) (hself : ∀ x, (f x u).xreg q u = n)
    (hother : ∀ x, ∀ t ∈ l, t ≠ u → (f x t).xreg q u = x.xreg q u) (x : Group) : (l.foldl f x).xreg q u = n :=
  foldl_read_of_hit (read := fun x => x.xreg q u) (hit := fun t => t = u) (fun y _ _ h => h ▸ hself y) hother ⟨u, hu, rfl⟩ x

/-- A result in X registers, as an executing thread reads it. -/
theorem opnd_putRes_x {w : Nat} (hw : w ≤ 32 ∨ w = 64) (x : Group) (sc sx : Bool) {d : BitVec 8} (hd : d.toNat < 0x80) (m : W32) (f : Nat → Nat) {k : Nat}
    (hk : k ∈ threads m) : (x.putRes sc w sx d m f).opnd sc w d k = f k % 2 ^ w := by
  have hlt : ∀ {t}, t ∈ threads m → t < 32 := fun h => (mem_threads.1 h).1
  have hw64 : w ≤ 64 := by omega
  simp only [Group.opnd, Group.putRes, if_pos hd]
  cases sc with
  | true =>
    simp only [if_true]
    rw [xreg_foldl (n := extend w sx (f k) % 2 ^ 64) hk (fun y => by simp [Group.xreg_setX, hlt hk])
      (fun y t ht hne => by simp [Group.xreg_setX, hlt hk, hlt ht, Ne.symm hne])]
    exact extend_mod hw64 sx (f k)
  | false =>
    simp only [Bool.false_eq_true, if_false]
    split
    · next hle =>
      rw [xreg_foldl (n := f k % 2 ^ 32) hk (fun y => by simp [Group.xreg_setX, hlt hk])
        (fun y t ht hne => by simp [Group.xreg_setX, hlt hk, hlt ht, Ne.symm hne])]
      exact Nat.mod_mod_of_dvd _ (Nat.pow_dvd_pow 2 hle)
    · next hgt =>
      obtain rfl : w = 64 := by omega
      rw [xreg_foldl (q := d.toNat) (n := f k % 2 ^ 32) hk (fun y => by simp [Group.xreg_setX, hlt hk])
          (fun y t ht hne => by simp [Group.xreg_setX, hlt hk, hlt ht, Ne.symm hne]),
        xreg_foldl (q := d.toNat + 1) (n := f k / 2 ^ 32 % 2 ^ 32) hk (fun y => by simp [Group.xreg_setX, hlt hk])
          (fun y t ht hne => by simp [Group.xreg_setX, hlt hk, hlt ht, Ne.symm hne])]
      omega

/-- A result in a U register is the lowest executing thread's. -/
theorem opnd_putRes_u {w : Nat} (hw : w ≤ 64) (x : Group) (sc sx : Bool) {d : BitVec 8} (hd : 0x80 ≤ d.toNat) (hd' : d.toNat < 0xC0) (m : W32) (f : Nat → Nat)
    {k : Nat} (hk : (threads m).head? = some k) (j : Nat) : (x.putRes sc w sx d m f).opnd sc w d j = f k % 2 ^ w := by
  obtain ⟨l, hl⟩ : ∃ l, threads m = k :: l := List.head?_eq_some_iff.1 hk
  simp only [Group.opnd, Group.putRes, if_neg (Nat.not_lt.2 hd), if_pos hd', hl, Group.ureg, Group.setU, SMap.getD_set_self]
  exact extend_mod hw sx (f k)

/-- Results that a group's registers take are what the destination then reads; the group may move on. -/
theorem resultIs_putRes {e : Env} {x : Group} {w : Nat} {sx : Bool} {d : BitVec 8} {f v : Nat → Nat} {ar : ArithReg} (hw : w ≤ 32 ∨ w = 64)
    (hv : ∀ k < 32, f k % 2 ^ w = v k) (hx : SameRegs { e.x.putRes e.sc w sx d e.ex f with arith := ar } x) : ResultIs e x w d v := by
  have hregs : ∀ k, x.opnd e.sc w d k = (e.x.putRes e.sc w sx d e.ex f).opnd e.sc w d k := hx.opnd e.sc w d
  refine ⟨fun hd k hlt hk => ?_, fun hd hd' k hk j => ?_, fun hd => ?_⟩
  · rw [hregs, opnd_putRes_x hw e.x e.sc sx hd e.ex f (mem_threads.2 ⟨hlt, hk⟩), hv k hlt]
  · obtain ⟨hlt, -⟩ := mem_threads.1 (List.mem_of_mem_head? hk)
    rw [hregs, opnd_putRes_u (by omega) e.x e.sc sx hd hd' e.ex f hk, hv k hlt]
  · subst hd
    obtain ⟨hxs, hus, hpreds, -⟩ := hx
    exact ⟨hxs, hus, hpreds, rfl⟩

/-! ### What a fault halts (R94, R95) -/

/-- The cores of a list are halted, and nothing else changes. -/
theorem getCore_each_halt (l : List Nat) (s : State) (c : Nat) :
    getCore (each l (fun s c => setCore s c { getCore s c with halted := true }) s) c =
      if c ∈ l then { getCore s c with halted := true } else getCore s c := by
  induction l generalizing s with
  | nil => rfl
  | cons a t ih =>
    rw [each_cons, ih, getCore_setCore]
    by_cases hc : c = a
    · subst hc; simp
    · simp [hc]

/-- A core that runs a context is listed with it. -/
theorem mem_cores_of_ctx {s : State} {c ctx : Nat} (h : (getCore s c).ctx = some ctx) : (c, getCore s c) ∈ s.cores := by
  unfold getCore SMap.getD at *
  cases hk : s.cores.get c with
  | none => rw [hk] at h; cases h
  | some k => exact SMap.mem_of_get hk

/-- A fault is sent, and a core that runs its context is halted; each core keeps the rest of what it has. -/
theorem raiseFault_spec (s : State) (f : FaultRec) :
    (raiseFault s f).sched.faults = s.sched.faults ++ [{ f with time := mstNow s }] ∧ (raiseFault s f).mem = s.mem ∧ (raiseFault s f).flds = s.flds ∧
      (∀ c, getCore (raiseFault s f) c = { getCore s c with halted := (getCore (raiseFault s f) c).halted }) ∧
      ((getCore s f.core).ctx = some f.ctx → (getCore (raiseFault s f) f.core).halted = true) := by
  unfold raiseFault
  extract_lets _ t
  have hkeep : ∀ l, let u := each l (fun s c => setCore s c { getCore s c with halted := true }) t
      u.sched = t.sched ∧ u.mem = t.mem ∧ u.flds = t.flds := fun l =>
    each_keeps (P := fun u => u.sched = t.sched ∧ u.mem = t.mem ∧ u.flds = t.flds) l
      (fun s c => setCore s c { getCore s c with halted := true }) (fun _ _ _ h => h) t ⟨rfl, rfl, rfl⟩
  obtain ⟨hsched, hmem, hflds⟩ := hkeep ((t.cores.filter (fun e => e.1 = f.core && e.2.ctx = some f.ctx)).map (·.1))
  refine ⟨by rw [hsched], hmem, hflds, fun c => ?_, fun hctx => ?_⟩
  · rw [getCore_each_halt]
    split <;> rfl
  · rw [getCore_each_halt, if_pos]
    refine List.mem_map.2 ⟨(f.core, getCore s f.core), List.mem_filter.2 ⟨mem_cores_of_ctx hctx, ?_⟩, rfl⟩
    simp [hctx]

theorem env?_ctx {s : State} {g : Grp} {pr : BitVec 3} {pn : Bool} {e : Env} (h : env? s g pr pn = some e) : (getCore s e.g.core).ctx = some e.ctx := by
  unfold env? at h
  dsimp only at h
  split at h
  · next hctx _ =>
    split at h
    · split at h
      · cases h
      · cases h; exact hctx
    · cases h
  · cases h

/-- A fault of the running path of a group that issues: its record, the halt, and registers as they were. -/
theorem groupFault_faulted {s : State} {g : Grp} {pr : BitVec 3} {pn : Bool} {e : Env} (he : env? s g pr pn = some e) (code detail : Nat) (insn addr : Option Nat) :
    Faulted s (groupFault s g code detail insn addr) e code detail := by
  obtain ⟨rfl, -, hx, hp⟩ := env?_some he
  have hctx : (getCore s e.g.core).ctx = some e.ctx := env?_ctx he
  have hfault : groupFault s e.g code detail insn addr = raiseFault s
      { ctx := e.ctx, code := code, detail := detail, core := e.g.core, pipe := e.g.pipe, slot := e.g.slot, group := true,
        score := coreType e.g.core = 3, active := e.p.mask, pc := e.p.pc, insn := insn.getD 0, addr := addr } := by
    simp only [groupFault, hx, hp, pathFault, hctx, Option.getD_some]
  rw [hfault]
  obtain ⟨hfaults, hmem, hflds, hcores, hhalt⟩ := raiseFault_spec s
      { ctx := e.ctx, code := code, detail := detail, core := e.g.core, pipe := e.g.pipe, slot := e.g.slot, group := true,
        score := coreType e.g.core = 3, active := e.p.mask, pc := e.p.pc, insn := insn.getD 0, addr := addr }
  refine ⟨_, hfaults, rfl, rfl, rfl, rfl, rfl, hhalt hctx, hmem, hflds, e.x, ?_, .refl _⟩
  rw [getGroup, hcores]
  exact hx

end Sys2Proof.Machine
end

section
/-! SUPPORT. The signal word of a group that goes on, SRD and SWR (R66, R76, R121); and O16. -/

namespace Sys2Proof.Machine

/-! ### The signal word while a path moves -/

theorem settle_signal (n : Nat) (x : Group) : (settle n x).signal = x.signal := by
  induction n generalizing x with
  | zero => rfl
  | succ n ih =>
    unfold settle
    split
    · rfl
    · rw [ih]
      split
      · rfl
      · split
        · rfl
        · split <;> rfl

theorem choose_signal (x : Group) (last : Nat) (prefer : Option Nat) : (choose x last prefer).signal = x.signal := by
  unfold choose
  split
  · rfl
  · dsimp only
    split
    · rfl
    · split <;> rfl

theorem parkRun_signal (x : Group) (cyc : Nat) : (parkRun x cyc).signal = x.signal := by
  unfold parkRun
  split
  · rfl
  · split
    · split
      · exact (choose_signal _ _ _).trans (settle_signal _ _)
      · rfl
    · rfl

theorem leaveRegion_signal (x : Group) (m : W32) : (leaveRegion x m).1.signal = x.signal := by
  unfold leaveRegion
  split
  · rfl
  · dsimp only
    split
    · rfl
    · split <;> rfl

theorem moveTo_signal (x : Group) (pc : W64) (taken : Bool) (cyc : Nat) : (moveTo x pc taken cyc).1.signal = x.signal := by
  have hcheck : ∀ y : Group, (regionCheck y taken).1.signal = y.signal := fun y => by
    unfold regionCheck
    split
    · split
      · exact leaveRegion_signal _ _
      · rfl
    · rfl
  unfold moveTo
  split
  · rfl
  · exact (parkRun_signal _ _).trans (hcheck _)

/-- What `finish` stores is what the group then is, whether it faults or not. -/
theorem getGroup_finish (s : State) (g : Grp) (r : Group × Option (Nat × Nat)) : getGroup (finish s g r) g = some r.1 := by
  obtain ⟨-, -, hcores⟩ := finish_keepsWork s g r
  obtain ⟨hgroups, -⟩ := hcores g.core
  rw [getGroup, hgroups]
  exact getGroup_setGroup_self s g r.1

/-- A path that goes on leaves its group with the registers and the signal word that it is given. -/
theorem advance_group (s : State) (g : Grp) (x : Group) (len : Nat) :
    ∃ y, getGroup (advance s g x len) g = some y ∧ SameRegs x y ∧ y.signal = x.signal := by
  unfold advance
  split
  · exact ⟨x, getGroup_setGroup_self s g x, .refl x, rfl⟩
  · refine ⟨_, getGroup_finish s g _, ?_, moveTo_signal _ _ _ _⟩
    exact .trans ⟨rfl, rfl, rfl, rfl⟩ (moveTo_sameRegs (countIssue x) _ _ _)

/-! ### Special registers (R66, R76, R121) -/

/-- An instruction that writes results and goes on: its destination reads the results, and memory stays. -/
theorem putAdvance_resultIs {s : State} {e : Env} {w : Nat} {sx : Bool} {d : BitVec 8} {f v : Nat → Nat} (fl : Flg) (len : Nat) (hw : w ≤ 32 ∨ w = 64)
    (hv : ∀ k < 32, f k % 2 ^ w = v k) :
    (putAdvance s e w sx d f fl len).mem = s.mem ∧ ∃ x, getGroup (putAdvance s e w sx d f fl len) e.g = some x ∧ ResultIs e x w d v := by
  obtain ⟨⟨x, hx, hregs⟩, hmem, -⟩ := advance_keeps s e.g
    { e.x.putRes e.sc w sx d e.ex f with arith := (e.x.putRes e.sc w sx d e.ex f).arith.raise fl } len
  exact ⟨hmem, x, hx, resultIs_putRes hw hv hregs⟩

/-- SRD of a number that is there gives each thread that register's content. -/
theorem execSrd_reads {s : State} {g : Grp} {f : IForm} {e : Env} {n w : Nat} {v : Nat → Nat} (hn : f.imm.toNat = n) (hw : specW n = w) (hpos : w ≠ 0)
    (hcan : CanIssue s g f.pr f.pn e (iOps f (if w = 64 then .wr else .r) .z)) (hv : ∀ k < 32, specVal s e n k % 2 ^ w = v k) :
    Does (.srd g f) s (fun t => t.mem = s.mem ∧ ∃ x : Group, getGroup t g = some x ∧ ResultIs e x w f.d v) := by
  subst hn hw
  have hwidth : specW f.imm.toNat ≤ 32 ∨ specW f.imm.toNat = 64 := by
    unfold specW
    split
    · exact .inr rfl
    · split <;> exact .inl (by decide)
  have hfield : ∀ p ∈ [(32, decide (specW f.imm.toNat ≠ 0))], p.2 = true := by simpa using hpos
  obtain ⟨rfl, -⟩ := env?_some hcan.1
  refine ⟨_, rfl, issue_of_canIssue
    (P := fun t => t.mem = s.mem ∧ ∃ x : Group, getGroup t e.g = some x ∧ ResultIs e x (specW f.imm.toNat) f.d v) hcan rfl rfl hfield fun e' he => ?_⟩
  rw [he]
  exact putAdvance_resultIs (e := { e with insn := e'.insn }) 0 8 hwidth hv

/-- Fields of which one is not allowed, all else legal: a reserved encoding that names the field (R125). -/
theorem decodeCheck_field {ct n : Nat} {pr : BitVec 3} {pn : Bool} {ops : List OField} (lo : Nat) (hg : ¬(pr = 0 ∧ pn = true))
    (ho : ∀ o ∈ ops, o.ok (decide (ct = 3)) = true) : decodeCheck ct n true pr pn false ops [(lo, false)] = some (0x0102, lo) := by
  have hops : ops.filter (fun o => !o.ok (decide (ct = 3))) = [] := by
    simp only [List.filter_eq_nil_iff]
    intro o h
    simp [ho o h]
  have hguard : (!(decide (pr = 0) && pn)) = true := by simpa [imp_iff_not_or] using hg
  simp only [decodeCheck, hops, hguard]
  rfl

/-- SRD of a number that is not there faults (R121, R125). -/
theorem execSrd_reserved {s : State} {g : Grp} {f : IForm} {e : Env} (hcan : CanIssue s g f.pr f.pn e (iOps f .r .z)) (hn : 9 ≤ f.imm.toNat) :
    Does (.srd g f) s (fun t => Faulted s t e 0x0102 32) := by
  obtain ⟨he, hguard, hops, -⟩ := hcan
  have hw : specW f.imm.toNat = 0 := by simp [specW, show ¬f.imm.toNat ≤ 2 by omega, show ¬f.imm.toNat ≤ 8 by omega]
  have hcheck := decodeCheck_field (ct := e.ct) (n := e.x.n) (ops := iOps f .r .z) 32 hguard (fun o ho => (hops o ho).1)
  refine ⟨groupFault s g 0x0102 32 (some (insnWord f.pr f.pn 1 0x1C0 f.d f.a)) none, ?_, groupFault_faulted he _ _ _ _⟩
  refine congrArg Host.Outcome.next ?_
  simp only [iOps] at hcheck
  simp [issue, he, hw, hcheck]

/-- SWR by an executing thread gives the group the register it names, and its path goes on. -/
theorem execSwr_writes {s : State} {g : Grp} {f : IForm} {e : Env} {x : Group}
    (hcan : CanIssue s g f.pr f.pn e (iOps f .z (if specW f.imm.toNat = 64 then .w else .r))) (hex : e.ex ≠ 0)
    (hn : f.imm.toNat = 1 ∧ x = { e.x with arith := e.x.arith.write (e.x.opnd e.sc 64 f.a (lowest e.ex)) } ∨
      f.imm.toNat = 8 ∧ e.ct = 3 ∧ x = { e.x with signal := BitVec.ofNat 32 (e.x.opnd e.sc 32 f.a (lowest e.ex)) }) :
    Does (.swr g f) s (fun t => ∃ y, getGroup t g = some y ∧ SameRegs x y ∧ y.signal = x.signal) := by
  have hfield : ∀ p ∈ [(32, f.imm.toNat = 1 || (f.imm.toNat = 8 && decide (e.ct = 3)))], p.2 = true := by
    rcases hn with ⟨h1, -⟩ | ⟨h8, hct, -⟩ <;> simp [*]
  refine ⟨_, rfl, issue_of_canIssue (P := fun t => ∃ y, getGroup t g = some y ∧ SameRegs x y ∧ y.signal = x.signal) hcan rfl rfl hfield fun e' he => ?_⟩
  rw [he]
  obtain ⟨h1, rfl⟩ | ⟨h8, -, rfl⟩ := hn
  · rw [if_neg hex, if_pos h1, h1]
    exact advance_group s g _ 8
  · rw [if_neg hex, if_neg (by rw [h8]; decide), h8]
    exact advance_group s g _ 8

theorem gstat_mod (e : Env) : gstat e % 2 ^ 64 = (e.g.slot + 16 * e.g.pipe + 256 * e.g.core + 2 ^ 18 * (if e.sc then 0 else e.x.entries.length) +
    2 ^ 23 * ((allPaths e.x).any (·.yielding)).toNat + 2 ^ 32 * e.p.mask.toNat) % 2 ^ 64 := by
  simp only [gstat, Group.depth, Nat.mul_comm]

theorem ite_zero_lt {c : Prop} [Decidable c] {a n : Nat} (h : a < n) : (if c then a else 0) < n := by
  split
  · exact h
  · exact Nat.zero_lt_of_lt h

theorem specVal_thread_lt (s : State) (e : Env) {k : Nat} (hk : k < 32) : specVal s e 4 k < 2 ^ 32 := by
  change (if e.sc then 0 else k) < 2 ^ 32
  split <;> omega

theorem mstNow_lt (s : State) : mstNow s < 2 ^ 64 := Nat.mod_lt _ (Nat.two_pow_pos 64)

theorem mainsAngle_lt (s : State) : mainsAngle s < 2 ^ 32 := by
  unfold mainsAngle
  exact Nat.mod_lt _ (Nat.two_pow_pos 32)

/-- Number 3 is the mains angle, by cases on the number: at the numeral itself the kernel would set out to evaluate the angle's division. -/
theorem specVal_of_eq_three (s : State) (e : Env) (k : Nat) {n : Nat} (hn : n = 3) : specVal s e n k = mainsAngle s := by
  unfold specVal
  split <;> simp_all

theorem rampLane_lt (s : State) (c : Nat) : rampLane s c < 2 ^ 32 :=
  lt_of_le_of_lt (Nat.mod_le _ _) (lt_trans (Nat.mod_lt _ (by decide)) (by decide : 16 < 2 ^ 32))

theorem arith_toWord_mod (a : ArithReg) : a.toWord % 2 ^ 64 = a.rm.toNat + 8 * a.sat.toNat + 256 * a.flags.toNat := by
  have hrm := a.rm.isLt
  have hsat := Bool.toNat_le a.sat
  have hflags := a.flags.isLt
  rw [ArithReg.toWord, Nat.mod_eq_of_lt (by omega)]
  ring

theorem arith_write_rm (a : ArithReg) (v : Nat) : (a.write v).rm = if v % 8 < 6 then BitVec.ofNat 3 v else a.rm := by
  have hcut : BitVec.ofNat 3 (v % 8) = BitVec.ofNat 3 v := by simp [← BitVec.toNat_inj]
  simp only [ArithReg.write, hcut]
  split
  · rw [if_neg (by omega)]
  · rw [if_pos (by omega)]

/-- Settles O16: what SRD gives is the content of the register, which its own width holds, and what SWR gives stays as the path goes on. -/
theorem specialRegisters : Obligations.SpecialRegisters := by
  unfold Obligations.SpecialRegisters
  intro s g f e
  refine ⟨fun p hp himm hcan => ?_, fun hcan himm hex => ?_, fun hcan hct himm hex => ?_, execSrd_reserved⟩
  · obtain ⟨rfl, -⟩ := env?_some hcan.1
    simp only [List.mem_cons, List.not_mem_nil, or_false] at hp
    rcases hp with rfl | rfl | rfl | rfl | rfl | rfl | rfl | rfl | rfl
    all_goals dsimp only at himm hcan ⊢
    · exact execSrd_reads (n := 0) (congrArg BitVec.toNat himm) rfl (by decide) hcan fun _ _ => gstat_mod e
    · exact execSrd_reads (n := 5) (congrArg BitVec.toNat himm) rfl (by decide) hcan fun _ _ => rfl
    · exact execSrd_reads (n := 7) (congrArg BitVec.toNat himm) rfl (by decide) hcan fun _ _ => Nat.mod_eq_of_lt (ite_zero_lt (rampLane_lt s _))
    · exact execSrd_reads (n := 2) (congrArg BitVec.toNat himm) rfl (by decide) hcan fun _ _ => Nat.mod_eq_of_lt (mstNow_lt s)
    · exact execSrd_reads (n := 3) (congrArg BitVec.toNat himm) rfl (by decide) hcan fun k _ => by
        rw [specVal_of_eq_three s e k rfl, Nat.mod_eq_of_lt (mainsAngle_lt s)]
    · exact execSrd_reads (n := 4) (congrArg BitVec.toNat himm) rfl (by decide) hcan fun k hk => Nat.mod_eq_of_lt (specVal_thread_lt s e hk)
    · exact execSrd_reads (n := 6) (congrArg BitVec.toNat himm) rfl (by decide) hcan fun _ _ => rfl
    · exact execSrd_reads (n := 8) (congrArg BitVec.toNat himm) rfl (by decide) hcan fun _ _ => Nat.mod_eq_of_lt (ite_zero_lt e.x.signal.isLt)
    · exact execSrd_reads (n := 1) (congrArg BitVec.toNat himm) rfl (by decide) hcan fun _ _ => arith_toWord_mod e.x.arith
  · have hn : f.imm.toNat = 1 := congrArg BitVec.toNat himm
    obtain ⟨t, hexec, y, hy, hregs, -⟩ := execSwr_writes (by rw [hn]; exact hcan) hex (.inl ⟨hn, rfl⟩)
    obtain ⟨hxs, hus, hpreds, harith⟩ := hregs
    refine ⟨t, hexec, y, hy, ?_, ?_, ?_, hxs, hus, hpreds⟩
    · rw [harith]
      exact arith_write_rm _ _
    · rw [harith]
      rfl
    · rw [harith]
      rfl
  · have hn : f.imm.toNat = 8 := congrArg BitVec.toNat himm
    exact execSwr_writes (x := { e.x with signal := _ }) (by rw [hn]; exact hcan) hex (.inr ⟨hn, hct, rfl⟩)

end Sys2Proof.Machine
end

section
/-! SUPPORT. What the waits that the end of a matrix command wakes leave alone (R119, R133): memory, the engines, and the registers of every group. -/

namespace Sys2Proof.Machine

/-- Memory and the engines are as before, and every group there was has its registers. -/
structure KeepsEngines (s t : State) : Prop where
  mem : t.mem = s.mem
  engines : ∀ c, (getCore t c).engines = (getCore s c).engines
  groups : ∀ g x, getGroup s g = some x → ∃ y, getGroup t g = some y ∧ SameRegs x y

theorem SameRegs.symm {x y : Group} (h : SameRegs x y) : SameRegs y x := by
  obtain ⟨hxs, hus, hpreds, harith⟩ := h
  exact ⟨hxs.symm, hus.symm, hpreds.symm, harith.symm⟩

namespace KeepsEngines

variable {s t u : State}

theorem of_cores (hmem : t.mem = s.mem) (hcores : t.cores = s.cores) : KeepsEngines s t :=
  have hcore : ∀ c, getCore t c = getCore s c := fun c => by rw [getCore, hcores, getCore]
  ⟨hmem, fun c => by rw [hcore], fun g x hx => ⟨x, by rw [getGroup, hcore]; exact hx, .refl x⟩⟩

theorem refl (s : State) : KeepsEngines s s := .of_cores rfl rfl

theorem trans (h : KeepsEngines s t) (k : KeepsEngines t u) : KeepsEngines s u := by
  refine ⟨k.mem.trans h.mem, fun c => (k.engines c).trans (h.engines c), fun g x hx => ?_⟩
  obtain ⟨y, hy, hxy⟩ := h.groups g x hx
  obtain ⟨z, hz, hyz⟩ := k.groups g y hy
  exact ⟨z, hz, hxy.trans hyz⟩

/-- A change of a core that leaves its engines and groups. -/
theorem setCore {c : Nat} {k : Core} (hengines : k.engines = (getCore s c).engines) (hgroups : k.groups = (getCore s c).groups) :
    KeepsEngines s (setCore s c k) := by
  refine ⟨rfl, fun d => ?_, fun g x hx => ⟨x, ?_, .refl x⟩⟩
  · rw [getCore_setCore]
    split
    · next h => rw [h, hengines]
    · rfl
  · rw [getGroup, getCore_setCore]
    split
    · next h => rw [hgroups, ← h]; exact hx
    · exact hx

/-- A change of a group that leaves its registers. -/
theorem setGroup {g : Grp} {x y : Group} (hx : getGroup s g = some x) (hxy : SameRegs x y) : KeepsEngines s (setGroup s g y) := by
  refine ⟨rfl, fun c => ?_, fun h z hz => ?_⟩
  · rw [Machine.setGroup, getCore_setCore]
    split
    · next h => rw [h]
    · rfl
  · by_cases hcore : h.core = g.core
    · by_cases hkey : gkey h = gkey g
      · have hsame : ∀ u : State, getGroup u h = getGroup u g := fun u => by rw [getGroup, hcore, hkey, getGroup]
        rw [hsame, hx] at hz
        cases hz
        exact ⟨y, by rw [hsame]; exact getGroup_setGroup_self s g y, hxy⟩
      · exact ⟨z, by rw [getGroup_setGroup_slot s y hkey]; exact hz, .refl z⟩
    · exact ⟨z, by rw [getGroup_setGroup_core s y hcore]; exact hz, .refl z⟩

end KeepsEngines

/-! ### Faults of a path -/

theorem raiseFault_keepsEngines (s : State) (f : FaultRec) : KeepsEngines s (raiseFault s f) := by
  obtain ⟨-, hmem, -, hcores, -⟩ := raiseFault_spec s f
  exact ⟨hmem, fun c => by rw [hcores], fun g x hx => ⟨x, by rw [getGroup, hcores]; exact hx, .refl x⟩⟩

theorem pathFault_keepsEngines (s : State) (g : Grp) (code detail : Nat) (insn addr : Option Nat) (m : W32) (pc : W64) :
    KeepsEngines s (pathFault s g code detail insn addr m pc) := by
  unfold pathFault
  split
  · exact raiseFault_keepsEngines s _
  · exact .refl s

theorem groupFault_keepsEngines (s : State) (g : Grp) (code detail : Nat) (insn addr : Option Nat) :
    KeepsEngines s (groupFault s g code detail insn addr) := by
  unfold groupFault
  split
  · exact pathFault_keepsEngines s _ _ _ _ _ _ _
  · exact .refl s

theorem finish_keepsEngines {s : State} {g : Grp} {x : Group} (hx : getGroup s g = some x) {r : Group × Option (Nat × Nat)} (hr : SameRegs x r.1) :
    KeepsEngines s (finish s g r) := by
  have hset : KeepsEngines s (setGroup s g r.1) := .setGroup hx hr
  unfold finish
  split
  · exact hset
  · exact hset.trans (pathFault_keepsEngines _ _ _ _ _ _ _ _)
  · exact hset.trans (groupFault_keepsEngines _ _ _ _ _ _)

/-! ### The end of a WAIT (R119) -/

theorem swapPath_sameRegs (x : Group) (p p' : Path) : SameRegs x (swapPath x p p') := by
  unfold swapPath
  split <;> exact ⟨rfl, rfl, rfl, rfl⟩

theorem parkOthers_sameRegs (x : Group) : SameRegs x (parkOthers x) := by
  have key : ∀ (l : List Path) (f : Group → Path → Group), (∀ y p, SameRegs y (f y p)) → ∀ y, SameRegs y (l.foldl f y) := by
    intro l f hf
    induction l with
    | nil => exact .refl
    | cons p l ih => exact fun y => (hf y p).trans (ih _)
  refine key _ _ (fun y p => ?_) x
  split
  · split
    · exact .trans ⟨rfl, rfl, rfl, rfl⟩ (settle_sameRegs _ _)
    · exact .refl y
  · exact .refl y

theorem startAdvance_keepsEngines (s : State) (ctx : Nat) : KeepsEngines s (startAdvance s ctx).1 := by
  unfold startAdvance
  split
  · exact .refl s
  · split
    · exact .refl s
    · exact .of_cores rfl rfl

/-- A path that goes on at the end of the open region leaves it (R143). -/
def leaveAtEnd (x : Group) (p : Path) : Group × Option (Nat × Nat) :=
  match x.region with
  | some r => if p.pc = r.stop then leaveRegion x p.mask else (x, none)
  | none => (x, none)

theorem leaveAtEnd_sameRegs (x : Group) (p : Path) : SameRegs x (leaveAtEnd x p).1 := by
  unfold leaveAtEnd
  split
  · split
    · exact leaveRegion_sameRegs _ _
    · exact .refl x
  · exact .refl x

theorem endWait_keepsEngines {s : State} {g : Grp} {x y : Group} (hx : getGroup s g = some x) (hy : SameRegs x y) (p : Path) (w : WaitRec) :
    KeepsEngines s (endWait s g y p w) := by
  have hadv : KeepsEngines s (if w.acq = 3 then startAdvance s ((getCore s g.core).ctx.getD 0) else (s, false)).1 := by
    split
    · exact startAdvance_keepsEngines s _
    · exact .refl s
  obtain ⟨z, hz, hxz⟩ := hadv.groups g x hx
  refine hadv.trans (finish_keepsEngines hz (.trans (hxz.symm.trans hy) ?_))
  have hswap : ∀ p' cyc, SameRegs y { swapPath y p p' with wpCyc := cyc } := fun p' _ => (swapPath_sameRegs y p p').trans ⟨rfl, rfl, rfl, rfl⟩
  refine .trans ?_ (choose_sameRegs _ _ _)
  refine .trans ?_ (parkRun_sameRegs _ _)
  refine .trans ?_ (settle_sameRegs _ _)
  refine .trans ?_ (parkOthers_sameRegs _)
  exact (hswap _ _).trans (leaveAtEnd_sameRegs _ _)

theorem setGate_keepsEngines (s : State) (c at_ : Nat) : KeepsEngines s (setGate s c at_) := by
  unfold setGate
  extract_lets k
  split
  · exact .refl s
  · exact .setCore rfl rfl

theorem waitHit_keepsEngines (s : State) (g : Grp) (p : Path) (w : WaitRec) (hit : W32) (rel : Nat) : KeepsEngines s (waitHit s g p w hit rel) := by
  unfold waitHit
  split
  · exact .refl s
  · next x hx =>
    split
    · exact .refl s
    · extract_lets w' p' y h t
      have hy : SameRegs x y := swapPath_sameRegs x p p'
      split
      · exact .setGroup hx hy
      · have ht : KeepsEngines s t := by
          unfold t
          split
          · exact setGate_keepsEngines s _ _
          · exact .refl s
        obtain ⟨z, hz, hxz⟩ := ht.groups g x hx
        have hzy : SameRegs z y := hxz.symm.trans hy
        split
        · exact ht.trans (endWait_keepsEngines hz hzy p' w')
        · exact ht.trans (.setGroup hz hzy)

theorem retest_keepsEngines (s : State) (g : Grp) : KeepsEngines s (retest s g) := by
  unfold retest testWaits
  split
  · exact .refl s
  · exact each_keeps (P := KeepsEngines s) _ _ (fun t _ _ ht => ht.trans (waitHit_keepsEngines t _ _ _ _ _)) s (.refl s)

/-! ### A command that is done (R67, R133, R344) -/

theorem toll_keepsEngines (s : State) (ctx k n : Nat) : KeepsEngines s (toll s ctx k n) := by
  unfold toll
  split
  · exact .refl s
  · exact .of_cores rfl rfl

/-- A command that is done leaves its engine's queue; memory stays, its engine keeps the rest, and groups keep their registers but for the flags. -/
theorem cmdDone_spec (s : State) (c eng ctx : Nat) (m : MCmd) :
    (cmdDone s c eng ctx m).mem = s.mem ∧
      getEng (getCore (cmdDone s c eng ctx m) c) eng =
        { getEng (getCore s c) eng with queue := (getEng (getCore s c) eng).queue.filter (fun q => q.id ≠ m.id) } ∧
      ∀ h x, getGroup s h = some x → ∃ y : Group, getGroup (cmdDone s c eng ctx m) h = some y ∧ y.xs = x.xs ∧ y.us = x.us ∧ y.preds = x.preds := by
  unfold cmdDone
  extract_lets k x k1 k2 t
  have hk2 : k2.engines = k1.engines ∧
      ∀ n z, k.groups.get n = some z → ∃ y : Group, k2.groups.get n = some y ∧ y.xs = z.xs ∧ y.us = z.us ∧ y.preds = z.preds := by
    unfold k2
    split
    · next y hy =>
      refine ⟨rfl, fun n z hz => ?_⟩
      rw [SMap.get_put]
      split
      · next hn =>
        obtain rfl : y = z := Option.some.inj (hy.symm.trans (hn ▸ hz))
        exact ⟨_, rfl, rfl, rfl, rfl⟩
      · exact ⟨z, hz, rfl, rfl, rfl⟩
    · exact ⟨rfl, fun n z hz => ⟨z, hz, rfl, rfl, rfl⟩⟩
  obtain ⟨hengines, hgroups⟩ := hk2
  have ht : KeepsEngines (setCore s c k2) (retest t { core := c, pipe := m.pipe, slot := m.slot }) :=
    (toll_keepsEngines _ _ _ _).trans (retest_keepsEngines t _)
  refine ⟨ht.mem, ?_, fun h z hz => ?_⟩
  · rw [getEng, ht.engines, getCore_setCore_self, hengines]
    exact SMap.getD_set_self _ _ _ _
  · obtain ⟨y, hy, hxs, hus, hpreds⟩ : ∃ y : Group, getGroup (setCore s c k2) h = some y ∧ y.xs = z.xs ∧ y.us = z.us ∧ y.preds = z.preds := by
      rw [getGroup, getCore_setCore]
      split
      · next hc => exact hgroups _ z (by rw [← hz, getGroup, hc])
      · exact ⟨z, hz, rfl, rfl, rfl⟩
    obtain ⟨w, hw, kxs, kus, kpreds, -⟩ := ht.groups h y hy
    exact ⟨w, hw, kxs.trans hxs, kus.trans hus, kpreds.trans hpreds⟩

end Sys2Proof.Machine
end

section
/-! SUPPORT. What a command of a matrix engine writes (R139, R140, R150): the granules of its rows, and what memory then reads. -/

namespace Sys2Proof.Machine

/-! ### Pieces of a row and granules (R150) -/

/-- A row puts a byte at an address. -/
def PutsAt (q : Nat × List Byte) (a : Nat) (b : Byte) : Prop := ∃ k, ∃ h : k < q.2.length, q.1 + k = a ∧ q.2[k] = b

/-- The pieces of a row, cut at 64-byte lines. -/
def rowPieces (q : Nat × List Byte) : Rows64 := (vaPieces q.1 q.2.length).map (fun p => (p.1, (q.2.drop (p.1 - q.1)).take p.2))

/-- A piece joins the granule of its line, or begins one. -/
def addPiece (a : List Rows64) (p : Nat × List Byte) : List Rows64 :=
  if a.any (fun g => (g.headD default).1 / 64 = p.1 / 64) then a.map (fun g => if (g.headD default).1 / 64 = p.1 / 64 then g ++ [p] else g) else a ++ [[p]]

theorem granules_eq (l : Rows64) : granules l = (l.flatMap rowPieces).foldl addPiece [] := rfl

theorem mem_vaPieces {va n : Nat} {p : Nat × Nat} :
    p ∈ vaPieces va n ↔ n ≠ 0 ∧ ∃ j ≤ (va + n - 1) / 64 - va / 64,
      p = (max va ((va / 64 + j) * 64), min (va + n) ((va / 64 + j + 1) * 64) - max va ((va / 64 + j) * 64)) := by
  unfold vaPieces
  split
  · next h => simp [h]
  · next h => simp [h, eq_comm]

/-- The pieces of a row put what the row puts. -/
theorem exists_rowPieces_putsAt {q : Nat × List Byte} {a : Nat} {b : Byte} : (∃ p ∈ rowPieces q, PutsAt p a b) ↔ PutsAt q a b := by
  obtain ⟨va, bs⟩ := q
  simp only [rowPieces, List.mem_map, PutsAt]
  constructor
  · rintro ⟨-, ⟨p, hp, rfl⟩, k, hk, rfl, rfl⟩
    obtain ⟨-, j, -, rfl⟩ := mem_vaPieces.1 hp
    simp only [List.length_take, List.length_drop] at hk
    refine ⟨max va ((va / 64 + j) * 64) - va + k, by omega, by dsimp only; omega, ?_⟩
    simp
  · rintro ⟨k, hk, rfl, rfl⟩
    have hle : max va ((va + k) / 64 * 64) ≤ va + k := by omega
    have hj : va / 64 + ((va + k) / 64 - va / 64) = (va + k) / 64 := by omega
    refine ⟨_, ⟨_, mem_vaPieces.2 ⟨by omega, (va + k) / 64 - va / 64, by omega, rfl⟩, rfl⟩, va + k - max va ((va + k) / 64 * 64), ?_, ?_, ?_⟩
    · simp only [hj, List.length_take, List.length_drop]
      omega
    · simp only [hj]
      omega
    · simp only [hj, List.getElem_take, List.getElem_drop]
      congr 1
      omega

theorem mem_flatten_addPiece (a : List Rows64) (p q : Nat × List Byte) : q ∈ (addPiece a p).flatten ↔ q ∈ a.flatten ∨ q = p := by
  unfold addPiece
  split
  · next h =>
    obtain ⟨g, hg, hline⟩ := List.any_eq_true.1 h
    simp only [decide_eq_true_eq] at hline
    simp only [List.mem_flatten, List.mem_map]
    constructor
    · rintro ⟨-, ⟨r, hr, rfl⟩, hq⟩
      split at hq
      · rcases List.mem_append.1 hq with hq | hq
        · exact .inl ⟨r, hr, hq⟩
        · exact .inr (List.mem_singleton.1 hq)
      · exact .inl ⟨r, hr, hq⟩
    · rintro (⟨r, hr, hq⟩ | rfl)
      · refine ⟨_, ⟨r, hr, rfl⟩, ?_⟩
        split
        · exact List.mem_append_left _ hq
        · exact hq
      · exact ⟨_, ⟨g, hg, rfl⟩, by rw [if_pos hline]; simp⟩
  · simp

/-- The granules hold the pieces of all rows, in some order. -/
theorem mem_flatten_granules {l : Rows64} {p : Nat × List Byte} : p ∈ (granules l).flatten ↔ ∃ q ∈ l, p ∈ rowPieces q := by
  have key : ∀ (ps : Rows64) (a : List Rows64), p ∈ (ps.foldl addPiece a).flatten ↔ p ∈ a.flatten ∨ p ∈ ps := by
    intro ps
    induction ps with
    | nil => simp
    | cons r t ih =>
      intro a
      rw [List.foldl_cons, ih, mem_flatten_addPiece, List.mem_cons, or_assoc]
  rw [granules_eq, key, List.mem_flatMap]
  simp

/-! ### Memory after the granules are written -/

/-- Rows written one after another, from a base. -/
def putRows (base : Nat) (m : List Host.Cell) (l : Rows64) : List Host.Cell := l.foldl (fun m q => writeBytes m (base + q.1) q.2) m

/-- Granules of the core's loft change memory alone. -/
theorem each_putGranule_loft (c eng ctx : Nat) (m : MCmd) (gs : List Rows64) (s : State) :
    each gs (putGranule c eng ctx m false) s = { s with mem := putRows (loftAt c) s.mem gs.flatten } := by
  have hone : ∀ (g : Rows64) (s : State), putGranule c eng ctx m false s g = { s with mem := putRows (loftAt c) s.mem g } := by
    intro g s
    change each g (fun s q => { s with mem := writeBytes s.mem (loftAt c + q.1) q.2 }) s = _
    induction g generalizing s with
    | nil => rfl
    | cons q t ih => rw [each_cons, ih]; rfl
  induction gs generalizing s with
  | nil => rfl
  | cons g t ih =>
    rw [each_cons, ih, hone]
    simp [putRows]

theorem readByte_putRows_of_miss {base a : Nat} {l : Rows64} (h : ∀ q ∈ l, ∀ x b, PutsAt q x b → base + x ≠ a) (m : List Host.Cell) :
    readByte (putRows base m l) a = readByte m a := by
  refine foldl_read_of_miss (read := fun m => readByte m a) (fun m q hq => readByte_writeBytes_out _ _ _ _ ?_) m
  by_contra hin
  exact h q hq (a - base) _ ⟨a - base - q.1, by omega, by omega, rfl⟩ (by omega)

theorem readByte_putRows_of_hit {base x : Nat} {b : Byte} {l : Rows64} (hone : ∀ q ∈ l, ∀ b', PutsAt q x b' → b' = b) (hex : ∃ q ∈ l, PutsAt q x b)
    (m : List Host.Cell) : readByte (putRows base m l) (base + x) = b := by
  refine foldl_read_of_hit (read := fun m => readByte m (base + x)) (hit := fun q => PutsAt q x b) ?_ (fun m q hq hno => readByte_writeBytes_out _ _ _ _ ?_) hex m
  · rintro m q - ⟨k, hk, rfl, rfl⟩
    rw [← Nat.add_assoc]
    exact readByte_writeBytes_in _ _ _ _ hk
  · by_contra hin
    have hput : PutsAt q x (q.2[x - q.1]'(by omega)) := ⟨x - q.1, by omega, by omega, rfl⟩
    exact hno (hone q hq _ hput ▸ hput)

/-- Rows no longer than their pitch do not overlap. -/
theorem row_col_unique {p r r' j j' : Nat} (hj : j < p) (hj' : j' < p) (h : r * p + j = r' * p + j') : r = r' ∧ j = j' := by
  have hdiv : ∀ {r j : Nat}, j < p → (r * p + j) / p = r := fun {r j} hj => by
    rw [Nat.add_comm, Nat.add_mul_div_right _ _ (by omega), Nat.div_eq_of_lt hj, Nat.zero_add]
  have hr : r = r' := by rw [← hdiv hj (r := r), h, hdiv hj']
  subst hr
  exact ⟨rfl, by omega⟩

/-- The rows of a copy within memory: each of `n` bytes. -/
def copyRows (mem : List Host.Cell) (d p src stride rows n : Nat) : Rows64 :=
  (List.range rows).map (fun r => (d + r * p, readBytes mem (src + r * stride) n))

theorem copyRows_putsAt {mem : List Host.Cell} {d p src stride rows n x : Nat} {b : Byte} :
    (∃ q ∈ (granules (copyRows mem d p src stride rows n)).flatten, PutsAt q x b) ↔
      ∃ r < rows, ∃ j < n, d + r * p + j = x ∧ readByte mem (src + r * stride + j) = b := by
  calc (∃ q ∈ (granules (copyRows mem d p src stride rows n)).flatten, PutsAt q x b)
      ↔ ∃ q ∈ copyRows mem d p src stride rows n, PutsAt q x b := by
        simp only [mem_flatten_granules]
        constructor
        · rintro ⟨q, ⟨row, hrow, hq⟩, hput⟩
          exact ⟨row, hrow, exists_rowPieces_putsAt.1 ⟨q, hq, hput⟩⟩
        · rintro ⟨row, hrow, hput⟩
          obtain ⟨q, hq, hput⟩ := exists_rowPieces_putsAt.2 hput
          exact ⟨q, ⟨row, hrow, hq⟩, hput⟩
    _ ↔ ∃ r < rows, ∃ j < n, d + r * p + j = x ∧ readByte mem (src + r * stride + j) = b := by
        simp [copyRows, PutsAt, readBytes, and_left_comm]

/-- Memory after the granules of a copy: each byte where its row puts it, and every other as before. -/
theorem readByte_copy (mem : List Host.Cell) (base d p src stride rows n : Nat) (hp : n ≤ p) :
    let t := putRows base mem (granules (copyRows mem d p src stride rows n)).flatten
    (∀ r < rows, ∀ j < n, readByte t (base + d + r * p + j) = readByte mem (src + r * stride + j)) ∧
      ∀ a, (∀ r < rows, a < base + d + r * p ∨ base + d + r * p + n ≤ a) → readByte t a = readByte mem a := by
  refine ⟨fun r hr j hj => ?_, fun a ha => ?_⟩
  · have hat : base + d + r * p + j = base + (d + r * p + j) := by ring
    rw [hat]
    refine readByte_putRows_of_hit (fun q hq b' hput => ?_) (copyRows_putsAt.2 ⟨r, hr, j, hj, rfl, rfl⟩) mem
    obtain ⟨r', -, j', hj', heq, rfl⟩ := copyRows_putsAt.1 ⟨q, hq, hput⟩
    obtain ⟨rfl, rfl⟩ := row_col_unique (r := r') (r' := r) (lt_of_lt_of_le hj' hp) (lt_of_lt_of_le hj hp) (by omega)
    rfl
  · refine readByte_putRows_of_miss (fun q hq x b hput heq => ?_) mem
    obtain ⟨r, hr, j, hj, hx, -⟩ := copyRows_putsAt.1 ⟨q, hq, hput⟩
    have := ha r hr
    omega

end Sys2Proof.Machine
end

section
/-! SUPPORT. The INT8 product of the array (R58, R59, R137, R139): the bytes of its tiles, the exact sum that saturates once, and the bank that takes it. -/

namespace Sys2Proof.Machine

/-! ### Bytes of a tile -/

/-- A byte of a little-endian number. -/
theorem bits_leNat (l : List Byte) {j : Nat} (h : j < l.length) : bits (leNat l) (j * 8) 8 = (l[j]).toNat := by
  induction l generalizing j with
  | nil => simp at h
  | cons b t ih =>
    have hb := b.isLt
    cases j with
    | zero =>
      simp only [bits, leNat, Nat.zero_mul, Nat.pow_zero, Nat.div_one, List.getElem_cons_zero]
      omega
    | succ j =>
      have hdrop : (b.toNat + 256 * leNat t) / 2 ^ ((j + 1) * 8) = leNat t / 2 ^ (j * 8) := by
        rw [Nat.add_mul, Nat.add_comm (j * 8), Nat.pow_add, ← Nat.div_div_eq_div_mul]
        congr 1
        omega
      rw [List.getElem_cons_succ, ← ih (by simpa using h), bits, bits, leNat, hdrop]

/-- Element `kk` of a row of an INT8 tile of K columns is the byte there. -/
theorem rowElem_int8 (s : State) (c base : Nat) {k kk : Nat} (row : Nat) (h : kk < k) :
    rowElem 9 (loftRow s c base 9 k row) kk = (readByte s.mem (loftAt c + base + row * ((k + 63) / 64 * 64) + kk)).toNat := by
  have hrow : rowBytes 9 k = k := by simp [rowBytes, tyBits]
  have hpitch : pitch 9 k = (k + 63) / 64 * 64 := by simp [pitch, hrow]
  have hlen : kk < (readBytes s.mem (loftAt c + base + row * pitch 9 k) (rowBytes 9 k)).length := by simpa [readBytes, hrow] using h
  have hbyte := bits_leNat _ hlen
  simpa [rowElem, loftRow, readNat, tyBits, hpitch, readBytes, hrow] using hbyte

/-! ### Integers as exact values (R59) -/

/-- An exact value without an exponent stands for an integer. -/
def Val.IsInt (v : Val) (z : Int) : Prop := ∃ n m, v = .fin n m 0 ∧ (if n then -(m : Int) else m) = z

theorem isInt_ofInt (z : Int) : Val.IsInt (.fin (z < 0) z.natAbs 0) z := by
  refine ⟨_, _, rfl, ?_⟩
  simp only [decide_eq_true_eq]
  split <;> omega

theorem decTy_int8_isInt {v : Nat} (h : v < 256) : Val.IsInt (decTy 9 v).1 (sext 8 v) := by
  have hcut : v % 256 = v := Nat.mod_eq_of_lt h
  simpa [decTy, fmtOf, intOf, hcut] using isInt_ofInt (sext 8 v)

theorem vMul_isInt {a b : Val} {x y : Int} (ha : a.IsInt x) (hb : b.IsInt y) : (vMul a b).1.IsInt (x * y) := by
  obtain ⟨n, m, rfl, rfl⟩ := ha
  obtain ⟨n', m', rfl, rfl⟩ := hb
  refine ⟨n != n', m * m', rfl, ?_⟩
  cases n <;> cases n' <;> simp

theorem vAdd_isInt {a b : Val} {x y : Int} (ha : a.IsInt x) (hb : b.IsInt y) : (vAdd .rne a b).1.IsInt (x + y) := by
  obtain ⟨n, m, rfl, rfl⟩ := ha
  obtain ⟨n', m', rfl, rfl⟩ := hb
  have hsigned : ∀ (n : Bool) (m : Nat), signedAt n m 0 0 = if n then -(m : Int) else m := fun n m => by cases n <;> simp [signedAt, pow2]
  simp only [vAdd, min_self, hsigned]
  generalize (if n = true then -(m : Int) else m) + (if n' = true then -(m' : Int) else m') = z
  split
  · next hz =>
    rw [hz]
    split
    · exact ⟨_, 0, rfl, by simp⟩
    · exact ⟨_, 0, rfl, by simp⟩
  · exact isInt_ofInt _

/-- An integer rounds to itself, saturated to 32 bits. -/
theorem roundInt_isInt {v : Val} {z : Int} (h : v.IsInt z) : (roundInt 32 true .rne v).1 = wrap 32 (max (-2 ^ 31) (min (2 ^ 31 - 1) z)) := by
  obtain ⟨n, m, rfl, rfl⟩ := h
  have hround : roundAt .rne n m 0 0 = (m, false) := by simp [roundAt, pow2]
  simp only [roundInt, hround, if_true]
  congr 1
  generalize (if n = true then -(m : Int) else m) = z
  norm_num
  split
  · omega
  · split <;> omega

/-- A sum of integers by exact additions. -/
theorem foldl_vAdd_isInt {α : Type} (l : List α) (p : α → Val × Flg) (z : α → Int) (h : ∀ a ∈ l, (p a).1.IsInt (z a)) {v : Val × Flg} {y : Int}
    (hv : v.1.IsInt y) :
    ((l.map p).foldl (fun (a : Val × Flg) p => let (v, h) := vAdd .rne a.1 p.1; (v, a.2 ||| h)) v).1.IsInt (y + (l.map z).sum) := by
  induction l generalizing v y with
  | nil => simpa using hv
  | cons a t ih =>
    rw [List.map_cons, List.foldl_cons, List.map_cons, List.sum_cons, ← add_assoc]
    exact ih (fun b hb => h b (List.mem_cons_of_mem a hb)) (vAdd_isInt hv (h a List.mem_cons_self))

/-- The sum of products along K, exact and saturated once. -/
theorem mmaInt_eq {α : Type} (l : List α) (p : α → Val × Flg) (z : α → Int) (h : ∀ a ∈ l, (p a).1.IsInt (z a)) :
    (mmaInt 0 (l.map p)).1 = wrap 32 (max (-2 ^ 31) (min (2 ^ 31 - 1) (l.map z).sum)) := by
  have hzero : (decTy 12 0).1.IsInt 0 := ⟨false, 0, by decide, rfl⟩
  have hsum := foldl_vAdd_isInt l p z h (v := ((decTy 12 0).1, 0)) hzero
  rw [zero_add] at hsum
  exact roundInt_isInt hsum

/-! ### The bank after the array has run (R137) -/

theorem getCore_setEng_self (s : State) (c e : Nat) (x : Engine) :
    getCore (setEng s c e x) c = { getCore s c with engines := (getCore s c).engines.set e {} x } := getCore_setCore_self s c _

@[simp] theorem getGroup_setEng (s : State) (c e : Nat) (x : Engine) (h : Grp) : getGroup (setEng s c e x) h = getGroup s h := by
  rw [getGroup, setEng, getCore_setCore, getGroup]
  split
  · next hc => rw [hc]
  · rfl

/-- The product of elements of an INT8 tile's rows. -/
def int8Prod (s : State) (c aO bO k i j kk : Nat) : Int :=
  sext 8 (readByte s.mem (loftAt c + aO + i * ((k + 63) / 64 * 64) + kk)).toNat * sext 8 (readByte s.mem (loftAt c + bO + j * ((k + 63) / 64 * 64) + kk)).toNat

theorem mem_zipIdx_map_range {β : Type} {f : Nat → β} {n : Nat} {p : β × Nat} : p ∈ ((List.range n).map f).zipIdx ↔ p.2 < n ∧ p.1 = f p.2 := by
  rw [List.mem_zipIdx_iff_getElem?]
  by_cases h : p.2 < n
  · simp [h, eq_comm]
  · simp [h]

theorem bankKey_inj {bank i j i' j' : Nat} (hj : j < 64) (hj' : j' < 64) : bankKey bank i j = bankKey bank i' j' ↔ i = i' ∧ j = j' := by
  unfold bankKey
  omega

/-- A bank after its rows have been set, by row and column. -/
theorem getD_bankRows {f : Nat → Nat → Nat × Flg} (banks : SMap Nat) (bank : Nat) {m n i j : Nat} (hn : n ≤ 64) (hi : i < m) (hj : j < n) :
    (((List.range m).map (fun i => (List.range n).map (f i))).zipIdx.foldl
      (fun b r => r.1.zipIdx.foldl (fun b p => b.set (bankKey bank r.2 p.2) 0 p.1.1) b) banks).getD (bankKey bank i j) 0 = (f i j).1 := by
  have hcol : ∀ {r : Nat} {p : (Nat × Flg) × Nat}, p ∈ ((List.range n).map (f r)).zipIdx → p.2 < 64 := fun hp =>
    lt_of_lt_of_le (mem_zipIdx_map_range.1 hp).1 hn
  refine foldl_read_of_hit (read := fun b => b.getD (bankKey bank i j) 0) (hit := fun r => r.2 = i) (fun b r hr hri => ?_) (fun b r hr hri => ?_)
    ⟨((List.range n).map (f i), i), (mem_zipIdx_map_range (f := fun i => (List.range n).map (f i))).2 ⟨hi, rfl⟩, rfl⟩ banks
  · obtain ⟨-, hrow⟩ := mem_zipIdx_map_range.1 hr
    rw [hrow, hri]
    refine foldl_read_of_hit (read := fun b => b.getD (bankKey bank i j) 0) (hit := fun p => p.2 = j) (fun b p hp hpj => ?_) (fun b p hp hpj => ?_)
      ⟨(f i j, j), mem_zipIdx_map_range.2 ⟨hj, rfl⟩, rfl⟩ b
    · obtain ⟨-, helem⟩ := mem_zipIdx_map_range.1 hp
      rw [helem, hpj]
      exact SMap.getD_set_self _ _ _ _
    · refine SMap.getD_set_ne _ _ _ _ fun hkey => hpj ?_
      obtain ⟨-, hcols⟩ := (bankKey_inj (by omega) (hcol hp)).1 hkey
      exact hcols.symm
  · obtain ⟨-, hrow⟩ := mem_zipIdx_map_range.1 hr
    rw [hrow]
    refine foldl_read_of_miss (read := fun b => b.getD (bankKey bank i j) 0) (fun b p hp => SMap.getD_set_ne _ _ _ _ fun hkey => hri ?_) b
    obtain ⟨hrows, -⟩ := (bankKey_inj (by omega) (hcol hp)).1 hkey
    exact hrows.symm

/-- The array leaves memory, the groups and the core's outstanding operations; its engine keeps its queue and is warm. -/
theorem doMma_keeps (s : State) (c eng prog upto aO bO sa sb tyA tyB m n k bank : Nat) (accum layA layB scA scB : Bool) :
    let u := (doMma s c eng prog upto aO bO sa sb tyA tyB m n k bank accum layA layB scA scB).1
    u.mem = s.mem ∧ (∀ h, getGroup u h = getGroup s h) ∧ (getCore u c).outs = (getCore s c).outs ∧
      (getEng (getCore u c) eng).queue = (getEng (getCore s c) eng).queue ∧ (getEng (getCore u c) eng).warm = true :=
  ⟨rfl, getGroup_setEng s c eng _, (congrArg Core.outs (getCore_setEng_self s c eng _)).trans rfl,
    (congrArg Engine.queue (getEng_setEng_self s c eng _)).trans rfl, (congrArg Engine.warm (getEng_setEng_self s c eng _)).trans rfl⟩

/-- The bank after an INT8 product that runs from its start to its end. -/
theorem doMma_int8 (s : State) (c eng aO bO : Nat) {mm n k bank i j : Nat} (hn : n ≤ 64) (hi : i < mm) (hj : j < n) :
    (getEng (getCore (doMma s c eng 0 ((k + 31) / 32) aO bO 0 0 9 9 mm n k bank false false false false false).1 c) eng).banks.getD (bankKey bank i j) 0 =
      wrap 32 (max (-2 ^ 31) (min (2 ^ 31 - 1) ((List.range k).map (int8Prod s c aO bO k i j)).sum)) := by
  have hsteps : min k (32 * ((k + 31) / 32)) - 32 * 0 = k := by omega
  have hint : matInt 9 = true := by decide
  refine (congrArg (fun x : Engine => x.banks.getD (bankKey bank i j) 0) (getEng_setEng_self s c eng _)).trans ?_
  refine (getD_bankRows _ bank hn hi hj).trans ?_
  simp only [hint, if_true, hsteps, Nat.mul_zero, ← List.range_eq_range', Bool.false_eq_true, if_false, Bool.or_self, ne_eq, not_true_eq_false, decide_false]
  refine mmaInt_eq _ _ _ fun kk hkk => ?_
  simp only [rowElem_int8 s c _ _ (List.mem_range.1 hkk)]
  exact vMul_isInt (decTy_int8_isInt (BitVec.isLt _)) (decTy_int8_isInt (BitVec.isLt _))

end Sys2Proof.Machine
end

section
/-! SUPPORT. A command at the head of an engine's array or mover goes on (R132, R133, R150-R154). -/

namespace Sys2Proof.Machine

/-! ### Engines of a core -/

theorem getEng_setCmdM (s : State) (c eng : Nat) (m : MCmd) : getEng (getCore (setCmdM s c eng m) c) eng =
    { getEng (getCore s c) eng with queue := (getEng (getCore s c) eng).queue.map (fun q => if q.id = m.id then m else q) } :=
  getEng_setEng_self s c eng _

/-- The head of a unit that is changed in place stays its head. -/
theorem unitHead_map {x : Engine} {mover : Bool} {m m' : MCmd} (h : unitHead x mover = some m) (hid : m'.id = m.id) (hop : m'.op = m.op) (y : Engine)
    (hy : y.queue = x.queue.map (fun q => if q.id = m'.id then m' else q)) : unitHead y mover = some m' := by
  have hm' : (m'.op.array != mover) = true := by
    rw [hop]
    exact List.find?_some (p := fun m : MCmd => m.op.array != mover) h
  unfold unitHead at *
  rw [hy]
  generalize x.queue = l at h
  induction l with
  | nil => cases h
  | cons q t ih =>
    rw [List.find?_cons] at h
    rw [List.map_cons, List.find?_cons]
    by_cases hq : q.id = m'.id
    · rw [if_pos hq, hm']
    · rw [if_neg hq]
      cases hunit : (q.op.array != mover) with
      | true =>
        rw [hunit] at h
        cases h
        exact absurd hid.symm hq
      | false =>
        rw [hunit] at h
        exact ih h

/-! ### A command goes on -/

/-- A command that touches no context memory meets no trouble and asks for nothing. -/
theorem cmdTrouble_of_no_runs {op : MOp} (h : op.runs = none) (s : State) (ctx : Nat) : cmdTrouble s ctx op = none := by simp [cmdTrouble, h]

theorem moveAsk_of_no_runs {m : MCmd} (h : m.op.runs = none) (s : State) (c eng ctx : Nat) : moveAsk s c eng ctx m = (s, m) := by
  simp [moveAsk, moveLines, h]

/-- In `t` the command has left its engine's queue, and every group there was has its registers. -/
def CmdLeft (s t : State) (c eng : Nat) (m : MCmd) : Prop :=
  (getEng (getCore t c) eng).queue = (getEng (getCore s c) eng).queue.filter (fun q => q.id ≠ m.id) ∧
    ∀ h x, getGroup s h = some x → ∃ y : Group, getGroup t h = some y ∧ y.xs = x.xs ∧ y.us = x.us ∧ y.preds = x.preds

section
variable {s : State} {c eng ctx : Nat} {mover : Bool} {m : MCmd} (hctx : (getCore s c).ctx = some ctx)
  (hhead : unitHead (getEng (getCore s c) eng) mover = some m)
include hctx hhead

/-- An array that may not start does nothing (R151, R152). -/
theorem complete_of_held (part : Option Nat) (hmover : mover = false) (hgo : arrayGo s c eng = false) :
    execMatrixCmdComplete c eng ⟨mover, part⟩ s = .next s := by
  subst hmover
  simp [execMatrixCmdComplete, hctx, hhead, hgo]

variable (hhalt : (getCore s c).halted = false) (hgated : (getCore s c).gated = false) (hpre : (getCore s c).preempting = false)
  (hready : sbReady s c m = true) (hgo : mover = false → arrayGo s c eng = true) (hasked : m.asked = []) (hruns : m.op.runs = none)
include hhalt hgated hpre hready hgo hasked hruns

/-- With a part named, an array with steps left takes one (R154). -/
theorem complete_step (j : Nat) (hprog : m.prog < m.op.steps) :
    execMatrixCmdComplete c eng ⟨mover, some j⟩ s =
      .next (setCmdM (arrayRun s c eng m (m.prog + 1)).1 c eng (arrayRun s c eng m (m.prog + 1)).2) := by
  have hgo' : (!mover && !arrayGo s c eng) = false := by cases mover <;> simp [hgo]
  simp [execMatrixCmdComplete, hctx, hhead, hhalt, hgated, hpre, hready, hgo', cmdTrouble_of_no_runs hruns, moveAsk_of_no_runs hruns, hasked, hprog]

/-- With none named, and no write of it outstanding, it runs to its end, writes its rows and leaves its engine. -/
theorem complete_end {u : State} {m' : MCmd} (hrun : arrayRun s c eng m m.op.steps = (u, m')) (hid : m'.id = m.id) (hwrote : m'.wrote = [])
    (hmem : (cmdRows u c eng ctx m').mem = false) (hload : ∀ t, bankLoad t c eng ctx m' = t)
    (houts : ∀ o ∈ (getCore u c).outs, o.kind ≠ .move eng m.id) :
    ∃ d : MCmd, d.id = m.id ∧ execMatrixCmdComplete c eng ⟨mover, none⟩ s =
      .next (cmdDone { u with mem := putRows (loftAt c) u.mem (granules (cmdRows u c eng ctx m').rows).flatten } c eng ctx d) := by
  have hgo' : (!mover && !arrayGo s c eng) = false := by cases mover <;> simp [hgo]
  simp [execMatrixCmdComplete, hctx, hhead, hhalt, hgated, hpre, hready, hgo', cmdTrouble_of_no_runs hruns, moveAsk_of_no_runs hruns, hasked, hrun,
    hwrote, hmem, each_putGranule_loft, hload]
  rw [if_neg (by rintro ⟨o, ho, hk⟩; exact houts o ho (hid ▸ hk))]
  refine ⟨_, ?_, rfl⟩
  exact hid

/-- A command that ends has left its engine's queue; groups keep their registers, memory holds its rows, and its engine keeps the rest. -/
theorem does_complete {u : State} {m' : MCmd} (hrun : arrayRun s c eng m m.op.steps = (u, m')) (hid : m'.id = m.id) (hwrote : m'.wrote = [])
    (hmem : (cmdRows u c eng ctx m').mem = false) (hload : ∀ t, bankLoad t c eng ctx m' = t)
    (houts : ∀ o ∈ (getCore u c).outs, o.kind ≠ .move eng m.id) (hqueue : (getEng (getCore u c) eng).queue = (getEng (getCore s c) eng).queue)
    (hgroups : ∀ h, getGroup u h = getGroup s h) :
    Does (.matrixCmdComplete c eng ⟨mover, none⟩) s (fun t => CmdLeft s t c eng m ∧
      t.mem = putRows (loftAt c) u.mem (granules (cmdRows u c eng ctx m').rows).flatten ∧
      getEng (getCore t c) eng = { getEng (getCore u c) eng with queue := (getEng (getCore t c) eng).queue }) := by
  obtain ⟨d, hd, hexec⟩ := complete_end hctx hhead hhalt hgated hpre hready hgo hasked hruns hrun hid hwrote hmem hload houts
  obtain ⟨hdmem, heng, hregs⟩ := cmdDone_spec { u with mem := putRows (loftAt c) u.mem (granules (cmdRows u c eng ctx m').rows).flatten } c eng ctx d
  refine ⟨_, hexec, ⟨?_, fun h x hx => hregs h x ((hgroups h).trans hx)⟩, hdmem, ?_⟩
  · rw [heng, hd, ← hqueue]
    rfl
  · rw [heng]
    rfl

/-- The array runs an INT8 product to its end (R58, R59, R137). -/
theorem does_mma_int8 (hwrote : m.wrote = []) (hprog : m.prog = 0) (houts : ∀ o ∈ (getCore s c).outs, o.kind ≠ .move eng m.id)
    {dO aO bO outTy mm n k bank : Nat} (hn : n ≤ 64) (hk : 1 ≤ k)
    (hop : m.op = .mma dO aO bO 0 0 9 9 outTy mm n k bank false false false false false false false) :
    Does (.matrixCmdComplete c eng ⟨mover, none⟩) s (fun t => CmdLeft s t c eng m ∧ t.mem = s.mem ∧ (getEng (getCore t c) eng).warm = true ∧
      ∀ i < mm, ∀ j < n, (getEng (getCore t c) eng).banks.getD (bankKey bank i j) 0 =
        wrap 32 (max (-2 ^ 31) (min (2 ^ 31 - 1) ((List.range k).map (int8Prod s c aO bO k i j)).sum))) := by
  have hrun : arrayRun s c eng m m.op.steps =
      ((doMma s c eng 0 ((k + 31) / 32) aO bO 0 0 9 9 mm n k bank false false false false false).1,
        { m with prog := (k + 31) / 32, fl := m.fl ||| (doMma s c eng 0 ((k + 31) / 32) aO bO 0 0 9 9 mm n k bank false false false false false).2 }) := by
    have hsteps : m.op.steps = (k + 31) / 32 := by rw [hop]; rfl
    have hstart : ¬m.prog ≥ (k + 31) / 32 := by omega
    have hint : matInt 9 = true := by decide
    rw [hsteps]
    simp [arrayRun, hop, hstart, hint, MOp.steps]
  obtain ⟨humem, hgroups, huouts, hqueue, hwarm⟩ := doMma_keeps s c eng 0 ((k + 31) / 32) aO bO 0 0 9 9 mm n k bank false false false false false
  obtain ⟨t, hexec, hleft, hmem, heng⟩ := does_complete hctx hhead hhalt hgated hpre hready hgo hasked hruns hrun rfl hwrote
    (by simp [cmdRows, hop]) (fun t => by simp [bankLoad, hop]) (by rw [huouts]; exact houts) hqueue hgroups
  refine ⟨t, hexec, hleft, ?_, by rw [heng]; exact hwarm, fun i hi j hj => by rw [heng]; exact doMma_int8 s c eng aO bO hn hi hj⟩
  rw [hmem, ← humem]
  simp [cmdRows, hop, granules, putRows]

/-- A mover copies rows between lofts (R140). -/
theorem does_copy (hwrote : m.wrote = []) (houts : ∀ o ∈ (getCore s c).outs, o.kind ≠ .move eng m.id)
    {d p src stride rows n : Nat} (hsteps : m.op.steps = 0) (hrun : arrayRun s c eng m 0 = (s, m)) (hload : ∀ t, bankLoad t c eng ctx m = t)
    (hrows : cmdRows s c eng ctx m = { mem := false, rows := copyRows s.mem d p (loftAt c + src) stride rows n }) (hn : n ≤ p) :
    Does (.matrixCmdComplete c eng ⟨mover, none⟩) s (fun t => CmdLeft s t c eng m ∧
      (∀ r < rows, ∀ j < n, readByte t.mem (loftAt c + d + r * p + j) = readByte s.mem (loftAt c + src + r * stride + j)) ∧
      ∀ a, (∀ r < rows, a < loftAt c + d + r * p ∨ loftAt c + d + r * p + n ≤ a) → readByte t.mem a = readByte s.mem a) := by
  obtain ⟨t, hexec, hleft, hmem, -⟩ := does_complete hctx hhead hhalt hgated hpre hready hgo hasked hruns (by rw [hsteps]; exact hrun) rfl hwrote
    (by rw [hrows]) hload houts rfl (fun _ => rfl)
  refine ⟨t, hexec, hleft, ?_⟩
  rw [hmem, hrows]
  exact readByte_copy s.mem (loftAt c) d p (loftAt c + src) stride rows n hn

end

section
variable {s : State} {c eng ctx : Nat} {mover : Bool} {m : MCmd} (hctx : (getCore s c).ctx = some ctx)
  (hhead : unitHead (getEng (getCore s c) eng) mover = some m) (hhalt : (getCore s c).halted = false)
include hctx hhead hhalt

/-- An INT8 product that is not at its end goes one step of 32 along K (R154): the sum enters the bank at the last. -/
theorem does_mma_step (hgated : (getCore s c).gated = false) (hpre : (getCore s c).preempting = false) (hready : sbReady s c m = true)
    (hgo : mover = false → arrayGo s c eng = true) (hasked : m.asked = []) {dO aO bO outTy mm n k bank : Nat} (j : Nat) (hprog : m.prog + 1 < (k + 31) / 32)
    (hop : m.op = .mma dO aO bO 0 0 9 9 outTy mm n k bank false false false false false false false) :
    Does (.matrixCmdComplete c eng ⟨mover, some j⟩) s (fun t => unitHead (getEng (getCore t c) eng) mover = some { m with prog := m.prog + 1 } ∧
      (getEng (getCore t c) eng).warm = true ∧ t = { s with cores := t.cores }) := by
  have hsteps : m.op.steps = (k + 31) / 32 := by rw [hop]; rfl
  have hrun : arrayRun s c eng m (m.prog + 1) =
      (setEng s c eng { getEng (getCore s c) eng with warm := true, lastCyc := cycles s (coreHalf c) }, { m with prog := m.prog + 1 }) := by
    have hint : matInt 9 = true := by decide
    simp [arrayRun, hop, hint, MOp.steps, hprog]
  have hexec := complete_step hctx hhead hhalt hgated hpre hready hgo hasked (by rw [hop]; rfl) j (by omega)
  rw [hrun] at hexec
  refine ⟨_, hexec, ?_⟩
  have heng := getEng_setCmdM (setEng s c eng { getEng (getCore s c) eng with warm := true, lastCyc := cycles s (coreHalf c) }) c eng
    { m with prog := m.prog + 1 }
  rw [getEng_setEng_self] at heng
  exact ⟨unitHead_map (m' := { m with prog := m.prog + 1 }) hhead rfl rfl _ (congrArg Engine.queue heng), congrArg Engine.warm heng, rfl⟩

end

end Sys2Proof.Machine
end

section
/-! SUPPORT. A fault met by a command (R141, R237), ramps (R151, R152); and O42. -/

namespace Sys2Proof.Machine

/-! ### A fault met by a command (R141, R237) -/

/-- Only register fields, the deck's bookkeeping and the error log differ. -/
structure KeepsButRecords (s t : State) : Prop where
  eq : t = { s with flds := t.flds, deck := t.deck, rel := t.rel }

theorem KeepsButRecords.refl (s : State) : KeepsButRecords s s := ⟨rfl⟩

theorem KeepsButRecords.trans {s t u : State} (h : KeepsButRecords s t) (k : KeepsButRecords t u) : KeepsButRecords s u := by
  refine ⟨?_⟩
  rw [k.eq, h.eq]

theorem KeepsButRecords.wr {s t : State} (h : KeepsButRecords s t) (f : Fld) (i v : Nat) : KeepsButRecords s (wr t f i v) := h.trans ⟨rfl⟩

theorem KeepsButRecords.bumpSat {s t : State} (h : KeepsButRecords s t) (f : Fld) (i : Nat) : KeepsButRecords s (bumpSat t f i) := h.wr f i _

theorem logErr_keepsButRecords (s : State) (r : ErrRec) : KeepsButRecords s (logErr s r) := by
  unfold logErr
  extract_lets j _ t u
  have hu : KeepsButRecords s u := .wr (t := t) ⟨rfl⟩ _ _ _
  split
  · exact hu.wr _ _ _
  · exact hu

theorem retirePage_keepsButRecords (s : State) (page reason : Nat) : KeepsButRecords s (retirePage s page reason) := by
  unfold retirePage
  extract_lets n r t u v
  have hu : KeepsButRecords s u := ((((KeepsButRecords.refl s).wr _ _ _).wr _ _ _).wr _ _ _).wr _ _ _
  have hv : KeepsButRecords s v := by
    unfold v
    split
    · exact hu.wr _ _ _
    · exact hu
  split
  · exact ((KeepsButRecords.refl s).wr _ _ _).trans (logErr_keepsButRecords _ _)
  · exact (hv.trans ⟨rfl⟩).trans (logErr_keepsButRecords _ r)

theorem pageCandidate_keepsButRecords (s : State) (page reason : Nat) : KeepsButRecords s (pageCandidate s page reason) := by
  unfold pageCandidate
  split
  · exact .refl s
  · split
    · extract_lets _ t
      exact (KeepsButRecords.wr (t := t) ⟨rfl⟩ _ _ _).trans (logErr_keepsButRecords _ _)
    · exact retirePage_keepsButRecords s page reason

theorem lineUncorrectable_keepsButRecords (s : State) (loc : Nat) (mark : Bool) : KeepsButRecords s (lineUncorrectable s loc mark) := by
  unfold lineUncorrectable
  extract_lets ch t u
  have hu : KeepsButRecords s u := (((KeepsButRecords.refl s).bumpSat _ _).bumpSat _ _).trans (logErr_keepsButRecords t _)
  split
  · exact hu
  · exact hu.trans (pageCandidate_keepsButRecords u _ _)

/-- A read of the arrays that meets no new error; where no line carries a mark it does nothing. -/
theorem arrayRead_ok_keepsButRecords (s : State) (loc : Nat) :
    KeepsButRecords s (arrayRead s loc .ok).2 ∧ (getMark s loc = none → (arrayRead s loc .ok).2 = s) := by
  have hmarked : KeepsButRecords s (bumpSat s .DK_ECC_MARKED (chanOf (loc * 64) / 512)) := (KeepsButRecords.refl s).bumpSat _ _
  unfold arrayRead
  cases getMark s loc with
  | none => exact ⟨.refl s, fun _ => rfl⟩
  | some m =>
    refine ⟨?_, fun h => absurd h (Option.some_ne_none m)⟩
    cases m <;> dsimp only
    case bad => exact lineUncorrectable_keepsButRecords s loc false
    case strip => exact hmarked
    case poison => exact hmarked.trans (lineUncorrectable_keepsButRecords _ loc true)

/-- A command whose far side is in trouble faults with the trouble's code, after the read that found it (R141, R237). -/
theorem execMatrixCmd_of_trouble {s : State} {c eng ctx : Nat} {mover : Bool} {m : MCmd} (hctx : (getCore s c).ctx = some ctx)
    (hhead : unitHead (getEng (getCore s c) eng) mover = some m) (hhalt : (getCore s c).halted = false) {a code : Nat} (addr : Option Nat)
    (htrouble : cmdTrouble s ctx m.op = some (a, some code)) :
    ∃ u, KeepsButRecords s u ∧ ((∀ n, getMark s n = none) → u = s) ∧ execMatrixCmd c eng mover addr s = .next (raiseFault u
      { ctx := ctx, code := code, detail := if code = 0x0301 then eng else 0, core := c, pipe := m.pipe, slot := m.slot, group := true, addr := some a }) := by
  simp only [execMatrixCmd, hctx, hhead, hhalt, htrouble, Bool.false_eq_true, if_false]
  refine ⟨_, ?_, ?_, rfl⟩
  · split
    · split
      · exact (arrayRead_ok_keepsButRecords s _).1
      · exact .refl s
    · exact .refl s
  · intro hmarks
    split
    · split
      · exact (arrayRead_ok_keepsButRecords s _).2 (hmarks _)
      · rfl
    · rfl

/-- The fault's record, and what stands. -/
theorem does_matrixCmd_fault {s : State} {c eng ctx : Nat} {mover : Bool} {m : MCmd} (hctx : (getCore s c).ctx = some ctx)
    (hhead : unitHead (getEng (getCore s c) eng) mover = some m) (hhalt : (getCore s c).halted = false) (a code : Nat) (addr : Option Nat)
    (htrouble : cmdTrouble s ctx m.op = some (a, some code)) :
    Does (.matrixCmd c eng mover addr) s (fun t => (getCore t c).halted = true ∧ t.mem = s.mem ∧ ((∀ n, getMark s n = none) → t.flds = s.flds) ∧
      ∃ r : FaultRec, t.sched.faults = s.sched.faults ++ [r] ∧ r.ctx = ctx ∧ r.code = code ∧ r.detail = (if code = 0x0301 then eng else 0) ∧ r.core = c ∧
        r.addr = some a) := by
  obtain ⟨u, hu, hmarks, hexec⟩ := execMatrixCmd_of_trouble hctx hhead hhalt addr htrouble
  obtain ⟨hfaults, hmem, hflds, -, hhalts⟩ := raiseFault_spec u
    { ctx := ctx, code := code, detail := if code = 0x0301 then eng else 0, core := c, pipe := m.pipe, slot := m.slot, group := true, addr := some a }
  have hcore : getCore u c = getCore s c := by rw [hu.eq]; rfl
  refine ⟨_, hexec, hhalts (by rw [hcore]; exact hctx), ?_, fun h => ?_, _, hfaults.trans (by rw [hu.eq]), rfl, rfl, rfl, rfl, rfl⟩
  · rw [hmem, hu.eq]
  · rw [hflds, hmarks h]

/-! ### Ramps (R151, R152) -/

theorem does_engineCold {s : State} {c n : Nat} (hwarm : (getEng (getCore s c) n).warm = true) :
    ((getEng (getCore s c) n).lastCyc + 512 ≤ cycles s (coreHalf c) → Does (.engineCold c n) s (fun t => (getEng (getCore t c) n).warm = false ∧
      (getEng (getCore t c) n).queue = (getEng (getCore s c) n).queue ∧ (getEng (getCore t c) n).banks = (getEng (getCore s c) n).banks ∧
      t = { s with cores := t.cores })) ∧
    (cycles s (coreHalf c) < (getEng (getCore s c) n).lastCyc + 512 → Does (.engineCold c n) s (fun t => t = s)) := by
  refine ⟨fun h => ⟨setEng s c n { getEng (getCore s c) n with warm := false }, ?_, ?_⟩, fun h => ⟨s, ?_, rfl⟩⟩
  · show execEngineCold c n s = _
    simp [execEngineCold, hwarm, h]
  · simp only [getEng_setEng_self, true_and]
    rfl
  · show execEngineCold c n s = _
    simp [execEngineCold, Nat.not_le.2 h]

theorem does_rampGateOpen {s : State} {c : Nat} (hgate : (getCore s c).gate ≠ 0) (hstop : stopOn s c = false) :
    ((getCore s c).gate ≤ s.time.mst → Does (.rampGateOpen c) s (fun t => (getCore t c).gate = 0 ∧ t = { s with cores := t.cores })) ∧
    (s.time.mst < (getCore s c).gate → Does (.rampGateOpen c) s (fun t => t = s)) := by
  refine ⟨fun h => ⟨setCore s c { getCore s c with gate := 0 }, ?_, ?_⟩, fun h => ⟨s, ?_, rfl⟩⟩
  · show execRampGateOpen c s = _
    simp [execRampGateOpen, hgate, hstop, h]
  · simp only [getCore_setCore_self, true_and]
    rfl
  · show execRampGateOpen c s = _
    simp [execRampGateOpen, Nat.not_le.2 h]

/-! ### O42 -/

theorem rowBytes_le_pitch (ty n : Nat) : rowBytes ty n ≤ pitch ty n := by
  unfold pitch
  split <;> omega

/-- Settles O42: a command at the head of its unit by what holds it or lets it run, a fault by the trouble of its far side, a ramp by its time. -/
theorem matrixExecution : Obligations.MatrixExecution := by
  unfold Obligations.MatrixExecution
  intro s c eng ctx mover m _ _ hctx hhead hhalt
  refine ⟨fun hgated hpre hready => ⟨fun part hmover hgo => ?_, ?_, fun hasked hwrote hprog houts => ⟨?_, ?_, ?_⟩⟩, fun a code addr htrouble => ?_,
    fun htrouble => ?_, fun n hwarm => does_engineCold hwarm, fun hgate hstop => does_rampGateOpen hgate hstop⟩
  · exact ⟨s, complete_of_held hctx hhead part hmover hgo, rfl⟩
  · intro dO aO bO outTy mm n k bank j _ hgo hasked hprog hop
    exact does_mma_step hctx hhead hhalt hgated hpre hready (fun _ => hgo) hasked j hprog hop
  · intro dO aO bO outTy mm n k bank _ hgo _ hn _ hk _ hop
    exact does_mma_int8 hctx hhead hhalt hgated hpre hready (fun _ => hgo) hasked (by rw [hop]; rfl) hwrote hprog houts hn hk hop
  · intro dst src stride ty rows cols bank hint hmover hop
    refine does_copy hctx hhead hhalt hgated hpre hready (by simp [hmover]) hasked (by rw [hop]; rfl) hwrote houts (by rw [hop]; rfl)
      (by simp [arrayRun, hop]) (fun t => by simp [bankLoad, hop]) (by simp [cmdRows, hop, copyRows]) (rowBytes_le_pitch ty cols)
  · intro dst src stride ty rows cols bank hint hmover hle hop
    refine does_copy hctx hhead hhalt hgated hpre hready (by simp [hmover]) hasked (by rw [hop]; rfl) hwrote houts (by rw [hop]; rfl)
      (by simp [arrayRun, hop]) (fun t => by simp [bankLoad, hop]) (by simp [cmdRows, hop, copyRows]) hle
  · exact does_matrixCmd_fault hctx hhead hhalt a code addr htrouble
  · refine ⟨s, ?_, rfl⟩
    show execMatrixCmd c eng mover none s = _
    simp [execMatrixCmd, hctx, hhead, hhalt, htrouble]

end Sys2Proof.Machine
end

section
/-! SUPPORT. An issue that is refused (R81, R110, R125): nothing where no path can issue or a register is awaited, a fault where a decode check fails; and O12. -/

namespace Sys2Proof.Machine

/-! ### Decode checks that fail (R125) -/

section
variable {ct n : Nat} {pr : BitVec 3} {pn : Bool} {ops : List OField} {fields : List (Nat × Bool)}

theorem decodeCheck_unprovided (uncond : Bool) : decodeCheck ct n false pr pn uncond ops fields = some (0x0101, 0) := rfl

/-- The reserved guard comes before any reserved field: its lowest bit is bit 0. -/
theorem decodeCheck_guard (hpr : pr = 0) (hpn : pn = true) : decodeCheck ct n true pr pn false ops fields = some (0x0102, 0) := by
  subst hpr hpn
  simp only [decodeCheck, Bool.not_true, Bool.false_eq_true, if_false, decide_true, Bool.and_self, List.cons_append, List.nil_append, List.foldl_cons]
  rw [List.foldl_fixed' (fun b => by simp)]

/-- Legal but for one further field, which the fault names. -/
theorem decodeCheck_one_field (hguard : ¬(pr = 0 ∧ pn = true)) (hops : ∀ o ∈ ops, o.ok (decide (ct = 3)) = true) {lo : Nat}
    (hbad : fields.filter (fun p => !p.2) = [(lo, false)]) : decodeCheck ct n true pr pn false ops fields = some (0x0102, lo) := by
  have h : decodeCheck ct n true pr pn false ops fields = decodeCheck ct n true pr pn false ops [(lo, false)] := by
    simp only [decodeCheck, hbad]
    rfl
  rw [h, decodeCheck_field lo hguard hops]

/-- Where every code is legal, what is left is the range of the X registers. -/
theorem decodeCheck_range (hguard : ¬(pr = 0 ∧ pn = true)) (hops : ∀ o ∈ ops, o.ok (decide (ct = 3)) = true) (hfields : ∀ p ∈ fields, p.2 = true) :
    decodeCheck ct n true pr pn false ops fields = (firstRange ops (decide (ct = 3)) n).map (fun r => (0x0103, r)) := by
  have hcodes : ops.filter (fun o => !o.ok (decide (ct = 3))) = [] := by
    simp only [List.filter_eq_nil_iff]
    intro o ho
    simp [hops o ho]
  have hrest : fields.filter (fun p => !p.2) = [] := by
    simp only [List.filter_eq_nil_iff]
    intro p hp
    simp [hfields p hp]
  have hfree : (!(decide (pr = 0) && pn)) = true := by simpa [imp_iff_not_or] using hguard
  simp only [decodeCheck, hcodes, hrest, hfree]
  rfl

end

/-! ### Issue that is refused -/

section
variable {s : State} {g : Grp} {pr : BitVec 3} {pn uncond : Bool} {form op : Nat} {d a : BitVec 8} {prov : Nat → Bool} {ops : Nat → List OField}
  {fields : Nat → List (Nat × Bool)} {body : Env → State} {e : Env}

theorem issue_of_no_env (h : env? s g pr pn = none) : issue s g pr pn uncond form op d a prov ops fields body = s := by simp [issue, h]

theorem issue_faulted (he : env? s g pr pn = some e) {code detail : Nat}
    (hcheck : decodeCheck e.ct e.x.n (prov e.ct) pr pn uncond (ops e.ct) (fields e.ct) = some (code, detail)) :
    Faulted s (issue s g pr pn uncond form op d a prov ops fields body) e code detail := by
  have h : issue s g pr pn uncond form op d a prov ops fields body = groupFault s g code detail (some (insnWord pr pn form op d a)) none := by
    simp [issue, he, hcheck]
  rw [h]
  exact groupFault_faulted he _ _ _ _

theorem issue_of_awaited (he : env? s g pr pn = some e) (hcheck : decodeCheck e.ct e.x.n (prov e.ct) pr pn uncond (ops e.ct) (fields e.ct) = none)
    (hwait : regsReady s e (ops e.ct) = false) : issue s g pr pn uncond form op d a prov ops fields body = s := by simp [issue, he, hcheck, hwait]

end

/-! ### O12 -/

/-- An integer addition of 32 bits, as `issue` checks it. -/
theorem execIadd_issue (s : State) (g : Grp) {f : RForm} (hty : f.ty = 13) : ∃ body, exec (.iadd g f) s =
    .next (issue s g f.pr f.pn false 0 0x000 f.d f.a (fun _ => true) (fun _ => rOps f .r .r .r .z) (fun _ => (48, true) :: plainTail f) body) := by
  show ∃ body, execIadd g f s = _
  simp only [execIadd, intOp, hty]
  exact ⟨_, rfl⟩

/-- A word that names no operation of its core type. -/
theorem does_invalidOpcode {s : State} {g : Grp} {e : Env} {w : W64} (he : env? s g 0 false = some e)
    (hlacks : ∀ op ∈ definedOps (w.extractLsb' 4 2).toNat, (w.extractLsb' 6 10).toNat = op → providedOp e.ct op = false) :
    Does (.invalidOpcode g w) s (fun t => Faulted s t e 0x0101 0) := by
  have hct : e.ct = coreType g.core := by
    unfold env? at he
    dsimp only at he
    split at he
    · split at he
      · split at he
        · cases he
        · cases he; rfl
      · cases he
    · cases he
  have hbits : ∀ lo len, bits w.toNat lo len = (w.extractLsb' lo len).toNat := fun lo len => by simp [bits, Nat.shiftRight_eq_div_pow]
  have hnone : ((definedOps (bits w.toNat 4 2)).contains (bits w.toNat 6 10) && providedOp (coreType g.core) (bits w.toNat 6 10)) = false := by
    rw [hbits, hbits, ← hct, Bool.and_eq_false_iff, or_iff_not_imp_left, Bool.not_eq_false, List.contains_iff_mem]
    exact fun hmem => hlacks _ hmem rfl
  refine ⟨groupFault s g 0x0101 0 (some (bits w.toNat 0 32)) none, ?_, groupFault_faulted he _ _ _ _⟩
  refine congrArg Host.Outcome.next ?_
  simp only [he, hnone, Bool.false_eq_true, if_false]

/-- Settles O12: `issue` leaves the state, or faults by the check that fails first. -/
theorem issueChecks : Obligations.IssueChecks := by
  unfold Obligations.IssueChecks
  intro s g f
  refine ⟨fun hnone => ?_, fun e he => ⟨fun hct => ?_, fun hpr hpn => ?_, fun ops hops hguard hty => ⟨?_, ?_, ?_⟩⟩, fun w e he hlacks => does_invalidOpcode he hlacks⟩
  · simp only [List.forall_mem_cons, List.not_mem_nil, false_imp_iff, implies_true, and_true]
    refine ⟨?_, ?_, ?_, ?_, ?_, ?_, ?_, ?_, ?_, ?_⟩ <;> exact ⟨s, congrArg Host.Outcome.next (issue_of_no_env hnone), rfl⟩
  · simp only [List.forall_mem_cons, List.not_mem_nil, false_imp_iff, implies_true, and_true]
    have hprov : decide (e.ct ≠ 3) = false := by simp [hct]
    refine ⟨⟨_, rfl, issue_faulted he ?_⟩, ⟨_, rfl, issue_faulted he ?_⟩⟩ <;> simp only [hprov] <;> exact decodeCheck_unprovided _
  · exact ⟨_, rfl, issue_faulted he (decodeCheck_guard hpr hpn)⟩
  · intro hok hrm hsat hsub
    obtain ⟨body, hexec⟩ := execIadd_issue s g hty
    exact ⟨_, hexec, issue_faulted he (decodeCheck_one_field hguard (hops ▸ hok) (by simp [plainTail, hrm, hsat, show ¬f.sub = 0#8 from hsub]))⟩
  · rintro hd hlim hok ⟨hrm, hsat, hsub⟩
    obtain ⟨body, hexec⟩ := execIadd_issue s g hty
    have hfirst : (⟨16, f.d, .r⟩ : OField).range e.sc e.x.n = some f.d.toNat := by simp [OField.range, hd, hlim]
    refine ⟨_, hexec, issue_faulted he ?_⟩
    rw [decodeCheck_range hguard (hops ▸ hok) (by simp [plainTail, hrm, hsat, hsub])]
    have : firstRange (rOps f .r .r .r .z) (decide (e.ct = 3)) e.x.n = some f.d.toNat := by
      simp only [firstRange, rOps, List.findSome?_cons]
      rw [show decide (e.ct = 3) = e.sc from rfl, hfirst]
    rw [this]; rfl
  · rintro hok ⟨hrm, hsat, hsub⟩ hwait
    obtain ⟨body, hexec⟩ := execIadd_issue s g hty
    subst hops
    refine ⟨s, hexec.trans (congrArg _ (issue_of_awaited he ?_ hwait)), rfl⟩
    exact decodeCheck_none hguard hok (by simp [plainTail, hrm, hsat, hsub])

end Sys2Proof.Machine
end

section
/-! SUPPORT. The path that takes the pipe when another gives it up (R81, R83), the waypoint budget (R91); and O17. -/

namespace Sys2Proof.Machine

/-! ### A path that gives up the pipe (R81) -/

/-- Of a waiting path and the one that has just given up the pipe, the waiting one is next. -/
theorem nextPath_pair {q p : Path} {last : Nat} (hlast : last = lowest p.mask) : nextPath [q, p] last = some q := by
  subst hlast
  unfold nextPath
  by_cases h : lowest p.mask < lowest q.mask <;> simp [h]

/-- A path gives up the pipe to the only other one. -/
theorem giveUp_of_one_other {x : Group} {p q : Path} (hrun : x.run = some p) (hothers : x.others = [q]) (hp : p.stat = .ready) (hq : q.stat = .ready)
    (cyc : Nat) (mark : Bool) :
    giveUp x cyc mark = { x with run := some { q with yielding := false, ran := true }, others := [{ p with yielding := p.yielding || mark }],
                                 issued := 0, yieldCyc := cyc, lastLow := lowest p.mask } := by
  simp only [giveUp, hrun, hothers, choose]
  simp [Path.runnable, hp, hq, nextPath_pair, takePipe]

/-! ### The waypoint budget (R91) -/

/-- A fault that names no instruction is sent for the context of the group's core, which halts. -/
theorem groupFault_spec {s : State} {g : Grp} {x : Group} {n : Nat} (hx : getGroup s g = some x) (hctx : (getCore s g.core).ctx = some n)
    (code detail : Nat) (insn addr : Option Nat) :
    ∃ r : FaultRec, (groupFault s g code detail insn addr).sched.faults = s.sched.faults ++ [r] ∧ r.ctx = n ∧ r.code = code ∧ r.detail = detail ∧
      (getCore (groupFault s g code detail insn addr) g.core).halted = true ∧ (groupFault s g code detail insn addr).mem = s.mem := by
  simp only [groupFault, hx, pathFault, hctx]
  obtain ⟨hfaults, hmem, -, -, hhalt⟩ := raiseFault_spec s
    { ctx := n, code := code, detail := detail, core := g.core, pipe := g.pipe, slot := g.slot, group := true, score := coreType g.core = 3,
      active := (x.run.getD (x.others.headD { pc := 0, mask := 0 })).mask, pc := (x.run.getD (x.others.headD { pc := 0, mask := 0 })).pc,
      insn := insn.getD 0, addr := addr }
  exact ⟨_, hfaults, rfl, rfl, rfl, hhalt hctx, hmem⟩

/-! ### O17 -/

/-- Settles O17: a rotation and a retake by what `giveUp` and `takePipe` make of the two paths, the budget by the fault of the group. -/
theorem pipeEvents : Obligations.PipeEvents := by
  unfold Obligations.PipeEvents
  intro s g x hx
  refine ⟨fun p q hrun hothers hq hyield hno hissued hp => ?_, fun p hrun hothers hp hcyc => ?_, fun n c hctx hc hgo hwaiting hdone hbudget => ?_⟩
  · have hexec : exec (.pathRotate g) s = .next (setGroup s g (giveUp x (cycles s (coreHalf g.core)) false)) := by
      show execPathRotate g s = _
      simp [execPathRotate, hx, hrun, hothers, hp, hissued, hyield]
    rw [giveUp_of_one_other hrun hothers hp hq] at hexec
    exact ⟨_, hexec, _, getGroup_setGroup_self _ _ _, ⟨rfl, rfl, rfl, rfl⟩, rfl, by simp⟩
  · have hexec : exec (.yieldRetake g) s = .next (setGroup s g (takePipe { x with others := [] } p)) := by
      show execYieldRetake g s = _
      simp [execYieldRetake, hx, hrun, hothers, Path.runnable, hp, hcyc]
    exact ⟨_, hexec, _, getGroup_setGroup_self _ _ _, ⟨rfl, rfl, rfl, rfl⟩, rfl, rfl⟩
  · have hexec : exec (.noWaypoint g) s = .next (groupFault s g 0x0106 (budgetOf s c - 1) none none) := by
      show execNoWaypoint g s = _
      simp [execNoWaypoint, hx, hctx, hc, hgo, hwaiting, hdone, hbudget]
    obtain ⟨r, hr⟩ := groupFault_spec hx hctx 0x0106 (budgetOf s c - 1) none none
    exact ⟨_, hexec, r, hr⟩

end Sys2Proof.Machine
end

section
/-! SUPPORT. A path that stands outside divergences and regions moves (R80, R83, R90, R106, R113); and O13. -/

namespace Sys2Proof.Machine

/-! ### Instructions that issue (R125) -/

section
variable {s : State} {g : Grp} {pr : BitVec 3} {pn : Bool} {e : Env} {l : List OField} {form op : Nat} {d a : BitVec 8} {prov : Nat → Bool}
  {ops : Nat → List OField} {fields : Nat → List (Nat × Bool)} {body : Env → State} {P : State → Prop} {i : Instr}

/-- An instruction that can issue has its own effect. -/
theorem does_issue (hexec : exec i s = .next (issue s g pr pn false form op d a prov ops fields body)) (h : CanIssue s g pr pn e l) (hp : prov e.ct = true)
    (hl : ops e.ct = l) (hf : ∀ p ∈ fields e.ct, p.2 = true) (hb : ∀ e' : Env, e' = { e with insn := e'.insn } → P (body e')) : Does i s P :=
  ⟨_, hexec, issue_of_canIssue h hp hl hf hb⟩

/-- So has one that takes no guard. -/
theorem does_issue_uncond (hexec : exec i s = .next (issue s g pr pn true form op d a prov ops fields body)) (hpr : pr = 0) (h : CanIssue s g pr pn e l)
    (hp : prov e.ct = true) (hl : ops e.ct = l) (hf : ∀ p ∈ fields e.ct, p.2 = true) (hb : ∀ e' : Env, e' = { e with insn := e'.insn } → P (body e')) :
    Does i s P := by
  have huncond : issue s g pr pn true form op d a prov ops fields body = issue s g pr pn false form op d a prov ops fields body := by
    subst hpr
    simp [issue, decodeCheck]
  exact does_issue (hexec.trans (congrArg _ huncond)) h hp hl hf hb

end

/-- An instruction without operands has its effect where its path can issue. -/
theorem does_bareOp {s : State} {g : Grp} {f : RForm} {e : Env} {i : Instr} {op : Nat} {body : Env → State} {P : State → Prop} (hty : f.ty = 0)
    (htail : PlainTail f) (hcan : CanIssue s g f.pr f.pn e (rOps f .z .z .z .z)) (hexec : exec i s = bareOp g f op body s)
    (hbody : ∀ e' : Env, e' = { e with insn := e'.insn } → P (body e')) : Does i s P := by
  obtain ⟨hrm, hsat, hsub⟩ := htail
  exact does_issue hexec hcan rfl rfl (by simp [plainTail, hty, hrm, hsat, hsub]) hbody

/-! ### Moves outside divergences and regions (R80) -/

/-- A path that can issue is ready, and its group has not stopped. -/
theorem env?_ready {s : State} {g : Grp} {pr : BitVec 3} {pn : Bool} {e : Env} (h : env? s g pr pn = some e) :
    e.p.stat = .ready ∧ e.x.stopped = false ∧ e.ex = e.p.mask &&& (if pn then ~~~e.x.pmask pr.toNat else e.x.pmask pr.toNat) := by
  unfold env? at h
  dsimp only at h
  split at h
  · split at h
    · split at h
      · cases h
      · next hstop =>
        cases h
        simp only [Bool.or_eq_true, not_or, Bool.not_eq_true, decide_eq_true_eq, not_not] at hstop
        obtain ⟨⟨-, hstopped⟩, hready⟩ := hstop
        exact ⟨hready, hstopped, rfl⟩
    · cases h
  · cases h

/-- An unguarded instruction is executed by all threads of its path. -/
theorem ex_of_unguarded {s : State} {g : Grp} {pr : BitVec 3} {pn : Bool} {e : Env} (h : env? s g pr pn = some e) (hpr : pr = 0)
    (hguard : ¬(pr = 0 ∧ pn = true)) : e.ex = e.p.mask := by
  obtain ⟨-, -, hex⟩ := env?_ready h
  have hpn : pn = false := by simpa [hpr] using hguard
  rw [hex, hpr, hpn]
  exact BitVec.and_allOnes

/-- The group's running path has been left at a new PC, and nothing else happens but what the group's counters say. -/
theorem finish_moveTo_straight {x : Group} {p : Path} (t : State) (g : Grp) (pc : W64) (taken : Bool) (cyc : Nat) (hrun : x.run = some p)
    (hregion : x.region = none) (hentry : p.entry = none) :
    finish t g (moveTo x pc taken cyc) = setGroup t g { x with run := some { p with pc := pc } } := by
  rw [moveTo_straight pc taken cyc hrun hregion hentry]
  rfl

theorem advance_straight {x : Group} {p : Path} (t : State) (g : Grp) (len : Nat) (hrun : x.run = some p) (hregion : x.region = none)
    (hentry : p.entry = none) :
    advance t g x len = setGroup t g { countIssue x with run := some { p with pc := p.pc + BitVec.ofNat 64 len } } := by
  simp only [advance, hrun]
  exact finish_moveTo_straight (x := countIssue x) t g _ false _ hrun hregion hentry

/-- Two groups differ in nothing but the waypoint counter, the stop and the count of issued instructions. -/
def ButCounts (x y : Group) : Prop := y = { x with wpCyc := y.wpCyc, stopped := y.stopped, issued := y.issued }

theorem ButCounts.refl (x : Group) : ButCounts x x := rfl

theorem ButCounts.countIssue {x y : Group} (h : ButCounts x y) : ButCounts x (countIssue y) := by
  rw [h]
  exact ButCounts.refl _

theorem ButCounts.withRun {x y : Group} {p : Path} (h : ButCounts x y) (hrun : x.run = some p) : ButCounts x { y with run := some p } := by
  rw [h, ← hrun]
  exact ButCounts.refl _

theorem ButCounts.region {x y : Group} (h : ButCounts x y) : y.region = x.region := by rw [h]

/-- Memory and register fields are as before. -/
def KeepsStore (s t : State) : Prop := t.mem = s.mem ∧ t.flds = s.flds

/-- What a group passes at a waypoint (R90). -/
def waypointed (s : State) (g : Grp) (x : Group) : Group :=
  { x with wpCyc := cycles s (coreHalf g.core), stopped := x.stopped || (getCore s g.core).preempting }

theorem waypointed_butCounts (s : State) (g : Grp) (x : Group) : ButCounts x (waypointed s g x) := rfl

theorem atWaypoint_eq {s : State} {g : Grp} {x : Group} (hx : getGroup s g = some x) : atWaypoint s g = setGroup s g (waypointed s g x) := by
  simp [atWaypoint, hx, waypointed]

/-- Where a branch may be a waypoint, the group is the same for its path. -/
theorem atWaypoint_ite {s : State} {g : Grp} {x : Group} (hx : getGroup s g = some x) (c : Prop) [Decidable c] :
    ∃ y, getGroup (if c then atWaypoint s g else s) g = some y ∧ ButCounts x y ∧ KeepsStore s (if c then atWaypoint s g else s) := by
  split
  · rw [atWaypoint_eq hx]
    exact ⟨_, getGroup_setGroup_self _ _ _, rfl, rfl, rfl⟩
  · exact ⟨x, hx, rfl, rfl, rfl⟩

/-- In `t` the path stands at `pc`, with the registers, memory and register fields that were there. -/
def Arrives (s t : State) (e : Env) (pc : W64) : Prop := RunsAt t e pc ∧ KeepsRegs t e ∧ KeepsStore s t

section
variable {s t : State} {e : Env} {y : Group} (hs : Straight e) (hrun : e.x.run = some e.p) (hy : ButCounts e.x y) (ht : KeepsStore s t)
include hs hrun hy ht

/-- A path goes on behind its instruction. -/
theorem arrives_advance (len : Nat) : Arrives s (advance t e.g y len) e (e.p.pc + BitVec.ofNat 64 len) := by
  obtain ⟨hregion, hentry⟩ := hs
  have hyrun : y.run = some e.p := by rw [hy]; exact hrun
  have hyregion : y.region = none := by rw [hy]; exact hregion
  rw [advance_straight t e.g len hyrun hyregion hentry]
  exact ⟨⟨_, getGroup_setGroup_self _ _ _, rfl⟩, ⟨_, getGroup_setGroup_self _ _ _, by rw [hy]; exact .refl e.x⟩, ht⟩

/-- A path goes to another PC. -/
theorem arrives_moveTo (pc : W64) (taken : Bool) (cyc : Nat) : Arrives s (finish t e.g (moveTo y pc taken cyc)) e pc := by
  obtain ⟨hregion, hentry⟩ := hs
  have hyrun : y.run = some e.p := by rw [hy]; exact hrun
  have hyregion : y.region = none := by rw [hy]; exact hregion
  rw [finish_moveTo_straight t e.g pc taken cyc hyrun hyregion hentry]
  exact ⟨⟨_, getGroup_setGroup_self _ _ _, rfl⟩, ⟨_, getGroup_setGroup_self _ _ _, by rw [hy]; exact .refl e.x⟩, ht⟩

end

/-! ### Branches (R101, R113) -/

/-- Threads that all name one target are one group. -/
theorem groupTargets_of_one {m : W32} {f : Nat → W64} {tgt : W64} (hm : m ≠ 0) (hf : ∀ k ∈ threads m, f k = tgt) : ∃ w, groupTargets m f = [(tgt, w)] := by
  unfold groupTargets
  cases hthreads : threads m with
  | nil => exact absurd hthreads (threads_ne_nil hm)
  | cons k l =>
    rw [hthreads] at hf
    refine List.foldlRecOn (motive := fun r => ∃ w, r = [(tgt, w)]) l _ ⟨bit 32 k, by simp [hf k List.mem_cons_self]⟩ ?_
    rintro _ ⟨w, rfl⟩ j hj
    exact ⟨w ||| bit 32 j, by simp [hf j (List.mem_cons_of_mem k hj)]⟩

section
variable {s : State} {e : Env} (hs : Straight e) (hrun : e.x.run = some e.p) (hx : getGroup s e.g = some e.x)
include hs hrun hx

/-- A branch that every thread of the path takes to one target. -/
theorem branch_of_one_target {tgt : Nat → W64} {pc : W64} (len : Nat) (rpc : W64) (insn : Nat) (hmask : e.p.mask ≠ 0) (hex : e.ex = e.p.mask)
    (htgt : ∀ k ∈ threads e.ex, tgt k = pc) (hfault : targetFault s e.ctx pc = none) : Arrives s (branch s e len tgt rpc insn) e pc := by
  obtain ⟨w, hw⟩ := groupTargets_of_one (by rwa [hex]) htgt
  have hrest : e.p.mask &&& ~~~e.ex = 0 := by rw [hex]; exact BitVec.and_not_self _
  obtain ⟨y, hy, hcounts, hkeeps⟩ := atWaypoint_ite hx ([(pc, w)].any (fun t => decide (t.1 ≤ e.p.pc)) = true)
  simp only [branch, hw, hrest, hy, List.findSome?_cons, List.findSome?_nil, hfault, Option.map_none, if_true, Option.getD_some]
  exact arrives_moveTo hs hrun hcounts.countIssue hkeeps pc _ _

/-- A branch that no thread executes falls through. -/
theorem branch_of_none (tgt : Nat → W64) (rpc : W64) (insn : Nat) (hex : e.ex = 0) : Arrives s (branch s e 8 tgt rpc insn) e (e.p.pc + 8) := by
  have htg : groupTargets e.ex tgt = [] := by rw [hex]; rfl
  simp only [branch, htg, hx, List.findSome?_nil, List.any_nil, Bool.false_eq_true, if_false, Option.getD_some]
  by_cases hrest : e.p.mask &&& ~~~e.ex = 0
  · simp only [hrest, if_true]
    exact arrives_advance hs hrun (ButCounts.refl _).countIssue ⟨rfl, rfl⟩ 8
  · simp only [hrest, if_false]
    exact arrives_moveTo hs hrun (ButCounts.refl _).countIssue ⟨rfl, rfl⟩ _ _ _

end

/-- The target of a branch is an offset in instructions. -/
theorem off8_eq_mul {w : Nat} (v : BitVec w) : off8 v = v.signExtend 64 * 8 := BitVec.shiftLeft_eq_mul_twoPow _ _

theorem does_bra {s : State} {g : Grp} {e : Env} {f : BForm} {P : State → Prop} (hcan : CanIssue s g f.pr f.pn e [])
    (hfield : (f.pr = 0 ∧ f.pn = false) ∨ f.rpc ≠ 0)
    (hbranch : ∀ e' : Env, e' = { e with insn := e'.insn } → P (branch s e' 8 (fun _ => e'.p.pc + off8 f.target) (e'.p.pc + off8 f.rpc) (insnB f.pr f.pn 0x180 f.rpc))) :
    Does (.bra g f) s P :=
  does_issue rfl hcan rfl rfl (by simpa using hfield) hbranch

/-! ### O13 -/

section
variable {s : State} {g : Grp} {e : Env} (hs : Straight e)
include hs

section
variable {f : RForm} (hty : f.ty = 0) (htail : PlainTail f) (hcan : CanIssue s g f.pr f.pn e (rOps f .z .z .z .z))
include hty htail hcan

theorem does_nop : Does (.nop g f) s (fun t => Arrives s t e (e.p.pc + 8)) := by
  obtain ⟨rfl, -, -, hrun⟩ := env?_some hcan.1
  exact does_bareOp hty htail hcan rfl fun e' he => he ▸ arrives_advance hs hrun (.refl e.x) ⟨rfl, rfl⟩ 8

/-- WAYPOINT clears the counter, and stops the group of a core that is to be pre-empted. -/
theorem does_waypoint : Does (.waypoint g f) s (fun t => Arrives s t e (e.p.pc + 8) ∧
    ∃ x : Group, getGroup t g = some x ∧ x.wpCyc = cycles s (coreHalf g.core) ∧ x.stopped = (getCore s g.core).preempting) := by
  obtain ⟨rfl, -, hx, hrun⟩ := env?_some hcan.1
  obtain ⟨-, hstopped, -⟩ := env?_ready hcan.1
  refine does_bareOp hty htail hcan rfl fun e' he => ?_
  rw [atWaypoint_eq hx, getGroup_setGroup_self, Option.getD_some]
  refine ⟨arrives_advance hs hrun (waypointed_butCounts s e.g e.x) ⟨rfl, rfl⟩ 8, ?_⟩
  obtain ⟨hregion, hentry⟩ := hs
  rw [advance_straight (x := waypointed s e.g e.x) _ e.g 8 hrun hregion hentry]
  exact ⟨_, getGroup_setGroup_self _ _ _, rfl, by simp [countIssue, waypointed, hstopped]⟩

/-- YIELD goes on where no other path could run. -/
theorem does_yield_alone (hnone : e.x.others.any Path.runnable = false) : Does (.yield g f) s (fun t => Arrives s t e (e.p.pc + 8)) := by
  obtain ⟨rfl, -, -, hrun⟩ := env?_some hcan.1
  refine does_bareOp hty htail hcan rfl fun e' he => ?_
  obtain ⟨-, -, -, hx, -⟩ := Env.eq_of_insn he
  simp only [hx, hnone, Bool.not_false, Bool.or_true, if_true]
  exact arrives_advance hs hrun (.refl e.x) ⟨rfl, rfl⟩ 8

/-- YIELD gives the pipe up to the other path. -/
theorem does_yield_gives_up {q : Path} (hothers : e.x.others = [q]) (hq : q.stat = .ready) (hno : q.yielding = false) (hex : e.ex ≠ 0) :
    Does (.yield g f) s (fun t => ∃ x : Group, getGroup t g = some x ∧ SameRegs e.x x ∧ x.run = some { q with ran := true } ∧
      x.others = [{ e.p with pc := e.p.pc + 8, yielding := true }]) := by
  obtain ⟨rfl, -, -, hrun⟩ := env?_some hcan.1
  obtain ⟨hready, -, -⟩ := env?_ready hcan.1
  obtain ⟨hregion, hentry⟩ := hs
  refine does_bareOp hty htail hcan rfl fun e' he => ?_
  obtain ⟨-, -, -, hx, hp, hex', -⟩ := Env.eq_of_insn he
  have hother : e.x.others.any Path.runnable = true := by simp [hothers, Path.runnable, hq]
  simp only [hx, hp, hex', hex, hother, decide_false, Bool.not_true, Bool.or_self, Bool.false_eq_true, if_false]
  generalize hy : ({ countIssue e.x with run := some { e.p with pc := e.p.pc + 8 } } : Group) = y
  have hyrun : y.run = some { e.p with pc := e.p.pc + 8 } := by rw [← hy]
  have hcheck : regionCheck y false = (y, none) := by simp [regionCheck, ← hy, countIssue, hregion]
  have hpark : ∀ cyc, parkRun y cyc = y := fun cyc => by simp [parkRun, hyrun, hentry]
  rw [hcheck]
  simp only [hpark, if_true]
  rw [giveUp_of_one_other hyrun (by rw [← hy]; exact hothers) hready hq]
  exact ⟨_, getGroup_setGroup_self _ _ _, by rw [← hy]; exact ⟨rfl, rfl, rfl, rfl⟩, by rw [← hno], by simp⟩

/-- EXIT of the only path ends the group. -/
theorem does_exit_last (hpr : f.pr = 0) (hothers : e.x.others = []) (hentries : e.x.entries = []) :
    Does (.exit g f) s (fun t => ∃ x : Group, getGroup t g = some x ∧ x.run = none ∧ x.others = [] ∧ SameRegs e.x x) := by
  obtain ⟨rfl, -, -, hrun⟩ := env?_some hcan.1
  have hex := ex_of_unguarded hcan.1 hpr hcan.2.1
  obtain ⟨hregion, -⟩ := hs
  refine does_bareOp hty htail hcan rfl fun e' he => ?_
  obtain ⟨-, -, -, hx, hp, hex', -⟩ := Env.eq_of_insn he
  have hall : e.p.mask &&& ~~~e.p.mask = 0 := BitVec.and_not_self _
  have hsettle : ∀ (n : Nat) (y : Group), y.entries = [] → settle n y = y := fun n y hy => by cases n <;> simp [settle, hy]
  have hexit : exitThreads (countIssue e.x) e.p.mask (cycles s (coreHalf e.g.core)) =
      ({ countIssue e.x with run := none, yieldCyc := cycles s (coreHalf e.g.core), lastLow := lowest e.p.mask }, none) := by
    simp [exitThreads, countIssue, hrun, leaveRegion, hregion, hentries, hsettle, choose, hothers, nextPath]
  simp only [hx, hp, hex', hex, hall, if_true, hexit]
  exact ⟨_, getGroup_setGroup_self _ _ _, rfl, hothers, ⟨rfl, rfl, rfl, rfl⟩⟩

/-- RET goes to the link. -/
theorem does_ret (hpr : f.pr = 0) (hlink : regsReady s e [linkReg] = true) (hfault : targetFault s e.ctx (BitVec.ofNat 64 (e.x.ureg 63)) = none) :
    Does (.ret g f) s (fun t => Arrives s t e (BitVec.ofNat 64 (e.x.ureg 63))) := by
  obtain ⟨rfl, -, hx, hrun⟩ := env?_some hcan.1
  obtain ⟨hrm, hsat, hsub⟩ := htail
  refine does_issue_uncond rfl hpr hcan rfl rfl (by simp [plainTail, hty, hrm, hsat, hsub]) fun e' he => ?_
  obtain ⟨-, -, hctx, hx', hp', -⟩ := Env.eq_of_insn he
  have hlink' : regsReady s e' [linkReg] = true := by rw [he]; exact hlink
  obtain ⟨y, hy, hcounts, hkeeps⟩ := atWaypoint_ite hx (BitVec.ofNat 64 (e.x.ureg 63) ≤ e.p.pc)
  have hinner : ((countIssue y).region.isSome && decide (e.p.depth ≠ 0)) = false := by rw [hcounts.countIssue.region, hs.1]; rfl
  simp only [hx', hp', hctx, hlink', hfault, hy, Option.getD_some, Bool.not_true, Bool.false_eq_true, if_false, hinner]
  exact arrives_moveTo hs hrun (hcounts.countIssue.withRun hrun) hkeeps _ _ _

end

/-- CALL goes to its target and links. -/
theorem does_call {f : BForm} {tgt : W64} (hcan : CanIssue s g f.pr f.pn e []) (hpr : f.pr = 0) (hrpc : f.rpc = 0) (hlink : regsReady s e [linkReg] = true) (htgt : tgt = e.p.pc + off8 f.target)
    (hfault : targetFault s e.ctx tgt = none) :
    Does (.call g f) s (fun t => RunsAt t e tgt ∧ ∃ x : Group, getGroup t g = some x ∧ x.ureg 63 = (e.p.pc + 8).toNat ∧
      (∀ u, u ≠ 63 → x.ureg u = e.x.ureg u) ∧ x.xs = e.x.xs ∧ x.preds = e.x.preds) := by
  subst htgt
  obtain ⟨rfl, -, hx, hrun⟩ := env?_some hcan.1
  obtain ⟨hregion, hentry⟩ := hs
  refine does_issue_uncond rfl hpr hcan rfl rfl (by simp [hrpc]) fun e' he => ?_
  obtain ⟨-, -, hctx, hx', hp', -⟩ := Env.eq_of_insn he
  have hlink' : regsReady s e' [linkReg] = true := by rw [he]; exact hlink
  obtain ⟨y, hy, hcounts, -⟩ := atWaypoint_ite hx (e.p.pc + off8 f.target ≤ e.p.pc)
  have hyregion : y.region = none := by rw [hcounts]; exact hregion
  simp only [hx', hp', hctx, hlink', hfault, hy, Option.getD_some, Bool.not_true, Bool.false_eq_true, if_false]
  rw [finish_moveTo_straight (p := e.p) _ _ _ _ _ (by simp [countIssue, Group.setU, hyregion]) (by exact hyregion) hentry]
  refine ⟨⟨_, getGroup_setGroup_self _ _ _, rfl⟩, _, getGroup_setGroup_self _ _ _, ?_, fun u hu => ?_, ?_, ?_⟩
  · simp [countIssue, Group.setU, Group.ureg]
  · rw [hcounts]
    exact SMap.getD_set_ne _ _ _ _ hu
  · rw [hcounts]; rfl
  · rw [hcounts]; rfl

end

/-- Settles O13: each instruction by the one move that its path makes. -/
theorem controlTransfers : Obligations.ControlTransfers := by
  unfold Obligations.ControlTransfers
  intro s g e hs
  refine ⟨fun f hty htail hcan => ⟨?_, ?_, fun hnone => ?_, fun q => does_yield_gives_up hs hty htail hcan, does_exit_last hs hty htail hcan,
      fun hpr hlink hfault => ?_⟩, ?_, fun f tgt hty htail hhigh hw2 hcan hmask hex htgt hfault => ?_⟩
  · obtain ⟨t, hexec, hruns, hregs, hmem, hflds⟩ := does_nop hs hty htail hcan
    exact ⟨t, hexec, hruns, hregs, hmem, hflds⟩
  · obtain ⟨t, hexec, ⟨hruns, hregs, hmem, hflds⟩, hx⟩ := does_waypoint hs hty htail hcan
    exact ⟨t, hexec, hruns, hregs, hmem, hflds, hx⟩
  · obtain ⟨t, hexec, hruns, hregs, hmem, -⟩ := does_yield_alone hs hty htail hcan hnone
    exact ⟨t, hexec, hruns, hregs, hmem⟩
  · obtain ⟨t, hexec, hruns, hregs, -⟩ := does_ret hs hty htail hcan hpr hlink hfault
    exact ⟨t, hexec, hruns, hregs⟩
  · intro f hcan tgt hfault
    obtain ⟨rfl, -, hx, hrun⟩ := env?_some hcan.1
    refine ⟨fun hmask hex hfield => ?_, fun hex hrpc => ?_, fun hpr _ hrpc hlink => ?_⟩
    · refine does_bra hcan hfield fun e' he => ?_
      rw [he, off8_eq_mul]
      obtain ⟨hruns, hregs, hmem, -⟩ := branch_of_one_target (e := { e with insn := e'.insn }) hs hrun hx 8 _ _ hmask hex (fun _ _ => rfl) hfault
      exact ⟨hruns, hregs, hmem⟩
    · refine does_bra hcan (.inr hrpc) fun e' he => ?_
      rw [he]
      obtain ⟨hruns, hregs, -⟩ := branch_of_none (e := { e with insn := e'.insn }) hs hrun hx _ _ _ hex
      exact ⟨hruns, hregs⟩
    · exact does_call hs hcan hpr hrpc hlink (by rw [off8_eq_mul]) hfault
  · obtain ⟨rfl, -, hx, hrun⟩ := env?_some hcan.1
    obtain ⟨hrm, hsat, hsub⟩ := htail
    have hrpc : f.w2.extractLsb' 0 24 ≠ 0 := by
      intro h
      have : f.w2.toNat % 2 ^ 24 = 0 := by simpa using congrArg BitVec.toNat h
      exact hw2 (BitVec.eq_of_toNat_eq (by simp; omega))
    refine does_issue rfl hcan rfl rfl (by simpa [plainTail, hty, hrm, hsat, hsub] using ⟨hrpc, by omega⟩) fun e' he => ?_
    rw [he]
    obtain ⟨hruns, hregs, hmem, -⟩ := branch_of_one_target (e := { e with insn := e'.insn }) hs hrun hx 16 _ _ hmask hex
      (fun k hk => htgt k (mem_threads.1 hk).1 (mem_threads.1 hk).2) hfault
    exact ⟨hruns, hregs, hmem⟩

end Sys2Proof.Machine
end

section
/-! SUPPORT. What ST does by its addresses (R87, R89, R115); and O22. -/

namespace Sys2Proof.Machine

/-! ### Addresses of the loft and their faults (R87, R115) -/

/-- The offset in the loft that a thread accesses (R115). -/
def loftOff (e : Env) (a c : BitVec 8) (k : Nat) : Nat := (e.x.opnd e.sc 32 a k + e.x.opnd e.sc 32 c k) % 2 ^ 32

theorem wrap_add_sext (a c : Nat) : wrap 32 ((a : Int) + sext 32 c) = (a + c) % 2 ^ 32 := by
  unfold wrap sext
  split <;> omega

theorem addrs_loft (e : Env) (a c : BitVec 8) : addrs e true a c = (threads e.ex).map (fun k => (k, loftOff e a c k)) := by
  simp only [addrs, wrap_add_sext, loftOff, if_true]

theorem addrFault_loft_none {e : Env} {align : Nat} {l : List Acc1} (h : ∀ q ∈ l, q.2 < loftSize e.g.core ∧ q.2 % align = 0) :
    addrFault e true align l = none := by
  have hrange : l.findSome? (fun q => if q.2 ≥ loftSize e.g.core then some (0x0204, q.2, q.2) else none) = none := by
    simp only [List.findSome?_eq_none_iff]
    intro q hq
    rw [if_neg (Nat.not_le.2 (h q hq).1)]
  have halign : l.findSome? (fun q => if q.2 % align ≠ 0 then some (0x0203, align, q.2) else none) = none := by
    simp only [List.findSome?_eq_none_iff]
    intro q hq
    rw [if_neg (not_not.2 (h q hq).2)]
  simp only [addrFault, if_true, hrange, halign, Option.orElse_none]

section
variable {e : Env} {align a k : Nat}

theorem addrFault_loft_range (h : loftSize e.g.core ≤ a) : addrFault e true align [(k, a)] = some (0x0204, a, a) := by simp [addrFault, h]

theorem addrFault_loft_align (hrange : a < loftSize e.g.core) (h : a % align ≠ 0) : addrFault e true align [(k, a)] = some (0x0203, align, a) := by
  simp [addrFault, Nat.not_le.2 hrange, h]

theorem addrFault_va_range (h : 2 ^ 48 ≤ a) : addrFault e false align [(k, a)] = some (0x0201, 0, a) := by
  have hhigh : a / 2 ^ 48 ≠ 0 := by omega
  simp only [addrFault, Bool.false_eq_true, if_false, List.findSome?_cons, if_pos hhigh, Option.orElse_some]

theorem addrFault_va_align (hrange : a < 2 ^ 48) (h : a % align ≠ 0) : addrFault e false align [(k, a)] = some (0x0203, align, a) := by
  have hlow : ¬a / 2 ^ 48 ≠ 0 := by omega
  simp only [addrFault, Bool.false_eq_true, if_false, List.findSome?_cons, if_neg hlow, List.findSome?_nil, Option.orElse_none, if_pos h]

end

/-! ### A single access and its translation (R485, R491) -/

section
variable {s : State} {e : Env} {acc : Access} {k va : Nat}

theorem translAll_one_fault {code detail : Nat} (h : transl s e va acc = .fault code detail) :
    translAll s e acc [(k, va)] = .error (some (code, detail, faultAddr e va code), none) := by simp [translAll, h]

theorem translAll_one_miss (h : tlbFind e.k.tlb e.ctx va = none) : translAll s e acc [(k, va)] = .error (none, some va) := by
  simp [translAll, transl, h]

/-- A walk is asked for once for a page; memory and cores do not change. -/
theorem askWalk_asks (s : State) (e : Env) (va : Nat) (acc : Access) :
    (askWalk s e va acc).mem = s.mem ∧ (askWalk s e va acc).cores = s.cores ∧
      ((∀ v ∈ s.deck.walks, ¬(v.ctx = e.ctx ∧ v.va / 65536 = va / 65536 ∧ v.agent = .core e.g.core)) →
        ∃ q : WalkReq, (askWalk s e va acc).deck.walks = s.deck.walks ++ [q] ∧ q.ctx = e.ctx ∧ q.va = va ∧ q.acc = acc ∧ q.agent = .core e.g.core ∧
          q.half = coreHalf e.g.core) := by
  unfold askWalk
  dsimp only
  split
  · next hasked =>
    obtain ⟨v, hv, hsame⟩ := List.any_eq_true.1 hasked
    simp only [Bool.and_eq_true, decide_eq_true_eq, and_assoc] at hsame
    exact ⟨rfl, rfl, fun hnew => absurd hsame (hnew v hv)⟩
  · exact ⟨rfl, rfl, fun _ => ⟨_, rfl, rfl, rfl, rfl, rfl, rfl⟩⟩

end

/-- What becomes of an instruction that its translation stops: a fault, or a walk for the first access that misses. -/
def untranslated (s : State) (e : Env) (insn : Nat) (acc : Access) : Option (Nat × Nat × Nat) × Option Nat → State
  | (some f, _) => memFault s e insn f
  | (none, some va) => askWalk s e va acc
  | _ => s

/-! ### ST (R115) -/

/-- The fields of a load or store of up to 8 bytes pass the checks of its form. -/
theorem mChecks_access {f : MForm} (hsize : f.size.toNat ≤ 3) (hspace : f.space.toNat ≤ 1) (hhint : f.hint.toNat ≤ 4) (haop : f.aop.toNat ≤ 1) (hty : f.ty = 0) :
    ∀ p ∈ mChecks f [0, 1, 2, 3, 4] [0, 1] (f.ty = 0), p.2 = true :=
  mChecks_ok (by simp; omega) hspace hhint (by simp; omega) (by simp [hty])

section
variable {s : State} {g : Grp} {f : MForm} {e : Env} {n : Nat} (hsize : f.size.toNat ≤ 3) (hn : n = 2 ^ f.size.toNat) (hspace : f.space.toNat ≤ 1)
  (hhint : f.hint.toNat ≤ 4) (haop : f.aop.toNat ≤ 1) (hty : f.ty = 0) (hfences : e.p.fences = [])
  (hcan : CanIssue s g f.pr f.pn e [⟨16, f.d, .z⟩, ⟨24, f.a, baseKind f.space⟩, ⟨32, f.b, dataKind f.size.toNat⟩, ⟨40, f.c, .r⟩])
include hsize hn hspace hhint haop hty hfences hcan

/-- ST faults where an address does. -/
theorem does_st_of_addrFault {fl : Nat × Nat × Nat} (haddr : addrFault e (f.space = 1) n (addrs e (f.space = 1) f.a f.c) = some fl) :
    Does (.st g f) s (fun t => Faulted s t e fl.1 fl.2.1) := by
  refine does_issue rfl hcan rfl rfl (mChecks_access hsize hspace hhint haop hty) fun e' he => ?_
  have haddr' : addrFault e' (f.space = 1) n (addrs e' (f.space = 1) f.a f.c) = some fl := by rw [he]; exact haddr
  obtain ⟨hg, -, -, -, hp, -⟩ := Env.eq_of_insn he
  simp only [hp, fenceHolds_of_no_fences hfences, ← hn, haddr', memFault, hg, Bool.false_eq_true, if_false]
  obtain ⟨rfl, -⟩ := env?_some hcan.1
  exact groupFault_faulted hcan.1 _ _ _ _

section
variable (haddr : addrFault e (f.space = 1) n (addrs e (f.space = 1) f.a f.c) = none) (hranges : heldRanges s g.core = [])
include haddr hranges

/-- ST of the loft writes each thread's bytes in turn. -/
theorem does_st_of_loft {P : State → Prop} (hsp : f.space = 1)
    (hP : P (advance (each (addrs e true f.a f.c) (fun s q => { s with mem := writeNat s.mem (loftAt g.core + q.2) n (e.x.opnd e.sc (8 * n) f.b q.1) }) s)
      g e.x 8)) : Does (.st g f) s P := by
  refine does_issue rfl hcan rfl rfl (mChecks_access hsize hspace hhint haop hty) fun e' he => ?_
  have haddr' : addrFault e' (f.space = 1) n (addrs e' (f.space = 1) f.a f.c) = none := by rw [he]; exact haddr
  have haddrs : addrs e' true f.a f.c = addrs e true f.a f.c := by rw [he]; rfl
  obtain ⟨-, -, -, hx, hp, -, hsc, -⟩ := Env.eq_of_insn he
  have hn16 : n ≠ 16 := by
    have := Nat.pow_le_pow_right (n := 2) (by decide) hsize
    omega
  simp only [hsp, decide_true, haddrs] at haddr'
  simp only [hp, hx, hsc, fenceHolds_of_no_fences hfences, ← hn, hsp, decide_true, haddr', haddrs, sbBlocked_of_no_ranges hranges, hn16, Bool.false_eq_true, if_false,
    if_true]
  exact hP

/-- ST of memory that a translation stops. -/
theorem does_st_of_stopped {P : State → Prop} {r : Option (Nat × Nat × Nat) × Option Nat} (hsp : f.space = 0)
    (htransl : translAll s e .write (addrs e false f.a f.c) = .error r)
    (hP : ∀ e' : Env, e' = { e with insn := e'.insn } → P (untranslated s e' (insnWord f.pr f.pn 2 0x201 f.d f.a) .write r)) : Does (.st g f) s P := by
  refine does_issue rfl hcan rfl rfl (mChecks_access hsize hspace hhint haop hty) fun e' he => ?_
  have haddr' : addrFault e' (f.space = 1) n (addrs e' (f.space = 1) f.a f.c) = none := by rw [he]; exact haddr
  have htransl' : translAll s e' .write (addrs e' false f.a f.c) = .error r := by rw [he]; exact htransl
  obtain ⟨-, -, -, -, hp, -⟩ := Env.eq_of_insn he
  have hsp0 : decide ((0 : BitVec 2) = 1) = false := rfl
  rw [hsp, hsp0] at haddr'
  simp only [hp, fenceHolds_of_no_fences hfences, ← hn, hsp, hsp0, haddr', htransl', sbBlocked_of_no_ranges hranges, Bool.false_eq_true, if_false]
  obtain ⟨_ | fl, _ | va⟩ := r <;> exact hP e' he

end

end

/-- Settles O22: ST of one thread, by what its address is. -/
theorem accessFaults : Obligations.AccessFaults := by
  unfold Obligations.AccessFaults
  intro s g f e n k hsize hn hhint haop hty hfences hk hcan lo va
  have haop' : f.aop.toNat ≤ 1 := by simp [haop]
  have hloft : f.space = 1 → addrs e (f.space = 1) f.a f.c = [(k, lo)] := fun hsp => by simp [hsp, addrs_loft, hk, loftOff, lo]
  have hmem : f.space = 0 → addrs e (f.space = 1) f.a f.c = [(k, va)] := fun hsp => by simp [hsp, addrs_of_one hk, va]
  obtain ⟨rfl, -⟩ := env?_some hcan.1
  have hfault : ∀ {fl : Nat × Nat × Nat}, f.space.toNat ≤ 1 → addrFault e (f.space = 1) n (addrs e (f.space = 1) f.a f.c) = some fl →
      Does (.st e.g f) s (fun t => Faulted s t e fl.1 fl.2.1) := fun hspace => does_st_of_addrFault hsize hn hspace hhint haop' hty hfences hcan
  have hnone : f.space = 0 → va < 2 ^ 48 → va % n = 0 → addrFault e (f.space = 1) n (addrs e (f.space = 1) f.a f.c) = none := fun hsp hr hal => by
    rw [hmem hsp, hsp]
    exact addrFault_none fun q hq => by obtain rfl := List.mem_singleton.1 hq; exact ⟨hr, hal⟩
  refine ⟨fun hsp hr => ?_, fun hsp hr hal => ?_, fun hsp hr => ?_, fun hsp hr hal => ?_, fun hsp hr hal hheld htransl => ?_, fun hsp hr hal hheld hmiss => ?_⟩
  · exact hfault (fl := (0x0204, lo, lo)) (by simp [hsp]) (by rw [hloft hsp, hsp]; exact addrFault_loft_range hr)
  · exact hfault (fl := (0x0203, n, lo)) (by simp [hsp]) (by rw [hloft hsp, hsp]; exact addrFault_loft_align hr hal)
  · exact hfault (fl := (0x0201, 0, va)) (by simp [hsp]) (by rw [hmem hsp, hsp]; exact addrFault_va_range hr)
  · exact hfault (fl := (0x0203, n, va)) (by simp [hsp]) (by rw [hmem hsp, hsp]; exact addrFault_va_align hr hal)
  · refine does_st_of_stopped hsize hn (by simp [hsp]) hhint haop' hty hfences hcan (hnone hsp hr hal) hheld hsp
      (by rw [addrs_of_one hk]; exact translAll_one_fault htransl) fun e' he => ?_
    obtain ⟨hg, -⟩ := Env.eq_of_insn he
    simp only [untranslated, memFault, hg]
    exact groupFault_faulted hcan.1 _ _ _ _
  · refine does_st_of_stopped hsize hn (by simp [hsp]) hhint haop' hty hfences hcan (hnone hsp hr hal) hheld hsp
      (by rw [addrs_of_one hk]; exact translAll_one_miss hmiss) fun e' he => ?_
    obtain ⟨-, -, hasked⟩ := askWalk_asks s e' va .write
    rw [he] at hasked ⊢
    exact fun ⟨_, _, hnew⟩ => hasked hnew

end Sys2Proof.Machine
end

section
/-! SUPPORT. Numbers in memory, loaded values in registers, and what a path that goes on leaves alone (R87, R89, R103, R115); and O18. -/

namespace Sys2Proof.Machine

/-! ### Numbers in memory (R3) -/

theorem length_natLe (n v : Nat) : (natLe n v).length = n := by
  induction n generalizing v with
  | zero => rfl
  | succ n ih => simp [natLe, ih]

theorem leNat_natLe (n v : Nat) : leNat (natLe n v) = v % 2 ^ (8 * n) := by
  induction n generalizing v with
  | zero => simp [natLe, leNat, Nat.mod_one]
  | succ n ih =>
    have hpow : 2 ^ (8 * (n + 1)) = 256 * 2 ^ (8 * n) := by rw [Nat.mul_succ, Nat.add_comm, Nat.pow_add]
    simp only [natLe, leNat, ih, hpow, Nat.mod_mul, BitVec.toNat_ofNat]

theorem leNat_lt (l : List Byte) : leNat l < 2 ^ (8 * l.length) := by
  induction l with
  | nil => simp [leNat]
  | cons b t ih =>
    have hpow : 2 ^ (8 * (b :: t).length) = 256 * 2 ^ (8 * t.length) := by rw [List.length_cons, Nat.mul_succ, Nat.add_comm, Nat.pow_add]
    have hb : b.toNat < 256 := b.isLt
    rw [leNat, hpow]
    omega

theorem readNat_lt (m : List Host.Cell) (a n : Nat) : readNat m a n < 2 ^ (8 * n) := by
  have h := leNat_lt (readBytes m a n)
  rwa [show (readBytes m a n).length = n by simp [readBytes]] at h

theorem readByte_writeNat_out (m : List Host.Cell) {a n c : Nat} (v : Nat) (h : c < a ∨ a + n ≤ c) : readByte (writeNat m a n v) c = readByte m c :=
  readByte_writeBytes_out m a c _ (by rwa [length_natLe])

theorem readNat_writeNat_self (m : List Host.Cell) (a n v : Nat) : readNat (writeNat m a n v) a n = v % 2 ^ (8 * n) := by
  have hbytes : readBytes (writeNat m a n v) a n = natLe n v := by
    refine List.ext_getElem (by simp [readBytes, length_natLe]) fun j hj hj' => ?_
    simp only [readBytes, List.getElem_map, List.getElem_range]
    exact readByte_writeBytes_in m a j _ hj'
  rw [readNat, hbytes, leNat_natLe]

theorem readNat_writeNat_out (m : List Host.Cell) {a n c k : Nat} (v : Nat) (h : c + k ≤ a ∨ a + n ≤ c) : readNat (writeNat m a n v) c k = readNat m c k := by
  unfold readNat readBytes
  refine congrArg leNat (List.map_congr_left fun j hj => readByte_writeNat_out m v ?_)
  have := List.mem_range.1 hj
  omega

/-- Aligned places of one size are the same or apart. -/
theorem aligned_apart {a b n : Nat} (ha : a % n = 0) (hb : b % n = 0) (hne : a ≠ b) : a + n ≤ b ∨ b + n ≤ a := by
  obtain ⟨i, rfl⟩ := Nat.dvd_of_mod_eq_zero ha
  obtain ⟨j, rfl⟩ := Nat.dvd_of_mod_eq_zero hb
  rcases Nat.lt_or_gt_of_ne (fun h => hne (by rw [h]) : i ≠ j) with h | h
  · exact .inl (by rw [← Nat.mul_succ]; exact Nat.mul_le_mul_left n h)
  · exact .inr (by rw [← Nat.mul_succ]; exact Nat.mul_le_mul_left n h)

/-! ### Threads of a mask -/

theorem threads_sorted (m : W32) : (threads m).Pairwise (· < ·) := List.pairwise_lt_range.filter _

/-- An executing thread stands between the lower ones and the higher ones. -/
theorem threads_split {m : W32} {k : Nat} (hk : k ∈ threads m) : ∃ l r, threads m = l ++ k :: r ∧ ∀ j ∈ r, k < j := by
  obtain ⟨l, r, h⟩ := List.append_of_mem hk
  have hsorted := threads_sorted m
  rw [h, List.pairwise_append, List.pairwise_cons] at hsorted
  exact ⟨l, r, h, hsorted.2.1.1⟩

theorem threads_bit {t : Nat} (ht : t < 32) : threads (bit 32 t) = [t] := by
  have : ∀ t < 32, threads (bit 32 t) = [t] := by decide
  exact this t ht

/-! ### Stores of the loft (R89, R115) -/

theorem opnd_lt (x : Group) (sc : Bool) {w : Nat} (hw : 0 < w) (hwide : w ≤ 32 ∨ w = 64) (c : BitVec 8) (k : Nat) : x.opnd sc w c k < 2 ^ w := by
  have hpos : 0 < 2 ^ w := Nat.two_pow_pos w
  have hone : 1 < 2 ^ w := Nat.one_lt_two_pow (by omega)
  have hpair : ∀ lo hi : Nat, ¬w ≤ 32 → lo % 2 ^ 32 + 2 ^ 32 * (hi % 2 ^ 32) < 2 ^ w := by
    intro lo hi h32
    obtain rfl : w = 64 := by omega
    omega
  unfold Group.opnd
  dsimp only
  split_ifs
  · exact Nat.mod_lt _ hpos
  · exact Nat.mod_lt _ hpos
  · exact hpair _ _ ‹_›
  · exact Nat.mod_lt _ hpos
  · exact Nat.lt_of_le_of_lt (Bool.toNat_le _) hone
  · exact hpos

/-- The memory that a store to the loft leaves: each thread's bytes written in turn. -/
theorem mem_each_store (l : List Nat) (at_ v : Nat → Nat) (n : Nat) (s : State) :
    each (l.map fun k => (k, at_ k)) (fun s q => { s with mem := writeNat s.mem (loftAt c + q.2) n (v q.1) }) s =
      { s with mem := l.foldl (fun m k => writeNat m (loftAt c + at_ k) n (v k)) s.mem } := by
  induction l generalizing s with
  | nil => rfl
  | cons k l ih => rw [List.map_cons, each_cons, ih]; rfl

section
variable {m : W32} {at_ v : Nat → Nat} {n base : Nat}

/-- A byte that no thread stores stays. -/
theorem readByte_stores_out {a : Nat} (h : ∀ k ∈ threads m, a < base + at_ k ∨ base + at_ k + n ≤ a) (mem : List Host.Cell) :
    readByte ((threads m).foldl (fun mem k => writeNat mem (base + at_ k) n (v k)) mem) a = readByte mem a :=
  foldl_read_of_miss (read := fun mem => readByte mem a) (fun mem k hk => readByte_writeNat_out mem (v k) (h k hk)) mem

/-- A thread's value stands where no later thread stores. -/
theorem readNat_stores {k : Nat} (hk : k ∈ threads m) (halign : ∀ j ∈ threads m, at_ j % n = 0) (hlast : ∀ j ∈ threads m, k < j → at_ j ≠ at_ k)
    (mem : List Host.Cell) :
    readNat ((threads m).foldl (fun mem k => writeNat mem (base + at_ k) n (v k)) mem) (base + at_ k) n = v k % 2 ^ (8 * n) := by
  obtain ⟨l, r, hthreads, hlater⟩ := threads_split hk
  have hmem : ∀ j ∈ r, j ∈ threads m := fun j hj => by rw [hthreads]; simp [hj]
  rw [hthreads, List.foldl_append, List.foldl_cons]
  rw [foldl_read_of_miss (read := fun mem => readNat mem (base + at_ k) n) fun mem j hj => readNat_writeNat_out mem (v j) ?_]
  · exact readNat_writeNat_self _ _ _ _
  · have := aligned_apart (halign j (hmem j hj)) (halign k hk) (hlast j (hmem j hj) (hlater j hj))
    omega

end

/-! ### Loaded values (R103, R115) -/

theorem sext_eq_toInt {w v : Nat} (hw : 0 < w) (hv : v < 2 ^ w) : sext w v = (BitVec.ofNat w v).toInt := by
  rw [BitVec.toInt_eq_msb_cond, BitVec.msb_eq_getLsbD_last, BitVec.getLsbD_ofNat, BitVec.toNat_ofNat, Nat.mod_eq_of_lt hv, sext]
  simp [hw]

/-- A loaded value as its destination takes it: extended by its sign where SIGN says so. -/
def loadVal (size : Nat) (sx : Bool) (v : Nat) : Nat := if sx && size < 4 then wrap 32 (sext (8 * size) v) else v

theorem loadVal_eq {size v : Nat} (hsize : 0 < size) (sx : Bool) (hv : v < 2 ^ (8 * size)) :
    loadVal size sx v = if sx = true ∧ size < 4 then ((BitVec.ofNat (8 * size) v).signExtend 32).toNat else v := by
  simp only [loadVal, Bool.and_eq_true, decide_eq_true_eq]
  split
  · rw [sext_eq_toInt (by omega) hv, BitVec.signExtend, BitVec.toNat_ofInt]; rfl
  · rfl

/-- An extended value fits its destination. -/
theorem loadVal_mod {n v : Nat} (hn : n = 1 ∨ n = 2 ∨ n = 4 ∨ n = 8) (sx : Bool) (hv : v < 2 ^ (8 * n)) :
    loadVal n sx v % 2 ^ (if n = 8 then 64 else 32) = if sx = true ∧ n < 4 then ((BitVec.ofNat (8 * n) v).signExtend 32).toNat else v := by
  rw [loadVal_eq (by omega) sx hv]
  split
  · next h =>
    rw [if_neg (show n ≠ 8 by omega)]
    exact Nat.mod_eq_of_lt (BitVec.isLt _)
  · refine Nat.mod_eq_of_lt (Nat.lt_of_lt_of_le hv (Nat.pow_le_pow_right (by decide) ?_))
    split <;> omega

/-- Loads of the threads of a mask, one after the other, are one result of that mask. -/
theorem foldl_loadPut {size : Nat} (hsize : size ≠ 16) (x : Group) (sc sx : Bool) (d : BitVec 8) (m : W32) (v : Nat → Nat) :
    (threads m).foldl (fun x t => loadPut x sc size sx d t (lowest m) (v t)) x =
      x.putRes sc (if size = 8 then 64 else 32) (sx && size < 4) d m (fun t => loadVal size sx (v t)) := by
  have hval : ∀ v, (if (sx && decide (size < 4)) = true then wrap (if size = 8 then 64 else 32) (sext (8 * size) v) else v) = loadVal size sx v := by
    intro v
    unfold loadVal
    split
    · next h =>
      have : size ≠ 8 := by simp at h; omega
      rw [if_neg this]
    · rfl
  have hput : ∀ x t, loadPut x sc size sx d t (lowest m) (v t) = if 0x80 ≤ d.toNat ∧ t ≠ lowest m then x else
      x.putRes sc (if size = 8 then 64 else 32) (sx && size < 4) d (bit 32 t) (fun _ => loadVal size sx (v t)) := by
    intro x t
    simp only [loadPut, if_neg hsize, hval]
    simp only [Bool.and_eq_true, decide_eq_true_eq]
  by_cases hd : d.toNat < 0x80
  · have hfold : ∀ (f : Group → Nat → Group) (x : Group), (∀ y, ∀ t ∈ threads m, loadPut y sc size sx d t (lowest m) (v t) = f y t) →
        (threads m).foldl (fun x t => loadPut x sc size sx d t (lowest m) (v t)) x = (threads m).foldl f x := fun f x h => List.foldl_ext _ _ x h
    conv_rhs => simp only [Group.putRes, if_pos hd]
    refine hfold _ x fun y t ht => ?_
    rw [hput, if_neg (by omega)]
    simp only [Group.putRes, if_pos hd, threads_bit (mem_threads.1 ht).1, List.foldl_cons, List.foldl_nil]
  · by_cases hd' : d.toNat < 0xC0
    · simp only [Group.putRes, if_neg hd, if_pos hd'] at hput ⊢
      cases hthreads : threads m with
      | nil => rfl
      | cons t l =>
        have hlow : lowest m = t := by simp [lowest, hthreads]
        have ht : t < 32 := (mem_threads.1 (hthreads ▸ List.mem_cons_self)).1
        have hsorted := threads_sorted m
        rw [hthreads, List.pairwise_cons] at hsorted
        have hrest : ∀ y, ∀ j ∈ l, loadPut y sc size sx d j (lowest m) (v j) = y := fun y j hj => by
          rw [hput, if_pos ⟨by omega, by have := hsorted.1 j hj; omega⟩]
        rw [List.foldl_cons, List.foldl_ext _ (fun y _ => y) _ hrest, List.foldl_fixed, hput, if_neg (by simp [hlow]), threads_bit ht]
    · simp only [Group.putRes, if_neg hd, if_neg hd'] at hput ⊢
      rw [List.foldl_ext _ (fun y _ => y) _ (fun y t _ => by rw [hput, ite_self]), List.foldl_fixed]

/-! ### What a result leaves alone (R102, R103) -/

section
variable {dest : OField} {sc : Bool}

/-- The registers of a destination: its own, and the next of a pair. -/
theorem mem_regs_self (h : dest.code.toNat < 0xC0) : dest.code.toNat ∈ dest.regs sc := by
  unfold OField.regs
  by_cases hx : dest.code.toNat < 0x80
  · simp only [if_pos hx]
    cases dest.kind <;> cases sc <;> simp
  · simp only [if_neg hx, if_neg (show dest.code.toNat ≠ 0xC8 by omega), List.mem_singleton]

theorem mem_regs_pair (h : dest.code.toNat < 0x80) (hkind : dest.kind = .w) : dest.code.toNat + 1 ∈ dest.regs false := by
  simp [OField.regs, h, hkind]

variable {m : W32} {x y : Group}

/-- Two groups differ in a destination's registers of the executing threads alone. -/
def ResFrame (dest : OField) (sc : Bool) (m : W32) (x y : Group) : Prop :=
  (∀ r k, k < 32 → (r ∉ dest.regs sc ∨ has m k = false) → y.xreg r k = x.xreg r k) ∧ (∀ u, 0x80 + u ∉ dest.regs sc → y.ureg u = x.ureg u) ∧
    y.preds = x.preds ∧ y.arith = x.arith

theorem ResFrame.refl (dest : OField) (sc : Bool) (m : W32) (x : Group) : ResFrame dest sc m x x := ⟨fun _ _ _ _ => rfl, fun _ _ => rfl, rfl, rfl⟩

theorem ResFrame.setX (h : ResFrame dest sc m x y) {q t : Nat} (ht : t ∈ threads m) (hq : q ∈ dest.regs sc) (w v : Nat) :
    ResFrame dest sc m x (y.setX w q t v) := by
  obtain ⟨hxs, hus, hpreds, harith⟩ := h
  obtain ⟨ht32, hexec⟩ := mem_threads.1 ht
  refine ⟨fun r k hk hr => ?_, hus, hpreds, harith⟩
  rw [Group.xreg_setX _ _ _ _ _ _ _ ht32 hk, if_neg, hxs r k hk hr]
  rintro ⟨rfl, rfl⟩
  rcases hr with hr | hr
  · exact hr hq
  · rw [hr] at hexec; cases hexec

theorem ResFrame.setU (h : ResFrame dest sc m x y) {u : Nat} (hu : 0x80 + u ∈ dest.regs sc) (v : Nat) : ResFrame dest sc m x (y.setU u v) := by
  obtain ⟨hxs, hus, hpreds, harith⟩ := h
  refine ⟨hxs, fun j hj => ?_, hpreds, harith⟩
  rw [← hus j hj]
  exact SMap.getD_set_ne _ _ _ _ (by rintro rfl; exact hj hu)

/-- A result changes its destination's registers for the executing threads, and nothing else. -/
theorem resFrame_putRes (x : Group) {w : Nat} (sx : Bool) (m : W32) (f : Nat → Nat) (hkind : sc = false → 32 < w → dest.kind = .w) :
    ResFrame dest sc m x (x.putRes sc w sx dest.code m f) := by
  unfold Group.putRes
  dsimp only
  split
  · next hx =>
    have hself : dest.code.toNat ∈ dest.regs sc := mem_regs_self (by omega)
    refine List.foldlRecOn (motive := ResFrame dest sc m x) _ _ (.refl dest sc m x) fun y hy t ht => ?_
    split_ifs with hsc hw
    · exact hy.setX ht hself _ _
    · exact hy.setX ht hself _ _
    · have hscF : sc = false := by simpa using hsc
      have hpair : dest.code.toNat + 1 ∈ dest.regs sc := hscF ▸ mem_regs_pair hx (hkind hscF (by omega))
      exact (hy.setX ht hself _ _).setX ht hpair _ _
  · split
    · next hx hu =>
      have hself : 0x80 + (dest.code.toNat - 0x80) ∈ dest.regs sc := by
        rw [Nat.add_sub_cancel' (by omega)]
        exact mem_regs_self hu
      split
      · exact .refl dest sc m x
      · exact (ResFrame.refl dest sc m x).setU hself _
    · exact .refl dest sc m x

end

/-! ### What a path that goes on leaves alone (R81, R143) -/

/-- Of a state, only the group's own entry, the halt of its core and the faults sent differ. -/
def GroupFrame (s t : State) (g : Grp) : Prop :=
  t = { s with cores := t.cores, sched := { s.sched with faults := t.sched.faults }, freeCtr := t.freeCtr } ∧
    (∀ c, c ≠ g.core → getCore t c = getCore s c) ∧
    getCore t g.core = { getCore s g.core with groups := (getCore t g.core).groups, halted := (getCore t g.core).halted } ∧
    ∀ h : Grp, gkey h ≠ gkey g → getGroup t h = getGroup s h

theorem GroupFrame.refl (s : State) (g : Grp) : GroupFrame s s g := ⟨rfl, fun _ _ => rfl, rfl, fun _ _ => rfl⟩

theorem GroupFrame.trans {s t u : State} {g : Grp} (h : GroupFrame s t g) (h' : GroupFrame t u g) : GroupFrame s u g := by
  obtain ⟨hst, hcores, hcore, hgroups⟩ := h
  obtain ⟨htu, hcores', hcore', hgroups'⟩ := h'
  refine ⟨?_, fun c hc => (hcores' c hc).trans (hcores c hc), ?_, fun k hk => (hgroups' k hk).trans (hgroups k hk)⟩
  · rw [htu, hst]
  · rw [hcore', hcore]

theorem groupFrame_setGroup (s : State) (g : Grp) (x : Group) : GroupFrame s (setGroup s g x) g := by
  refine ⟨rfl, fun c hc => ?_, ?_, fun h hkey => ?_⟩
  · simp [setGroup, getCore_setCore, hc]
  · simp [setGroup]
  · by_cases hc : h.core = g.core
    · simp [getGroup, setGroup, hc, SMap.get_put, hkey]
    · simp [getGroup, setGroup, getCore_setCore, hc]

theorem groupFrame_raiseFault (s : State) {g : Grp} {f : FaultRec} (hf : f.core = g.core) : GroupFrame s (raiseFault s f) g := by
  obtain ⟨-, -, -, hcore, -⟩ := raiseFault_spec s f
  have hstate : raiseFault s f = { s with cores := (raiseFault s f).cores, sched := { s.sched with faults := (raiseFault s f).sched.faults } } :=
    each_keeps (P := fun u => u = { s with cores := u.cores, sched := { s.sched with faults := u.sched.faults } }) _ _ (fun u c _ hu => by rw [hu]; rfl) _ rfl
  have hcores : ∀ c, c ≠ g.core → getCore (raiseFault s f) c = getCore s c := fun c hc =>
    each_keeps (P := fun u => getCore u c = getCore s c) _ _ (fun u j hj hu => by
      obtain ⟨q, hq, rfl⟩ := List.mem_map.1 hj
      have hcore : q.1 = f.core := of_decide_eq_true ((Bool.and_eq_true _ _).mp (List.mem_filter.1 hq).2).1
      rw [getCore_setCore, if_neg (by rw [hcore, hf]; exact hc), hu]) _ rfl
  refine ⟨?_, hcores, ?_, fun h _ => ?_⟩
  · rw [hstate]
  · rw [hcore]
  · rw [getGroup, hcore]; rfl

theorem groupFrame_pathFault (s : State) (g : Grp) (code detail : Nat) (insn addr : Option Nat) (active : W32) (pc : W64) :
    GroupFrame s (pathFault s g code detail insn addr active pc) g := by
  unfold pathFault
  split
  · exact groupFrame_raiseFault s rfl
  · exact .refl s g

theorem groupFrame_groupFault (s : State) (g : Grp) (code detail : Nat) (insn addr : Option Nat) : GroupFrame s (groupFault s g code detail insn addr) g := by
  unfold groupFault
  split
  · exact groupFrame_pathFault s g _ _ _ _ _ _
  · exact .refl s g

theorem groupFrame_finish (s : State) (g : Grp) (r : Group × Option (Nat × Nat)) : GroupFrame s (finish s g r) g := by
  unfold finish
  split
  · exact groupFrame_setGroup s g r.1
  · exact (groupFrame_setGroup s g r.1).trans (groupFrame_pathFault _ g _ _ _ _ _ _)
  · exact (groupFrame_setGroup s g r.1).trans (groupFrame_groupFault _ g _ _ _ _)

theorem groupFrame_advance (s : State) (g : Grp) (x : Group) (len : Nat) : GroupFrame s (advance s g x len) g := by
  unfold advance
  split
  · exact groupFrame_setGroup s g x
  · exact groupFrame_finish s g _

/-- A result with which a path goes on is a register instruction's whole effect. -/
theorem regFrame_advance {s : State} {e : Env} {dest : OField} {x : Group} (hx : ResFrame dest e.sc e.ex e.x x) (len : Nat) :
    RegFrame s (advance s e.g x len) e dest := by
  obtain ⟨hstate, hcores, hcore, hgroups⟩ := groupFrame_advance s e.g x len
  obtain ⟨⟨y, hy, hyxs, hyus, hypreds, hyarith⟩, hmem, -⟩ := advance_keeps s e.g x len
  obtain ⟨hxs, hus, hpreds, harith⟩ := hx
  refine ⟨hstate, hcores, hcore, hgroups, fun a => by rw [hmem], y, hy, fun r k hk hr => ?_, fun u hu => ?_, fun p _ => ?_, ?_⟩
  · rw [← hxs r k hk hr, Group.xreg, hyxs]; rfl
  · rw [← hus u hu, Group.ureg, hyus]; rfl
  · rw [Group.pmask, hypreds, hpreds]; rfl
  · rw [hyarith, harith]
    exact ⟨rfl, rfl, BitVec.and_self⟩

/-! ### LD and ST of the loft (R115) -/

section
variable {s : State} {g : Grp} {f : MForm} {e : Env} {n : Nat} (hsize : f.size.toNat ≤ 3) (hn : n = 2 ^ f.size.toNat) (hspace : f.space = 1)
  (hhint : f.hint.toNat ≤ 4) (haop : f.aop.toNat ≤ 1) (hty : f.ty = 0) (hfences : e.p.fences = []) (hranges : heldRanges s g.core = [])
  (hin : ∀ k ∈ threads e.ex, loftOff e f.a f.c k < loftSize g.core ∧ loftOff e f.a f.c k % n = 0)
include hsize hn hspace hhint haop hty hfences hranges hin

/-- LD puts each thread's bytes into its destination. -/
theorem does_ld_of_loft {P : State → Prop}
    (hcan : CanIssue s g f.pr f.pn e [⟨16, f.d, dataKind f.size.toNat⟩, ⟨24, f.a, baseKind f.space⟩, ⟨32, f.b, .z⟩, ⟨40, f.c, .r⟩])
    (hP : P (advance s g (e.x.putRes e.sc (if n = 8 then 64 else 32) ((f.aop = 1 : Bool) && n < 4) f.d e.ex
      (fun k => loadVal n (f.aop = 1) (readNat s.mem (loftAt g.core + loftOff e f.a f.c k) n))) 8)) : Does (.ld g f .ok) s P := by
  refine does_issue rfl hcan rfl rfl (mChecks_access hsize (by simp [hspace]) hhint haop hty) fun e' he => ?_
  obtain ⟨rfl, -⟩ := env?_some hcan.1
  have haddrs : addrs e' true f.a f.c = (threads e.ex).map (fun k => (k, loftOff e f.a f.c k)) := by rw [he]; exact addrs_loft e f.a f.c
  have haddr : addrFault e' true n ((threads e.ex).map (fun k => (k, loftOff e f.a f.c k))) = none := by
    rw [he]
    refine addrFault_loft_none fun q hq => ?_
    obtain ⟨k, hk, rfl⟩ := List.mem_map.1 hq
    exact hin k hk
  have hn16 : n ≠ 16 := by
    have := Nat.pow_le_pow_right (n := 2) (by decide) hsize
    omega
  obtain ⟨-, -, -, hx, hp, hex, hsc, -⟩ := Env.eq_of_insn he
  simp only [sramThen, hp, hx, hex, hsc, fenceHolds_of_no_fences hfences, ← hn, hspace, decide_true, haddrs, haddr, sbBlocked_of_no_ranges hranges, Bool.false_eq_true,
    if_false, if_true, List.foldl_map, foldl_loadPut hn16]
  exact hP

end

/-- Settles O18: a load is one register result; a store is its threads' writes in turn. -/
theorem loftAccess : Obligations.LoftAccess := by
  unfold Obligations.LoftAccess
  intro s g f e n hspace hsize hn hhint haop hty hfences hranges at_ hin w
  have hin' : ∀ k ∈ threads e.ex, loftOff e f.a f.c k < loftSize g.core ∧ loftOff e f.a f.c k % n = 0 := fun k hk =>
    hin k (mem_threads.1 hk).1 (mem_threads.1 hk).2
  have hwidth : n = 1 ∨ n = 2 ∨ n = 4 ∨ n = 8 := by
    have hcases : f.size.toNat = 0 ∨ f.size.toNat = 1 ∨ f.size.toNat = 2 ∨ f.size.toNat = 3 := by omega
    rcases hcases with h | h | h | h <;> simp [hn, h]
  refine ⟨fun hcan => ?_, fun hcan => ?_⟩
  · obtain ⟨rfl, -⟩ := env?_some hcan.1
    refine does_ld_of_loft hsize hn hspace hhint haop hty hfences hranges hin' hcan ?_
    have hkind : e.sc = false → 32 < w → dataKind f.size.toNat = .w := by
      intro _ hw
      have hsize3 : f.size.toNat = 3 := by
        by_contra h
        have := Nat.pow_le_pow_right (n := 2) (by decide) (show f.size.toNat ≤ 2 by omega)
        rw [show w = 32 from if_neg (by omega)] at hw
        exact absurd hw (by decide)
      rw [hsize3]; rfl
    have hw : w ≤ 32 ∨ w = 64 := by
      by_cases h : n = 8
      · exact .inr (if_pos h)
      · exact .inl (if_neg h).le
    generalize hv : (fun k => loadVal n (f.aop = 1) (readNat s.mem (loftAt e.g.core + loftOff e f.a f.c k) n)) = v
    refine ⟨regFrame_advance (resFrame_putRes (dest := ⟨16, f.d, dataKind f.size.toNat⟩) e.x _ e.ex _ hkind) 8, ?_⟩
    obtain ⟨⟨y, hy, hregs⟩, -⟩ := advance_keeps s e.g (e.x.putRes e.sc w ((f.aop = 1 : Bool) && n < 4) f.d e.ex v) 8
    refine ⟨y, hy, resultIs_putRes (sx := (f.aop = 1 : Bool) && n < 4) (f := v) (ar := (e.x.putRes e.sc w ((f.aop = 1 : Bool) && n < 4) f.d e.ex v).arith) hw (fun k _ => ?_)
      hregs⟩
    rw [← hv]
    exact (loadVal_mod hwidth (f.aop = 1) (readNat_lt s.mem (loftAt e.g.core + loftOff e f.a f.c k) n)).trans (by simp only [decide_eq_true_eq]; rfl)
  · obtain ⟨rfl, -⟩ := env?_some hcan.1
    have haddr : addrFault e (f.space = 1) n (addrs e (f.space = 1) f.a f.c) = none := by
      rw [hspace]
      refine addrFault_loft_none fun q hq => ?_
      rw [show decide ((1 : BitVec 2) = 1) = true from rfl, addrs_loft] at hq
      obtain ⟨k, hk, rfl⟩ := List.mem_map.1 hq
      exact hin' k hk
    refine does_st_of_loft hsize hn (by simp [hspace]) hhint haop hty hfences hcan haddr hranges hspace ?_
    rw [addrs_loft, mem_each_store]
    generalize hstored : (threads e.ex).foldl (fun m k => writeNat m (loftAt e.g.core + loftOff e f.a f.c k) n (e.x.opnd e.sc (8 * n) f.b k)) s.mem = mem
    obtain ⟨⟨y, hy, hregs⟩, hmem, -⟩ := advance_keeps { s with mem := mem } e.g e.x 8
    obtain ⟨hstate, -⟩ := groupFrame_advance { s with mem := mem } e.g e.x 8
    refine ⟨⟨y, hy, hregs⟩, by rw [hstate], fun a ha => ?_, fun k hlt hk hlast => ?_⟩
    · rw [hmem, ← hstored]
      exact readByte_stores_out (fun k hk => ha k (mem_threads.1 hk).1 (mem_threads.1 hk).2) s.mem
    · rw [hmem, ← hstored]
      refine (readNat_stores (at_ := loftOff e f.a f.c) (mem_threads.2 ⟨hlt, hk⟩) (fun j hj => (hin' j hj).2)
        (fun j hj hjk => hlast j (mem_threads.1 hj).1 hjk (mem_threads.1 hj).2) s.mem).trans (Nat.mod_eq_of_lt (opnd_lt _ _ (by omega) (by omega) _ _))

end Sys2Proof.Machine
end

section
/-! SUPPORT. Fences and locks of a path outside divergences and regions (R82, R117, R118, R160, R202); and O23. -/

namespace Sys2Proof.Machine

/-! ### Fences (R118, R160, R202) -/

section
variable {s : State} {c : Nat}

/-- A core without entries in the write-combining buffers flushes nothing. -/
theorem flushCore_of_no_writers (h : ∀ q ∈ s.deck.chans, ∀ w ∈ q.2.wcb, c ∉ w.writers) : flushCore s c = s := by
  have hnone : s.deck.chans.flatMap (fun q => (q.2.wcb.filter (fun w => w.writers.contains c)).map (·.line)) = [] := by
    rw [List.flatMap_eq_nil_iff]
    intro q hq
    rw [List.map_eq_nil_iff, List.filter_eq_nil_iff]
    exact fun w hw => by simpa using h q hq w hw
  rw [flushCore, hnone, each_nil]

/-- A release fence of a core without contributions and without combining entries sets nothing off. -/
theorem relStart_of_quiet (hcontr : contributed s c = []) (h : ∀ q ∈ s.deck.chans, ∀ w ∈ q.2.wcb, c ∉ w.writers) (scope : Nat) : relStart s c scope = (s, []) := by
  unfold relStart
  split
  · rfl
  · simp only [hcontr, each_nil, flushCore_of_no_writers h]

theorem fenceLate_of_no_contribution (hcontr : contributed s c = []) (r : FenceRec) : fenceLate s c r = false := by simp [fenceLate, hcontr]

/-- A fence without pushes or advances is done when its operations are. -/
theorem fenceDone_of_quiet {r : FenceRec} (hadvance : r.advance = false) (hlines : r.lines = []) (hops : ∀ o ∈ (getCore s c).outs, o.id ∉ r.ops) :
    fenceDone s c r = true := by
  have hquiet : fenceQuiet s c r = true := by
    simp only [fenceQuiet, List.all_eq_true]
    intro o ho
    simp [hops o ho]
  simp [fenceDone, hquiet, hadvance, hlines]

end

/-- A fence becomes pending on its path, which goes on. -/
theorem does_fenceOp {s : State} {g : Grp} {f : RForm} {e : Env} {i : Instr} {op scope : Nat} {acq : Bool} (hs : Straight e) (hty : f.ty = 0) (htail : PlainTail f)
    (hcan : CanIssue s g f.pr f.pn e (rOps f .z .z .z .z)) (hex : e.ex ≠ 0) (hcontr : contributed s g.core = [])
    (hwcb : ∀ q ∈ s.deck.chans, ∀ w ∈ q.2.wcb, g.core ∉ w.writers) (htag : (getCtx s e.ctx).bind (·.farTag) = none)
    (hexec : exec i s = fenceOp g f op scope acq s) :
    Does i s (fun t => t.mem = s.mem ∧ KeepsRegs t e ∧ ∃ (x : Group) (r : FenceRec), getGroup t g = some x ∧
      x.run = some { e.p with pc := e.p.pc + 8, fences := e.p.fences ++ [r] } ∧ r.acquire = acq ∧ r.scope = scope ∧
      r.ops = if acq then acqOps e.k g e.p else relOps s e.k scope) := by
  obtain ⟨rfl, -⟩ := env?_some hcan.1
  obtain ⟨hregion, hentry⟩ := hs
  refine does_bareOp hty htail hcan hexec fun e' he => ?_
  obtain ⟨-, hk, hctx, hx, hp, hex', -⟩ := Env.eq_of_insn he
  have hstart : (if acq = true then (s, []) else relStart s e.g.core scope) = (s, []) := by rw [relStart_of_quiet hcontr hwcb, ite_self]
  have hadvance : (if (acq && decide (scope = 3)) = true then startAdvance s e.ctx else (s, false)) = (s, false) := by
    have : startAdvance s e.ctx = (s, false) := by simp only [startAdvance, htag]
    rw [this, ite_self]
  simp only [hk, hctx, hx, hp, hex', hex, if_false, hstart, hadvance]
  generalize hr : FenceRec.mk acq scope (if acq then acqOps e.k e.g e.p else relOps s e.k scope) [] false false = r
  rw [advance_straight (x := { e.x with run := some { e.p with fences := e.p.fences ++ [r] } }) (p := { e.p with fences := e.p.fences ++ [r] }) s e.g 8 rfl
    hregion hentry]
  exact ⟨rfl, ⟨_, getGroup_setGroup_self _ _ _, ⟨rfl, rfl, rfl, rfl⟩⟩, _, r, getGroup_setGroup_self _ _ _, rfl, by rw [← hr], by rw [← hr], by rw [← hr]⟩

/-- The running path's fences retire when what they wait for is answered and its core has nothing to push. -/
theorem execFenceRetire_quiet {s : State} {g : Grp} {x : Group} {p : Path} (hx : getGroup s g = some x) (hrun : x.run = some p)
    (hhalt : (getCore s g.core).halted = false) (hcontr : contributed s g.core = []) (hwcb : ∀ q ∈ s.deck.chans, ∀ w ∈ q.2.wcb, g.core ∉ w.writers)
    (hfences : ∀ r ∈ p.fences, r.advance = false ∧ r.lines = [] ∧ ∀ o ∈ (getCore s g.core).outs, o.id ∉ r.ops) :
    ∃ others entries, execFenceRetire g s = .next (setGroup s g { x with run := some { p with fences := [] }, others := others, entries := entries }) := by
  have hlate : ∀ l : List FenceRec, l.any (fenceLate s g.core) = false := fun l => by simp [fenceLate_of_no_contribution hcontr]
  have hdone : p.fences.filter (fun r => !fenceDone s g.core r) = [] := by
    rw [List.filter_eq_nil_iff]
    intro r hr
    obtain ⟨hadvance, hlines, hops⟩ := hfences r hr
    simp [fenceDone_of_quiet hadvance hlines hops]
  simp only [execFenceRetire, hx, hhalt, hlate, Bool.false_eq_true, if_false, flushCore_of_no_writers hwcb, ite_self, hrun, Option.map_some,
    fenceLate_of_no_contribution hcontr, List.map_id', hdone]
  exact ⟨_, _, rfl⟩

/-! ### Locks (R82, R86, R117) -/

theorem getGroup_addOut (s : State) (c : Nat) (o : OutOp) (g : Grp) : getGroup (addOut s c o) g = getGroup s g := by
  by_cases h : g.core = c
  · simp [getGroup, h, getCore_addOut]
  · simp [getGroup, addOut, getCore_setCore, h]

/-- ACQUIRE.Y of one thread asks the slice for its compare-and-swap, and its path waits for the answer. -/
theorem does_acquireY {s : State} {g : Grp} {f : LForm} {e : Env} {k sa va : Nat} (hty : f.r.ty = 13) (htail : PlainTail f.r) (hrpc : f.w2.extractLsb' 0 32 ≠ 0)
    (hhigh : f.w2.toNat / 2 ^ 34 = 0) (hct : e.ct ≠ 3) (hfences : e.p.fences = []) (hranges : heldRanges s g.core = []) (hk : threads e.ex = [k])
    (hcan : CanIssue s g f.r.pr f.r.pn e (rOps f.r .z .wr .rn .r)) (hfar : farCount e.k ≤ 256) (hloft : isLoft s sa = false) (hlocal : isLocal s (sa / 64) = true)
    (hva : va = wrap 64 ((e.x.opnd e.sc 64 f.r.a k : Int) + sext 32 (e.x.opnd e.sc 32 f.r.c k))) (hrange : va < 2 ^ 48) (halign : va % 4 = 0)
    (htransl : transl s e va .atomic = .ok sa false) :
    Does (.acquireY g f) s (fun t => ∃ (o : OutOp) (m : Msg),
      t = send (addOut (setGroup (l1Stale s g.core (sa / 64)) g { e.x with run := some { e.p with stat := .locking e.k.nextOp } }) g.core o) m ∧
      m.kind = .atom ∧ m.req = .core g.core ∧ m.line = sa / 64 ∧ m.op = 7 ∧ m.data = BitVec.ofNat 512 (2 ^ 64 * e.x.opnd e.sc 32 f.r.b k)) := by
  obtain ⟨rfl, -⟩ := env?_some hcan.1
  obtain ⟨hrm, hsat, hsub⟩ := htail
  refine does_issue rfl hcan rfl (by simp [hct, hty, rOps]) (by simpa [plainTail, hty, hrm, hsat, hsub, isInt] using ⟨.inr hrpc, by omega⟩) fun e' he => ?_
  have haddrs : addrs e' false f.r.a f.r.c = [(k, va)] := by rw [he, hva]; exact addrs_of_one (e := { e with insn := e'.insn }) hk f.r.a f.r.c
  have haddr : addrFault e' false 4 [(k, va)] = none := addrFault_none fun q hq => by obtain rfl := List.mem_singleton.1 hq; exact ⟨hrange, halign⟩
  have hall : translAll s e' .atomic [(k, va)] = .ok [(k, va, sa, false)] := by
    rw [he]
    exact translAll_ok (sa := fun _ => sa) fun q hq => by obtain rfl := List.mem_singleton.1 hq; exact htransl
  have hcache : Cacheable s [(k, va, sa, false)] := fun q hq => by obtain rfl := List.mem_singleton.1 hq; exact ⟨hloft, hlocal, rfl⟩
  obtain ⟨-, hk', hctx, hx, hp, hex, hsc, -⟩ := Env.eq_of_insn he
  have hex0 : e.ex ≠ 0 := by
    intro h
    rw [h, show threads 0 = [] from rfl] at hk
    cases hk
  have hheld : uncHeld s [(k, va, sa, false)] 0 = false := by simp [uncHeld, hcache.uncLines_eq_nil]
  simp [hk', hx, hp, hex, hsc, hctx, hty, fenceHolds_of_no_fences hfences, haddrs, haddr, sbBlocked_of_no_ranges hranges, show ¬e.ex = 0#32 from hex0, hall, hheld, hlocal, Nat.not_lt.2 hfar,
    hloft, uncachedRead, distinct]
  exact ⟨_, _, rfl, rfl, rfl, rfl, rfl, rfl⟩

/-- RELEASE of scope CORE has nothing to wait for, and writes 0 to the loft. -/
theorem does_release_core {s : State} {g : Grp} {f : MForm} {e : Env} {k : Nat} {P : State → Prop} (hspace : f.space = 1) (hsize : f.size = 2)
    (hhint : f.hint.toNat ≤ 4) (haop : f.aop = 0) (hty : f.ty = 0) (hfences : e.p.fences = []) (hranges : heldRanges s g.core = []) (hk : threads e.ex = [k])
    (hcan : CanIssue s g f.pr f.pn e [⟨16, f.d, .z⟩, ⟨24, f.a, baseKind f.space⟩, ⟨32, f.b, .z⟩, ⟨40, f.c, .r⟩])
    (hrange : loftOff e f.a f.c k < loftSize g.core) (halign : loftOff e f.a f.c k % 4 = 0)
    (hP : P (advance { s with mem := writeNat s.mem (loftAt g.core + loftOff e f.a f.c k) 4 0 } g e.x 8)) : Does (.release g f) s P := by
  obtain ⟨rfl, -⟩ := env?_some hcan.1
  refine does_issue rfl hcan rfl rfl (mChecks_ok (by simp [hsize]) (by simp [hspace]) hhint (by simp [haop]) (by simp [hty])) fun e' he => ?_
  have haddrs : addrs e' true f.a f.c = [(k, loftOff e f.a f.c k)] := by rw [he]; exact (addrs_loft e f.a f.c).trans (by rw [hk]; rfl)
  have haddr : addrFault e' true 4 [(k, loftOff e f.a f.c k)] = none := by
    rw [he]
    exact addrFault_loft_none fun q hq => by obtain rfl := List.mem_singleton.1 hq; exact ⟨hrange, halign⟩
  obtain ⟨-, -, -, hx, hp, -⟩ := Env.eq_of_insn he
  have hdone : ∀ ops lines, ops = [] → lines = [] → fenceDone s e.g.core { acquire := false, scope := 0, ops := ops, lines := lines } = true := by
    rintro _ _ rfl rfl
    exact fenceDone_of_quiet rfl rfl fun _ _ => List.not_mem_nil
  simp [hp, hx, hsize, hspace, haop, fenceHolds_of_no_fences hfences, haddrs, haddr, sbBlocked_of_no_ranges hranges, hdone]
  exact hP

/-- Settles O23: the fences, one by one; ACQUIRE.Y; RELEASE. -/
theorem fencesAndLocks : Obligations.FencesAndLocks := by
  unfold Obligations.FencesAndLocks
  intro s g e hs
  refine ⟨fun f hty htail hcan hex hcontr hwcb htag p hp => ?_, fun x p hx hrun hhalt hcontr hwcb hfences => ?_, ?_, ?_⟩
  · simp only [List.mem_cons, List.not_mem_nil, or_false] at hp
    rcases hp with rfl | rfl | rfl | rfl | rfl | rfl <;> exact does_fenceOp hs hty htail hcan hex hcontr hwcb htag rfl
  · obtain ⟨others, entries, hexec⟩ := execFenceRetire_quiet hx hrun hhalt hcontr hwcb hfences
    exact ⟨_, hexec, rfl, _, getGroup_setGroup_self _ _ _, ⟨rfl, rfl, rfl, rfl⟩, rfl⟩
  · intro f k sa hty htail hrpc hhigh hct hfences hranges hk hcan hfar hloft hlocal va hrange halign htransl
    obtain ⟨t, hexec, o, m, ht, hkind, hreq, hline, hop, hdata⟩ :=
      does_acquireY hty htail hrpc hhigh hct hfences hranges hk hcan hfar hloft hlocal rfl hrange halign htransl
    have hlt : e.x.opnd e.sc 32 f.r.b k < 2 ^ 32 := opnd_lt e.x e.sc (by decide) (.inl le_rfl) f.r.b k
    have hnat : m.data.toNat = 2 ^ 64 * e.x.opnd e.sc 32 f.r.b k := by
      rw [hdata, BitVec.toNat_ofNat]
      omega
    obtain ⟨rfl, -⟩ := env?_some hcan.1
    refine ⟨t, hexec, by rw [ht]; rfl, ⟨m, by rw [ht]; rfl, hkind, hreq, hline, hop, by rw [hnat]; exact Nat.mul_mod_right _ _,
      by rw [hnat]; exact Nat.mul_div_cancel_left _ (by decide)⟩, { e.x with run := some { e.p with stat := .locking e.k.nextOp } }, ?_, ⟨rfl, rfl, rfl, rfl⟩, rfl⟩
    rw [ht]
    exact (getGroup_addOut _ _ _ _).trans (getGroup_setGroup_self _ _ _)
  · intro f k hspace hsize hhint haop hty hfences hranges hk hcan at_ hrange halign
    obtain ⟨rfl, -, hx, hrun⟩ := env?_some hcan.1
    refine does_release_core hspace hsize hhint haop hty hfences hranges hk hcan hrange halign ?_
    generalize hmem : writeNat s.mem (loftAt e.g.core + loftOff e f.a f.c k) 4 0 = mem
    obtain ⟨hruns, hregs, hkeep, -⟩ := arrives_advance (s := { s with mem := mem }) (t := { s with mem := mem }) hs hrun (.refl e.x) ⟨rfl, rfl⟩ 8
    refine ⟨?_, hruns, hregs, fun a ha => ?_⟩
    · rw [hkeep, ← hmem]
      exact readNat_writeNat_self _ _ _ _
    · rw [hkeep, ← hmem]
      exact readByte_writeNat_out _ _ ha

end Sys2Proof.Machine
end

section
/-! SUPPORT. Refusals at the requester, epochs, streams and the slices' scrub (R192, R196, R197, R205, R206, R208, R214, R463), for O48. -/

namespace Sys2Proof.Machine

/-! ### A message that has arrived (R261) -/

/-- The state with a message taken out of the networks. -/
def took (s : State) (m : Msg) : State := { s with coh := { s.coh with net := s.coh.net.erase m } }

theorem takeMsg_arrived {s : State} {m : Msg} (h : Arrived s m) : takeMsg s m = some (took s m) := if_pos h

/-! ### Refusals (R196, R197, R214) -/

section
variable {s : State} {m : Msg} {r : Refused}

theorem mem_of_refusedOf (h : refusedOf s m = some r) : r ∈ s.coh.refused := List.mem_of_find?_eq_some h

/-- A changed member of the list of refused requests. -/
theorem mem_map_refused (h : r ∈ s.coh.refused) (r' : Refused) : r' ∈ s.coh.refused.map (fun q => if q = r then r' else q) :=
  List.mem_map.2 ⟨r, h, if_pos rfl⟩

/-- NACK starts a wait of its request: the doubled one, and up to 15 cycles more. -/
theorem does_nack (ha : Arrived s m) (hkind : m.kind = .nack) (hr : refusedOf s m = some r) :
    Does (.nack m) s (fun t => t.coh.net = s.coh.net.erase m ∧ t.mem = s.mem ∧ ∃ q ∈ t.coh.refused, q.msg = r.msg ∧ q.armed = true ∧
      cycles s (agentHalf r.msg.req) + min (16 * 2 ^ (r.msg.tries - 1)) 1024 ≤ q.ready ∧
      q.ready ≤ cycles s (agentHalf r.msg.req) + min (16 * 2 ^ (r.msg.tries - 1)) 1024 + 15) := by
  have hr' : refusedOf (took s m) m = some r := hr
  refine ⟨_, show execNack m s = _ by simp only [execNack, hkind, ne_eq, not_true_eq_false, if_false, takeMsg_arrived ha, hr']; rfl, ?_⟩
  refine ⟨rfl, rfl, _, mem_map_refused (s := took s m) (mem_of_refusedOf hr) _, rfl, rfl, ?_, ?_⟩ <;> dsimp only
  · exact (Nat.add_le_add_left (Nat.le_add_right _ _) _)
  · have : ∀ j : Nat, j % 16 ≤ 15 := fun j => by omega
    rw [Nat.add_assoc]
    exact Nat.add_le_add_left (Nat.add_le_add_left (this _) _) _

/-- TICKET: its request waits for GO. -/
theorem does_ticket (ha : Arrived s m) (hkind : m.kind = .ticket) (hr : refusedOf s m = some r) :
    Does (.ticket m) s (fun t => t.coh.net = s.coh.net.erase m ∧ t.mem = s.mem ∧ ∃ q ∈ t.coh.refused, q.msg = r.msg ∧ q.ticket = true ∧ q.armed = true) := by
  have hr' : refusedOf (took s m) m = some r := hr
  refine ⟨_, show execTicket m s = _ by simp only [execTicket, hkind, ne_eq, not_true_eq_false, if_false, takeMsg_arrived ha, hr']; rfl, ?_⟩
  exact ⟨rfl, rfl, _, mem_map_refused (s := took s m) (mem_of_refusedOf hr) _, rfl, rfl, rfl⟩

/-- GO sends the request that held the ticket. -/
theorem does_go (ha : Arrived s m) (hkind : m.kind = .go) (hrefused : s.coh.refused = [r]) (hticket : r.ticket = true) (hreq : r.msg.req = m.req)
    (hline : r.msg.line = m.line) (hid : r.msg.id = m.id) (hdie : r.msg.die = m.die) :
    Does (.go m) s (fun t => t.coh.refused = [] ∧ t.coh.net = s.coh.net.erase m ++ [r.msg] ∧ t.mem = s.mem) := by
  have hfind : (took s m).coh.refused.find? (fun r => r.ticket && r.msg.req = m.req && r.msg.line = m.line && r.msg.id = m.id && r.msg.die = m.die) = some r := by
    simp [took, hrefused, hticket, hreq, hline, hid, hdie]
  refine ⟨_, show execGo m s = _ by simp only [execGo, hkind, ne_eq, not_true_eq_false, if_false, takeMsg_arrived ha, hfind]; rfl, ?_⟩
  refine ⟨?_, rfl, rfl⟩
  show s.coh.refused.erase r = []
  simp [hrefused]

/-- A line without tickets has nobody to call. -/
theorem grantGo_of_no_tickets {die line : Nat} (h : s.coh.tickets.get (lkey die line) = none) : grantGo s die line = s := by
  simp [grantGo, SMap.getD, h]

theorem kick_of_no_tickets {die line : Nat} (h : s.coh.tickets.get (lkey die line) = none) : kick s die line = s := by
  rw [kick, grantGo_of_no_tickets h, ite_self]

/-- PUTACK frees the line's victim buffer. -/
theorem does_putack {d sl : Nat} (ha : Arrived s m) (hkind : m.kind = .putack) (hreq : m.req = .guest d sl) (htickets : s.coh.tickets.get (lkey d m.line) = none) :
    Does (.putack m) s (fun t => t.coh.victims.get (lkey d m.line) = none ∧ t.coh.net = s.coh.net.erase m ∧ t = { s with coh := t.coh } ∧
      t.coh.lines = s.coh.lines) := by
  refine ⟨_, show execPutack m s = _ by
    simp only [execPutack, hkind, ne_eq, not_true_eq_false, if_false, takeMsg_arrived ha, hreq]
    rw [kick_of_no_tickets (die := d)]
    exact htickets, ?_⟩
  refine ⟨?_, rfl, rfl, rfl⟩
  exact (SMap.get_del _ _ _).trans (if_pos rfl)

/-- The wait is over: the request is sent again; before that nothing happens. -/
theorem execNackRetry_of_one (hrefused : s.coh.refused = [r]) (hmsg : r.msg = m) (harmed : r.armed = true) (hticket : r.ticket = false) :
    execNackRetry m s = .next (if r.ready ≤ cycles s (agentHalf m.req) then { s with coh := { s.coh with refused := [], net := s.coh.net ++ [m] } } else s) := by
  have hfind : s.coh.refused.find? (fun r => r.msg = m && r.armed && !r.ticket) = some r := by simp [hrefused, hmsg, harmed, hticket]
  simp only [execNackRetry, hfind]
  simp [hrefused]

end

/-! ### Epochs (R205, R206) -/

theorem epochKey_injective {k j tag : Nat} (h : k * 256 + tag = j * 256 + tag) : k = j := by omega

section
variable {s : State} {tag : Nat} {left ls : List Nat}

/-- What a step of an advance leaves alone. -/
theorem advanced_keeps (s : State) (tag : Nat) (ls : List Nat) :
    (advanced s tag ls).coh = { s.coh with advances := (advanced s tag ls).coh.advances } ∧ (advanced s tag ls).mem = s.mem ∧ (advanced s tag ls).flds = s.flds := by
  unfold advanced
  split
  · exact ⟨rfl, rfl, rfl⟩
  · dsimp only
    split <;> exact ⟨rfl, rfl, rfl⟩

/-- The advance of a tag is over with its last slices. -/
theorem advanced_done (h : s.coh.advances.find? (fun a => a.1 = tag) = some (tag, left)) (hall : ∀ k ∈ left, k ∈ ls) :
    ∀ a ∈ (advanced s tag ls).coh.advances, a.1 ≠ tag := by
  have hempty : left.filter (fun k => !ls.contains k) = [] := by simpa [List.filter_eq_nil_iff] using hall
  intro a ha
  simp only [advanced, h, hempty, List.isEmpty_nil, if_true] at ha
  simpa using (List.mem_filter.1 ha).2

/-- Slices that advance nothing leave the advance under way. -/
theorem advanced_nothing (h : s.coh.advances.find? (fun a => a.1 = tag) = some (tag, left)) (hleft : left ≠ []) :
    advanced s tag [] = { s with coh := (advanced s tag []).coh } := by
  simp [advanced, h, List.isEmpty_iff, hleft]

end

section
variable {s : State} {e : EpochAt} {left : List Nat}

/-- EPOCH at slices that all stand in the advance and sweep nothing. -/
theorem execEpoch_of_left (h : s.coh.advances.find? (fun a => a.1 = e.tag) = some (e.tag, left)) (hne : e.slices ≠ [])
    (hin : ∀ k ∈ e.slices, k ∈ left ∧ (k, e.tag) ∉ s.coh.sweeps) {full go : List Nat}
    (hfull : e.slices.filter (fun k => s.coh.epochs.getD (k * 256 + e.tag) 0 ≥ 0xFFFF) = full) (hgo : e.slices.filter (fun k => !full.contains k) = go) :
    execEpoch e s = .next (advanced { s with coh := { s.coh with
      sweeps := s.coh.sweeps ++ full.map (fun k => (k, e.tag))
      epochs := go.foldl (fun m k => m.set (k * 256 + e.tag) 0 (m.getD (k * 256 + e.tag) 0 + 1)) s.coh.epochs } } e.tag go) := by
  have hnow : e.slices.filter (fun k => left.contains k && !s.coh.sweeps.contains (k, e.tag)) = e.slices := by
    refine List.filter_eq_self.2 fun k hk => ?_
    obtain ⟨hleft, hsweep⟩ := hin k hk
    simp [hleft, hsweep]
  simp only [execEpoch, h, Option.map_some, Option.getD_some, hnow, hfull, hgo, List.isEmpty_iff, hne, if_false]

/-- Each slice's own epoch advances by one. -/
theorem epochs_advance {l : List Nat} (hnodup : l.Nodup) {k tag : Nat} (hk : k ∈ l) (m : SMap Nat) :
    (l.foldl (fun m k => m.set (k * 256 + tag) 0 (m.getD (k * 256 + tag) 0 + 1)) m).getD (k * 256 + tag) 0 = m.getD (k * 256 + tag) 0 + 1 := by
  have hother : ∀ (l : List Nat), k ∉ l → ∀ m : SMap Nat,
      (l.foldl (fun m k => m.set (k * 256 + tag) 0 (m.getD (k * 256 + tag) 0 + 1)) m).getD (k * 256 + tag) 0 = m.getD (k * 256 + tag) 0 := fun l hl m =>
    foldl_read_of_miss (read := fun m : SMap Nat => m.getD (k * 256 + tag) 0)
      (fun m j hj => SMap.getD_set_ne _ _ _ _ fun h => hl (by rw [epochKey_injective h]; exact hj)) m
  induction l generalizing m with
  | nil => cases hk
  | cons j l ih =>
    obtain ⟨hj, hl⟩ := List.nodup_cons.1 hnodup
    rw [List.foldl_cons]
    rcases List.mem_cons.1 hk with rfl | hk
    · rw [hother l hj, SMap.getD_set_self]
    · rw [ih hl hk, SMap.getD_set_ne _ _ _ _ fun h => hj (by rw [← epochKey_injective h]; exact hk)]

/-- Slices below the end of the range advance. -/
theorem does_epoch_advance (h : s.coh.advances.find? (fun a => a.1 = e.tag) = some (e.tag, left)) (hne : e.slices ≠ []) (hnodup : e.slices.Nodup)
    (hin : ∀ k ∈ e.slices, k ∈ left ∧ (k, e.tag) ∉ s.coh.sweeps) (hlow : ∀ k ∈ e.slices, s.coh.epochs.getD (k * 256 + e.tag) 0 < 0xFFFF) :
    Does (.epoch e) s (fun t => (∀ k ∈ e.slices, t.coh.epochs.getD (k * 256 + e.tag) 0 = s.coh.epochs.getD (k * 256 + e.tag) 0 + 1) ∧
      ((∀ k ∈ left, k ∈ e.slices) → ∀ a ∈ t.coh.advances, a.1 ≠ e.tag) ∧ t.coh.lines = s.coh.lines ∧ t.mem = s.mem ∧ t.flds = s.flds) := by
  have hfull : e.slices.filter (fun k => s.coh.epochs.getD (k * 256 + e.tag) 0 ≥ 0xFFFF) = [] :=
    List.filter_eq_nil_iff.2 fun k hk => by simpa using hlow k hk
  refine ⟨_, execEpoch_of_left h hne hin hfull (List.filter_eq_self.2 fun _ _ => rfl), ?_⟩
  generalize hu : ({ s with coh := { s.coh with
      sweeps := s.coh.sweeps ++ ([] : List Nat).map (fun k => (k, e.tag))
      epochs := e.slices.foldl (fun m k => m.set (k * 256 + e.tag) 0 (m.getD (k * 256 + e.tag) 0 + 1)) s.coh.epochs } } : State) = u
  obtain ⟨hcoh, hmem, hflds⟩ := advanced_keeps u e.tag e.slices
  refine ⟨fun k hk => ?_, fun hall => advanced_done (by rw [← hu]; exact h) hall, ?_, by rw [hmem, ← hu], by rw [hflds, ← hu]⟩
  · rw [hcoh, ← hu]
    exact epochs_advance hnodup hk _
  · rw [hcoh, ← hu]

/-- Slices at the end of the range sweep first. -/
theorem does_epoch_sweep (h : s.coh.advances.find? (fun a => a.1 = e.tag) = some (e.tag, left)) (hne : e.slices ≠ [])
    (hin : ∀ k ∈ e.slices, k ∈ left ∧ (k, e.tag) ∉ s.coh.sweeps) (hhigh : ∀ k ∈ e.slices, 0xFFFF ≤ s.coh.epochs.getD (k * 256 + e.tag) 0) :
    Does (.epoch e) s (fun t => (∀ k ∈ e.slices, (k, e.tag) ∈ t.coh.sweeps) ∧ t = { s with coh := t.coh }) := by
  have hfull : e.slices.filter (fun k => s.coh.epochs.getD (k * 256 + e.tag) 0 ≥ 0xFFFF) = e.slices :=
    List.filter_eq_self.2 fun k hk => by simpa using hhigh k hk
  have hgo : e.slices.filter (fun k => !e.slices.contains k) = [] := List.filter_eq_nil_iff.2 fun k hk => by simpa using hk
  have hleft : left ≠ [] := by
    rintro rfl
    exact hne (List.eq_nil_iff_forall_not_mem.2 fun k hk => absurd (hin k hk).1 List.not_mem_nil)
  refine ⟨_, execEpoch_of_left h hne hin hfull hgo, fun k hk => ?_, ?_⟩
  · obtain ⟨hcoh, -⟩ := advanced_keeps { s with coh := { s.coh with
      sweeps := s.coh.sweeps ++ e.slices.map (fun k => (k, e.tag))
      epochs := ([] : List Nat).foldl (fun m k => m.set (k * 256 + e.tag) 0 (m.getD (k * 256 + e.tag) 0 + 1)) s.coh.epochs } } e.tag []
    rw [hcoh]
    exact List.mem_append_right _ (List.mem_map.2 ⟨k, hk, rfl⟩)
  · exact advanced_nothing (left := left) h hleft

/-- The sweep's end: the tag's lines are gone from the slices, whose epochs start again. -/
theorem does_epochSweepDone (hne : e.slices ≠ []) (hin : ∀ k ∈ e.slices, (k, e.tag) ∈ s.coh.sweeps) :
    Does (.epochSweepDone e) s (fun t =>
      (∀ k ∈ e.slices, t.coh.epochs.getD (k * 256 + e.tag) 0 = 0 ∧ (k, e.tag) ∉ t.coh.sweeps) ∧
      (∀ x ∈ t.coh.lines, ¬(x.2.st = .far ∧ x.2.tag = e.tag ∧ x.1 / 2 ^ 46 * 96 + sliceOf (x.1 % 2 ^ 46) ∈ e.slices)) ∧
      FldFrame s t [.TH_EPOCH_SWEEP_COUNT] ∧ t.mem = s.mem) := by
  have hnow : e.slices.filter (fun k => s.coh.sweeps.contains (k, e.tag)) = e.slices := List.filter_eq_self.2 fun k hk => by simpa using hin k hk
  have hbumps : ∀ u, u = each e.slices (fun s k => bump s .TH_EPOCH_SWEEP_COUNT (k / 96)) (sweepTag s e.tag e.slices) →
      u.coh = (sweepTag s e.tag e.slices).coh ∧ u.mem = s.mem ∧ FldFrame s u [.TH_EPOCH_SWEEP_COUNT] := fun u hu => hu ▸
    each_keeps (P := fun u => u.coh = (sweepTag s e.tag e.slices).coh ∧ u.mem = s.mem ∧ FldFrame s u [.TH_EPOCH_SWEEP_COUNT]) e.slices
      (fun s k => bump s .TH_EPOCH_SWEEP_COUNT (k / 96)) (fun u k _ ⟨hcoh, hmem, hflds⟩ => ⟨hcoh, hmem, hflds.wr (f := .TH_EPOCH_SWEEP_COUNT) _ _ (.inl (by decide))⟩) _ ⟨rfl, rfl, .refl _ _ _⟩
  refine ⟨_, show execEpochSweepDone e s = _ by simp only [execEpochSweepDone, hnow, List.isEmpty_iff, hne, if_false]; rfl, ?_⟩
  generalize hu : each e.slices (fun s k => bump s .TH_EPOCH_SWEEP_COUNT (k / 96)) (sweepTag s e.tag e.slices) = u
  obtain ⟨hucoh, humem, huflds⟩ := hbumps u hu.symm
  obtain ⟨hcoh, hmem, hflds⟩ := advanced_keeps { u with coh := { u.coh with
    sweeps := u.coh.sweeps.filter (fun w => !(w.2 = e.tag && e.slices.contains w.1))
    epochs := e.slices.foldl (fun m k => m.del (k * 256 + e.tag)) u.coh.epochs } } e.tag e.slices
  refine ⟨fun k hk => ⟨?_, ?_⟩, fun x hx => ?_, huflds.trans (.of_flds hflds), hmem.trans humem⟩
  · rw [hcoh, SMap.getD]
    have hdel := foldl_read_of_hit (read := fun m : SMap Nat => m.get (k * 256 + e.tag)) (f := fun m j => m.del (j * 256 + e.tag)) (l := e.slices) (v := none)
      (hit := fun j => j = k) (fun m j _ hj => by rw [hj, SMap.get_del, if_pos rfl])
      (fun m j _ hj => by rw [SMap.get_del, if_neg fun h => hj (epochKey_injective h).symm]) ⟨k, hk, rfl⟩ u.coh.epochs
    rw [hdel]; rfl
  · rw [hcoh]
    simp [hk]
  · rw [hcoh, hucoh] at hx
    have hkeep := (List.mem_filter.1 hx).2
    exact fun ⟨hst, htag, hslice⟩ => by simp only [hst, htag, List.contains_iff_mem.2 hslice, decide_true, Bool.and_self, Bool.not_true, Bool.false_eq_true] at hkeep

end

/-! ### Streams and scrubs (R208, R463, R466) -/

theorem does_streamTimeout (s : State) (die slice range : Nat) (a : Agent) :
    Does (.streamTimeout die slice a range) s (fun t => t = { s with coh := { s.coh with streams := t.coh.streams } } ∧
      ∀ u ∈ t.coh.streams.getD (die * 96 + slice) [], u ∈ s.coh.streams.getD (die * 96 + slice) [] ∧
        ¬(u.agent = a ∧ u.range = range ∧ u.stamp + 4096 ≤ cycles s (sliceHalf die slice))) := by
  refine ⟨_, rfl, rfl, fun u hu => ?_⟩
  dsimp only at hu
  rw [SMap.getD_set_self, List.mem_filter] at hu
  obtain ⟨hmem, hkeep⟩ := hu
  exact ⟨hmem, fun ⟨ha, hrange, hstamp⟩ => by simp [ha, hrange, hstamp] at hkeep⟩

section
variable (s : State) (r : ErrRec)

/-- A record enters the log at the next number. -/
theorem logErr_spec : rd (logErr s r) .RL_ERR_HEAD_COUNT = (rd s .RL_ERR_HEAD_COUNT + 1) % 2 ^ Fld.RL_ERR_HEAD_COUNT.spec.w ∧
    FldFrame s (logErr s r) [.RL_ERR_HEAD_COUNT, .RL_ERR_HEAD_WRAPPED] ∧ (logErr s r).mem = s.mem ∧ (logErr s r).coh = s.coh ∧
    (logErr s r).rel.log.get (rd s .RL_ERR_HEAD_COUNT % 1024) = some { r with mst := mstNow s } := by
  unfold logErr
  extract_lets j _ t u
  have hu : rd u .RL_ERR_HEAD_COUNT = (rd s .RL_ERR_HEAD_COUNT + 1) % 2 ^ Fld.RL_ERR_HEAD_COUNT.spec.w := rd_wr_self _ _ _ _
  have hframe : FldFrame s u [.RL_ERR_HEAD_COUNT, .RL_ERR_HEAD_WRAPPED] := .wr (t := t) (f := .RL_ERR_HEAD_COUNT) (.of_flds rfl) _ _ (.inl (by decide))
  split
  · refine ⟨?_, hframe.wr (f := .RL_ERR_HEAD_WRAPPED) _ _ (.inl (by decide)), rfl, rfl, SMap.get_put_self _ _ _⟩
    rw [wr0, rd_wr_fld _ _ _ _ (by decide), hu]
  · exact ⟨hu, hframe, rfl, rfl, SMap.get_put_self _ _ _⟩

end

section
variable {s : State} {die line : Nat} {e : SEntry} (he : getLine s die line = some e)
include he

theorem execThatchScrub_ok : execThatchScrub die (sliceOf line) line .ok s = .next s := by simp [execThatchScrub, thatchRead, he]

/-- An uncorrectable dirty entry is marked bad and recorded. -/
theorem does_thatchScrub_uncorrectable (hst : e.st = .hd ∨ e.st = .gm ∨ e.st = .part) :
    Does (.thatchScrub die (sliceOf line) line .uncorrectable) s (fun t =>
      (∃ x : SEntry, getLine t die line = some x ∧ x = { e with bad := true }) ∧ rd t .RL_ERR_HEAD_COUNT = (rd s .RL_ERR_HEAD_COUNT + 1) % 2 ^ Fld.RL_ERR_HEAD_COUNT.spec.w ∧
      FldFrame s t [.RL_ERR_HEAD_COUNT, .RL_ERR_HEAD_WRAPPED] ∧ t.mem = s.mem) := by
  have hst' : (decide (e.st = .hd) || decide (e.st = .gm) || decide (e.st = .part)) = true := by simpa [or_assoc] using hst
  refine ⟨_, show execThatchScrub die (sliceOf line) line .uncorrectable s = _ by
    simp only [execThatchScrub, thatchRead, he, ne_eq, not_true_eq_false, if_false, hst', if_true]; rfl, ?_⟩
  generalize hr : ErrRec.mk _ _ _ _ _ _ _ _ _ _ _ = r
  obtain ⟨hcount, hframe, hmem, hcoh, -⟩ := logErr_spec (setLine s die line { e with bad := true }) r
  exact ⟨⟨_, by rw [getLine, hcoh]; exact getLine_setLine_self _ _ _ _, rfl⟩, hcount, hframe, hmem⟩

/-- A corrected entry is recorded where the unit has no recent record. -/
theorem does_thatchScrub_corrected (hcorr : s.rel.corr.get (unitSlice die (sliceOf line)) = none) :
    Does (.thatchScrub die (sliceOf line) line (.corrected 0)) s (fun t =>
      getLine t die line = some e ∧ rd t .RL_ERR_HEAD_COUNT = (rd s .RL_ERR_HEAD_COUNT + 1) % 2 ^ Fld.RL_ERR_HEAD_COUNT.spec.w ∧ t.mem = s.mem ∧
      ∃ r : ErrRec, t.rel.log.get (rd s .RL_ERR_HEAD_COUNT % 1024) = some r ∧ r.sev = 1 ∧ r.code = 0x0201 ∧ r.count = 1) := by
  refine ⟨_, show execThatchScrub die (sliceOf line) line (.corrected 0) s = _ by
    simp only [execThatchScrub, thatchRead, he, ne_eq, not_true_eq_false, if_false, logCorrected, hcorr]; rfl, ?_⟩
  generalize hu : ({ s with rel := { s.rel with corr := s.rel.corr.put (unitSlice die (sliceOf line)) (0, s.now) } } : State) = u
  obtain ⟨hcount, -, hmem, hcoh, hlog⟩ := logErr_spec u { mst := 0, code := 0x0201, sev := 1, strct := 6, loc := die * 96 + sliceOf line, addr := locLine line * 64, count := 1 }
  rw [← hu] at *
  exact ⟨by rw [getLine, hcoh]; exact he, hcount, hmem, _, hlog, rfl, rfl, rfl⟩

end

end Sys2Proof.Machine
end

section
/-! SUPPORT. Answers at a core and at a slice (R82, R110, R183, R192, R195, R199), and O48. -/

namespace Sys2Proof.Machine

/-! ### The end of an operation (R110) -/

/-- The core without the operation of a number. -/
def ended (s : State) (c id : Nat) : State := setCore s c { getCore s c with outs := (getCore s c).outs.filter (fun o => o.id ≠ id) }

theorem ended_outs (s : State) (c id : Nat) : ∀ q ∈ (getCore (ended s c id) c).outs, q.id ≠ id := by
  intro q hq
  simp only [ended, getCore_setCore, if_true] at hq
  simpa using (List.mem_filter.1 hq).2

/-- The operation of the only part ends with its answer. -/
theorem opDone_last {s : State} {c id : Nat} {o : OutOp} {p : Part} {f : Part → Bool} (hout : (getCore s c).outs.find? (fun q => q.id = id) = some o)
    (hparts : o.parts = [p]) (hf : f p = true) (hkind : ∀ rpc scope w d, o.kind ≠ .lock rpc scope w d) : opDone s c id f = ended s c id := by
  simp only [opDone, hout, hparts, List.filter_cons, hf, Bool.not_true, Bool.false_eq_true, if_false, List.filter_nil, List.isEmpty_nil]
  rfl

/-! ### Words that reach a core's registers (R183, R199) -/

/-- A word in an X register of a group, if the group is there. -/
def givenTo (s : State) (g : Grp) (d t v : Nat) : State :=
  match getGroup s g with
  | some x => setGroup s g (x.setX 32 d t v)
  | none => s

theorem givenTo_core (s : State) (g : Grp) (d t v : Nat) :
    getCore (givenTo s g d t v) g.core = { getCore s g.core with groups := (getCore (givenTo s g d t v) g.core).groups } := by
  unfold givenTo
  split
  · simp [setGroup]
  · rfl

theorem givenTo_keeps (s : State) (g : Grp) (d t v : Nat) : givenTo s g d t v = { s with cores := (givenTo s g d t v).cores } := by
  unfold givenTo
  split <;> rfl

/-- A word loaded into an X register. -/
theorem loadPut_word {d : BitVec 8} (hd : d.toNat < 0x80) {t : Nat} (ht : t < 32) (x : Group) (low v : Nat) :
    loadPut x false 4 false d t low v = x.setX 32 d.toNat t v := by
  have hx : ¬(0x80 ≤ d.toNat) := Nat.not_le.2 hd
  simp [loadPut, Group.putRes, hx, hd, threads_bit ht]

/-- In `t` the operation is over, and memory, register fields and the other messages are as they were. -/
def Ends (s : State) (m : Msg) (c : Nat) (t : State) : Prop :=
  t.mem = s.mem ∧ t.flds = s.flds ∧ t.coh.net = s.coh.net.erase m ∧ ∀ q ∈ (getCore t c).outs, q.id ≠ m.id

/-- In `t` the operation is over, and a word stands in its register. -/
def Gives (s : State) (m : Msg) (g : Grp) (d t v : Nat) (r : State) : Prop :=
  Ends s m g.core r ∧ ∀ x, getGroup s g = some x → ∃ y : Group, getGroup r g = some y ∧ y.xreg d t = v ∧
    (∀ r k, k < 32 → (r ≠ d ∨ k ≠ t) → y.xreg r k = x.xreg r k) ∧ y.us = x.us ∧ y.preds = x.preds ∧ y.arith = x.arith

/-- A word given to a group whose operation ends with it; the core's L1 may have taken the line before. -/
theorem gives_ended {s u : State} {m : Msg} {g : Grp} {l1 : SMap Line} (hcore : getCore u g.core = { getCore s g.core with l1 := l1 }) (hmem : u.mem = s.mem)
    (hflds : u.flds = s.flds) (hnet : u.coh.net = s.coh.net.erase m) {t : Nat} (ht : t < 32) (d v : Nat) :
    Gives s m g d t (v % 2 ^ 32) (ended (givenTo u g d t v) g.core m.id) ∧ (getCore (ended (givenTo u g d t v) g.core m.id) g.core).l1 = l1 := by
  have hgiven := givenTo_keeps u g d t v
  have hgroup : ∀ h : Grp, h.core = g.core → getGroup (ended (givenTo u g d t v) g.core m.id) h = getGroup (givenTo u g d t v) h := fun h hh => by
    simp [getGroup, ended, hh]
  refine ⟨⟨⟨?_, ?_, ?_, ended_outs _ _ _⟩, fun x hx => ?_⟩, ?_⟩
  · rw [ended, hgiven]; exact hmem
  · rw [ended, hgiven]; exact hflds
  · rw [ended, hgiven]; exact hnet
  · have hux : getGroup u g = some x := by rw [getGroup, hcore]; exact hx
    refine ⟨x.setX 32 d t v, ?_, ?_, fun q k hk hne => ?_, rfl, rfl, rfl⟩
    · rw [hgroup g rfl, givenTo, hux]; exact getGroup_setGroup_self _ _ _
    · rw [Group.xreg_setX _ _ _ _ _ _ _ ht ht, if_pos ⟨rfl, rfl⟩]
    · rw [Group.xreg_setX _ _ _ _ _ _ _ ht hk, if_neg (by omega)]
  · rw [ended, getCore_setCore, if_pos rfl, givenTo_core, hcore]

/-- L1 holds a line that it takes, and the core's other fields are as they were. -/
theorem l1Put_spec (s : State) (c line : Nat) (data : Line) :
    ∃ l1 : SMap Line, getCore (l1Put s c line data) c = { getCore s c with l1 := l1 } ∧ l1.get line = some data ∧ (l1Put s c line data).mem = s.mem ∧
      (l1Put s c line data).flds = s.flds ∧ (l1Put s c line data).coh = s.coh := by
  unfold l1Put
  dsimp only
  split
  all_goals exact ⟨_, by simp [free]; rfl, SMap.get_put_self _ _ _, rfl, rfl, rfl⟩

/-- An operation of one part ends behind the word that it gives. -/
theorem opDone_givenTo {u : State} {c id d t v : Nat} {o : OutOp} {p : Part} {f : Part → Bool} (hout : (getCore u c).outs.find? (fun q => q.id = id) = some o)
    (hparts : o.parts = [p]) (hf : f p = true) (hkind : ∀ rpc scope w d, o.kind ≠ .lock rpc scope w d) :
    opDone (givenTo u { core := c, pipe := o.pipe, slot := o.slot } d t v) c id f = ended (givenTo u { core := c, pipe := o.pipe, slot := o.slot } d t v) c id :=
  opDone_last (by rw [givenTo_core u { core := c, pipe := o.pipe, slot := o.slot }]; exact hout) hparts hf hkind

section
variable {s : State} {m : Msg} {c : Nat} {o : OutOp} {p : Part} (hout : (getCore s c).outs.find? (fun q => q.id = m.id) = some o) (hparts : o.parts = [p])
  (hline : p.addr / 64 = m.line)
include hout hparts hline

/-- Data of a load of one word. -/
theorem coreData_word {d : BitVec 8} {err : Nat} {data : Line} (hkind : o.kind = .load d false false) (hsize : p.size = 4) (hd : d.toNat < 0x80) (ht : p.thread < 32)
    (hct : coreType c ≠ 3) :
    coreData s c m.id m.line data 0 err = ended (givenTo (if o.install && !o.noFill.contains m.line && isLocal s m.line then l1Put s c m.line data else s)
      { core := c, pipe := o.pipe, slot := o.slot } d.toNat p.thread (lineNat data (p.addr % 64) 4)) c m.id := by
  have hinst : (o.install && !o.noFill.contains m.line && isLocal s m.line) = decide ((o.install = true ∧ m.line ∉ o.noFill) ∧ isLocal s m.line = true) := by
    simp [Bool.decide_and]
  have houtU : ∀ b : Bool, (getCore (if b then l1Put s c m.line data else s) c).outs.find? (fun q => q.id = m.id) = some o := by
    rintro (_ | _)
    · exact hout
    · obtain ⟨l1, hcore, -⟩ := l1Put_spec s c m.line data
      rw [if_pos rfl, hcore]
      exact hout
  rw [hinst, ← opDone_givenTo (houtU _) hparts (f := fun p => p.addr / 64 = m.line) (by simp [hline]) (by simp [hkind])]
  simp [coreData, hout, hkind, hparts, hline, hsize, hct, loadPut_word hd ht, givenTo] <;> rfl

/-- The result of an atomic of one word. -/
theorem coreResult_word {d : BitVec 8} {err v : Nat} (hkind : o.kind = .atom d) (hsize : p.size = 4) (hd : d.toNat < 0x80) (ht : p.thread < 32) (hthread : p.thread = m.thread)
    (hct : coreType c ≠ 3) :
    coreResult s c m.id m.line m.thread v 0 err = ended (givenTo s { core := c, pipe := o.pipe, slot := o.slot } d.toNat p.thread v) c m.id := by
  rw [← opDone_givenTo hout hparts (f := fun p => p.thread = m.thread && p.addr / 64 = m.line) (by simp [hline, hthread]) (by simp [hkind])]
  simp [coreResult, hout, hkind, hparts, hthread, hsize, hct, loadPut_word hd (hthread ▸ ht), givenTo] <;> rfl

section
variable (ha : Arrived s m) (hreq : m.req = .core c)
include ha hreq

/-- Data gives a load its word, and L1 the line where the load lets it. -/
theorem does_data_load {d : BitVec 8} (hop : m.op = 0) (ht : p.thread < 32) (hmkind : m.kind = .data) (hflags : m.flags = 0) (hkind : o.kind = .load d false false)
    (hsize : p.size = 4) (hd : d.toNat < 0x80) (hct : coreType c ≠ 3) :
    Does (.data m) s (fun t => Gives s m { core := c, pipe := o.pipe, slot := o.slot } d.toNat p.thread (lineNat m.data (p.addr % 64) 4) t ∧
      (o.install = true → isLocal s m.line = true → m.line ∉ o.noFill → (getCore t c).l1.get m.line = some m.data)) := by
  have hword : lineNat m.data (p.addr % 64) 4 % 2 ^ 32 = lineNat m.data (p.addr % 64) 4 := Nat.mod_mod _ _
  refine ⟨_, show execData m s = _ by
    simp only [execData, hmkind, ne_eq, not_true_eq_false, if_false, takeMsg_arrived ha, hop, hreq, hflags, Nat.zero_ne_one]
    rw [coreData_word (s := took s m) hout hparts hline hkind hsize hd ht hct], ?_⟩
  rw [show isLocal (took s m) m.line = isLocal s m.line from rfl]
  cases hinst : o.install && !o.noFill.contains m.line && isLocal s m.line with
  | true =>
    obtain ⟨l1, hcore, hget, hmem, hflds, hcoh⟩ := l1Put_spec (took s m) c m.line m.data
    obtain ⟨hgives, hl1⟩ := gives_ended (s := s) (m := m) (g := { core := c, pipe := o.pipe, slot := o.slot }) hcore hmem hflds (by rw [hcoh]; rfl) ht d.toNat
      (lineNat m.data (p.addr % 64) 4)
    rw [hword] at hgives
    exact ⟨hgives, fun _ _ _ => by rw [if_pos rfl, hl1]; exact hget⟩
  | false =>
    obtain ⟨hgives, -⟩ := gives_ended (s := s) (u := took s m) (m := m) (g := { core := c, pipe := o.pipe, slot := o.slot }) rfl rfl rfl rfl ht d.toNat
      (lineNat m.data (p.addr % 64) 4)
    rw [hword] at hgives
    exact ⟨hgives, fun hinstall hlocal hfill => by simp [hinstall, hlocal, hfill] at hinst⟩

/-- An atomic's result gives its word. -/
theorem does_atomicResult {d : BitVec 8} (ht : p.thread < 32) (hmkind : m.kind = .atomResult) (hflags : m.flags = 0) (hkind : o.kind = .atom d)
    (hthread : p.thread = m.thread) (hsize : p.size = 4) (hd : d.toNat < 0x80) (hct : coreType c ≠ 3) :
    Does (.atomicResult m) s (Gives s m { core := c, pipe := o.pipe, slot := o.slot } d.toNat p.thread (m.data.toNat % 2 ^ 32)) := by
  refine ⟨_, show execAtomicResult m s = _ by
    simp only [execAtomicResult, hmkind, ne_eq, not_true_eq_false, if_false, takeMsg_arrived ha, hreq, hflags]
    rw [coreResult_word (s := took s m) hout hparts hline hkind hsize hd ht hthread hct], ?_⟩
  exact (gives_ended (s := s) (u := took s m) (m := m) (g := { core := c, pipe := o.pipe, slot := o.slot }) rfl rfl rfl rfl ht d.toNat m.data.toNat).1

/-- An acknowledgement ends a store. -/
theorem does_ack_write (hop : m.op = 0) (hmkind : m.kind = .ack) (hkind : o.kind = .write) (hsize : p.size = 64) :
    Does (.ack m) s (fun t => Ends s m c t ∧ (getCore t c).groups = (getCore s c).groups) := by
  refine ⟨_, show execAck m s = _ by
    simp only [execAck, hmkind, ne_eq, not_true_eq_false, if_false, takeMsg_arrived ha, hop, hreq, Nat.zero_ne_one]
    rw [opDone_last (s := took s m) hout hparts (by simp [hline, hsize]) (by simp [hkind])], ?_⟩
  exact ⟨⟨rfl, rfl, rfl, ended_outs _ _ _⟩, by simp [ended]; rfl⟩

/-- FENCED ends a store and faults. -/
theorem does_fencedRsp {n : Nat} (hmkind : m.kind = .fenced) (hkind : o.kind = .write) (hctx : (getCore s c).ctx = some n) :
    Does (.fencedRsp m) s (fun t => Ends s m c t ∧ (getCore t c).halted = true ∧
      ∃ r : FaultRec, t.sched.faults = s.sched.faults ++ [r] ∧ r.ctx = n ∧ r.code = 0x0206 ∧ r.addr = some p.addr) := by
  have hend : opDone (took s m) c m.id (fun p => p.addr / 64 = m.line) = ended (took s m) c m.id :=
    opDone_last (s := took s m) hout hparts (by simp [hline]) (by simp [hkind])
  have hctx' : (getCore (ended (took s m) c m.id) c).ctx = some n := by simp only [ended, getCore_setCore, if_true]; exact hctx
  have hout' : (getCore (took s m) c).outs.find? (fun q => q.id = m.id) = some o := hout
  refine ⟨_, show execFencedRsp m s = _ by
    simp only [execFencedRsp, hmkind, ne_eq, not_true_eq_false, if_false, takeMsg_arrived ha, hreq, coreFail, hout', hend, hkind, hparts, opFault, pathFault, hctx',
      List.find?_cons, hline, decide_true, Option.map_some, Option.getD_some, Bool.true_or, if_true]
    rfl, ?_⟩
  generalize hr : FaultRec.mk _ _ _ _ _ _ _ _ _ _ _ _ _ _ _ = r
  obtain ⟨hfaults, hmem, hflds, -, hhalt⟩ := raiseFault_spec (ended (took s m) c m.id) r
  obtain ⟨-, hcoh, hcores⟩ := raiseFault_keepsWork (ended (took s m) c m.id) r
  refine ⟨⟨hmem, hflds, by rw [hcoh]; rfl, fun q hq => ended_outs (took s m) c m.id q ((hcores c).2 ▸ hq)⟩, ?_, _, hfaults, ?_⟩ <;> subst hr
  · exact hhalt hctx'
  · exact ⟨rfl, rfl, rfl⟩

end

end

/-! ### Answers at a slice (R192, R195) -/

/-- An answer about a BUSY line counts for its transaction, which goes on when it has all that it awaits. -/
theorem sliceAnswer_of_busy {s : State} {m : Msg} {x t : Txn} (hpend : s.coh.pendInv = []) (hbusy : getBusy s m.die m.line = some x) (hstep : t.step = 0)
    (ht : (if m.kind = .data then { x with data := some m.data, bad := m.flags % 2 = 1, gone := m.flags / 2 % 2 = 1, err := m.err }
      else { x with acks := x.acks - 1 }) = t) :
    sliceAnswer s m = if t.acks = 0 && (!t.needData || t.data.isSome) then homeFinish (setBusy s m.die m.line t) t else setBusy s m.die m.line t := by
  simp only [sliceAnswer, hpend, List.find?_nil, hbusy, ht, hstep]

/-- A line that nobody waits for leaves BUSY. -/
theorem leaveBusy_alone {s : State} {die line : Nat} {t : Txn} (hbusy : getBusy s die line = some t) (hwait : t.waiting = [])
    (htickets : s.coh.tickets.get (lkey die line) = none) : leaveBusy s die line = { s with coh := { s.coh with busy := s.coh.busy.del (lkey die line) } } := by
  have hb : s.coh.busy.get (lkey die line) = some t := hbusy
  simp only [leaveBusy, hb, Option.map_some, Option.getD_some, hwait, List.nil_append]
  rw [grantGo_of_no_tickets (die := die)]
  exact htickets

/-- What a slice does to a line between taking an answer and sending its own: memory, messages, tickets and BUSY lines stay. -/
def KeepsTraffic (s t : State) : Prop := t.mem = s.mem ∧ t.coh.net = s.coh.net ∧ t.coh.busy = s.coh.busy ∧ t.coh.tickets = s.coh.tickets

theorem install_spec (s : State) (die line inst : Nat) (e : SEntry) :
    KeepsTraffic s (install s die line inst e) ∧ LineIs (install s die line inst e) die line e.st e.data := by
  unfold install
  dsimp only
  split <;> exact ⟨⟨rfl, rfl, rfl, rfl⟩, _, getLine_setLine_self _ _ _ _, rfl, rfl⟩

theorem clearStrip_eq (s : State) (line : Nat) : ∃ d, clearStrip s line = { s with deck := d } := by
  unfold clearStrip
  split <;> exact ⟨_, rfl⟩

theorem setHolder_line (e : SEntry) (m : Msg) : (setHolder e m).st = e.st ∧ (setHolder e m).data = e.data := by
  unfold setHolder
  split
  · split <;> exact ⟨rfl, rfl⟩
  · exact ⟨rfl, rfl⟩
  · exact ⟨rfl, rfl⟩

/-- A line installed by a write, which clears its strip mark. -/
theorem clearStrip_install (s : State) (die line inst : Nat) (e : SEntry) :
    KeepsTraffic s (clearStrip (install s die line inst e) line) ∧ LineIs (clearStrip (install s die line inst e) line) die line e.st e.data := by
  obtain ⟨d, hd⟩ := clearStrip_eq (install s die line inst e) line
  obtain ⟨hkeep, hline⟩ := install_spec s die line inst e
  rw [hd]
  exact ⟨hkeep, hline⟩

/-- A write applied at the home: the line takes its bytes, and one message is sent, its acknowledgement. -/
theorem homeApply_wr {s : State} {m : Msg} (hkind : m.kind = .wr) (e : SEntry) (base : Line) (bad gut : Bool) (err : Nat) :
    ∃ (u : State) (a : Msg), homeApply s m e base bad gut err = send u a ∧ KeepsTraffic s u ∧ LineIs u m.die m.line .hd (mergeLine base m.data m.mask) ∧
      a.kind = .ack ∧ a.req = m.req ∧ a.id = m.id := by
  simp only [homeApply, applyReq, hkind, answerWrite, reply, reduceCtorEq, if_false]
  exact ⟨_, _, rfl, (clearStrip_install _ _ _ _ _).1, (clearStrip_install _ _ _ _ _).2, rfl, rfl, rfl⟩

section
variable {s : State} {x : Txn} (hbusy : getBusy s x.msg.die x.msg.line = some x) (hwait : x.waiting = [])
  (htickets : s.coh.tickets.get (lkey x.msg.die x.msg.line) = none)
include hbusy hwait htickets

/-- A transaction that ends with one message leaves the line that it has made. -/
theorem leaveBusy_send {u : State} {st : LSt} {l : Line} (hkeep : KeepsTraffic s u) (hline : LineIs u x.msg.die x.msg.line st l) (a : Msg) :
    let t := leaveBusy (send u a) x.msg.die x.msg.line
    t.mem = s.mem ∧ getBusy t x.msg.die x.msg.line = none ∧ LineIs t x.msg.die x.msg.line st l ∧ t.coh.net = s.coh.net ++ [a] := by
  obtain ⟨hmem, hnet, hb, htix⟩ := hkeep
  have hbusy' : getBusy (send u a) x.msg.die x.msg.line = some x := by rw [getBusy_send, getBusy, hb]; exact hbusy
  rw [leaveBusy_alone hbusy' hwait (by rw [show (send u a).coh.tickets = u.coh.tickets from rfl, htix]; exact htickets)]
  exact ⟨hmem, (SMap.get_del _ _ _).trans (if_pos rfl), hline, by rw [← hnet]; rfl⟩

/-- A write's transaction ends: the line takes the bytes, and the writer its acknowledgement. -/
theorem homeFinish_wr {e : SEntry} (hkind : x.msg.kind = .wr) (hdata : x.data = none) (he : getLine s x.msg.die x.msg.line = some e) :
    (homeFinish s x).mem = s.mem ∧ getBusy (homeFinish s x) x.msg.die x.msg.line = none ∧
      LineIs (homeFinish s x) x.msg.die x.msg.line .hd (mergeLine e.data x.msg.data x.msg.mask) ∧
      ∃ a : Msg, (homeFinish s x).coh.net = s.coh.net ++ [a] ∧ a.kind = .ack ∧ a.req = x.msg.req ∧ a.id = x.msg.id := by
  obtain ⟨u, a, happly, hkeep, hline, ha⟩ := homeApply_wr (s := s) hkind e e.data x.bad x.gut x.err
  have hfinish : homeFinish s x = leaveBusy (send u a) x.msg.die x.msg.line := by
    simp only [homeFinish, hkind, he, Option.map_some, Option.getD_some, recalled, hdata, Option.getD_none, reduceCtorEq, decide_false, Bool.false_and, Bool.false_eq_true,
      if_false, happly]
  obtain ⟨hmem, hfree, hline', hnet⟩ := leaveBusy_send hbusy hwait htickets hkeep hline a
  rw [hfinish]
  exact ⟨hmem, hfree, hline', a, hnet, ha⟩

/-- A read's transaction ends: the slice takes the line, and the reader its data. -/
theorem homeFinish_gets {data : Line} (hkind : x.msg.kind = .gets) (hdata : x.data = some data) (hbad : x.bad = false) (halloc : getsAlloc x.msg = true)
    (he : getLine s x.msg.die x.msg.line = none) :
    (homeFinish s x).mem = s.mem ∧ getBusy (homeFinish s x) x.msg.die x.msg.line = none ∧ LineIs (homeFinish s x) x.msg.die x.msg.line .hc data ∧
      ∃ a ∈ (homeFinish s x).coh.net, a.kind = .data ∧ a.req = x.msg.req ∧ a.id = x.msg.id ∧ a.data = data := by
  obtain ⟨hkeep, hline⟩ := install_spec s x.msg.die x.msg.line (agentInst s x.msg.req x.msg.line)
    (setHolder { st := .hc, data := data, strm := gutBy x.gut x.msg.req } x.msg)
  obtain ⟨hst, hdat⟩ := setHolder_line { st := .hc, data := data, strm := gutBy x.gut x.msg.req } x.msg
  rw [hst, hdat] at hline
  simp only [homeFinish, hkind, he, hdata, Option.getD_some, hbad, halloc, if_true, Bool.false_eq_true, if_false, reply]
  obtain ⟨hmem, hfree, hline', hnet⟩ := leaveBusy_send hbusy hwait htickets hkeep hline _
  refine ⟨hmem, hfree, hline', ?_⟩
  rw [hnet]
  exact ⟨_, List.mem_append_right _ List.mem_cons_self, rfl, rfl, rfl, rfl⟩

end

section
variable {s : State} {m : Msg} {x : Txn} (ha : Arrived s m) (hop : m.op = 1) (hbusy : getBusy s m.die m.line = some x) (hdie : x.msg.die = m.die)
  (hline : x.msg.line = m.line) (hwait : x.waiting = []) (hstep : x.step = 0) (hpend : s.coh.pendInv = [])
  (htickets : s.coh.tickets.get (lkey m.die m.line) = none)
include ha hop hbusy hstep hpend

/-- One of several acknowledgements is counted. -/
theorem does_ack_counts (hkind : m.kind = .ack) (hacks : 2 ≤ x.acks) :
    Does (.ack m) s (fun t => t.mem = s.mem ∧ t.coh.net = s.coh.net.erase m ∧ ∃ y : Txn, getBusy t m.die m.line = some y ∧ y.acks = x.acks - 1) := by
  have hmore : ¬(decide (x.acks - 1 = 0) && (!x.needData || x.data.isSome)) = true := by
    rw [decide_eq_false (show x.acks - 1 ≠ 0 by omega)]
    simp
  refine ⟨_, show execAck m s = _ by
    simp only [execAck, hkind, ne_eq, not_true_eq_false, if_false, takeMsg_arrived ha, hop, if_true]
    rw [sliceAnswer_of_busy (s := took s m) (t := { x with acks := x.acks - 1 }) hpend hbusy hstep (by simp [hkind]), if_neg hmore], ?_⟩
  exact ⟨rfl, rfl, _, (getBusy_setBusy _ _ _ _ _ _).trans (if_pos rfl), rfl⟩

include hdie hline hwait htickets

/-- The last acknowledgement applies the write. -/
theorem does_ack_applies {e : SEntry} (hkind : m.kind = .ack) (hacks : x.acks = 1) (hneed : x.needData = false) (hdata : x.data = none) (hmkind : x.msg.kind = .wr)
    (he : getLine s m.die m.line = some e) :
    Does (.ack m) s (fun t => t.mem = s.mem ∧ getBusy t m.die m.line = none ∧ LineIs t m.die m.line .hd (mergeLine e.data x.msg.data x.msg.mask) ∧
      ∃ a : Msg, t.coh.net = s.coh.net.erase m ++ [a] ∧ a.kind = .ack ∧ a.req = x.msg.req ∧ a.id = x.msg.id) := by
  have hlast : (decide (x.acks - 1 = 0) && (!x.needData || x.data.isSome)) = true := by simp [hacks, hneed]
  refine ⟨_, show execAck m s = _ by
    simp only [execAck, hkind, ne_eq, not_true_eq_false, if_false, takeMsg_arrived ha, hop, if_true]
    rw [sliceAnswer_of_busy (s := took s m) (t := { x with acks := x.acks - 1 }) hpend hbusy hstep (by simp [hkind]), if_pos hlast], ?_⟩
  rw [← hdie, ← hline] at *
  exact homeFinish_wr (s := setBusy (took s m) x.msg.die x.msg.line { x with acks := x.acks - 1 }) (x := { x with acks := x.acks - 1 })
    ((getBusy_setBusy _ _ _ _ _ _).trans (if_pos rfl)) hwait htickets hmkind hdata he

/-- The data of a read's line enters the slice, and goes to the reader. -/
theorem does_data_fills (hkind : m.kind = .data) (hflags : m.flags = 0) (hacks : x.acks = 0) (hmkind : x.msg.kind = .gets)
    (halloc : getsAlloc x.msg = true) (he : getLine s m.die m.line = none) :
    Does (.data m) s (fun t => t.mem = s.mem ∧ getBusy t m.die m.line = none ∧ LineIs t m.die m.line .hc m.data ∧
      ∃ a ∈ t.coh.net, a.kind = .data ∧ a.req = x.msg.req ∧ a.id = x.msg.id ∧ a.data = m.data) := by
  have hall : (decide (x.acks = 0) && (!x.needData || (some m.data).isSome)) = true := by simp [hacks]
  refine ⟨_, show execData m s = _ by
    simp only [execData, hkind, ne_eq, not_true_eq_false, if_false, takeMsg_arrived ha, hop, if_true]
    rw [sliceAnswer_of_busy (s := took s m) (t := { x with data := some m.data, bad := false, gone := false, err := m.err }) hpend hbusy hstep (by simp [hkind, hflags]),
      if_pos hall], ?_⟩
  rw [← hdie, ← hline] at *
  exact homeFinish_gets (s := setBusy (took s m) x.msg.die x.msg.line { x with data := some m.data, bad := false, gone := false, err := m.err })
    (x := { x with data := some m.data, bad := false, gone := false, err := m.err }) ((getBusy_setBusy _ _ _ _ _ _).trans (if_pos rfl)) hwait htickets hmkind rfl rfl halloc he

end

/-- Settles O48: answers at cores and slices, refusals, epochs, streams and scrubs, one by one. -/
theorem answersAndEpochs : Obligations.AnswersAndEpochs := by
  unfold Obligations.AnswersAndEpochs
  intro s m
  refine ⟨fun ha => ⟨fun c o p hreq hop hout hparts hline ht => ?_, fun x hop hbusy hdie hline hwait hstep hpend htickets => ?_, fun r hr => ?_,
      fun r hkind hrefused hticket hreq hline hid hdie => does_go ha hkind hrefused hticket hreq hline hid hdie,
      fun d sl hkind hreq htickets => does_putack ha hkind hreq htickets⟩,
    fun r hrefused hmsg harmed hticket => ⟨fun hready => ?_, fun hready => ?_⟩, fun e left hfind hne hnodup hin => ?_,
    fun e hne hin => does_epochSweepDone hne hin, fun die slice range a => does_streamTimeout s die slice range a, fun die line e he => ?_⟩
  · intro g Ends' Gives'
    refine ⟨fun d hmkind hflags hkind hsize hd hct => does_data_load hout hparts hline ha hreq hop ht hmkind hflags hkind hsize hd hct,
      fun d hmkind hflags hkind hthread hsize hd hct => does_atomicResult hout hparts hline ha hreq ht hmkind hflags hkind hthread hsize hd hct,
      fun hmkind hkind hsize => does_ack_write hout hparts hline ha hreq hop hmkind hkind hsize,
      fun n hmkind hkind hctx => does_fencedRsp hout hparts hline ha hreq hmkind hkind hctx⟩
  · exact ⟨fun hkind hacks _ => does_ack_counts ha hop hbusy hstep hpend hkind hacks,
      fun e hkind hacks hneed hdata _ hmkind he => does_ack_applies ha hop hbusy hdie hline hwait hstep hpend htickets hkind hacks hneed hdata hmkind he,
      fun hkind hflags hacks _ hmkind halloc he => does_data_fills ha hop hbusy hdie hline hwait hstep hpend htickets hkind hflags hacks hmkind halloc he⟩
  · exact ⟨fun hkind => does_nack ha hkind hr, fun hkind => does_ticket ha hkind hr⟩
  · exact ⟨_, execNackRetry_of_one hrefused hmsg harmed hticket, by rw [if_pos hready], by rw [if_pos hready], by rw [if_pos hready]⟩
  · exact ⟨_, execNackRetry_of_one hrefused hmsg harmed hticket, by rw [if_neg (Nat.not_le.2 hready)]⟩
  · exact ⟨does_epoch_advance hfind hne hnodup hin, does_epoch_sweep hfind hne hin⟩
  · exact ⟨⟨s, execThatchScrub_ok he, rfl⟩, does_thatchScrub_uncorrectable he, does_thatchScrub_corrected he⟩

end Sys2Proof.Machine
end

section
/-! SUPPORT. A context is killed and its cores stop (R94-R96), for O44. -/

namespace Sys2Proof.Machine

/-! ### The Turnpike takes a fault (R95, R96) -/

/-- The fault that a context has once another of its faults is taken: the first, with a count of the others. -/
def takenFault (x : Ctx) (f : FaultRec) : FaultRec :=
  match x.fault with
  | some p => { p with secondary := min (p.secondary + 1) (2 ^ 32 - 1) }
  | none => { f with manager := x.mgr }

theorem execContextKill_of_one {s : State} {n : Nat} {x : Ctx} {f : FaultRec} (hx : getCtx s n = some x) (hfaults : s.sched.faults.filter (fun r => r.ctx = n) = [f])
    (hst : x.st ≠ .dead) :
    execContextKill n s = .next (setCtx { s with sched := { s.sched with faults := s.sched.faults.erase f } } n
      { x with st := .killing, fault := some (takenFault x f) }) := by
  have hfirst : firstFault (s.sched.faults.filter (fun r => r.ctx = n)) = some f := by rw [hfaults]; rfl
  have hx' : getCtx { s with sched := { s.sched with faults := s.sched.faults.erase f } } n = some x := hx
  simp only [execContextKill, hfirst, hx', hst, if_false]
  rfl

/-! ### Changes of every core (R171) -/

/-- A change of each core that keeps a projection of it keeps it at each core. -/
theorem getCore_map {β : Type} {proj : Core → β} {f : Nat × Core → Nat × Core} (hf : ∀ e, (f e).1 = e.1 ∧ proj (f e).2 = proj e.2) {s t : State}
    (ht : t.cores = s.cores.map f) (c : Nat) : proj (getCore t c) = proj (getCore s c) := by
  simp only [getCore, ht]
  generalize s.cores = l
  induction l with
  | nil => rfl
  | cons e l ih =>
    obtain ⟨hkey, hproj⟩ := hf e
    simp only [SMap.getD, List.map_cons, SMap.get, hkey] at ih ⊢
    split
    · exact hproj
    · exact ih

/-! ### Writes of context memory (R95, R227-R229) -/

/-- The scheduler's state and the groups of every core are as they were. -/
def KeepsSched (s t : State) : Prop := t.sched = s.sched ∧ ∀ c, (getCore t c).groups = (getCore s c).groups

theorem KeepsSched.refl (s : State) : KeepsSched s s := ⟨rfl, fun _ => rfl⟩

theorem KeepsSched.trans {s t u : State} (h : KeepsSched s t) (k : KeepsSched t u) : KeepsSched s u := ⟨k.1.trans h.1, fun c => (k.2 c).trans (h.2 c)⟩

theorem KeepsSched.ite {s t u : State} {c : Prop} [Decidable c] (h : KeepsSched s t) (k : KeepsSched t u) : KeepsSched s (if c then u else t) := by
  split
  · exact h.trans k
  · exact h

theorem KeepsSched.of_eq {s t : State} (hsched : t.sched = s.sched) (hcores : t.cores = s.cores) : KeepsSched s t :=
  ⟨hsched, fun c => by rw [getCore, hcores]; rfl⟩

theorem KeepsButRecords.keepsSched {s t : State} (h : KeepsButRecords s t) : KeepsSched s t := .of_eq (by rw [h.eq]) (by rw [h.eq])

theorem KeepsSched.each {α : Type} {f : State → α → State} (h : ∀ t a, KeepsSched t (f t a)) (l : List α) (s : State) : KeepsSched s (each l f s) :=
  each_keeps (P := KeepsSched s) l f (fun t a _ ht => ht.trans (h t a)) s (.refl s)

theorem useSlot_keepsSched (s : State) (ch : Nat) (q : QClass) (half : Nat) : KeepsSched s (useSlot s ch q half) := by
  unfold useSlot
  dsimp only
  split <;> exact .of_eq rfl rfl

theorem flushWcb_keepsSched (s : State) (loc : Nat) : KeepsSched s (flushWcb s loc) := by
  unfold flushWcb flushAs
  split
  · exact .refl s
  · extract_lets full t u m v
    have ht : KeepsSched s t := by
      unfold t
      split
      · exact .refl s
      · exact (arrayRead_ok_keepsButRecords s loc).1.keepsSched
    have hv : KeepsSched u v := .of_eq rfl rfl
    exact ((ht.trans (useSlot_keepsSched t _ _ _)).trans hv).trans (.of_eq rfl rfl)

theorem putDeck_keepsSched (s : State) (loc : Nat) (l : Line) : KeepsSched s (putDeck s loc l) := by
  unfold putDeck
  dsimp only
  split <;> exact .of_eq rfl rfl

theorem combine_keepsSched (s : State) (loc : Nat) (data : Line) (mask : BitVec 64) (writer : Nat) : KeepsSched s (combine s loc data mask writer) := by
  unfold combine
  split
  · exact putDeck_keepsSched s loc data
  · extract_lets t ch c u c'
    have ht : KeepsSched s t := by
      unfold t
      split <;> exact .of_eq rfl rfl
    split
    · have hset : ∀ y, KeepsSched t (setChan t ch y) := fun y => .of_eq rfl rfl
      exact ht.trans ((hset _).ite (flushWcb_keepsSched _ loc))
    · have hu : KeepsSched t u := by
        unfold u
        split
        · split
          · exact flushWcb_keepsSched t _
          · exact .refl t
        · exact .refl t
      exact (ht.trans hu).trans (.of_eq rfl rfl)

theorem staleFills_groups (k : Core) (line : Nat) : (staleFills k line).groups = k.groups := by
  unfold staleFills
  split <;> rfl

theorem orderWrite_keepsSched (s : State) (line : Nat) (data : Line) (mask : BitVec 64) (writer : Nat) : KeepsSched s (orderWrite s line data mask writer) := by
  unfold orderWrite
  extract_lets hd here upd full msg _ t
  have ht : KeepsSched s t := by
    refine ⟨rfl, getCore_map (proj := Core.groups) (fun e => ?_) (t := t) rfl⟩
    dsimp only
    split <;> exact ⟨rfl, staleFills_groups e.2 line⟩
  split
  · exact ht.trans (.of_eq rfl rfl)
  · exact ht.trans (combine_keepsSched t _ _ _ _)

theorem winMark_keepsSched (s : State) (a n : Nat) : KeepsSched s (winMark s a n) := by
  refine ⟨rfl, fun c => ?_⟩
  simp only [winMark, getCore_setCore]
  split
  · next h => rw [h]
  · rfl

theorem orderWriteBytes_keepsSched (s : State) (a : Nat) (bs : List Byte) (writer : Nat) : KeepsSched s (orderWriteBytes s a bs writer) := by
  unfold orderWriteBytes
  split
  · exact .trans (.of_eq rfl rfl) (winMark_keepsSched _ _ _)
  · exact .each (fun _ _ => orderWrite_keepsSched _ _ _ _ _) _ s

theorem farWrite_keepsSched (s : State) (ctx va : Nat) (bs : List Byte) (writer : Nat) : KeepsSched s (farWrite s ctx va bs writer) := by
  refine .each (fun t p => ?_) _ s
  split
  · split
    · exact orderWriteBytes_keepsSched t _ _ _
    · exact .refl t
  · exact .refl t

/-- The outputs of an aborted command are undefined bytes of memory. -/
theorem abortOutputs_keepsSched (s : State) (c ctx : Nat) (m : MCmd) : KeepsSched s (abortOutputs s c ctx m) := by
  unfold abortOutputs
  extract_lets t
  have ht : KeepsSched s t := by
    unfold t
    split
    · refine .each (fun u r => ?_) _ s
      have hfree : KeepsSched u (freeBytes u r.2).2 := .of_eq rfl rfl
      exact hfree.trans (farWrite_keepsSched _ _ _ _ _)
    · exact .refl s
  refine ht.trans (.each (fun u r => ?_) _ t)
  exact .of_eq rfl rfl

/-! ### What a core's descriptors and walks leave behind (R95) -/

theorem dropDescs_eq (s : State) (c : Nat) : dropDescs s c = { s with deck := (dropDescs s c).deck } := by
  unfold dropDescs
  split
  · rfl
  · extract_lets gone
    exact each_keeps (P := fun t => t = { s with deck := t.deck }) _ _ (fun t ch _ ht => by rw [ht]; rfl) s rfl

/-- The operations that KILL leaves outstanding: stores. -/
def keptByKill (o : OutOp) : Bool := match o.kind with | .write => true | .red => true | .strip => true | _ => false

theorem keptByKill_iff (o : OutOp) : keptByKill o = true ↔ o.kind = .write ∨ o.kind = .red ∨ o.kind = .strip := by
  unfold keptByKill
  cases o.kind <;> simp

/-- A core that KILL has reached. -/
def killedCore (k : Core) : Core :=
  { k with halted := true, killed := true, preempting := false, outs := k.outs.filter keptByKill
           engines := (k.engines.mapV (fun _ x => { x with queue := [] })).filter (fun e => e.2 ≠ {}) }

theorem killedCore_queues (k : Core) : ∀ j e, (killedCore k).engines.get j = some e → e.queue = [] := by
  intro j e h
  obtain ⟨x, -, hx⟩ := List.mem_map.1 (List.mem_filter.1 (SMap.mem_of_get h)).1
  rw [← (Prod.mk.inj hx).2]

/-- The state in which KILL has stopped a core. -/
def stopCore (u : State) (c : Nat) : State :=
  let v := setCore u c (killedCore (getCore u c))
  { v with sched := { v.sched with wantPre := v.sched.wantPre.filter (· ≠ c) } }

theorem stopCore_core (u : State) (c : Nat) : getCore (stopCore u c) c = killedCore (getCore u c) := getCore_setCore_self u c _

/-- KILL at a core: the outputs of its commands are undefined, and it stops. -/
theorem execCoreKill_eq {s : State} {c n : Nat} {x : Ctx} (hctx : (getCore s c).ctx = some n) (hx : getCtx s n = some x) (hst : x.st = .killing)
    (hkilled : (getCore s c).killed = false) :
    execCoreKill c n s =
      .next (dropWalks (dropDescs (stopCore (each ((getCore s c).engines.flatMap (fun e => e.2.queue)) (fun s m => abortOutputs s c n m) s) c) c) c) := by
  simp only [execCoreKill, hctx, hkilled, hx, hst, Option.map_some, ne_eq, not_true_eq_false, decide_false, Bool.or_self, Bool.false_eq_true, if_false]
  rfl

/-- The walks and descriptors of a core go without its registers, the scheduler, memory or a counter. -/
theorem dropWalks_dropDescs_keeps (v : State) (c : Nat) : (dropWalks (dropDescs v c) c).cores = v.cores ∧ (dropWalks (dropDescs v c) c).sched = v.sched ∧
    (dropWalks (dropDescs v c) c).mem = v.mem ∧ (dropWalks (dropDescs v c) c).flds = v.flds := by
  simp only [dropWalks]
  rw [dropDescs_eq]
  exact ⟨rfl, rfl, rfl, rfl⟩

theorem does_coreKill {s : State} {c n : Nat} {x : Ctx} (hctx : (getCore s c).ctx = some n) (hx : getCtx s n = some x) (hst : x.st = .killing)
    (hkilled : (getCore s c).killed = false) :
    Does (.coreKill c n) s (fun t => (getCore t c).killed = true ∧ (getCore t c).halted = true ∧ (∀ k e, (getCore t c).engines.get k = some e → e.queue = []) ∧
      (∀ o ∈ (getCore t c).outs, o.kind = .write ∨ o.kind = .red ∨ o.kind = .strip) ∧ (getCore t c).groups = (getCore s c).groups ∧ t.sched.faults = s.sched.faults ∧
      ((∀ e ∈ (getCore s c).engines, e.2.queue = []) → t.mem = s.mem ∧ t.flds = s.flds)) := by
  refine ⟨_, execCoreKill_eq hctx hx hst hkilled, ?_⟩
  have hempty : (∀ e ∈ (getCore s c).engines, e.2.queue = []) → each ((getCore s c).engines.flatMap (fun e => e.2.queue)) (fun s m => abortOutputs s c n m) s = s := by
    intro h
    rw [List.flatMap_eq_nil_iff.2 h, each_nil]
  have hkeeps := KeepsSched.each (fun t m => abortOutputs_keepsSched t c n m) ((getCore s c).engines.flatMap (fun e => e.2.queue)) s
  generalize each ((getCore s c).engines.flatMap (fun e => e.2.queue)) (fun s m => abortOutputs s c n m) s = u at hempty hkeeps ⊢
  obtain ⟨hcores, hsched, hmem, hflds⟩ := dropWalks_dropDescs_keeps (stopCore u c) c
  dsimp only
  rw [getCore, hcores, hsched, hmem, hflds, ← getCore, stopCore_core]
  refine ⟨rfl, rfl, killedCore_queues _, fun o ho => (keptByKill_iff o).1 (List.mem_filter.1 ho).2, hkeeps.2 c, (congrArg Sched.faults hkeeps.1 :), fun h => ?_⟩
  rw [hempty h]
  exact ⟨rfl, rfl⟩

end Sys2Proof.Machine
end

section
/-! SUPPORT. Everything of a killed context leaves the device (R95 steps 5 and 6, R97), and O44. -/

namespace Sys2Proof.Machine

/-! ### Cores become free (R95, R198, R344) -/

/-- The host's queues and the instances' states are as they were, and no core runs a context that it did not run. -/
structure Frees (s t : State) : Prop where
  host : t.host = s.host
  inst : ∀ i, rd t .IN_STATUS_STATE i = rd s .IN_STATUS_STATE i
  ctx : ∀ c n, (getCore t c).ctx = some n → (getCore s c).ctx = some n

namespace Frees

theorem refl (s : State) : Frees s s := ⟨rfl, fun _ => rfl, fun _ _ => id⟩

theorem trans {s t u : State} (h : Frees s t) (k : Frees t u) : Frees s u :=
  ⟨k.host.trans h.host, fun i => (k.inst i).trans (h.inst i), fun c n hc => h.ctx c n (k.ctx c n hc)⟩

theorem of_eq {s t : State} (hhost : t.host = s.host) (hflds : t.flds = s.flds) (hcores : t.cores = s.cores) : Frees s t :=
  ⟨hhost, fun i => rd_congr hflds _ i, fun c n h => by rw [getCore, hcores] at h; exact h⟩

theorem wr (s : State) {f : Fld} (hf : Fld.IN_STATUS_STATE ≠ f) (i v : Nat) : Frees s (wr s f i v) := ⟨rfl, fun j => rd_wr_fld s i j v hf, fun _ _ => id⟩

theorem setCore (s : State) (c : Nat) (k : Core) (hk : ∀ n, k.ctx = some n → (getCore s c).ctx = some n) : Frees s (setCore s c k) := by
  refine ⟨rfl, fun _ => rfl, fun d n h => ?_⟩
  rw [getCore_setCore] at h
  split at h
  · next e => rw [e]; exact hk n h
  · exact h

theorem each {α : Type} {f : State → α → State} (h : ∀ t a, Frees t (f t a)) (l : List α) (s : State) : Frees s (each l f s) :=
  each_keeps (P := Frees s) l f (fun t a _ ht => ht.trans (h t a)) s (.refl s)

end Frees

theorem toll_frees (s : State) (ctx k n : Nat) : Frees s (toll s ctx k n) := by
  unfold toll
  split
  · exact .refl s
  · exact .of_eq rfl rfl rfl

theorem settle_frees (s : State) (c : Nat) : Frees s (settle_ s c) := by
  unfold settle_
  extract_lets k cyc
  split
  · exact .refl s
  · next n _ =>
    extract_lets t u
    have ht : Frees s t := toll_frees s _ _ _
    have hu : Frees s u := by
      unfold u
      split
      · exact ht.trans (.of_eq rfl rfl rfl)
      · exact ht
    have hcore : getCore u c = getCore s c := by
      have hcores : u.cores = s.cores := by
        unfold u t toll
        split <;> split <;> rfl
      rw [getCore, hcores]; rfl
    exact hu.trans (.setCore u c _ fun m hm => by rw [hcore]; exact hm)

theorem setLive_frees (s : State) (c : Nat) (b : Bool) : Frees s (setLive s c b) := by
  unfold setLive
  split
  · exact .refl s
  · extract_lets t w u n v
    have hcount : Fld.IN_STATUS_STATE ≠ liveCountFld c := by
      unfold liveCountFld
      split <;> decide
    have ht : Frees s t := .wr s (by decide) _ _
    have hu : Frees t u := .wr t (by decide) _ _
    have hv : Frees u v := .wr u hcount _ _
    exact ((ht.trans hu).trans hv).trans (.wr v (by decide) _ _)

theorem raiseFault_frees (s : State) (f : FaultRec) : Frees s (raiseFault s f) := by
  obtain ⟨-, -, hflds, hcores, -⟩ := raiseFault_spec s f
  refine ⟨?_, fun i => rd_congr hflds _ i, fun c n h => by rw [hcores] at h; exact h⟩
  unfold raiseFault
  extract_lets _ t
  refine each_keeps (P := fun u => u.host = s.host) _ _ (fun _ _ _ h => ?_) t rfl
  exact h

theorem dropWalks_dropDescs_frees (s : State) (c : Nat) : Frees s (dropWalks (dropDescs s c) c) := by
  obtain ⟨hcores, -, -, hflds⟩ := dropWalks_dropDescs_keeps s c
  refine .of_eq ?_ hflds hcores
  simp only [dropWalks]
  rw [dropDescs_eq]

theorem grantGo_frees (s : State) (die line : Nat) : Frees s (grantGo s die line) := by
  unfold grantGo
  extract_lets k tix
  split
  · exact .refl s
  · clear_value tix
    split
    · exact .refl s
    · extract_lets wait t u
      have ht : Frees s t := by
        unfold t
        split
        · exact .wr s (by decide) _ _
        · exact .refl s
      exact ht.trans (.of_eq rfl rfl rfl)

theorem kick_frees (s : State) (die line : Nat) : Frees s (kick s die line) := by
  unfold kick
  split
  · exact .refl s
  · exact grantGo_frees s die line

theorem logErr_frees (s : State) (r : ErrRec) : Frees s (logErr s r) := by
  obtain ⟨-, hframe, -⟩ := logErr_spec s r
  have heq := (logErr_keepsButRecords s r).eq
  refine ⟨by rw [heq], fun i => hframe _ i (by decide) (by decide), fun c n h => ?_⟩
  rw [heq] at h
  exact h

theorem fenceCore_frees (s : State) (c cause : Nat) (forced : Bool) : Frees s (fenceCore s c cause forced) := by
  unfold fenceCore
  extract_lets agent k t u v l m w pend freed x _ y z a i b _ b'
  have hu : Frees s u := by
    have ht : Frees s t := setLive_frees s c false
    unfold u
    split
    · exact ht.trans (.of_eq rfl rfl rfl)
    · exact ht
  have hv : Frees u v := by
    unfold v
    split
    · split
      · exact raiseFault_frees u _
      · exact .refl u
    · exact .refl u
  have hw : Frees v w := (Frees.setCore v c m fun _ h => h).trans (dropWalks_dropDescs_frees _ c)
  have hx : Frees w x := by
    unfold x
    split
    · exact .each (fun t _ => raiseFault_frees t _) _ w
    · exact .refl w
  have hy : Frees x y := .of_eq rfl rfl rfl
  have hz : Frees y z := .each (fun t key => kick_frees t _ _) _ y
  have hb : Frees z b := logErr_frees z _
  have hb' : Frees b b' := .of_eq rfl rfl rfl
  exact (((((((hu.trans hv).trans hw).trans hx).trans hy).trans hz).trans hb).trans hb').trans
    (((Frees.wr b' (by decide) _ _).trans (.wr _ (by decide) _ _)).trans (.wr _ (by decide) _ _))

theorem leaveInst_frees (s : State) (c : Nat) : Frees s (leaveInst s c) := by
  unfold leaveInst
  split
  · exact .refl s
  · extract_lets _ t w
    have ht : Frees s t := .of_eq rfl rfl rfl
    split
    · exact ht.trans (.wr t (by decide) _ _)
    · exact ht

theorem keepTlb_frees (s : State) (keep : TlbEntry → Bool) : Frees s (keepTlb s keep) := by
  have hcores : (keepTlb s keep).cores = s.cores.map (fun e => (e.1, { e.2 with tlb := e.2.tlb.filter keep })) := rfl
  refine ⟨rfl, fun _ => rfl, fun c n h => ?_⟩
  rwa [getCore_map (proj := Core.ctx) (f := fun e => (e.1, { e.2 with tlb := e.2.tlb.filter keep })) (fun _ => ⟨rfl, rfl⟩) hcores c] at h

theorem dropWindow_frees (s : State) (inst c : Nat) : Frees s (dropWindow s inst c) := keepTlb_frees s _

theorem clearCore_frees (s : State) (c : Nat) : Frees s (clearCore s c) := by
  have hmem : Frees s { s with mem := s.mem.filter (fun e => !(loftAt c ≤ e.1 && e.1 < loftAt c + loftStride)) } := .of_eq rfl rfl rfl
  exact hmem.trans (.setCore _ c _ fun _ h => nomatch h)

theorem clearCore_idle (s : State) (c : Nat) : (getCore (clearCore s c) c).ctx = none := by
  unfold clearCore
  rw [getCore_setCore_self]

theorem afterFree_frees (s : State) (c : Nat) : Frees s (afterFree s c) := by
  unfold afterFree
  extract_lets t
  have ht : Frees s t := by
    unfold t
    split
    · split
      · exact fenceCore_frees s _ _ _
      · exact .refl s
    · exact .refl s
  split
  · exact ht
  · next i _ =>
    extract_lets x u _ v rest _ w
    split
    · exact ht
    · have hu : Frees t u := (dropWindow_frees t i c).trans (clearCore_frees _ c)
      have hv : Frees u v := .of_eq rfl rfl rfl
      have hout : Frees v { v with inst := { v.inst with x := v.inst.x.set i {} { x with removing := rest } } } := .of_eq rfl rfl rfl
      have hw : Frees v w := hout.trans (leaveInst_frees _ c)
      have hleft := ((ht.trans hu).trans hv).trans hw
      split
      · exact hleft.trans ((Frees.wr w (by decide) _ _).trans (.wr _ (by decide) _ _))
      · exact hleft

theorem freeCore_frees (s : State) (c : Nat) : Frees s (freeCore s c) := by
  unfold freeCore
  extract_lets t k u
  have hu : Frees t u := .setCore t c _ fun _ h => nomatch h
  have hwant : Frees u { u with sched := { u.sched with wantPre := u.sched.wantPre.filter (· ≠ c) } } := .of_eq rfl rfl rfl
  exact (((settle_frees s c).trans hu).trans hwant).trans (afterFree_frees _ c)

/-- The cores of a list become free one after another. -/
def freeCores (l : List Nat) (s : State) : State := each l (fun s c => clearCore (freeCore s c) c) s

theorem freeCores_frees (l : List Nat) (s : State) : Frees s (freeCores l s) := .each (fun t c => (freeCore_frees t c).trans (clearCore_frees _ c)) l s

theorem freeCores_idle {l : List Nat} {c : Nat} (h : c ∈ l) (s : State) : (getCore (freeCores l s) c).ctx = none := by
  induction l generalizing s with
  | nil => cases h
  | cons d l ih =>
    by_cases hl : c ∈ l
    · exact ih hl _
    · obtain rfl : c = d := (List.mem_cons.1 h).resolve_right hl
      refine Option.eq_none_iff_forall_ne_some.2 fun n hn => ?_
      have hone := (freeCores_frees l (clearCore (freeCore s c) c)).ctx c n hn
      rw [clearCore_idle] at hone
      cases hone

/-- Once the cores of a context are free, none runs it. -/
theorem freeCores_none (s : State) (n c : Nat) : (getCore (freeCores (ctxCores s n) s) c).ctx ≠ some n := by
  intro h
  have hctx := (freeCores_frees _ s).ctx c n h
  have hmem : c ∈ ctxCores s n := List.mem_map.2 ⟨(c, getCore s c), List.mem_filter.2 ⟨mem_cores_of_ctx hctx, by simp [hctx]⟩, rfl⟩
  rw [freeCores_idle hmem] at h
  cases h

/-! ### The fault record (R97) -/

theorem faultRecord_state (s : State) (n : Nat) (x : Ctx) : (faultRecord s n x).2 = { s with freeCtr := s.freeCtr + 10 } := rfl

theorem length_faultRecord (s : State) (n : Nat) (x : Ctx) : (faultRecord s n x).1.length = 64 := by
  simp only [faultRecord, List.length_append, length_natLe, List.length_singleton]

/-- A record begins with its fault's code. -/
theorem faultRecord_code {x : Ctx} {f : FaultRec} (h : x.fault = some f) (s : State) (n : Nat) : leNat ((faultRecord s n x).1.take 2) = f.code % 65536 := by
  simp only [faultRecord, h, Option.getD_some, List.append_assoc]
  exact (congrArg leNat (List.take_left' (length_natLe 2 _))).trans (leNat_natLe 2 _)

/-- A write of a fault record's bytes to the host. -/
def faultWr (s : State) (inst addr tag : Nat) (b bytes : List Byte) (relaxed : Bool) : HostWr :=
  { att := fnAtt (instFn s inst), tag := tag, held := retraining s (fnAtt (instFn s inst)), addr := addr, bytes := bytes, relaxed := relaxed, pay := .fault (instFn s inst) b }

/-- A record for the host leaves as two writes, the last eight bytes in the second. -/
theorem hostFaultRec_posted {s : State} {inst : Nat} (hatt : attLost s (fnAtt (instFn s inst)) = false) (addr : Nat) (b : List Byte) :
    hostFaultRec s inst addr b = { s with host := { s.host with
      out := s.host.out ++ [faultWr s inst addr s.host.nextTag b (b.take 56) true, faultWr s inst (addr + 56) (s.host.nextTag + 1) b (b.drop 56) false]
      nextTag := s.host.nextTag + 2 } } := by
  simp only [hostFaultRec, hatt, hostPost, Bool.false_eq_true, if_false, List.append_assoc]
  rfl

/-! ### The context's work ends (R95 steps 5 and 6) -/

/-- The one command of a context's instance, a started LAUNCH, ends with the context. -/
theorem endCommands_of_one {s : State} {q : Cmd} {n inst : Nat} (hcmds : s.host.cmds = [q]) (hctx : q.ctx = n) (hfn : fnNum q.ref.fid = inst) (hfin : q.fin = none)
    (hstarted : q.started = true) (hop : q.op = 1) (status detail : Nat) :
    endCommands s n inst status detail = { s with host := { s.host with cmds := [{ q with started := true, fin := some (status, detail) }] } } := by
  have hget : getCmd s q.ref = some q := by simp [getCmd, hcmds]
  have hwork : (q.started && [0x01, 0x20, 0x22].contains q.op) = true := by rw [hstarted, hop]; rfl
  simp only [endCommands, hcmds, hctx, hfn, hfin, Option.isNone_none, decide_true, Bool.and_self, List.filter_cons_of_pos, List.filter_nil, each_cons, each_nil, hwork, if_true,
    finCmd, hget, Option.isSome_none, Bool.false_eq_true, if_false, setCmd, List.map_cons, List.map_nil]

/-- The context with the faults counted that were not yet taken (R96). -/
def countedFault (s : State) (n : Nat) (x : Ctx) (f : FaultRec) : Ctx :=
  { x with fault := some { f with secondary := min (f.secondary + (s.sched.faults.filter (fun r => r.ctx = n)).length) (2 ^ 32 - 1) } }

/-- What a killed context leaves behind goes: its blocks, launches and faults, and the context itself is DEAD. -/
def leaveDevice (s : State) (n : Nat) (x : Ctx) : State :=
  let ids := (s.sched.blocks.filter (fun e => e.2.ctx = n)).map (·.1)
  let s := { s with
    sched := { s.sched with
      faults := s.sched.faults.filter (fun f => f.ctx ≠ n)
      blocks := s.sched.blocks.filter (fun e => e.2.ctx ≠ n)
      launches := s.sched.launches.filter (fun e => e.2.ctx ≠ n)
      images := s.sched.images.filter (fun e => !ids.contains e.1)
      loops := s.sched.loops.del n
      batches := s.sched.batches.del n
      lastCtx := s.sched.lastCtx.filter (fun e => e.2 ≠ n) }
    deck := { s.deck with walks := s.deck.walks.filter (fun w => w.ctx ≠ n) }
    link := { s.link with far := s.link.far.filter (fun f => f.ctx ≠ n), waits := s.link.waits.filter (fun w => w.ctx ≠ n) } }
  setCtx s n { (getCtx s n).getD x with st := .dead, fault := none, mgr := false }

/-- The state in which the fault record of a context is on its way to the host. -/
def recordSent (s : State) (n : Nat) (x : Ctx) : State := hostFaultRec (faultRecord s n x).2 x.inst (x.faultAddr / 64 * 64) (faultRecord s n x).1

theorem endContext_record {s : State} {n : Nat} {x : Ctx} {f : FaultRec} (hfault : x.fault = some f) (haddr : x.faultAddr % 2 = 1)
    (hseqs : (recordSent s n (countedFault s n x f)).sched.seqCmds = []) :
    endContext s n x true 1 3 =
      let u := endCommands (recordSent s n (countedFault s n x f)) n x.inst 1 (leNat ((faultRecord s n (countedFault s n x f)).1.take 2))
      leaveDevice (freeCores (ctxCores u n) u) n (countedFault s n x f) := by
  have hkeys : (recordSent s n (countedFault s n x f)).sched.seqCmds.keys = [] := by rw [hseqs]; rfl
  simp only [endContext, hfault, haddr, Bool.not_true, Bool.false_eq_true, if_false, if_true]
  rw [show { x with fault := some { f with secondary := min (f.secondary + (s.sched.faults.filter (fun r => r.ctx = n)).length) (2 ^ 32 - 1) } } = countedFault s n x f from rfl,
    show hostFaultRec (faultRecord s n (countedFault s n x f)).2 x.inst (x.faultAddr / 64 * 64) (faultRecord s n (countedFault s n x f)).1 =
      recordSent s n (countedFault s n x f) from rfl, hkeys]
  rfl

/-! ### A context that has drained (R95) -/

section
variable {s : State} {n : Nat} {x : Ctx} {f : FaultRec} {q : Cmd}

/-- What the host holds once the record has left and the LAUNCH has ended. -/
theorem endCommands_recordSent (hatt : attLost s (fnAtt (instFn s x.inst)) = false) (hcmds : s.host.cmds = [q]) (hctx : q.ctx = n) (hfn : fnNum q.ref.fid = x.inst)
    (hfin : q.fin = none) (hstarted : q.started = true) (hop : q.op = 1) (y : Ctx) (hinst : y.inst = x.inst) (status detail : Nat) :
    ∃ t, endCommands (recordSent s n y) n x.inst status detail = t ∧ t.flds = s.flds ∧ t.host.cmds = [{ q with started := true, fin := some (status, detail) }] ∧
      t.host.out = s.host.out ++ [faultWr (faultRecord s n y).2 y.inst (y.faultAddr / 64 * 64) s.host.nextTag (faultRecord s n y).1 ((faultRecord s n y).1.take 56) true,
        faultWr (faultRecord s n y).2 y.inst (y.faultAddr / 64 * 64 + 56) (s.host.nextTag + 1) (faultRecord s n y).1 ((faultRecord s n y).1.drop 56) false] := by
  have hatt' : attLost (faultRecord s n y).2 (fnAtt (instFn (faultRecord s n y).2 y.inst)) = false := hinst ▸ hatt
  have hsent := hostFaultRec_posted hatt' (y.faultAddr / 64 * 64) (faultRecord s n y).1
  have hcmds' : (recordSent s n y).host.cmds = [q] := by rw [recordSent, hsent]; exact hcmds
  refine ⟨_, rfl, ?_⟩
  rw [endCommands_of_one hcmds' hctx hfn hfin hstarted hop, recordSent, hsent]
  exact ⟨rfl, rfl, rfl⟩

/-- A context that has drained is DEAD: its cores and work are gone, its LAUNCH ends FAULT and its record goes to the host. -/
theorem does_killDrainDone (hx : getCtx s n = some x) (hst : x.st = .killing) (hdrained : killDrained s n = true) (hinst : rd s .IN_STATUS_STATE x.inst ≠ 3)
    (hfault : x.fault = some f) (haddr : x.faultAddr % 2 = 1) (hatt : attLost s (fnAtt (instFn s x.inst)) = false) (hseqs : s.sched.seqCmds = [])
    (hcmds : s.host.cmds = [q]) (hctx : q.ctx = n) (hfn : fnNum q.ref.fid = x.inst) (hfin : q.fin = none) (hstarted : q.started = true) (hop : q.op = 1) :
    Does (.killDrainDone n) s (fun t => (∃ y : Ctx, getCtx t n = some y ∧ y.st = .dead ∧ y.fault = none) ∧ (∀ c, (getCore t c).ctx ≠ some n) ∧
      Ended t q.ref 1 (f.code % 65536) ∧ (∀ b ∈ t.sched.blocks, b.2.ctx ≠ n) ∧ (∀ l ∈ t.sched.launches, l.2.ctx ≠ n) ∧
      ∃ a b : HostWr, t.host.out = s.host.out ++ [a, b] ∧ a.addr = x.faultAddr / 64 * 64 ∧ a.bytes.length = 56 ∧ b.addr = a.addr + 56 ∧ b.bytes.length = 8 ∧
        b.relaxed = false ∧ leNat (a.bytes.take 2) = f.code % 65536) := by
  have hcode : leNat ((faultRecord s n (countedFault s n x f)).1.take 2) = f.code % 65536 :=
    faultRecord_code (x := countedFault s n x f) (f := { f with secondary := _ }) rfl s n
  have hlen := length_faultRecord s n (countedFault s n x f)
  have hseqs' : (recordSent s n (countedFault s n x f)).sched.seqCmds = [] := by
    have hatt' : attLost (faultRecord s n (countedFault s n x f)).2 (fnAtt (instFn (faultRecord s n (countedFault s n x f)).2 (countedFault s n x f).inst)) = false := hatt
    rw [recordSent, hostFaultRec_posted hatt']
    exact hseqs
  obtain ⟨u, hu, huflds, hucmds, huout⟩ := endCommands_recordSent hatt hcmds hctx hfn hfin hstarted hop (countedFault s n x f) rfl 1 (f.code % 65536)
  have hend := endContext_record hfault haddr hseqs'
  rw [hcode, hu] at hend
  dsimp only at hend
  have hfrees := freeCores_frees (ctxCores u n) u
  have hnone := freeCores_none u n
  generalize freeCores (ctxCores u n) u = v at hend hfrees hnone
  have hstate : instState (leaveDevice v n (countedFault s n x f)) x.inst ≠ 3 := by
    have hkept : rd (leaveDevice v n (countedFault s n x f)) .IN_STATUS_STATE x.inst = rd s .IN_STATUS_STATE x.inst := (hfrees.inst _).trans (rd_congr huflds _ _)
    rwa [instState, hkept]
  have hexec : execKillDrainDone n s = .next (leaveDevice v n (countedFault s n x f)) := by
    have hopen : instState s x.inst ≠ 3 := hinst
    simp only [execKillDrainDone, hx, hst, hdrained, hopen, hend, squashNext, hstate, ne_eq, not_true_eq_false, not_false_eq_true, decide_false, decide_true, Bool.not_true, Bool.or_self,
      Bool.false_and, Bool.true_or, Bool.false_eq_true, if_false, if_true]
  refine ⟨_, hexec, ?_⟩
  dsimp only
  have hhost : (leaveDevice v n (countedFault s n x f)).host = u.host := hfrees.host
  refine ⟨⟨_, getCtx_setCtx_self _ _ _, rfl, rfl⟩, hnone, ⟨{ q with started := true, fin := some (1, f.code % 65536) }, ?_, rfl⟩, fun b hb => ?_, fun l hl => ?_,
    _, _, (congrArg HostS.out hhost).trans huout, rfl, ?_, rfl, ?_, rfl, ?_⟩
  · simp [getCmd, hhost, hucmds]
  · exact of_decide_eq_true (List.mem_filter.1 hb).2
  · exact of_decide_eq_true (List.mem_filter.1 hl).2
  · simp [faultWr, hlen]
  · simp [faultWr, hlen]
  · simp only [faultWr, List.take_take]
    exact hcode

end

/-- Settles O44: each operation of a kill by its lemma; what a drained context leaves behind goes in the order of R95. -/
theorem killSequence : Obligations.KillSequence := by
  unfold Obligations.KillSequence
  intro s n x hx
  refine ⟨fun f hfaults hst => ⟨fun hnone => ?_, fun p hp => ?_⟩, fun c hctx hst hkilled => does_coreKill hctx hx hst hkilled,
    fun f q hst hdrained hinst hfault haddr hatt hseqs hcmds hctx hfn hfin hstarted hop =>
      does_killDrainDone hx hst hdrained hinst hfault haddr hatt hseqs hcmds hctx hfn hfin hstarted hop⟩
  · have htaken : takenFault x f = { f with manager := x.mgr } := by simp only [takenFault, hnone]
    exact ⟨_, execContextKill_of_one hx hfaults hst, by rw [htaken]⟩
  · have htaken : takenFault x f = { p with secondary := min (p.secondary + 1) (2 ^ 32 - 1) } := by simp only [takenFault, hp]
    exact ⟨_, execContextKill_of_one hx hfaults hst, rfl, rfl, _, getCtx_setCtx_self _ _ _, rfl, by rw [htaken]⟩

end Sys2Proof.Machine
end

section
/-! SUPPORT. Integer operations as arithmetic of bit vectors (R111); and O5. -/

namespace Sys2Proof.Machine

/-! ### Numbers of a width as bit vectors -/

theorem argOf_toNat (e : Env) {w : Nat} (hw : w = 32 ∨ w = 64) (c : BitVec 8) (k : Nat) : (argOf e w c k).toNat = e.x.opnd e.sc w c k := by
  rw [argOf, BitVec.toNat_ofNat, Nat.mod_eq_of_lt (opnd_lt _ _ (by omega) (by omega) _ _)]

theorem wrap_eq_ofInt (w : Nat) (z : Int) : wrap w z = (BitVec.ofInt w z).toNat := by
  rw [BitVec.toNat_ofInt, wrap]
  norm_cast

theorem mod_toNat {w : Nat} (a : BitVec w) : a.toNat % 2 ^ w = a.toNat := Nat.mod_eq_of_lt a.isLt

section
variable {w : Nat} (a b : BitVec w)

theorem ite_toNat_mod (c : Bool) : (if c then a.toNat else b.toNat) % 2 ^ w = (if c then a else b).toNat := by
  cases c <;> exact mod_toNat _

theorem sext_toNat (hw : 0 < w) : sext w a.toNat = a.toInt := by rw [sext_eq_toInt hw a.isLt, BitVec.ofNat_toNat, BitVec.setWidth_eq]

theorem intLt_toNat (hw : 0 < w) (sg : Bool) : intLt w sg a.toNat b.toNat = if sg then a.slt b else a.ult b := by
  simp only [intLt, sext_toNat _ hw, BitVec.slt, BitVec.ult]

theorem shiftLeft_toNat (n : Nat) : a.toNat * 2 ^ n % 2 ^ w % 2 ^ w = (a <<< n).toNat := by
  rw [BitVec.toNat_shiftLeft, Nat.shiftLeft_eq, Nat.mod_mod]

theorem shiftRight_toNat (n : Nat) : a.toNat / 2 ^ n % 2 ^ w = (a >>> n).toNat := by
  rw [BitVec.toNat_ushiftRight, Nat.shiftRight_eq_div_pow, Nat.mod_eq_of_lt ((Nat.div_le_self _ _).trans_lt a.isLt)]

theorem sshiftRight_toNat (hw : 0 < w) (n : Nat) : wrap w (sext w a.toNat / 2 ^ n) % 2 ^ w = (a.sshiftRight n).toNat := by
  rw [sext_toNat a hw, wrap_eq_ofInt, mod_toNat, ← BitVec.ofInt_toInt (x := a.sshiftRight n), BitVec.toInt_sshiftRight, Int.shiftRight_eq_div_pow]
  norm_cast

theorem mulh_toNat (hw : 0 < w) (sg : Bool) : (if sg then wrap w (sext w a.toNat * sext w b.toNat / 2 ^ w) else a.toNat * b.toNat / 2 ^ w) % 2 ^ w =
    (if sg then BitVec.ofInt w (a.toInt * b.toInt / 2 ^ w) else BitVec.ofNat w (a.toNat * b.toNat / 2 ^ w)).toNat := by
  cases sg
  · exact (BitVec.toNat_ofNat _ _).symm
  · simp only [if_true, sext_toNat _ hw, wrap_eq_ofInt, mod_toNat]

theorem popc_toNat : ((List.range w).filter (fun k => a.toNat.testBit k)).length % 2 ^ w = (BitVec.ofNat w ((List.range w).countP a.getLsbD)).toNat := by
  rw [BitVec.toNat_ofNat, ← List.countP_eq_length_filter]
  rfl

/-- The highest set bit is the one that the logarithm names. -/
theorem clz_toNat (hw : 0 < w) : (if a.toNat = 0 then w else w - 1 - Nat.log2 a.toNat) % 2 ^ w = a.clz.toNat := by
  have hlt : ∀ n, n ≤ w → n % 2 ^ w = n := fun n hn => Nat.mod_eq_of_lt (hn.trans_lt Nat.lt_two_pow_self)
  by_cases h0 : a = 0#w
  · rw [if_pos (by simp [h0]), hlt _ le_rfl, BitVec.clz_eq_iff_eq_zero.2 h0, BitVec.natCast_eq_ofNat, BitVec.toNat_ofNat, hlt _ le_rfl]
  · have hne : a.toNat ≠ 0 := by simpa [← BitVec.toNat_inj] using h0
    have hclz : a.clz.toNat < w := by simpa [BitVec.lt_def, hlt] using BitVec.clz_lt_iff_ne_zero.2 h0
    have hlog : Nat.log2 a.toNat = w - a.clz.toNat - 1 := (Nat.log2_eq_iff hne).2
      ⟨by simpa [Nat.sub_right_comm] using BitVec.two_pow_sub_clz_le_toNat_of_ne_zero hw h0,
        by rw [Nat.sub_add_cancel (by omega)]; exact BitVec.toNat_lt_two_pow_sub_clz⟩
    rw [if_neg hne, hlt _ (by omega), hlog]
    omega

end

/-! ### Integer instructions (R105, R111) -/

/-- What an integer operation of this shape takes as B (R105). -/
def IShape.kindB (sh : IShape) (w : Nat) : OKind := if sh = .unary then .z else wk w

/-- What it takes as C. -/
def IShape.kindC (sh : IShape) (w : Nat) : OKind := match sh with | .ternary => wk w | .pick => .p | _ => .z

/-- TYPE is the integer type of this width and sign (R111). -/
def IntTy (ty : BitVec 4) (w : Nat) (sg : Bool) : Prop :=
  (ty = 12 ∧ w = 32 ∧ sg = true) ∨ (ty = 13 ∧ w = 32 ∧ sg = false) ∨ (ty = 14 ∧ w = 64 ∧ sg = true) ∨ (ty = 15 ∧ w = 64 ∧ sg = false)

theorem IntTy.width {ty : BitVec 4} {w : Nat} {sg : Bool} (h : IntTy ty w sg) : w = 32 ∨ w = 64 := by
  rcases h with ⟨-, hw, -⟩ | ⟨-, hw, -⟩ | ⟨-, hw, -⟩ | ⟨-, hw, -⟩ <;> simp [hw]

theorem IntTy.spec {ty : BitVec 4} {w : Nat} {sg : Bool} (h : IntTy ty w sg) : tyBits ty.toNat = w ∧ isSigned ty = sg ∧ isInt ty = true := by
  rcases h with ⟨rfl, rfl, rfl⟩ | ⟨rfl, rfl, rfl⟩ | ⟨rfl, rfl, rfl⟩ | ⟨rfl, rfl, rfl⟩ <;> decide

/-- An instruction that writes results and goes on leaves them in its destination. -/
theorem resultIs_putAdvance {s : State} {e e' : Env} {w : Nat} {sx : Bool} {d : BitVec 8} {f v : Nat → Nat} (he : e' = { e with insn := e'.insn }) (fl : Flg) (len : Nat)
    (hw : w ≤ 32 ∨ w = 64) (hv : ∀ k < 32, f k % 2 ^ w = v k) : ∃ x : Group, getGroup (putAdvance s e' w sx d f fl len) e.g = some x ∧ ResultIs e x w d v := by
  rw [he]
  exact (putAdvance_resultIs (e := { e with insn := e'.insn }) fl len hw hv).2

/-- A field that takes a P register names one of the eight (R102). -/
theorem CanIssue.predField {s : State} {g : Grp} {pr : BitVec 3} {pn : Bool} {e : Env} {l : List OField} (hcan : CanIssue s g pr pn e l) {lo : Nat} {c : BitVec 8}
    (hmem : (⟨lo, c, .p⟩ : OField) ∈ l) : 0xC0 ≤ c.toNat ∧ c.toNat < 0xC8 := by
  obtain ⟨-, -, hops, -⟩ := hcan
  obtain ⟨hok, -⟩ := hops _ hmem
  simpa [OField.ok] using hok

/-- A P register as an operand is its thread's bit. -/
theorem opnd_pred {c : BitVec 8} (hc : 0xC0 ≤ c.toNat ∧ c.toNat < 0xC8) (x : Group) (sc : Bool) (w k : Nat) :
    x.opnd sc w c k = (has (x.pmask (c.toNat - 0xC0)) k).toNat := by
  obtain ⟨hlo, hhi⟩ := hc
  simp only [Group.opnd]
  rw [if_neg (by omega), if_neg (by omega), if_pos hhi]

section
variable {s : State} {g : Grp} {f : RForm} {e : Env} {i : Instr} {op w : Nat} {sg : Bool} {sh : IShape} {F : Nat → Bool → Nat → Nat → Nat → Nat} {v : Nat → Nat}

/-- An integer operation leaves its value, cut to TYPE's width, in its destination. -/
theorem does_intOp (m : State → Out) (hexec : exec i s = m s) (hm : m s = intOp g f op sh F s) (hty : IntTy f.ty w sg) (htail : PlainTail f)
    (hcan : CanIssue s g f.pr f.pn e (rOps f (wk w) (wk w) (sh.kindB w) (sh.kindC w)))
    (hv : ∀ k < 32, F w sg (e.x.opnd e.sc w f.a k) (e.x.opnd e.sc w f.b k) (e.x.opnd e.sc w f.c k) % 2 ^ w = v k) :
    Does i s (fun t => ∃ x : Group, getGroup t g = some x ∧ ResultIs e x w f.d v) := by
  obtain ⟨hrm, hsat, hsub⟩ := htail
  obtain ⟨rfl, rfl, hint⟩ := hty.spec
  obtain ⟨rfl, -⟩ := env?_some hcan.1
  refine does_issue (hexec.trans hm) hcan rfl rfl (by simp [plainTail, hint, hrm, hsat, hsub]) fun e' he => ?_
  obtain ⟨-, -, -, hx, -, -, hsc, -⟩ := Env.eq_of_insn he
  refine resultIs_putAdvance he _ _ (by have := hty.width; omega) fun k hk => ?_
  rw [hx, hsc]
  exact hv k hk

end

/-- Settles O5: each operation is its arithmetic on the operands as bit vectors of TYPE's width. -/
theorem integerResults : Obligations.IntegerResults := by
  unfold Obligations.IntegerResults
  intro s g f e w sg hty htail
  have hw : w = 32 ∨ w = 64 := IntTy.width hty
  have hpos : 0 < w := by omega
  have harg : ∀ c k, e.x.opnd e.sc w c k = (argOf e w c k).toNat := fun c k => (argOf_toNat e hw c k).symm
  refine ⟨fun hcan => ?_, fun hcan => ?_, fun hcan => ?_, fun hcan => ?_⟩
  · have hbin : ∀ {p : Instr × (BitVec w → BitVec w → BitVec w)} {op : Nat} {F : Nat → Bool → Nat → Nat → Nat → Nat} (m : State → Out), exec p.1 s = m s →
        m s = intOp g f op .binary F s → (∀ (a b : BitVec w) (c : Nat), F w sg a.toNat b.toNat c % 2 ^ w = (p.2 a b).toNat) →
        Does p.1 s (fun t => ∃ x : Group, getGroup t g = some x ∧ ResultIs e x w f.d (fun k => (p.2 (argOf e w f.a k) (argOf e w f.b k)).toNat)) :=
      fun m hexec hm hR => does_intOp m hexec hm hty htail hcan fun k _ => by rw [harg f.a, harg f.b]; exact hR _ _ _
    intro p hp
    simp only [List.mem_cons, List.not_mem_nil, or_false] at hp
    rcases hp with rfl | rfl | rfl | rfl | rfl | rfl | rfl | rfl | rfl | rfl | rfl
    · exact hbin (execIadd g f) rfl rfl fun a b _ => by rw [Nat.mod_mod, BitVec.toNat_add]
    · exact hbin (execIsub g f) rfl rfl fun a b _ => by rw [Nat.mod_mod, BitVec.toNat_sub, Nat.add_comm]
    · exact hbin (execImul g f) rfl rfl fun a b _ => by rw [Nat.mod_mod, BitVec.toNat_mul]
    · exact hbin (execImulh g f) rfl rfl fun a b _ => mulh_toNat a b hpos sg
    · exact hbin (execImin g f) rfl rfl fun a b _ => by rw [intLt_toNat _ _ hpos]; exact ite_toNat_mod b a _
    · exact hbin (execImax g f) rfl rfl fun a b _ => by rw [intLt_toNat _ _ hpos]; exact ite_toNat_mod b a _
    · exact hbin (execAnd g f) rfl rfl fun a b _ => mod_toNat (a &&& b)
    · exact hbin (execOr g f) rfl rfl fun a b _ => mod_toNat (a ||| b)
    · exact hbin (execXor g f) rfl rfl fun a b _ => mod_toNat (a ^^^ b)
    · exact hbin (execShl g f) rfl rfl fun a b _ => shiftLeft_toNat a _
    · refine hbin (execShr g f) rfl rfl fun a b _ => ?_
      cases sg
      · exact shiftRight_toNat a _
      · exact sshiftRight_toNat a hpos _
  · have hun : ∀ {p : Instr × (BitVec w → BitVec w)} {op : Nat} {F : Nat → Bool → Nat → Nat → Nat → Nat} (m : State → Out), exec p.1 s = m s →
        m s = intOp g f op .unary F s → (∀ (a : BitVec w) (b c : Nat), F w sg a.toNat b c % 2 ^ w = (p.2 a).toNat) →
        Does p.1 s (fun t => ∃ x : Group, getGroup t g = some x ∧ ResultIs e x w f.d (fun k => (p.2 (argOf e w f.a k)).toNat)) :=
      fun m hexec hm hR => does_intOp m hexec hm hty htail hcan fun k _ => by rw [harg f.a]; exact hR _ _ _
    intro p hp
    simp only [List.mem_cons, List.not_mem_nil, or_false] at hp
    rcases hp with rfl | rfl | rfl
    · exact hun (execNot g f) rfl rfl fun a _ _ => by rw [← BitVec.toNat_not]; exact mod_toNat _
    · exact hun (execPopc g f) rfl rfl fun a _ _ => popc_toNat a
    · exact hun (execClz g f) rfl rfl fun a _ _ => clz_toNat a hpos
  · refine does_intOp (execImad g f) rfl rfl hty htail hcan fun k _ => ?_
    rw [harg f.a, harg f.b, harg f.c, Nat.mod_mod, BitVec.toNat_add, BitVec.toNat_mul, Nat.mod_add_mod]
  · refine does_intOp (execPick g f) rfl rfl hty htail hcan fun k _ => ?_
    have hpred : e.x.opnd e.sc w f.c k = (has (e.x.pmask (f.c.toNat - 0xC0)) k).toNat :=
      opnd_pred (hcan.predField (lo := 40) (by simp [rOps])) e.x e.sc w k
    rw [hpred, harg f.a, harg f.b]
    cases has (e.x.pmask (f.c.toNat - 0xC0)) k <;> exact mod_toNat _

end Sys2Proof.Machine
end

section
/-! SUPPORT. Results in registers that hold 64 bits (R103, R106), immediate operations (R106, R111); and O6. -/

namespace Sys2Proof.Machine

/-! ### Registers of 64 bits (R103, R106) -/

/-- A result in a register that holds 64 bits, an S-core's or a U register, stands there extended, and is read there at any width. -/
theorem resultIs_putRes_wide {e : Env} {x : Group} {w r : Nat} {sx : Bool} {d : BitVec 8} {f v : Nat → Nat} {ar : ArithReg} (hwide : e.sc = true ∨ 0x80 ≤ d.toNat)
    (hv : ∀ k < 32, extend w sx (f k) % 2 ^ 64 % 2 ^ r = v k) (hx : SameRegs { e.x.putRes e.sc w sx d e.ex f with arith := ar } x) : ResultIs e x r d v := by
  have hregs : ∀ k, x.opnd e.sc r d k = (e.x.putRes e.sc w sx d e.ex f).opnd e.sc r d k := hx.opnd e.sc r d
  refine ⟨fun hd k hlt hk => ?_, fun hd hd' k hk j => ?_, fun hd => ?_⟩
  · have hsc : e.sc = true := hwide.resolve_right (Nat.not_le.2 hd)
    have hmem : k ∈ threads e.ex := mem_threads.2 ⟨hlt, hk⟩
    rw [hregs, ← hv k hlt]
    simp only [Group.opnd, Group.putRes, if_pos hd, hsc, if_true]
    rw [xreg_foldl (n := extend w sx (f k) % 2 ^ 64) hmem (fun y => by simp [Group.xreg_setX, hlt])
      (fun y t ht hne => by simp [Group.xreg_setX, hlt, (mem_threads.1 ht).1, Ne.symm hne])]
  · obtain ⟨l, hl⟩ : ∃ l, threads e.ex = k :: l := List.head?_eq_some_iff.1 hk
    obtain ⟨hlt, -⟩ := mem_threads.1 (List.mem_of_mem_head? hk)
    rw [hregs, ← hv k hlt]
    simp only [Group.opnd, Group.putRes, if_neg (Nat.not_lt.2 hd), if_pos hd', hl, Group.ureg, Group.setU, SMap.getD_set_self]
  · subst hd
    obtain ⟨hxs, hus, hpreds, -⟩ := hx
    exact ⟨hxs, hus, hpreds, rfl⟩

/-- A 32-bit value that is extended by its sign. -/
theorem extend_signed (v : BitVec 32) : extend 32 true v.toNat % 2 ^ 64 = (v.signExtend 64).toNat := by
  have hcut : v.toNat % 2 ^ 32 = v.toNat := mod_toNat v
  simp only [extend, hcut, sext_toNat v (by decide), wrap_eq_ofInt, BitVec.signExtend]
  exact mod_toNat _

/-- An operand's 64 bits, where its register holds as many, end in its 32 bits. -/
theorem opnd_mod_32 (x : Group) {sc : Bool} {c : BitVec 8} (hwide : sc = true ∨ 0x80 ≤ c.toNat) (k : Nat) : x.opnd sc 64 c k % 2 ^ 32 = x.opnd sc 32 c k := by
  have hbit : ∀ b : Bool, b.toNat % 2 ^ 32 = b.toNat := by decide
  have hcut : ∀ n : Nat, n % 2 ^ 64 % 2 ^ 32 = n % 2 ^ 32 := fun n => Nat.mod_mod_of_dvd n (by decide)
  unfold Group.opnd
  dsimp only
  split
  · next hx =>
    obtain rfl : sc = true := hwide.resolve_right (Nat.not_le.2 hx)
    exact hcut _
  · split
    · exact hcut _
    · split
      · exact hbit _
      · rfl

/-- An instruction that writes results and goes on leaves its group with them. -/
theorem putAdvance_group {s : State} {e e' : Env} {w : Nat} {sx : Bool} {d : BitVec 8} {f : Nat → Nat} (he : e' = { e with insn := e'.insn }) (fl : Flg) (len : Nat) :
    ∃ x : Group, getGroup (putAdvance s e' w sx d f fl len) e.g = some x ∧
      SameRegs { e.x.putRes e.sc w sx d e.ex f with arith := (e.x.putRes e.sc w sx d e.ex f).arith.raise fl } x := by
  rw [he]
  exact (advance_keeps s e.g _ len).1

/-! ### Immediate operations (R106, R111) -/

/-- An immediate operation leaves its 32-bit value, extended by its sign where the destination holds 64 bits. -/
theorem does_immOp {s : State} {g : Grp} {f : IForm} {e : Env} {i : Instr} {op : Nat} {useA : Bool} {F : Nat → Nat → Nat} {v : Nat → W32} (m : State → Out)
    (hexec : exec i s = m s) (hm : m s = immOp g f op useA F s) (hcan : CanIssue s g f.pr f.pn e (iOps f .r (if useA then .r else .z)))
    (hv : ∀ k, F (e.x.opnd e.sc 32 f.a k) f.imm.toNat = (v k).toNat) :
    Does i s (fun t => ∃ x : Group, getGroup t g = some x ∧ ResultIs e x 32 f.d (fun k => (v k).toNat) ∧
      (e.sc = true ∨ 0x80 ≤ f.d.toNat → ResultIs e x 64 f.d (fun k => ((v k).signExtend 64).toNat))) := by
  obtain ⟨rfl, -⟩ := env?_some hcan.1
  refine does_issue (hexec.trans hm) hcan rfl rfl (by simp) fun e' he => ?_
  obtain ⟨-, -, -, hx, -, -, hsc, -⟩ := Env.eq_of_insn he
  simp only [hx, hsc, hv]
  obtain ⟨x, hgroup, hregs⟩ := putAdvance_group he 0 8
  refine ⟨x, hgroup, resultIs_putRes (.inl le_rfl) (fun k _ => mod_toNat (v k)) hregs, fun hwide => resultIs_putRes_wide hwide (fun k _ => ?_) hregs⟩
  rw [extend_signed]
  exact mod_toNat _

/-- MOVL leaves its second word. -/
theorem does_movl {s : State} {g : Grp} {f : LForm} {e : Env} (hty : f.r.ty = 0) (htail : PlainTail f.r) (hcan : CanIssue s g f.r.pr f.r.pn e (rOps f.r .w .z .z .z)) :
    Does (.movl g f) s (fun t => ∃ x : Group, getGroup t g = some x ∧ ResultIs e x 64 f.r.d (fun _ => f.w2.toNat)) := by
  obtain ⟨hrm, hsat, hsub⟩ := htail
  obtain ⟨rfl, -⟩ := env?_some hcan.1
  exact does_issue rfl hcan rfl rfl (by simp [plainTail, hty, hrm, hsat, hsub]) fun e' he => resultIs_putAdvance he _ _ (.inr rfl) fun _ _ => mod_toNat f.w2

/-- MOV copies 32 bits, and 64 between registers that hold as many. -/
theorem does_mov {s : State} {g : Grp} {f : RForm} {e : Env} (hty : f.ty = 0) (htail : PlainTail f) (hcan : CanIssue s g f.pr f.pn e (rOps f .r .r .z .z)) :
    Does (.mov g f) s (fun t => ∃ x : Group, getGroup t g = some x ∧ ResultIs e x 32 f.d (fun k => e.x.opnd e.sc 32 f.a k) ∧
      (e.sc = true ∨ (0x80 ≤ f.d.toNat ∧ 0x80 ≤ f.a.toNat) → ResultIs e x 64 f.d (fun k => e.x.opnd e.sc 64 f.a k))) := by
  obtain ⟨hrm, hsat, hsub⟩ := htail
  obtain ⟨rfl, -⟩ := env?_some hcan.1
  refine does_issue rfl hcan rfl rfl (by simp [plainTail, hty, hrm, hsat, hsub]) fun e' he => ?_
  obtain ⟨-, -, -, hx, -, -, hsc, -⟩ := Env.eq_of_insn he
  have hlt : ∀ {w}, w = 32 ∨ w = 64 → ∀ k, e.x.opnd e.sc w f.a k % 2 ^ w = e.x.opnd e.sc w f.a k := fun hw k =>
    Nat.mod_eq_of_lt (opnd_lt e.x e.sc (by omega) (by omega) f.a k)
  simp only [hx, hsc]
  by_cases hwide : e.sc = true ∨ (0x80 ≤ f.d.toNat ∧ 0x80 ≤ f.a.toNat)
  · rw [if_pos (by simpa using hwide)]
    obtain ⟨x, hgroup, hregs⟩ := putAdvance_group he 0 8
    refine ⟨x, hgroup, resultIs_putRes_wide (hwide.imp_right And.left) (fun k _ => ?_) hregs, fun _ => resultIs_putRes (.inr rfl) (fun k _ => hlt (.inr rfl) k) hregs⟩
    have hextend : extend 64 false (e.x.opnd e.sc 64 f.a k) = e.x.opnd e.sc 64 f.a k := hlt (.inr rfl) k
    rw [hextend, hlt (.inr rfl) k]
    exact opnd_mod_32 e.x (hwide.imp_right And.right) k
  · rw [if_neg (by simpa using hwide)]
    obtain ⟨x, hgroup, hregs⟩ := putAdvance_group he 0 8
    exact ⟨x, hgroup, resultIs_putRes (.inl le_rfl) (fun k _ => hlt (.inl rfl) k) hregs, fun h => absurd h hwide⟩

/-- Settles O6: an immediate operation is its arithmetic on 32 bits; MOVL and MOV are their own. -/
theorem immediateResults : Obligations.ImmediateResults := by
  unfold Obligations.ImmediateResults
  intro s g e
  have harg : ∀ {w}, w = 32 ∨ w = 64 → ∀ c k, e.x.opnd e.sc w c k = (argOf e w c k).toNat := fun hw c k => (argOf_toNat e hw c k).symm
  refine ⟨fun f hcan => ?_, fun f hcan => ?_, fun f => does_movl, fun f hty htail hcan => ?_⟩
  · have himm : ∀ {p : Instr × (W32 → W32)} {op : Nat} {F : Nat → Nat → Nat} (m : State → Out), exec p.1 s = m s → m s = immOp g f op true F s →
        (∀ a : W32, F a.toNat f.imm.toNat = (p.2 a).toNat) →
        Does p.1 s (fun t => ∃ x : Group, getGroup t g = some x ∧ ResultIs e x 32 f.d (fun k => (p.2 (argOf e 32 f.a k)).toNat) ∧
          (e.sc = true ∨ 0x80 ≤ f.d.toNat → ResultIs e x 64 f.d (fun k => ((p.2 (argOf e 32 f.a k)).signExtend 64).toNat))) :=
      fun m hexec hm hF => does_immOp (v := fun k => _) m hexec hm hcan fun k => by rw [harg (.inl rfl) f.a]; exact hF _
    intro p hp
    simp only [List.mem_cons, List.not_mem_nil, or_false] at hp
    rcases hp with rfl | rfl | rfl | rfl | rfl | rfl
    · exact himm (execIaddi g f) rfl rfl fun a => (BitVec.toNat_add a f.imm).symm
    · exact himm (execAndi g f) rfl rfl fun a => rfl
    · exact himm (execOri g f) rfl rfl fun a => rfl
    · exact himm (execXori g f) rfl rfl fun a => rfl
    · exact himm (execShli g f) rfl rfl fun a => by rw [← shiftLeft_toNat, Nat.mod_mod]
    · exact himm (execShri g f) rfl rfl fun a => by rw [BitVec.toNat_ushiftRight, Nat.shiftRight_eq_div_pow]
  · exact does_immOp (useA := false) (v := fun _ => f.imm) (execMovi g f) rfl rfl hcan fun _ => rfl
  · simp only [← harg (.inl rfl), ← harg (.inr rfl)]
    exact does_mov hty htail hcan

end Sys2Proof.Machine
end

section
/-! SUPPORT. Predicates that an instruction writes (R74), cross-thread operations (R112); and O7. -/

namespace Sys2Proof.Machine

/-! ### Predicate registers (R74) -/

theorem has_or {w : Nat} (a b : BitVec w) (k : Nat) : has (a ||| b) k = (has a k || has b k) := BitVec.getLsbD_or

theorem has_and {w : Nat} (a b : BitVec w) (k : Nat) : has (a &&& b) k = (has a k && has b k) := BitVec.getLsbD_and

/-- A predicate register after a write for the threads of a mask; P0 reads as before. -/
theorem pmask_setP (x : Group) (p : Nat) (m v : W32) {k : Nat} (hk : k < 32) (hp : p ≠ 0) :
    has ((x.setP p m v).pmask p) k = if has m k then has v k else has (x.pmask p) k := by
  have hread : (x.setP p m v).pmask p = (x.pmask p &&& ~~~m) ||| (v &&& m) := by
    simp only [Group.setP, if_neg hp]
    rw [Group.pmask, if_neg hp]
    simp only [SMap.getD_set_self, BitVec.ofNat_toNat, BitVec.setWidth_eq]
  have hnot : has (~~~m) k = !has m k := by simp [has, hk]
  rw [hread, has_or, has_and, has_and, hnot]
  cases has m k <;> simp

theorem SameRegs.of_arith {x y : Group} {ar : ArithReg} (h : SameRegs { x with arith := ar } y) : y.xs = x.xs ∧ y.us = x.us ∧ y.preds = x.preds ∧ y.arith = ar := h

/-- What a predicate's register holds is read there, when its group has moved on too. -/
theorem predIs_setP {e : Env} {x : Group} {d : BitVec 8} {val : W32} {v : Nat → Bool} (hd : 0xC0 ≤ d.toNat ∧ d.toNat < 0xC8)
    (hv : ∀ k < 32, has e.ex k = true → has val k = v k) (hxs : x.xs = (e.x.setP (d.toNat - 0xC0) e.ex val).xs)
    (hus : x.us = (e.x.setP (d.toNat - 0xC0) e.ex val).us) (hpreds : x.preds = (e.x.setP (d.toNat - 0xC0) e.ex val).preds) : PredIs e x d v := by
  refine ⟨fun h0 => ?_, fun h0 k hk => ?_⟩
  · subst h0
    exact ⟨hxs, hus, hpreds, rfl⟩
  · have hp : d.toNat - 0xC0 ≠ 0 := fun h => h0 (BitVec.eq_of_toNat_eq (by show d.toNat = 0xC0; omega))
    have hmask : x.pmask (d.toNat - 0xC0) = (e.x.setP (d.toNat - 0xC0) e.ex val).pmask (d.toNat - 0xC0) := by simp only [Group.pmask, hpreds]
    rw [hmask, pmask_setP _ _ _ _ hk hp]
    cases hex : has e.ex k
    · rfl
    · simp only [if_true]
      exact hv k hk hex

/-- A path that goes on with a predicate written leaves it in its register. -/
theorem predIs_advance {s : State} {e : Env} {d : BitVec 8} {val : W32} {v : Nat → Bool} (ar : ArithReg) (len : Nat) (hd : 0xC0 ≤ d.toNat ∧ d.toNat < 0xC8)
    (hv : ∀ k < 32, has e.ex k = true → has val k = v k) :
    ∃ x : Group, getGroup (advance s e.g { e.x.setP (d.toNat - 0xC0) e.ex val with arith := ar } len) e.g = some x ∧ PredIs e x d v ∧ x.arith = ar := by
  obtain ⟨⟨x, hx, hregs⟩, -⟩ := advance_keeps s e.g { e.x.setP (d.toNat - 0xC0) e.ex val with arith := ar } len
  obtain ⟨hxs, hus, hpreds, harith⟩ := hregs.of_arith
  exact ⟨x, hx, predIs_setP hd hv hxs hus hpreds, harith⟩

theorem predIs_advance_setP {s : State} {e : Env} {d : BitVec 8} {val : W32} {v : Nat → Bool} (len : Nat) (hd : 0xC0 ≤ d.toNat ∧ d.toNat < 0xC8)
    (hv : ∀ k < 32, has e.ex k = true → has val k = v k) :
    ∃ x : Group, getGroup (advance s e.g (e.x.setP (d.toNat - 0xC0) e.ex val) len) e.g = some x ∧ PredIs e x d v := by
  obtain ⟨⟨x, hx, hxs, hus, hpreds, -⟩, -⟩ := advance_keeps s e.g (e.x.setP (d.toNat - 0xC0) e.ex val) len
  exact ⟨x, hx, predIs_setP hd hv hxs hus hpreds⟩

/-! ### Cross-thread operations (R112) -/

theorem popc32_eq_countP (m : W32) : popc32 m = (List.range 32).countP (has m) := List.countP_eq_length_filter.symm

/-- The lane that a mode of XLANE names, where there is one. -/
def laneOf (mode t b : Nat) : Int :=
  match mode with | 0 => b | 1 => (t : Int) - b | 2 => (t : Int) + b | 3 => (t ^^^ b : Nat) | _ => ((t + b) % 32 : Nat)

theorem laneSrc_eq (mode t b : Nat) : laneSrc mode t b = if 0 ≤ laneOf mode t b ∧ laneOf mode t b < 32 then some (laneOf mode t b).toNat else none := by
  have hlane : laneSrc mode t b = if 0 ≤ laneOf mode t b && laneOf mode t b < 32 then some (laneOf mode t b).toNat else none := rfl
  rw [hlane]
  simp only [Bool.and_eq_true, decide_eq_true_eq]

section
variable {s : State} {g : Grp} {f : RForm} {e : Env} (hct : e.ct ≠ 3) (hty : f.ty = 0) (hrm : f.rm = 0) (hsat : f.sat = false)
include hct hty hrm hsat

/-- XLANE gives each thread the A of the lane that its mode names, if it is there and executes, and else its own. -/
theorem does_xlane {mode : Nat} (hmode : f.sub.toNat = mode) (hlt : mode ≤ 4) (hcan : CanIssue s g f.pr f.pn e (rOps f .r .r .r .z)) :
    Does (.xlane g f) s (fun t => ∃ x : Group, getGroup t g = some x ∧ ResultIs e x 32 f.d (fun k =>
      if 0 ≤ laneOf mode k (e.x.opnd false 32 f.b k) ∧ laneOf mode k (e.x.opnd false 32 f.b k) < 32 ∧ has e.ex (laneOf mode k (e.x.opnd false 32 f.b k)).toNat = true
      then e.x.opnd false 32 f.a (laneOf mode k (e.x.opnd false 32 f.b k)).toNat else e.x.opnd false 32 f.a k)) := by
  obtain ⟨rfl, -⟩ := env?_some hcan.1
  have hlow : f.sub.toNat % 8 = mode := by omega
  have hmod : ∀ k, e.x.opnd false 32 f.a k % 2 ^ 32 = e.x.opnd false 32 f.a k := fun k => Nat.mod_eq_of_lt (opnd_lt e.x false (by decide) (.inl le_rfl) f.a k)
  refine does_issue rfl hcan (by simpa using hct) rfl (by simp [hty, hrm, hsat, hmode]; omega) fun e' he => ?_
  obtain ⟨-, -, -, hx, -, hex, -⟩ := Env.eq_of_insn he
  refine resultIs_putAdvance he _ _ (.inl le_rfl) fun k _ => ?_
  rw [hlow, hx, hex, laneSrc_eq]
  by_cases hin : 0 ≤ laneOf mode k (e.x.opnd false 32 f.b k) ∧ laneOf mode k (e.x.opnd false 32 f.b k) < 32
  · obtain ⟨h0, h32⟩ := hin
    simp only [h0, h32, true_and, and_self, if_true]
    split <;> exact hmod _
  · rw [if_neg hin, if_neg (by tauto)]
    exact hmod k

/-- TALLY to a P register: whether the predicate is set for any executing thread, or for all. -/
theorem does_tally_pred (all : Bool) (hsub : f.sub = if all then 1 else 0) (hcan : CanIssue s g f.pr f.pn e (rOps f .p .p .z .z)) :
    Does (.tally g f) s (fun t => ∃ x : Group, getGroup t g = some x ∧ PredIs e x f.d (fun _ =>
      if all then decide (e.x.pmask (f.a.toNat - 0xC0) &&& e.ex = e.ex) else decide (e.x.pmask (f.a.toNat - 0xC0) &&& e.ex ≠ 0))) := by
  obtain ⟨rfl, -⟩ := env?_some hcan.1
  have hd : 0xC0 ≤ f.d.toNat ∧ f.d.toNat < 0xC8 := hcan.predField (lo := 16) (by simp [rOps])
  have hset : ∀ (q : Prop) [Decidable q] (k : Nat), k < 32 → has (if q then BitVec.allOnes 32 else 0) k = decide q := fun q _ k hk => by
    split
    · next hq => rw [has, BitVec.getLsbD_allOnes, decide_eq_true hk, decide_eq_true hq]
    · next hq => rw [decide_eq_false hq]; exact BitVec.getLsbD_zero
  have hmode : f.sub.toNat % 4 = if all then 1 else 0 := by rw [hsub]; cases all <;> rfl
  refine does_issue rfl hcan (by simpa using hct) (by rw [hmode]; cases all <;> rfl) (by rw [hsub]; cases all <;> simp [hty, hrm, hsat]) fun e' he => ?_
  obtain ⟨-, -, -, hx, -, hex, -⟩ := Env.eq_of_insn he
  rw [hx, hex, hmode]
  cases all
  · exact predIs_advance_setP (val := if e.x.pmask (f.a.toNat - 0xC0) &&& e.ex ≠ 0 then BitVec.allOnes 32 else 0) 8 hd fun k hk _ => hset _ k hk
  · exact predIs_advance_setP (val := if e.x.pmask (f.a.toNat - 0xC0) &&& e.ex = e.ex then BitVec.allOnes 32 else 0) 8 hd fun k hk _ => hset _ k hk

/-- TALLY to an X or U register: the mask of the executing threads whose predicate is set, or their number. -/
theorem does_tally_reg (count : Bool) (hsub : f.sub = if count then 3 else 2) (hcan : CanIssue s g f.pr f.pn e (rOps f .r .p .z .z)) :
    Does (.tally g f) s (fun t => ∃ x : Group, getGroup t g = some x ∧ ResultIs e x 32 f.d (fun _ =>
      if count then (List.range 32).countP (has (e.x.pmask (f.a.toNat - 0xC0) &&& e.ex)) else (e.x.pmask (f.a.toNat - 0xC0) &&& e.ex).toNat)) := by
  obtain ⟨rfl, -⟩ := env?_some hcan.1
  have hcount : ∀ m : W32, (List.range 32).countP (has m) % 2 ^ 32 = (List.range 32).countP (has m) := fun m =>
    Nat.mod_eq_of_lt (List.countP_le_length.trans_lt (by simp))
  refine does_issue rfl hcan (by simpa using hct) (by rw [hsub]; cases count <;> rfl) (by rw [hsub]; cases count <;> simp [hty, hrm, hsat]) fun e' he => ?_
  obtain ⟨-, -, -, hx, -, hex, -⟩ := Env.eq_of_insn he
  rw [hx, hex, hsub]
  cases count
  · exact resultIs_putAdvance he _ _ (.inl le_rfl) fun _ _ => mod_toNat _
  · exact resultIs_putAdvance he _ _ (.inl le_rfl) fun _ _ => by rw [popc32_eq_countP]; exact hcount _

end

/-- Settles O7: XLANE by the lane of its mode, TALLY by what it makes of the mask. -/
theorem crossThreadResults : Obligations.CrossThreadResults := by
  unfold Obligations.CrossThreadResults
  intro s g f e hct hty hrm hsat
  refine ⟨fun hcan p hp hsub => ?_, fun hcan p hp hsub => ?_, fun hcan p hp hsub => ?_⟩
  all_goals simp only [List.mem_cons, List.not_mem_nil, or_false] at hp
  · rcases hp with rfl | rfl | rfl | rfl | rfl <;> exact does_xlane hct hty hrm hsat (congrArg BitVec.toNat hsub) (by decide) hcan
  · rcases hp with rfl | rfl
    · exact does_tally_pred hct hty hrm hsat false hsub hcan
    · exact does_tally_pred hct hty hrm hsat true hsub hcan
  · rcases hp with rfl | rfl
    · exact does_tally_reg hct hty hrm hsat false hsub hcan
    · exact does_tally_reg hct hty hrm hsat true hsub hcan

end Sys2Proof.Machine
end

section
/-! SUPPORT. Compares, and predicates of predicates (R111); and O8. -/

namespace Sys2Proof.Machine

theorem has_bit {t k : Nat} (hk : k < 32) : has (bit 32 t) k = decide (k = t) := by
  simp only [has, bit, BitVec.getLsbD_ofNat, Nat.testBit_two_pow, hk, decide_true, Bool.true_and, eq_comm]

/-- The mask of a list of threads. -/
theorem has_maskOf (l : List Nat) {k : Nat} (hk : k < 32) : has (maskOf l) k = decide (k ∈ l) := by
  have hfold : ∀ m : W32, has (l.foldl (fun a t => a ||| bit 32 t) m) k = (has m k || decide (k ∈ l)) := by
    induction l with
    | nil => simp
    | cons t l ih =>
      intro m
      rw [List.foldl_cons, ih, has_or, has_bit hk, Bool.or_assoc]
      simp
  exact (hfold 0).trans (by simp [has])

/-- How a compare joins its result with the old bit (R111). -/
def joinBit (join : Nat) (old new : Bool) : Bool := match join with | 1 => old && new | 2 => old || new | _ => new

theorem has_joinP (join : Nat) (old new : W32) (k : Nat) : has (joinP join old new) k = joinBit join (has old k) (has new k) :=
  match join with
  | 0 => rfl
  | 1 => has_and old new k
  | 2 => has_or old new k
  | _ + 3 => rfl

/-- SUB of a compare: a condition and a JOIN (R111). -/
theorem cmpFields_ok {f : RForm} {top c j : Nat} (hrm : f.rm = 0) (hsat : f.sat = false) (hsub : f.sub.toNat = c + 16 * j) (hc : c ≤ top) (htop : top < 16) (hj : j < 3) :
    ∀ p ∈ cmpFields f top, p.2 = true := by
  simp only [cmpFields, List.forall_mem_cons, hrm, hsat, decide_true, Bool.not_false, decide_eq_true_eq, true_and]
  refine ⟨by omega, by omega, by omega, fun _ h => absurd h List.not_mem_nil⟩

/-- A compare writes its predicate, joined with the old one, and goes on with its flags. -/
theorem predIs_putCmp {s : State} {e e' : Env} {f : RForm} {F : Nat → Bool} (fl : Flg) {c j : Nat} (he : e' = { e with insn := e'.insn })
    (hd : 0xC0 ≤ f.d.toNat ∧ f.d.toNat < 0xC8) (hsub : f.sub.toNat = c + 16 * j) (hc : c < 16) (hj : j < 3) :
    ∃ x : Group, getGroup (putCmp s e' f F fl) e.g = some x ∧
      PredIs e x f.d (fun k => joinBit j (has (e.x.pmask (f.d.toNat - 0xC0)) k) (F k)) ∧ x.arith = e.x.arith.raise fl := by
  have hjoin : f.sub.toNat / 16 % 4 = j := by omega
  have harith : ∀ p m v, (e.x.setP p m v).arith = e.x.arith := fun p m v => by unfold Group.setP; split <;> rfl
  rw [he]
  simp only [putCmp, hjoin, harith]
  refine predIs_advance (e := e) _ 8 hd fun k hk hex => ?_
  rw [has_joinP, has_maskOf _ hk]
  simp [mem_threads, hk, hex]

/-- The condition of ICMP (R111). -/
def icmpHolds (c w : Nat) (sg : Bool) (a b : Nat) : Bool :=
  match c with | 0 => a = b | 1 => a ≠ b | 2 => intLt w sg a b | 3 => intLt w sg a b || a = b | 4 => !(intLt w sg a b || a = b) | _ => !intLt w sg a b

section
variable {w : Nat} (hw : 0 < w) (sg : Bool) (a b : BitVec w)

theorem icmpHolds_eq : icmpHolds 0 w sg a.toNat b.toNat = (a == b) := by
  rw [Bool.eq_iff_iff, beq_iff_eq, ← BitVec.toNat_inj]
  exact decide_eq_true_iff

theorem icmpHolds_ne : icmpHolds 1 w sg a.toNat b.toNat = (a != b) := by
  rw [bne, ← icmpHolds_eq sg]
  exact decide_not

include hw

theorem icmpHolds_le : icmpHolds 3 w sg a.toNat b.toNat = if sg then a.sle b else a.ule b := by
  simp only [icmpHolds, intLt_toNat a b hw]
  rw [Bool.eq_iff_iff]
  cases sg
  · simp only [Bool.false_eq_true, if_false, Bool.or_eq_true, decide_eq_true_eq, BitVec.ult, BitVec.ule]
    omega
  · simp only [if_true, Bool.or_eq_true, decide_eq_true_eq, BitVec.slt, BitVec.sle, BitVec.toNat_inj, ← BitVec.toInt_inj]
    omega

theorem icmpHolds_gt : icmpHolds 4 w sg a.toNat b.toNat = if sg then b.slt a else b.ult a := by
  have hle : icmpHolds 4 w sg a.toNat b.toNat = !icmpHolds 3 w sg a.toNat b.toNat := rfl
  rw [hle, icmpHolds_le hw]
  cases sg
  · simp [BitVec.ule_eq_not_ult]
  · simp [BitVec.sle_eq_not_slt]

theorem icmpHolds_ge : icmpHolds 5 w sg a.toNat b.toNat = if sg then b.sle a else b.ule a := by
  have hlt : icmpHolds 5 w sg a.toNat b.toNat = !intLt w sg a.toNat b.toNat := rfl
  rw [hlt, intLt_toNat a b hw]
  cases sg
  · exact (BitVec.ule_eq_not_ult _ _).symm
  · exact (BitVec.sle_eq_not_slt).symm

end

/-- An integer compare writes its condition. -/
theorem does_icmp {s : State} {g : Grp} {f : RForm} {e : Env} {w : Nat} {sg : Bool} {c j : Nat} (hty : IntTy f.ty w sg) (hrm : f.rm = 0) (hsat : f.sat = false)
    (hcan : CanIssue s g f.pr f.pn e (rOps f .p (wk w) (wk w) .z)) (hsub : f.sub.toNat = c + 16 * j) (hc : c ≤ 5) (hj : j < 3) :
    Does (.icmp g f) s (fun t => ∃ x : Group, getGroup t g = some x ∧ PredIs e x f.d (fun k =>
      joinBit j (has (e.x.pmask (f.d.toNat - 0xC0)) k) (icmpHolds c w sg (e.x.opnd e.sc w f.a k) (e.x.opnd e.sc w f.b k)))) := by
  obtain ⟨rfl, rfl, hint⟩ := hty.spec
  obtain ⟨rfl, -⟩ := env?_some hcan.1
  have hcond : f.sub.toNat % 16 = c := by omega
  refine does_issue rfl hcan rfl rfl ?_ fun e' he => ?_
  · simp only [List.forall_mem_cons]
    exact ⟨hint, cmpFields_ok hrm hsat hsub hc (by decide) hj⟩
  · obtain ⟨-, -, -, hx, -, -, hsc, -⟩ := Env.eq_of_insn he
    obtain ⟨x, hgroup, hpred, -⟩ := predIs_putCmp (s := s) (F := fun k => icmpHolds c (tyBits f.ty.toNat) (isSigned f.ty) (e.x.opnd e.sc _ f.a k) (e.x.opnd e.sc _ f.b k))
      0 he (hcan.predField (lo := 16) (by simp [rOps])) hsub (by omega) hj
    refine ⟨x, ?_, hpred⟩
    rw [hx, hsc, hcond]
    exact hgroup

/-- What PBOOL makes of two bits (R111). -/
def pboolBit (op : Nat) (a b : Bool) : Bool := match op with | 0 => a && b | 1 => a || b | 2 => a ^^ b | _ => a && !b

/-- PBOOL writes what its operation makes of each thread's bits. -/
theorem does_pbool {s : State} {g : Grp} {f : RForm} {e : Env} {op : Nat} (hty : f.ty = 0) (hrm : f.rm = 0) (hsat : f.sat = false) (hsub : f.sub.toNat = op)
    (hop : op < 4) (hcan : CanIssue s g f.pr f.pn e (rOps f .p .p .p .z)) :
    Does (.pbool g f) s (fun t => ∃ x : Group, getGroup t g = some x ∧ PredIs e x f.d (fun k =>
      pboolBit op (has (e.x.pmask (f.a.toNat - 0xC0)) k) (has (e.x.pmask (f.b.toNat - 0xC0)) k))) := by
  obtain ⟨rfl, -⟩ := env?_some hcan.1
  have hlow : f.sub.toNat % 4 = op := by omega
  refine does_issue rfl hcan rfl rfl (by simp [hty, hrm, hsat, hsub]; omega) fun e' he => ?_
  obtain ⟨-, -, -, hx, -, hex, -⟩ := Env.eq_of_insn he
  rw [hx, hex, hlow]
  refine predIs_advance_setP 8 (hcan.predField (lo := 16) (by simp [rOps])) fun k hk _ => ?_
  match op, hop with
  | 0, _ => exact has_and _ _ k
  | 1, _ => exact has_or _ _ k
  | 2, _ => exact BitVec.getLsbD_xor
  | 3, _ => exact (has_and _ _ k).trans (by simp [pboolBit, has, hk])

/-- Settles O8: each compare by its condition and its JOIN; PBOOL by its operation. -/
theorem compareResults : Obligations.CompareResults := by
  unfold Obligations.CompareResults
  intro s g f e hrm hsat
  refine ⟨fun w sg hty hcan p hp j hj hsub => ?_, fun hty hcan p hp hsub => ?_⟩
  · have hw : w = 32 ∨ w = 64 := IntTy.width hty
    have hpos : 0 < w := by omega
    obtain ⟨hc, hholds⟩ : p.1 ≤ 5 ∧ ∀ a b : BitVec w, icmpHolds p.1 w sg a.toNat b.toNat = p.2 a b := by
      simp only [List.mem_cons, List.not_mem_nil, or_false] at hp
      rcases hp with rfl | rfl | rfl | rfl | rfl | rfl
      · exact ⟨Nat.zero_le _, icmpHolds_eq sg⟩
      · exact ⟨by norm_num, icmpHolds_ne sg⟩
      · exact ⟨by norm_num, fun a b => intLt_toNat a b hpos sg⟩
      · exact ⟨by norm_num, icmpHolds_le hpos sg⟩
      · exact ⟨by norm_num, icmpHolds_gt hpos sg⟩
      · exact ⟨by norm_num, icmpHolds_ge hpos sg⟩
    obtain ⟨hlt, hjoin⟩ : j.1 < 3 ∧ j.2 = joinBit j.1 := by
      simp only [List.mem_cons, List.not_mem_nil, or_false] at hj
      rcases hj with rfl | rfl | rfl <;> exact ⟨by decide, rfl⟩
    simp only [hjoin, ← hholds, argOf_toNat e hw]
    exact does_icmp hty hrm hsat hcan (by rw [hsub, BitVec.toNat_ofNat]; omega) hc hlt
  · obtain ⟨hop, hbit⟩ : p.1.toNat < 4 ∧ p.2 = pboolBit p.1.toNat := by
      simp only [List.mem_cons, List.not_mem_nil, or_false] at hp
      rcases hp with rfl | rfl | rfl | rfl <;> exact ⟨by decide, rfl⟩
    rw [hbit]
    exact does_pbool hty hrm hsat (by rw [hsub]) hop hcan

end Sys2Proof.Machine
end

section
/-! SUPPORT. Floating operations, conversions and compares (R59, R60, R62, R66, R105, R111); and O9. -/

namespace Sys2Proof.Machine

/-! ### Results with flags (R66) -/

theorem putRes_arith (x : Group) (sc : Bool) (w : Nat) (sx : Bool) (d : BitVec 8) (m : W32) (f : Nat → Nat) : (x.putRes sc w sx d m f).arith = x.arith :=
  (resFrame_putRes (dest := ⟨16, d, .w⟩) x sx m f fun _ _ => rfl).2.2.2

/-- A result with flags: the destination reads it, cut to its width, and its flags join ARITH's. -/
theorem flaggedResult_putAdvance {s : State} {e e' : Env} {w : Nat} {sx : Bool} {d : BitVec 8} {f : Nat → Nat} (he : e' = { e with insn := e'.insn }) (fl : Flg) (len : Nat)
    (hw : w ≤ 32 ∨ w = 64) : ∃ x : Group, getGroup (putAdvance s e' w sx d f fl len) e.g = some x ∧ ResultIs e x w d (fun k => f k % 2 ^ w) ∧
      x.arith = { e.x.arith with flags := e.x.arith.flags ||| fl } := by
  obtain ⟨x, hgroup, hregs⟩ := putAdvance_group (s := s) (w := w) (sx := sx) (d := d) (f := f) he fl len
  refine ⟨x, hgroup, resultIs_putRes hw (fun _ _ => rfl) hregs, ?_⟩
  obtain ⟨-, -, -, harith⟩ := hregs.of_arith
  rw [harith, putRes_arith]
  rfl

theorem regW_wide (ty : BitVec 4) : regW ty ≤ 32 ∨ regW ty = 64 := by
  unfold regW
  split
  · exact .inr rfl
  · exact .inl le_rfl

/-! ### Floating operations (R60, R111) -/

section
variable {s : State} {g : Grp} {f : RForm} {e : Env} {i : Instr}

/-- A floating operation, under the conditions on its fields, gives `floatReg`'s result in the mode and saturation in force. -/
theorem does_floatOp {code op : Nat} {types : Nat → BitVec 4 → Bool} (m : State → Out) (hexec : exec i s = m s) (hm : m s = floatOp g f code op types s)
    (htypes : types e.ct f.ty = true) (hsub : f.sub.toNat < 16)
    (hround : ∀ p ∈ (if (op = 3 || op = 4) = true then [(52, decide (f.rm = 0)), (55, !f.sat)] else rmChecks f false), p.2 = true)
    (hcan : CanIssue s g f.pr f.pn e (rOps f (wk (regW f.ty)) (wk (regW f.ty)) (if op = 6 then .z else wk (regW f.ty)) (if op = 2 then wk (regW f.ty) else .z))) :
    let md := resolveRm e.x.arith f.rm.toNat f.sat
    let w := regW f.ty
    let r := fun k => floatReg f.ty.toNat op (rmodeOf (arithRm md.1) 0) md.2 f.sub (e.x.opnd e.sc w f.a k) (e.x.opnd e.sc w f.b k) (e.x.opnd e.sc w f.c k)
    Does i s (fun t => ∃ x : Group, getGroup t g = some x ∧ ResultIs e x w f.d (fun k => (r k).1 % 2 ^ w) ∧
      x.arith = { e.x.arith with flags := e.x.arith.flags ||| orFlags e.ex (fun k => (r k).2) }) := by
  intro md w r
  obtain ⟨rfl, -⟩ := env?_some hcan.1
  refine does_issue (hexec.trans hm) hcan rfl rfl ?_ fun e' he => ?_
  · simp only [List.forall_mem_cons]
    exact ⟨htypes, decide_eq_true hsub, hround⟩
  · obtain ⟨-, -, -, hx, -, hex, hsc, -⟩ := Env.eq_of_insn he
    rw [hx, hex, hsc]
    exact flaggedResult_putAdvance he _ 8 (regW_wide f.ty)

/-- RM and SAT of arithmetic (R60). -/
theorem rmChecks_ok {sr : Bool} (h5 : sr = true ∨ f.rm ≠ 5) (h7 : f.rm ≠ 7) (hdyn : ¬(f.rm = 6 ∧ f.sat = true)) : ∀ p ∈ rmChecks f sr, p.2 = true := by
  simp only [rmChecks, List.forall_mem_cons, Bool.and_eq_true, Bool.or_eq_true, decide_eq_true_eq, Bool.not_eq_true']
  exact ⟨⟨h7, h5⟩, by simpa using hdyn, fun _ h => absurd h List.not_mem_nil⟩

/-- An approximate function gives `approxElem`'s value and flags (log 14). -/
theorem does_approxOp {code fn : Nat} (m : State → Out) (hexec : exec i s = m s) (hm : m s = approxOp g f code fn s) (hty : f.ty = 1) (hrm : f.rm = 0)
    (hsat : f.sat = false) (hsub : f.sub.toNat < 16) (hcan : CanIssue s g f.pr f.pn e (rOps f .r .r .z .z)) :
    let abs := fun a => if has f.sub 2 then a % 2 ^ 31 else a
    let r := fun k => approxElem fn e.ct (if has f.sub 0 then (abs (e.x.opnd e.sc 32 f.a k) + 2 ^ 31) % 2 ^ 32 else abs (e.x.opnd e.sc 32 f.a k))
    Does i s (fun t => ∃ x : Group, getGroup t g = some x ∧ ResultIs e x 32 f.d (fun k => (r k).1 % 2 ^ 32) ∧
      x.arith = { e.x.arith with flags := e.x.arith.flags ||| orFlags e.ex (fun k => (r k).2) }) := by
  intro abs r
  obtain ⟨rfl, -⟩ := env?_some hcan.1
  have htypes : floatTy e.ct 1#4 = true := by unfold floatTy; split <;> decide
  refine does_issue (hexec.trans hm) hcan rfl rfl (by simp [hty, hrm, hsat, hsub, htypes]) fun e' he => ?_
  obtain ⟨-, -, -, hx, -, hex, hsc, -⟩ := Env.eq_of_insn he
  have hct : e'.ct = e.ct := by rw [he]
  rw [hx, hex, hsc, hct]
  exact flaggedResult_putAdvance he _ 8 (.inl le_rfl)

/-- CVT converts each element, with a draw of 16 bits for each (R62). -/
theorem does_cvt (h7 : f.rm ≠ 7) (hdyn : ¬(f.rm = 6 ∧ f.sat = true)) (hsub : f.sub.toNat < 16) (hdst : cvtDst e.ct f.ty.toNat = true)
    (hok : cvtOk e.ct f.ty.toNat f.sub.toNat = true)
    (hcan : CanIssue s g f.pr f.pn e (rOps f (wk (regW f.ty)) (wk (regW (BitVec.ofNat 4 f.sub.toNat))) .z .z)) :
    let md := resolveRm e.x.arith f.rm.toNat f.sat
    let r := fun k => cvtReg f.sub.toNat f.ty.toNat (fun j => rmodeOf md.1 (Config.freeNat (s.freeCtr + 2 * k + j) % 65536)) md.2
      (e.x.opnd e.sc (regW (BitVec.ofNat 4 f.sub.toNat)) f.a k)
    Does (.cvt g f) s (fun t => ∃ x : Group, getGroup t g = some x ∧ ResultIs e x (regW f.ty) f.d (fun k => (r k).1 % 2 ^ regW f.ty) ∧
      x.arith = { e.x.arith with flags := e.x.arith.flags ||| orFlags e.ex (fun k => (r k).2) }) := by
  intro md r
  obtain ⟨rfl, -⟩ := env?_some hcan.1
  have hsrc : f.sub.toNat % 16 = f.sub.toNat := Nat.mod_eq_of_lt hsub
  refine does_issue rfl hcan rfl (by rw [hsrc]; rfl) ?_ fun e' he => ?_
  · simp only [List.forall_mem_cons, hsrc]
    exact ⟨hdst, hok, decide_eq_true hsub, rmChecks_ok (.inl rfl) h7 hdyn⟩
  · obtain ⟨-, -, -, hx, -, hex, hsc, -⟩ := Env.eq_of_insn he
    rw [hx, hex, hsc, hsrc]
    exact flaggedResult_putAdvance he _ 8 (regW_wide f.ty)

end

/-! ### Floating compares (R111) -/

theorem vLt_nan {a b : Val} (h : (a.isNan || b.isNan) = true) : vLt a b = false := by
  cases a with
  | nan => rfl
  | inf n => cases b <;> simp_all [Val.isNan, vLt]
  | fin n m x => cases b <;> simp_all [Val.isNan, vLt]

theorem vEq_nan {a b : Val} (h : (a.isNan || b.isNan) = true) : vEq a b = false := by
  unfold vEq
  cases ha : a.isNan <;> simp_all

/-- No value is below another that is below it. -/
theorem vLt_asymm {a b : Val} (h : vLt a b = true) : vLt b a = false := by
  cases a with
  | nan => simp [vLt] at h
  | inf n => cases b <;> simp_all [vLt]
  | fin n m x => cases b with
    | nan => simp [vLt] at h
    | inf n' => simp_all [vLt]
    | fin n' m' x' =>
      simp only [vLt, decide_eq_true_eq, decide_eq_false_iff_not, not_lt, min_comm x'] at h ⊢
      exact h.le

/-- The condition of FCMP (R111). -/
def fcmpHolds (c : Nat) (a b : Val) : Bool :=
  let un := a.isNan || b.isNan
  match c with
  | 0 => !un && vEq a b | 1 => un || !vEq a b | 2 => !un && vLt a b | 3 => !un && !vLt b a | 4 => !un && vLt b a
  | 5 => !un && !vLt a b | _ => un

section
variable (a b : Val)

/-- A condition that no NaN meets is the ordered condition. -/
theorem ordered_and {un p : Bool} (h : un = true → p = false) : (!un && p) = p := by
  cases un
  · rfl
  · exact (h rfl).symm

theorem fcmpHolds_eq : fcmpHolds 0 a b = vEq a b := ordered_and vEq_nan

theorem fcmpHolds_ne : fcmpHolds 1 a b = !vEq a b := by
  rw [← fcmpHolds_eq]
  simp [fcmpHolds]

theorem fcmpHolds_lt : fcmpHolds 2 a b = vLt a b := ordered_and vLt_nan

/-- Of two numbers one that is not above the other is below or equal to it. -/
theorem fcmpHolds_le : fcmpHolds 3 a b = (vLt a b || vEq a b) := by
  cases hun : a.isNan || b.isNan with
  | true => simp [fcmpHolds, hun, vLt_nan hun, vEq_nan hun]
  | false =>
    obtain ⟨ha, hb⟩ := Bool.or_eq_false_iff.1 hun
    cases hlt : vLt a b with
    | true => simp [fcmpHolds, hun, vLt_asymm hlt]
    | false => simp [fcmpHolds, vEq, ha, hb, hlt]

theorem vEq_comm : vEq a b = vEq b a := by simp only [vEq, Bool.and_comm, Bool.and_left_comm]

theorem fcmpHolds_gt : fcmpHolds 4 a b = vLt b a := ordered_and fun h => vLt_nan (by rwa [Bool.or_comm])

theorem fcmpHolds_ge : fcmpHolds 5 a b = (vLt b a || vEq a b) := by
  have hswap : fcmpHolds 5 a b = fcmpHolds 3 b a := by simp only [fcmpHolds, Bool.or_comm]
  rw [hswap, fcmpHolds_le, vEq_comm]

end

/-- FCMP writes its condition, and a signalling operand sets INVALID. -/
theorem does_fcmp {s : State} {g : Grp} {f : RForm} {e : Env} {c j : Nat} (hrm : f.rm = 0) (hsat : f.sat = false) (hty : floatTy e.ct f.ty = true)
    (hcan : CanIssue s g f.pr f.pn e (rOps f .p (wk (regW f.ty)) (wk (regW f.ty)) .z)) (hsub : f.sub.toNat = c + 16 * j) (hc : c ≤ 6) (hj : j < 3) :
    let val := fun (c : BitVec 8) k => decTy f.ty.toNat (e.x.opnd e.sc (regW f.ty) c k % 2 ^ tyBits f.ty.toNat)
    Does (.fcmp g f) s (fun t => ∃ x : Group, getGroup t g = some x ∧
      PredIs e x f.d (fun k => joinBit j (has (e.x.pmask (f.d.toNat - 0xC0)) k) (fcmpHolds c (val f.a k).1 (val f.b k).1)) ∧
      x.arith = { e.x.arith with flags := e.x.arith.flags ||| orFlags e.ex (fun k => fIf ((val f.a k).2 || (val f.b k).2) fInvalid) }) := by
  intro val
  obtain ⟨rfl, -⟩ := env?_some hcan.1
  have hcond : f.sub.toNat % 16 = c := by omega
  refine does_issue rfl hcan rfl rfl ?_ fun e' he => ?_
  · simp only [List.forall_mem_cons]
    exact ⟨hty, cmpFields_ok hrm hsat hsub hc (by decide) hj⟩
  · obtain ⟨-, -, -, hx, -, hex, hsc, -⟩ := Env.eq_of_insn he
    rw [hx, hsc, hcond, hex]
    exact predIs_putCmp (F := fun k => fcmpHolds c (val f.a k).1 (val f.b k).1) _ he (hcan.predField (lo := 16) (by simp [rOps])) hsub (by omega) hj

/-- Settles O9: each family of floating instructions by what it makes of its operands. -/
theorem floatResults : Obligations.FloatResults := by
  unfold Obligations.FloatResults
  intro s g f e m w
  refine ⟨fun p hp h5 h7 hdyn hsub hty hwide hplain hcan => ?_, fun p hp hty hrm hsat hsub hcan => ?_, fun h7 hdyn hsub hdst hok => ?_,
    fun hrm hsat hty hcan => ?_⟩
  · have hround : ∀ q ∈ (if (p.2 = 3 || p.2 = 4) = true then [(52, decide (f.rm = 0)), (55, !f.sat)] else rmChecks f false), q.2 = true := by
      split
      · next h =>
        obtain ⟨hrm, hsat⟩ := hplain (by simpa using h)
        simp [hrm, hsat]
      · exact rmChecks_ok (.inr h5) h7 hdyn
    have hnarrow : f.ty.toNat ≤ 1 → wideTy e.ct f.ty = true := fun h => by simp [wideTy, hty, h]
    simp only [List.mem_cons, List.not_mem_nil, or_false] at hp
    rcases hp with rfl | rfl | rfl | rfl | rfl | rfl | rfl
    · exact does_floatOp (execFadd g f) rfl rfl hty hsub hround hcan
    · exact does_floatOp (execFmul g f) rfl rfl hty hsub hround hcan
    · exact does_floatOp (execFfma g f) rfl rfl hty hsub hround hcan
    · exact does_floatOp (execFmin g f) rfl rfl hty hsub hround hcan
    · exact does_floatOp (execFmax g f) rfl rfl hty hsub hround hcan
    · exact does_floatOp (execFdiv g f) rfl rfl (hnarrow (hwide (.inl rfl))) hsub hround hcan
    · exact does_floatOp (execFsqrt g f) rfl rfl (hnarrow (hwide (.inr rfl))) hsub hround hcan
  · simp only [List.mem_cons, List.not_mem_nil, or_false] at hp
    rcases hp with rfl | rfl | rfl | rfl | rfl
    · exact does_approxOp (execFrcp g f) rfl rfl hty hrm hsat hsub hcan
    · exact does_approxOp (execFrsq g f) rfl rfl hty hrm hsat hsub hcan
    · exact does_approxOp (execFexp2 g f) rfl rfl hty hrm hsat hsub hcan
    · exact does_approxOp (execFlog2 g f) rfl rfl hty hrm hsat hsub hcan
    · exact does_approxOp (execFtanh g f) rfl rfl hty hrm hsat hsub hcan
  · intro ws hcan
    obtain ⟨t, hexec, x, hx⟩ := does_cvt h7 hdyn hsub hdst hok hcan
    exact ⟨t, fun k j => Config.freeNat (s.freeCtr + 2 * k + j) % 65536, x, hexec, fun _ _ => Nat.mod_lt _ (by decide), hx⟩
  · intro val p hp j hj hsub
    obtain ⟨hc, hholds⟩ : p.1.toNat ≤ 6 ∧ p.2 = fcmpHolds p.1.toNat := by
      simp only [List.mem_cons, List.not_mem_nil, or_false] at hp
      rcases hp with rfl | rfl | rfl | rfl | rfl | rfl | rfl
      · exact ⟨by decide, funext fun a => funext fun b => (fcmpHolds_eq a b).symm⟩
      · exact ⟨by decide, funext fun a => funext fun b => (fcmpHolds_ne a b).symm⟩
      · exact ⟨by decide, funext fun a => funext fun b => (fcmpHolds_lt a b).symm⟩
      · exact ⟨by decide, funext fun a => funext fun b => (fcmpHolds_le a b).symm⟩
      · exact ⟨by decide, funext fun a => funext fun b => (fcmpHolds_gt a b).symm⟩
      · exact ⟨by decide, funext fun a => funext fun b => (fcmpHolds_ge a b).symm⟩
      · exact ⟨by decide, rfl⟩
    obtain ⟨hlt, hjoin⟩ : j.1.toNat < 3 ∧ j.2 = joinBit j.1.toNat := by
      simp only [List.mem_cons, List.not_mem_nil, or_false] at hj
      rcases hj with rfl | rfl | rfl <;> exact ⟨by decide, rfl⟩
    rw [hholds, hjoin]
    exact does_fcmp hrm hsat hty hcan (by rw [hsub]; bv_omega) hc hlt

end Sys2Proof.Machine
end

section
/-! SUPPORT. A collective region while a path moves (R80, R142, R143), TRAP and CRGN (R113, R142); and O15. -/

namespace Sys2Proof.Machine

/-! ### The region while a path parks (R80) -/

theorem settle_region (n : Nat) (x : Group) : (settle n x).region = x.region := by
  induction n generalizing x with
  | zero => rfl
  | succ n ih =>
    unfold settle
    split
    · rfl
    · rw [ih]
      split
      · rfl
      · split
        · rfl
        · split <;> rfl

theorem choose_region (x : Group) (last : Nat) (prefer : Option Nat) : (choose x last prefer).region = x.region := by
  unfold choose
  split
  · rfl
  · dsimp only
    split
    · rfl
    · split <;> rfl

theorem parkRun_region (x : Group) (cyc : Nat) : (parkRun x cyc).region = x.region := by
  unfold parkRun
  split
  · rfl
  · split
    · split
      · exact (choose_region _ _ _).trans (settle_region _ _)
      · rfl
    · rfl

/-- A path that goes on to a place that is not its region's end stays in the region (R143). -/
theorem advance_region {s : State} {x : Group} {p : Path} {r : Region} (g : Grp) (len : Nat) (hrun : x.run = some p) (hregion : x.region = some r)
    (hstop : p.pc + BitVec.ofNat 64 len ≠ r.stop) : ∃ y, getGroup (advance s g x len) g = some y ∧ SameRegs x y ∧ y.region = some r := by
  refine ⟨(moveTo (countIssue x) (p.pc + BitVec.ofNat 64 len) false (cycles s (coreHalf g.core))).1, ?_,
    .trans ⟨rfl, rfl, rfl, rfl⟩ (moveTo_sameRegs (countIssue x) _ _ _), ?_⟩
  · simp only [advance, hrun]
    exact getGroup_finish s g _
  · simp only [moveTo, countIssue, hrun, regionCheck, hregion, hstop, decide_false, Bool.false_and, Bool.or_self, Bool.false_eq_true, if_false]
    exact parkRun_region _ _

/-! ### TRAP and CRGN -/

/-- An offset in instructions is one instruction only where it is 1. -/
theorem off8_ne_eight {v : W32} (h : v.toInt ≠ 1) : off8 v ≠ 8 := by
  intro h8
  have hnat : (v.toInt % 2 ^ 64).toNat * 8 % 2 ^ 64 = 8 := by
    have htoNat := congrArg BitVec.toNat ((off8_eq_mul v).symm.trans h8)
    rwa [BitVec.toNat_mul, BitVec.signExtend, BitVec.toNat_ofInt] at htoNat
  have hlow : -2 ^ 31 ≤ v.toInt := BitVec.le_toInt v
  have hhigh : v.toInt < 2 ^ 31 := BitVec.toInt_lt
  omega

/-- Settles O15: TRAP by its fault, CRGN by the region that it opens or the fault of one that is open. -/
theorem trapsAndRegions : Obligations.TrapsAndRegions := by
  unfold Obligations.TrapsAndRegions
  intro s g f e hcan
  obtain ⟨rfl, -, -, hrun⟩ := env?_some hcan.1
  refine ⟨fun hex => ?_, fun hct hpr himm hregion => ?_, fun hct hpr himm hregion => ?_⟩
  · refine does_issue rfl hcan rfl rfl (fun _ h => absurd h List.not_mem_nil) fun e' he => ?_
    obtain ⟨-, -, -, -, -, hex', -⟩ := Env.eq_of_insn he
    rw [hex', if_neg hex]
    exact groupFault_faulted hcan.1 _ _ _ _
  · refine does_issue_uncond rfl hpr hcan (by simp [hct]) rfl (by simpa using himm) fun e' he => ?_
    obtain ⟨-, -, -, hx, hp, -⟩ := Env.eq_of_insn he
    simp only [hx, hp, hregion, Option.isSome_none, Bool.false_eq_true, if_false, hrun, Option.map_some]
    generalize hy : ({ e.x with region := some { entry := e.p.mask, start := e.p.pc + 8, stop := e.p.pc + off8 f.imm }, run := some { e.p with depth := 0 }, others := e.x.others.map fun p => { p with depth := 0 } } : Group) = y
    obtain ⟨-, hmem, -⟩ := advance_keeps s e.g y 8
    by_cases h1 : f.imm.toInt = 1
    · obtain ⟨⟨z, hz, hxs, hus, -⟩, -⟩ := advance_keeps s e.g y 8
      exact ⟨hmem, z, hz, by rw [hxs, ← hy], by rw [hus, ← hy], fun h => absurd h1 h⟩
    · obtain ⟨z, hz, ⟨hxs, hus, -⟩, hr⟩ := advance_region (s := s) (x := y) e.g 8 (by rw [← hy]) (by rw [← hy])
        (fun h => off8_ne_eight h1 ((BitVec.add_right_inj e.p.pc).1 h).symm)
      exact ⟨hmem, z, hz, by rw [hxs, ← hy], by rw [hus, ← hy], fun _ => ⟨_, hr, rfl, rfl, by rw [off8_eq_mul], rfl, rfl⟩⟩
  · refine does_issue_uncond rfl hpr hcan (by simp [hct]) rfl (by simpa using himm) fun e' he => ?_
    obtain ⟨-, -, -, hx, -⟩ := Env.eq_of_insn he
    rw [hx, if_pos hregion]
    obtain ⟨r, hfaults, -, hcode, -⟩ := groupFault_faulted hcan.1 0x0105 0 none none
    exact ⟨r, hfaults, hcode⟩

end Sys2Proof.Machine
end

section
/-! SUPPORT. Atomics and reductions of the loft and of cacheable memory (R117, R184); and O21. -/

namespace Sys2Proof.Machine

/-! ### What an atomic makes of a word (R117) -/

/-- An operation on unsigned words of 4 or 8 bytes (R57, R117). -/
def UintWord (f : MForm) (n : Nat) : Prop := f.size = 2 ∧ n = 4 ∧ f.ty = 13 ∨ f.size = 3 ∧ n = 8 ∧ f.ty = 15

section
variable {f : MForm} {n : Nat}

theorem UintWord.size (h : UintWord f n) : n = 2 ^ f.size.toNat ∧ (f.size.toNat = 2 ∨ f.size.toNat = 3) ∧ (n = 4 ∨ n = 8) := by
  rcases h with ⟨hsize, rfl, -⟩ | ⟨hsize, rfl, -⟩ <;> simp [hsize]

/-- TYPE goes with the size for the integer operations. -/
theorem UintWord.atomTy_ok (h : UintWord f n) (haop : f.aop.toNat ≤ 6) : atomTy f.aop.toNat f.ty.toNat n = true := by
  rcases h with ⟨-, rfl, hty⟩ | ⟨-, rfl, hty⟩ <;> simp [atomTy, hty] <;> omega

theorem intLt_unsigned (w a b : Nat) : intLt w false a b = decide (a < b) := rfl

/-- The operation of an atomic on unsigned words, as bit vectors. -/
def aopBits (aop : Nat) {w : Nat} (old b : BitVec w) : BitVec w :=
  match aop with
  | 0 => old + b | 1 => if b.ult old then b else old | 2 => if old.ult b then b else old | 3 => old &&& b | 4 => old ||| b | 5 => old ^^^ b | _ => b

theorem UintWord.aopWord_eq (h : UintWord f n) (haop : f.aop.toNat ≤ 6) (old b : BitVec (8 * n)) (c : Nat) :
    aopWord f.aop.toNat f.ty.toNat n old.toNat b.toNat c = (aopBits f.aop.toNat old b).toNat := by
  have hty : (f.ty.toNat = 12 || f.ty.toNat = 14) = false := by rcases h with ⟨-, -, h⟩ | ⟨-, -, h⟩ <;> rw [h] <;> rfl
  have hword : ∀ aop ≤ 6, aopWord aop f.ty.toNat n old.toNat b.toNat c = aopElem aop f.ty.toNat (8 * n) old.toNat b.toNat c := fun aop h6 => by
    simp [aopWord, show ¬8 ≤ aop by omega]
  have hite : ∀ (q : Bool) (x y : BitVec (8 * n)), (if q then x.toNat else y.toNat) = (if q then x else y).toNat := fun q _ _ => by cases q <;> rfl
  rw [hword _ haop]
  generalize f.aop.toNat = aop at haop
  match aop, haop with
  | 0, _ => exact (BitVec.toNat_add _ _).symm
  | 1, _ => simp only [aopElem, hty, intLt_unsigned]; exact hite _ _ _
  | 2, _ => simp only [aopElem, hty, intLt_unsigned]; exact hite _ _ _
  | 3, _ => rfl
  | 4, _ => rfl
  | 5, _ => rfl
  | 6, _ => rfl

end

/-- The codes of the integer operations but CAS are legal. -/
theorem atomOp_code {aop : BitVec 4} {red : Bool} (haop : aop.toNat ≤ if red then 4 else 6) : aop.toNat ≤ 6 ∧ (!red && decide (aop = 7)) = false ∧
    aop.toNat ∈ if red = true then [0, 1, 2, 3, 4, 8, 9, 10] else [0, 1, 2, 3, 4, 5, 6, 7, 8, 9, 10] := by
  have h6 : aop.toNat ≤ 6 := haop.trans (by cases red <;> decide)
  have h7 : decide (aop = 7) = false := decide_eq_false fun h => by rw [h] at h6; exact absurd h6 (by decide)
  refine ⟨h6, by rw [h7, Bool.and_false], ?_⟩
  cases red <;> simp at haop ⊢ <;> omega

/-- One atomic of cacheable memory of this device: its request is sent under an outstanding operation, and the path goes on. -/
theorem doAtoms_one {s : State} {e : Env} {k va sa : Nat} (hloft : isLoft s sa = false) (hlocal : isLocal s (sa / 64) = true) (size aop ty hint : Nat) (kind : OpKind)
    (mk : MsgKind) (opB opC : Nat → Nat) (put : Group → Nat → Nat → Group) (regs : List Nat) :
    ∃ (o : OutOp) (id : Nat) (mask : BitVec 64), doAtoms s e [(k, va, sa, false)] size aop ty hint kind mk opB opC put regs =
      advance (send (addOut (l1Stale (setGroup s e.g e.x) e.g.core (sa / 64)) e.g.core o)
        { coreMsg e.g.core id (sa / 64) mk with
          data := BitVec.ofNat 512 (opB k + 2 ^ 64 * opC k), mask := mask, op := aop, ty := ty, flags := hint, thread := k }) e.g e.x 8 := by
  have hcache : Cacheable s [(k, va, sa, false)] := fun q hq => by obtain rfl := List.mem_singleton.1 hq; exact ⟨hloft, hlocal, rfl⟩
  have hslots : uncSlots s [(k, va, sa, false)] hint 2 = s := by simp [uncSlots, hcache.uncLines_eq_nil]
  simp [doAtoms, hslots, hloft, hlocal, uncachedRead, distinct]
  cases kind <;> exact ⟨_, _, _, rfl⟩

/-- The request of an atomic: from its core, with its operation and operand, to the slice of its line. -/
def AtomAsk (q : Msg) (kind : MsgKind) (core line : Nat) (f : MForm) (k b : Nat) : Prop :=
  q.kind = kind ∧ q.req = .core core ∧ q.line = line ∧ q.slice = sliceOf line ∧ q.op = f.aop.toNat ∧ q.ty = f.ty.toNat ∧ q.thread = k ∧ q.data = BitVec.ofNat 512 b

/-- The old word of one thread's atomic is its result. -/
theorem loadPut_one {x : Group} {m : W32} {k n : Nat} (hk : threads m = [k]) (hn : n = 4 ∨ n = 8) (sc : Bool) (d : BitVec 8) (v : Nat) :
    loadPut x sc n false d k (lowest m) v = x.putRes sc (8 * n) false d m (fun _ => v) := by
  have hfold := foldl_loadPut (size := n) (by omega) x sc false d m (fun _ => v)
  simp only [hk, List.foldl_cons, List.foldl_nil] at hfold
  have hw : (if n = 8 then 64 else 32) = 8 * n := by split <;> omega
  rw [hfold, hw]
  rfl

/-! ### ATOM and RED (R87, R89, R117, R184) -/

section
variable {s : State} {g : Grp} {f : MForm} {e : Env} {n k op : Nat} {i : Instr} {red : Bool} (m : State → Out) (hexec : exec i s = m s)
  (hm : m s = atomOp g f op red s) (hword : UintWord f n) (hhint : f.hint.toNat ≤ 4) (haop : f.aop.toNat ≤ if red then 4 else 6) (hfences : e.p.fences = [])
  (hranges : heldRanges s g.core = []) (hk : threads e.ex = [k])
  (hcan : CanIssue s g f.pr f.pn e [⟨16, f.d, if red then .z else wk (8 * n)⟩, ⟨24, f.a, baseKind f.space⟩, ⟨32, f.b, wk (8 * n)⟩, ⟨40, f.c, .r⟩])
include hexec hm hword hhint haop hfences hranges hk hcan

/-- What becomes of one thread's operand and of the register that takes the old word. -/
theorem does_atomOp_loft {P : State → Prop} {a old new : Nat} (hspace : f.space = 1) (hrange : loftOff e f.a f.c k < loftSize g.core)
    (halign : loftOff e f.a f.c k % n = 0) (ha : a = loftAt g.core + loftOff e f.a f.c k) (hold : old = readNat s.mem a n)
    (hnew : new = aopWord f.aop.toNat f.ty.toNat n old (e.x.opnd e.sc (8 * n) f.b k) 0)
    (hP : P (advance { s with mem := writeNat s.mem a n new } g (if red then e.x else loadPut e.x e.sc n false f.d k (lowest e.ex) old) 8)) : Does i s P := by
  obtain ⟨rfl, -⟩ := env?_some hcan.1
  obtain ⟨hn, hsizes, -⟩ := hword.size
  obtain ⟨haop6, hcas, haops⟩ := atomOp_code haop
  refine does_issue (hexec.trans hm) hcan rfl (by simp only [hcas, ← hn, Bool.false_eq_true, if_false])
    (mChecks_ok (by simpa using hsizes) (by simp [hspace]) hhint haops (by rw [← hn]; exact hword.atomTy_ok haop6)) fun e' he => ?_
  obtain ⟨-, -, -, hx, hp, hex, hsc, -⟩ := Env.eq_of_insn he
  have haddrs : addrs e' true f.a f.c = [(k, loftOff e f.a f.c k)] := by rw [he]; exact (addrs_loft e f.a f.c).trans (by rw [hk]; rfl)
  have haddr : addrFault e' true n [(k, loftOff e f.a f.c k)] = none := by
    rw [he]
    exact addrFault_loft_none fun q hq => by obtain rfl := List.mem_singleton.1 hq; exact ⟨hrange, halign⟩
  simp only [hp, hx, hsc, hex, fenceHolds_of_no_fences hfences, ← hn, hspace, hcas, decide_true, haddrs, haddr, sbBlocked_of_no_ranges hranges, Bool.false_eq_true,
    if_false, if_true, List.foldl_cons, List.foldl_nil, atomAt]
  rw [← ha, ← hold, ← hnew]
  exact hP

/-- An operation on cacheable memory of this device goes to the slice with its code and operand, and the path goes on. -/
theorem does_atomOp_cacheable {P : State → Prop} {sa va : Nat} (hspace : f.space = 0) (hfar : farCount e.k ≤ 256) (hloft : isLoft s sa = false)
    (hlocal : isLocal s (sa / 64) = true) (hva : va = wrap 64 ((e.x.opnd e.sc 64 f.a k : Int) + sext 32 (e.x.opnd e.sc 32 f.c k))) (hrange : va < 2 ^ 48)
    (halign : va % n = 0) (htransl : transl s e va .atomic = .ok sa false)
    (hP : ∀ (o : OutOp) (q : Msg), AtomAsk q (if red then .red else .atom) g.core (sa / 64) f k (e.x.opnd e.sc (8 * n) f.b k) →
      P (advance (send (addOut (l1Stale (setGroup s g e.x) g.core (sa / 64)) g.core o) q) g e.x 8)) : Does i s P := by
  obtain ⟨rfl, -⟩ := env?_some hcan.1
  obtain ⟨hn, hsizes, -⟩ := hword.size
  obtain ⟨haop6, hcas, haops⟩ := atomOp_code haop
  refine does_issue (hexec.trans hm) hcan rfl (by simp only [hcas, ← hn, Bool.false_eq_true, if_false])
    (mChecks_ok (by simpa using hsizes) (by simp [hspace]) hhint haops (by rw [← hn]; exact hword.atomTy_ok haop6)) fun e' he => ?_
  have haddrs : addrs e' false f.a f.c = [(k, va)] := by rw [he, hva]; exact addrs_of_one (e := { e with insn := e'.insn }) hk f.a f.c
  have haddr : addrFault e' false n [(k, va)] = none := addrFault_none fun q hq => by obtain rfl := List.mem_singleton.1 hq; exact ⟨hrange, halign⟩
  have hall : translAll s e' .atomic [(k, va)] = .ok [(k, va, sa, false)] := by
    rw [he]
    exact translAll_ok (sa := fun _ => sa) fun q hq => by obtain rfl := List.mem_singleton.1 hq; exact htransl
  have hcache : Cacheable s [(k, va, sa, false)] := fun q hq => by obtain rfl := List.mem_singleton.1 hq; exact ⟨hloft, hlocal, rfl⟩
  have hheld : ∀ hint, uncHeld s [(k, va, sa, false)] hint = false := fun hint => by simp [uncHeld, hcache.uncLines_eq_nil]
  have hslots : ∀ hint, uncSlots s [(k, va, sa, false)] hint 2 = s := fun hint => by simp [uncSlots, hcache.uncLines_eq_nil]
  have hsp0 : decide ((0 : BitVec 2) = 1) = false := rfl
  obtain ⟨hg, hk', -, hx, hp, hex, hsc, -⟩ := Env.eq_of_insn he
  simp only [hk', hp, hx, hsc, hex, fenceHolds_of_no_fences hfences, ← hn, hspace, hsp0, hcas, haddrs, haddr, sbBlocked_of_no_ranges hranges, Bool.false_eq_true,
    if_false, hall, hheld, hcache.filter_far_eq_nil, List.length_nil, Nat.add_zero, Nat.not_lt.2 hfar, decide_false, Bool.and_false]
  obtain ⟨o, id, mask, hatoms⟩ := doAtoms_one (e := e') (k := k) (va := va) hloft hlocal n f.aop.toNat f.ty.toNat f.hint.toNat (if red then .red else .atom f.d)
    (if red then .red else .atom) (fun t => e.x.opnd e.sc (8 * n) f.b t) (fun _ => 0)
    (fun x t v => if red then x else loadPut x e.sc n false f.d t (lowest e.ex) v) (if red then [] else destRegs e.sc n f.d)
  rw [hatoms, hg, hx]
  exact hP o _ ⟨rfl, rfl, rfl, rfl, rfl, rfl, rfl, rfl⟩

end

/-- Settles O21: an operation on the loft by the word that it leaves, one on cacheable memory by its request. -/
theorem atomicAccess : Obligations.AtomicAccess := by
  unfold Obligations.AtomicAccess
  intro s g f e n k hword hhint haop hfences hranges hk b ops
  have hwide : n = 4 ∨ n = 8 := (UintWord.size hword).2.2
  have hb : b.toNat = e.x.opnd e.sc (8 * n) f.b k := argOf_toNat e (w := 8 * n) (by omega) f.b k
  refine ⟨fun hspace => ?_, fun hspace => ?_⟩
  · intro at_ old hrange halign p hp hop done
    have hold : old.toNat = readNat s.mem (loftAt g.core + at_) n := by rw [BitVec.toNat_ofNat, Nat.mod_eq_of_lt (readNat_lt _ _ _)]
    have hnew : p.2.toNat = aopWord f.aop.toNat f.ty.toNat n old.toNat (e.x.opnd e.sc (8 * n) f.b k) 0 := by
      rw [← hb, UintWord.aopWord_eq hword haop, hop]
      simp only [List.mem_cons, List.not_mem_nil, or_false] at hp
      rcases hp with rfl | rfl | rfl | rfl | rfl | rfl | rfl <;> rfl
    have hdone : ∀ x, done (advance { s with mem := writeNat s.mem (loftAt g.core + at_) n p.2.toNat } g x 8) := fun x => by
      obtain ⟨-, hmem, -⟩ := advance_keeps { s with mem := writeNat s.mem (loftAt g.core + at_) n p.2.toNat } g x 8
      refine ⟨?_, fun a ha => ?_⟩
      · rw [hmem, readNat_writeNat_self, mod_toNat]
      · rw [hmem]
        exact readByte_writeNat_out _ _ ha
    refine ⟨fun hcan => ?_, fun haop4 hcan => ?_⟩
    · refine does_atomOp_loft (red := false) (execAtom g f) rfl rfl hword hhint haop hfences hranges hk hcan hspace hrange halign rfl hold hnew ⟨hdone _, ?_⟩
      obtain ⟨rfl, -⟩ := env?_some hcan.1
      simp only [Bool.false_eq_true, if_false, loadPut_one hk hwide]
      generalize hx : e.x.putRes e.sc (8 * n) false f.d e.ex (fun _ => old.toNat) = x
      obtain ⟨⟨y, hy, hregs⟩, -⟩ := advance_keeps { s with mem := writeNat s.mem (loftAt e.g.core + at_) n p.2.toNat } e.g x 8
      exact ⟨y, hy, resultIs_putRes (ar := x.arith) (f := fun _ => old.toNat) (by omega) (fun _ _ => mod_toNat old) (by rw [hx]; exact hregs)⟩
    · refine does_atomOp_loft (red := true) (execRed g f) rfl rfl hword hhint haop4 hfences hranges hk hcan hspace hrange halign rfl hold hnew ⟨hdone _, ?_⟩
      obtain ⟨rfl, -⟩ := env?_some hcan.1
      exact (advance_keeps _ e.g e.x 8).1
  · intro sa hloft hlocal hfar va hrange halign htransl sent
    have hsent : ∀ (kind : MsgKind) (o : OutOp) (q : Msg), e.g = g → AtomAsk q kind g.core (sa / 64) f k (e.x.opnd e.sc (8 * n) f.b k) →
        sent (advance (send (addOut (l1Stale (setGroup s g e.x) g.core (sa / 64)) g.core o) q) g e.x 8) kind := by
      rintro kind o q rfl ⟨hkind, hreq, hline, hslice, hop, hty, hthread, hdata⟩
      obtain ⟨hregs, hmem, hcoh, -⟩ := advance_keeps (send (addOut (l1Stale (setGroup s e.g e.x) e.g.core (sa / 64)) e.g.core o) q) e.g e.x 8
      refine ⟨hmem, hregs, q, by rw [hcoh]; rfl, hkind, hreq, hline, hslice, hop, hty, hthread, ?_⟩
      have hlt : b.toNat < 2 ^ 64 := b.isLt.trans_le (Nat.pow_le_pow_right (by decide) (by omega))
      rw [hdata, ← hb, BitVec.toNat_ofNat]
      omega
    refine ⟨fun hcan => ?_, fun haop4 hcan => ?_⟩
    · exact does_atomOp_cacheable (red := false) (execAtom g f) rfl rfl hword hhint haop hfences hranges hk hcan hspace hfar hloft hlocal rfl hrange halign htransl
        fun o q => hsent _ o q (env?_some hcan.1).1
    · exact does_atomOp_cacheable (red := true) (execRed g f) rfl rfl hword hhint haop4 hfences hranges hk hcan hspace hfar hloft hlocal rfl hrange halign htransl
        fun o q => hsent _ o q (env?_some hcan.1).1

end Sys2Proof.Machine
end

section
/-! SUPPORT. A waymark event that is sent (R271, R276) and the waymark instructions (R120, R277); and O25. -/

namespace Sys2Proof.Machine

/-! ### Sending an event (R271) -/

theorem pendFld_mem (b : Nat × Nat × Nat) : (pendFld b).1 ∈ wmPendFlds := by
  unfold pendFld
  split <;> decide

/-- An event that can be sent, and merges with none, stands behind those in flight, and only pending counts move. -/
theorem sendWm_eq {s : State} {ev : WmEvent} (hkind : ev.kind ≠ .update) (h : CanSend s ev) :
    ∃ fl, sendWm s ev = { s with flds := fl, wm := { s.wm with flight := s.wm.flight ++ [{ ev := ev, pend := evRoute ev }] } } ∧
      FldFrame s (sendWm s ev) [] wmPendFlds := by
  unfold sendWm offerWm
  split
  · exact ⟨s.flds, rfl, fun _ _ _ _ => rfl⟩
  · next b _ hroute =>
    obtain ⟨hopen, hroom⟩ := h b (by rw [show evRoute ev = _ from hroute]; rfl)
    simp only [hopen, hkind, Bool.not_true, Bool.false_eq_true, if_false, Nat.ne_of_lt hroom]
    exact ⟨_, rfl, fun f i _ hf => rd_wr_fld _ _ _ _ fun heq => hf (heq ▸ pendFld_mem b)⟩

/-- Whether an event can be sent goes by its way. -/
theorem CanSend.of_route {s : State} {ev ev' : WmEvent} (h : CanSend s ev) (hroute : evRoute ev' = evRoute ev) : CanSend s ev' := by
  unfold CanSend
  rw [hroute]
  exact h

theorem lowest_of_head {m : W32} {k : Nat} (h : (threads m).head? = some k) : lowest m = k := by
  simp [lowest, List.headD_eq_head?_getD, h]

theorem ex_ne_zero_of_head {m : W32} {k : Nat} (h : (threads m).head? = some k) : m ≠ 0 := by
  rintro rfl
  cases h

/-! ### WM.ADD, WM.SET, WM.READ (R120) -/

/-- An event that a core's stop sends to a bank. -/
def stopEvent (kind : EvKind) (c wm : Nat) (count : W32) (lead : Nat) : WmEvent := { kind := kind, wm := wm, half := coreHalf c, core := c, count := count, lead := lead }

/-- Whether a stop can send to a bank does not depend on what it sends. -/
theorem CanSend.stopEvent {s : State} {kind kind' : EvKind} {c wm : Nat} {count count' : W32} {lead lead' : Nat} (h : CanSend s (stopEvent kind c wm count lead))
    (hk : kind ∈ [.add, .set, .read]) (hk' : kind' ∈ [.add, .set, .read]) : CanSend s (Machine.stopEvent kind' c wm count' lead') := by
  have hroute : ∀ q ∈ [EvKind.add, .set, .read], ∀ n l, evRoute (Machine.stopEvent q c wm n l) = evRoute (Machine.stopEvent .read c wm 0 0) := by
    intro q hq n l
    simp only [List.mem_cons, List.not_mem_nil, or_false] at hq
    rcases hq with rfl | rfl | rfl <;> rfl
  exact h.of_route ((hroute _ hk' _ _).trans (hroute _ hk _ _).symm)

/-- The path goes on behind the event that its instruction sends. -/
theorem advance_sendWm {s t : State} {e : Env} {kind : EvKind} {c wm : Nat} {count : W32} {lead : Nat} (hs : Straight e) (hrun : e.x.run = some e.p)
    (hkind : kind ∈ [.add, .set, .read]) (h : CanSend s (stopEvent .read c wm 0 0)) (ht : t = advance (sendWm s (stopEvent kind c wm count lead)) e.g e.x 8) :
    RunsAt t e (e.p.pc + 8) ∧ KeepsRegs t e ∧ t.mem = s.mem ∧ Sent s t (stopEvent kind c wm count lead) ∧ t.wm.reads = s.wm.reads := by
  obtain ⟨hregion, hentry⟩ := hs
  have hne : kind ≠ .update := by
    rintro rfl
    simp at hkind
  obtain ⟨fl, hsend, hframe⟩ := sendWm_eq (ev := stopEvent kind c wm count lead) hne (h.stopEvent (by simp) hkind)
  rw [ht, advance_straight (sendWm s (stopEvent kind c wm count lead)) e.g 8 hrun hregion hentry]
  refine ⟨⟨_, getGroup_setGroup_self _ _ _, rfl⟩, ⟨_, getGroup_setGroup_self _ _ _, rfl, rfl, rfl, rfl⟩, ?_, ⟨?_, hframe⟩, ?_⟩ <;>
    · rw [hsend]
      rfl

section
variable {s : State} {g : Grp} {f : RForm} {e : Env} {cx : Ctx} {k : Nat} (hty : f.ty = 0) (htail : PlainTail f) (hfences : e.p.fences = [])
  (hk : (threads e.ex).head? = some k) (hctx : getCtx s e.ctx = some cx)
include hty htail hfences hk hctx

/-- WM.ADD sends its increment, and nothing where it is zero (R8). -/
theorem does_wmAdd {P : State → Prop} (hcan : CanIssue s g f.pr f.pn e (rOps f .z .r .r .r)) (hP : P (advance (if e.x.opnd e.sc 32 f.b k = 0 then s else
      sendWm s (stopEvent .add g.core (wmIndex cx (e.x.opnd e.sc 32 f.a k)) (BitVec.ofNat 32 (e.x.opnd e.sc 32 f.b k)) (e.x.opnd e.sc 32 f.c k))) g e.x 8)) : Does (.wmAdd g f) s P := by
  obtain ⟨hrm, hsat, hsub⟩ := htail
  have hlocal : has f.sub 0 = false := by rw [hsub]; rfl
  refine does_issue rfl hcan rfl (by simp only [hlocal, Bool.false_eq_true, if_false]; rfl) (by simp only [hlocal]; simp [hty, hrm, hsat, hsub]) fun e' he => ?_
  obtain ⟨-, -, hctx', hx, hp, hex, hsc, -⟩ := Env.eq_of_insn he
  simp only [hctx', hx, hp, hex, hsc, fenceHolds_of_no_fences hfences, lowest_of_head hk, hctx, hlocal, Bool.false_eq_true, if_false, Option.getD_some,
    if_neg (ex_ne_zero_of_head hk)]
  exact hP

/-- WM.SET sends its count. -/
theorem does_wmSet {P : State → Prop} (hcan : CanIssue s g f.pr f.pn e (rOps f .z .r .r .z))
    (hP : P (advance (sendWm s (stopEvent .set g.core (wmIndex cx (e.x.opnd e.sc 32 f.a k)) (BitVec.ofNat 32 (e.x.opnd e.sc 32 f.b k)) 0)) g e.x 8)) : Does (.wmSet g f) s P := by
  obtain ⟨hrm, hsat, hsub⟩ := htail
  refine does_issue rfl hcan rfl rfl (by simp [plainTail, hty, hrm, hsat, hsub]) fun e' he => ?_
  obtain ⟨-, -, hctx', hx, hp, hex, hsc, -⟩ := Env.eq_of_insn he
  simp only [hctx', hx, hp, hex, hsc, fenceHolds_of_no_fences hfences, lowest_of_head hk, hctx, Bool.false_eq_true, if_false, Option.getD_some,
    if_neg (ex_ne_zero_of_head hk)]
  exact hP

/-- The state in which a WM.READ is noted for its VALUE. -/
def readNoted (s : State) (g : Grp) (d : BitVec 8) (m : W32) (wm id : Nat) : State :=
  let t := setCore s g.core { getCore s g.core with nextOp := id }
  { t with wm := { t.wm with reads := t.wm.reads ++ [{ id := id, core := g.core, key := gkey g, d := d, mask := m, wm := wm }] } }

/-- WM.READ asks for the waymark under a number of its own. -/
theorem does_wmRead {P : State → Prop} (hcan : CanIssue s g f.pr f.pn e (rOps f .r .r .z .z))
    (hP : ∀ id, P (advance (sendWm (readNoted s g f.d e.ex (wmIndex cx (e.x.opnd e.sc 32 f.a k)) id)
      (stopEvent .read g.core (wmIndex cx (e.x.opnd e.sc 32 f.a k)) 0 id)) g e.x 8)) : Does (.wmRead g f) s P := by
  obtain ⟨hrm, hsat, hsub⟩ := htail
  refine does_issue rfl hcan rfl rfl (by simp [plainTail, hty, hrm, hsat, hsub]) fun e' he => ?_
  obtain ⟨-, -, hctx', hx, hp, hex, hsc, -⟩ := Env.eq_of_insn he
  simp only [hctx', hx, hp, hex, hsc, fenceHolds_of_no_fences hfences, lowest_of_head hk, hctx, Bool.false_eq_true, if_false, Option.getD_some,
    if_neg (ex_ne_zero_of_head hk)]
  exact hP _

end

/-- Settles O25: each instruction by the event that it sends. -/
theorem waymarkInstructions : Obligations.WaymarkInstructions := by
  unfold Obligations.WaymarkInstructions
  intro s g f e cx k hs hty htail hfences hk hctx m ev hsend
  refine ⟨fun hcan => ⟨fun hinc => ?_, fun hinc => ?_⟩, fun hcan => ?_, fun hcan => ?_⟩
  all_goals obtain ⟨rfl, -, -, hrun⟩ := env?_some hcan.1
  · refine does_wmAdd hty htail hfences hk hctx hcan ?_
    rw [if_neg hinc]
    obtain ⟨hruns, hregs, hmem, hsent, -⟩ := advance_sendWm (kind := .add) hs hrun (by simp) hsend rfl
    exact ⟨hruns, hregs, hmem, hsent⟩
  · refine does_wmAdd hty htail hfences hk hctx hcan ?_
    obtain ⟨hregion, hentry⟩ := hs
    rw [if_pos hinc, advance_straight s e.g 8 hrun hregion hentry]
    exact ⟨⟨_, getGroup_setGroup_self _ _ _, rfl⟩, ⟨_, getGroup_setGroup_self _ _ _, rfl, rfl, rfl, rfl⟩, rfl, rfl⟩
  · refine does_wmSet hty htail hfences hk hctx hcan ?_
    obtain ⟨hruns, hregs, hmem, hsent, -⟩ := advance_sendWm (kind := .set) hs hrun (by simp) hsend rfl
    exact ⟨hruns, hregs, hmem, hsent⟩
  · refine does_wmRead hty htail hfences hk hctx hcan fun id => ?_
    obtain ⟨hruns, hregs, hmem, ⟨hflight, hframe⟩, hreads⟩ := advance_sendWm (s := readNoted s e.g f.d e.ex m id) (kind := .read) hs hrun (by simp) hsend rfl
    exact ⟨hruns, hregs, hmem, ⟨id, hflight, hframe⟩, _, hreads, rfl, rfl, rfl, rfl, rfl⟩

end Sys2Proof.Machine
end

section
/-! SUPPORT. Waymarks at their bank (R120, R276-R278); and O27. -/

namespace Sys2Proof.Machine

theorem getWm_setWm (s : State) (w v : Nat) (x : Waymark) : getWm (setWm s w x) v = if v = w then x else getWm s v := by
  simp only [getWm, setWm, SMap.getD_set]
  split
  · split <;> simp_all
  · rfl

@[simp] theorem getWm_setWm_self (s : State) (w : Nat) (x : Waymark) : getWm (setWm s w x) w = x := by simp [getWm_setWm]

/-- The first event in flight, with every boundary behind it, is delivered. -/
theorem takeWm_head {s : State} {ev : WmEvent} {rest : List WmFlight} (h : s.wm.flight = { ev := ev, pend := [] } :: rest) : takeWm s ev = some (putFlight s rest) := by
  simp [takeWm, h]

/-- A waymark that no half watches tells none. -/
theorem notifyWm_unwatched {s : State} {w : Nat} (h : (getWm s w).watch = 0) : notifyWm s w = s := by
  simp [notifyWm, h, has]

/-- RELEASE_MST after an ADD (R278): a time that lies later is taken. -/
def addRel (s : State) (ev : WmEvent) (rel : W64) : W64 :=
  let t := match ev.abs with
    | some a => a.toNat
    | none => if ev.lead ≠ 0 then mstNow s + ev.lead else 0
  if t > rel.toNat then BitVec.ofNat 64 t else rel

section
variable {s : State} {ev : WmEvent} {rel : W64}

theorem addRel_of_abs {a : W64} (habs : ev.abs = some a) : (addRel s ev rel).toNat = max rel.toNat a.toNat := by
  simp only [addRel, habs, BitVec.ofNat_toNat, BitVec.setWidth_eq]
  split <;> omega

theorem addRel_of_none (habs : ev.abs = none) (hlead : ev.lead = 0) : addRel s ev rel = rel := by simp [addRel, habs, hlead]

theorem le_addRel (hlead : mstNow s + ev.lead < 2 ^ 64) : rel.toNat ≤ (addRel s ev rel).toNat := by
  cases habs : ev.abs with
  | some a => rw [addRel_of_abs habs]; exact le_max_left _ _
  | none =>
    simp only [addRel, habs]
    generalize ht : (if ev.lead ≠ 0 then mstNow s + ev.lead else 0) = t
    have hlt : t < 2 ^ 64 := by
      rw [← ht]
      split <;> omega
    split
    · next hlater =>
      rw [BitVec.toNat_ofNat, Nat.mod_eq_of_lt hlt]
      exact hlater.le
    · exact le_rfl

end

/-- An ADD at the bank of a waymark that no half watches. -/
theorem execAdd_unwatched {s : State} {ev : WmEvent} {rest : List WmFlight} (h : s.wm.flight = { ev := ev, pend := [] } :: rest) (hkind : ev.kind = .add)
    (hwatch : (getWm s ev.wm).watch = 0) : exec (.add ev) s = .next (setWm (putFlight s rest) ev.wm
      { getWm s ev.wm with count := (getWm s ev.wm).count + ev.count, rel := addRel s ev (getWm s ev.wm).rel }) := by
  show execAdd ev s = _
  simp only [execAdd, hkind, takeWm_head h, wmApplyAdd]
  rw [notifyWm_unwatched (by rw [getWm_setWm_self]; exact hwatch)]
  rfl

/-- A SET there. -/
theorem execSet_unwatched {s : State} {ev : WmEvent} {rest : List WmFlight} (h : s.wm.flight = { ev := ev, pend := [] } :: rest) (hkind : ev.kind = .set)
    (hwatch : (getWm s ev.wm).watch = 0) : exec (.set ev) s = .next (setWm (setWm (putFlight s rest) ev.wm { count := ev.count, rel := 0, watch := 0 }) ev.wm
      { count := ev.count, rel := 0, watch := 0 }) := by
  show execSet ev s = _
  have hold : getWm (putFlight s rest) ev.wm = getWm s ev.wm := rfl
  simp only [execSet, hkind, takeWm_head h, hold]
  rw [notifyWm_unwatched (by rw [getWm_setWm_self]; exact hwatch), getWm_setWm_self, hwatch]
  rfl

/-- A READ at the bank: the half is watched, and VALUE goes back. -/
theorem execRead_bank {s : State} {ev : WmEvent} {rest : List WmFlight} (h : s.wm.flight = { ev := ev, pend := [] } :: rest) (hkind : ev.kind = .read) :
    exec (.read ev) s = .next (sendWm (setWm (putFlight s rest) ev.wm { getWm s ev.wm with watch := (getWm s ev.wm).watch ||| bit 8 ev.half })
      { kind := .value, wm := ev.wm, half := ev.half, core := ev.core, count := (getWm s ev.wm).count, rel := (getWm s ev.wm).rel, lead := ev.lead }) := by
  show execRead ev s = _
  simp only [execRead, hkind, takeWm_head h]
  rfl

/-- Settles O27: each event by what its bank makes of the waymark. -/
theorem waymarkBank : Obligations.WaymarkBank := by
  unfold Obligations.WaymarkBank
  intro s ev rest hflight old
  have hother : ∀ x w, w ≠ ev.wm → getWm (setWm (putFlight s rest) ev.wm x) w = getWm s w := fun x w hw => by rw [getWm_setWm, if_neg hw]; rfl
  refine ⟨fun hkind hwatch hlead => ?_, fun hkind hwatch => ?_, ?_⟩
  · refine ⟨_, execAdd_unwatched hflight hkind hwatch, ?_⟩
    beta_reduce
    rw [getWm_setWm_self]
    exact ⟨rfl, hwatch, le_addRel hlead, addRel_of_none, fun a => addRel_of_abs, hother _, rfl, rfl, rfl⟩
  · refine ⟨_, execSet_unwatched hflight hkind hwatch, getWm_setWm_self _ _ _, fun w hw => ?_, rfl, rfl, rfl⟩
    rw [getWm_setWm, if_neg hw, hother _ w hw]
  · intro val hkind _ hsend
    generalize ht : setWm (putFlight s rest) ev.wm { old with watch := old.watch ||| bit 8 ev.half } = t
    have hcan : CanSend t val := ht ▸ hsend
    obtain ⟨fl, hsent, hframe⟩ := sendWm_eq (by simp [val]) hcan
    refine ⟨sendWm t val, by rw [← ht]; exact execRead_bank hflight hkind, ?_⟩
    have hmarks : ∀ w, getWm (sendWm t val) w = getWm t w := fun w => by rw [hsent]; rfl
    refine ⟨by rw [hmarks, ← ht, getWm_setWm_self], fun w hw => by rw [hmarks, ← ht, hother _ w hw], ?_, ?_, ?_, ?_⟩
    · rw [hsent, ← ht]; rfl
    · rw [hsent, ← ht]; rfl
    · rw [hsent, ← ht]; rfl
    · intro f i hf hw
      rw [hframe f i hf hw, ← ht]
      rfl

end Sys2Proof.Machine
end

section
/-! SUPPORT. WAIT: the test of its conditions, how it blocks its path and how it ends (R119, R278); and O24. -/

namespace Sys2Proof.Machine

/-! ### The only path of a group -/

/-- A group whose one path waits. -/
theorem waiting_of_only {x : Group} {p : Path} {w : WaitRec} (hpaths : allPaths x = [p]) (hstat : p.stat = .waiting w) : waiting x = [(p, w)] := by
  simp [waiting, hpaths, hstat]

/-- A group stands outside divergences and regions, with one path, which runs or waits alone. -/
structure Alone (x : Group) (p : Path) : Prop where
  paths : (x.run = some p ∧ x.others = []) ∨ (x.run = none ∧ x.others = [p])
  region : x.region = none
  entries : x.entries = []
  entry : p.entry = none

theorem Alone.allPaths {x : Group} {p : Path} (h : Alone x p) : allPaths x = [p] := by
  obtain ⟨hrun, hothers⟩ | ⟨hrun, hothers⟩ := h.paths <;> simp [Machine.allPaths, hrun, hothers]

/-- A path that is replaced leaves who has the pipe. -/
theorem swapPath_pipe (x : Group) (p p' : Path) : (swapPath x p p').run.isSome = x.run.isSome := by
  unfold swapPath
  split
  · next hrun => simp [hrun]
  · rfl

theorem swapPath_run_none {x : Group} {p p' : Path} (h : (swapPath x p p').run = none) : x.run = none := by
  have hpipe := swapPath_pipe x p p'
  rw [h] at hpipe
  exact Option.isNone_iff_eq_none.mp (by simpa using hpipe.symm)

/-- Its path is replaced where it stands. -/
theorem Alone.swapPath {x : Group} {p p' : Path} (h : Alone x p) (hentry : p'.entry = none) : Alone (swapPath x p p') p' := by
  obtain ⟨hpaths, hregion, hentries, -⟩ := h
  obtain ⟨hrun, hothers⟩ | ⟨hrun, hothers⟩ := hpaths
  · simp only [Machine.swapPath, hrun, if_true]
    exact ⟨.inl ⟨rfl, hothers⟩, hregion, hentries, hentry⟩
  · rw [Machine.swapPath, if_neg (by simp [hrun])]
    exact ⟨.inr ⟨hrun, by simp [hothers]⟩, hregion, hentries, hentry⟩

theorem Alone.parkOthers {x : Group} {p : Path} (h : Alone x p) : parkOthers x = x := by
  obtain ⟨-, hothers⟩ | ⟨-, hothers⟩ := h.paths
  · simp [Machine.parkOthers, hothers]
  · simp [Machine.parkOthers, hothers, h.entry]

theorem Alone.settle {x : Group} {p : Path} (h : Alone x p) (n : Nat) : settle n x = x := by
  cases n <;> simp [Machine.settle, h.entries]

theorem Alone.parkRun {x : Group} {p : Path} (h : Alone x p) (cyc : Nat) : parkRun x cyc = x := by
  obtain ⟨hrun, -⟩ | ⟨hrun, -⟩ := h.paths
  · simp [Machine.parkRun, hrun, h.entry]
  · simp [Machine.parkRun, hrun]

/-- Where the pipe is free, the only path takes it once it is ready. -/
def withPipe (x : Group) (p : Path) : Group := match x.run with | some _ => x | none => takePipe { x with others := [] } p

theorem Alone.choose {x : Group} {p : Path} (h : Alone x p) (hstat : p.stat = .ready) (hyield : x.run = none → p.yielding = false) (last : Nat) : choose x last none = withPipe x p := by
  obtain ⟨hrun, -⟩ | ⟨hrun, hothers⟩ := h.paths
  · simp [Machine.choose, withPipe, hrun]
  · have hnext : nextPath [p] last = some p := by
      unfold nextPath
      by_cases hlt : last < lowest p.mask <;> simp [hlt]
    simp [Machine.choose, withPipe, hrun, hothers, Path.runnable, hstat, hyield hrun, hnext]

/-! ### The end of a WAIT (R119) -/

/-- A path whose WAIT has ended. -/
def Path.pastWait (p : Path) : Path := { p with stat := .ready, pc := p.pc + 8 }

/-- The WAIT of the only path ends without an acquire: the path goes on behind it. -/
theorem endWait_alone {s : State} {g : Grp} {x : Group} {p : Path} {w : WaitRec} (h : Alone x p) (hacq : w.acq = 0) (hyield : x.run = none → p.yielding = false) :
    endWait s g x p w = setGroup s g (withPipe { swapPath x p p.pastWait with wpCyc := cycles s (coreHalf g.core) } p.pastWait) := by
  have hpast : ({ p with stat := .ready, pc := p.pc + 8, fences := p.fences ++ [] } : Path) = p.pastWait := by simp [Path.pastWait]
  obtain ⟨hpaths, hregion, hentries, hentry⟩ : Alone (swapPath x p p.pastWait) p.pastWait := h.swapPath h.entry
  have hpipe : ({ swapPath x p p.pastWait with wpCyc := cycles s (coreHalf g.core) } : Group).run = none → p.yielding = false :=
    fun hrun => hyield (swapPath_run_none (p := p) (p' := p.pastWait) hrun)
  have halone : Alone { swapPath x p p.pastWait with wpCyc := cycles s (coreHalf g.core) } p.pastWait := ⟨hpaths, hregion, hentries, hentry⟩
  unfold endWait
  simp only [hacq, if_true, if_neg (show ¬(0 : Nat) = 3 by decide), hpast]
  generalize ({ swapPath x p p.pastWait with wpCyc := cycles s (coreHalf g.core) } : Group) = y at halone hpipe ⊢
  simp only [hregion, halone.parkOthers, halone.settle, halone.parkRun, halone.choose (p := p.pastWait) rfl hpipe]
  rfl

/-- The group after the end of its only path's WAIT: the path goes on, with the pipe. -/
structure Resumed (x : Group) (p : Path) (y : Group) : Prop where
  regs : SameRegs x y
  others : y.others = []
  run : y.run = some (if x.run.isSome then p.pastWait else { p.pastWait with yielding := false, ran := true })

/-- What a path waits for does not change how it goes on. -/
theorem Resumed.of_swapPath {x y : Group} {p : Path} {w : WaitRec} (h : Resumed (swapPath x p { p with stat := .waiting w }) { p with stat := .waiting w } y) : Resumed x p y := by
  obtain ⟨⟨hxs, hus, hpreds, harith⟩, hothers, hrun⟩ := h
  obtain ⟨hxs', hus', hpreds', harith'⟩ := swapPath_sameRegs x p { p with stat := .waiting w }
  rw [swapPath_pipe] at hrun
  exact ⟨⟨hxs.trans hxs', hus.trans hus', hpreds.trans hpreds', harith.trans harith'⟩, hothers, hrun⟩

theorem endWait_resumed {s : State} {g : Grp} {x : Group} {p : Path} {w : WaitRec} (h : Alone x p) (hacq : w.acq = 0) (hyield : x.run = none → p.yielding = false) :
    ∃ y, endWait s g x p w = setGroup s g y ∧ Resumed x p y := by
  refine ⟨_, endWait_alone h hacq hyield, ?_⟩
  obtain ⟨hrun, hothers⟩ | ⟨hrun, hothers⟩ := h.paths
  · simp only [withPipe, swapPath, hrun, if_true]
    exact ⟨⟨rfl, rfl, rfl, rfl⟩, hothers, by simp [hrun]⟩
  · simp only [withPipe, swapPath, hrun, if_neg (show ¬(none : Option Path) = some p by simp)]
    exact ⟨⟨rfl, rfl, rfl, rfl⟩, rfl, by simp [takePipe, hrun]⟩

/-! ### The test of a WAIT -/

/-- The threads of a wait whose condition a test finds to hold. -/
theorem has_hits (w : WaitRec) (f : Nat → Nat → Bool) {k : Nat} (hk : k < 32) : has (hits w f) k = decide (∃ q ∈ w.target, f q.2.1.toNat q.2.2.toNat = true ∧ q.1 = k) := by
  rw [hits, has_maskOf _ hk]
  simp [and_assoc]

/-- A wait whose last threads a test satisfies ends, if its release time has come. -/
theorem waitHit_ends {s : State} {g : Grp} {x : Group} {p : Path} {w : WaitRec} {hit : W32} {rel : Nat} (hx : getGroup s g = some x) (hkind : w.kind ≠ 0)
    (hleft : w.left ≠ 0) (hall : ∀ k < 32, has w.left k = true → has hit k = true) (htime : max w.notBefore rel ≤ s.time.mst) :
    ∃ w', waitHit s g p w hit rel = endWait s g (swapPath x p { p with stat := .waiting w' }) { p with stat := .waiting w' } w' ∧ w'.acq = w.acq := by
  have hhit : hit &&& w.left = w.left := BitVec.eq_of_getLsbD_eq fun k hk => by
    rw [BitVec.getLsbD_and]
    cases hl : w.left.getLsbD k
    · exact Bool.and_false _
    · rw [show hit.getLsbD k = true from hall k hk hl]
      rfl
  have hnone : w.left &&& ~~~hit = 0 := by
    rw [← hhit, BitVec.and_comm, ← BitVec.and_assoc, BitVec.and_comm (~~~hit), BitVec.and_not_self]
    exact BitVec.zero_and
  refine ⟨{ w with left := w.left &&& ~~~hit, notBefore := max w.notBefore rel }, ?_, rfl⟩
  simp only [waitHit, hx, hhit, hleft, if_false, hnone, hkind, decide_false, Bool.false_and, Bool.false_eq_true, ne_eq, not_true_eq_false, if_pos htime]

/-- The only path's WAIT on a flag or on MST, all of whose threads a test satisfies, ends. -/
theorem waitHit_resumed {s : State} {g : Grp} {x : Group} {p : Path} {w : WaitRec} {hit : W32} (hx : getGroup s g = some x) (halone : Alone x p)
    (hyield : x.run = none → p.yielding = false) (hacq : w.acq = 0) (hkind : w.kind ≠ 0) (hleft : w.left ≠ 0)
    (hall : ∀ k < 32, has w.left k = true → has hit k = true) (htime : w.notBefore ≤ s.time.mst) :
    ∃ y, waitHit s g p w hit 0 = setGroup s g y ∧ Resumed x p y := by
  obtain ⟨w', hend, hacq'⟩ := waitHit_ends (rel := 0) hx hkind hleft hall (by simpa using htime)
  obtain ⟨y, hy, hresumed⟩ := endWait_resumed (s := s) (g := g) (w := w') (halone.swapPath (p' := { p with stat := .waiting w' }) halone.entry) (hacq'.trans hacq)
    (fun hrun => hyield (swapPath_run_none hrun))
  exact ⟨y, hend.trans hy, hresumed.of_swapPath⟩

/-- A wait on MST is tested by the time. -/
theorem retest_mst {s : State} {g : Grp} {x : Group} {p : Path} {w : WaitRec} (hx : getGroup s g = some x) (hwaiting : waiting x = [(p, w)]) (hkind : w.kind = 5) :
    retest s g = waitHit s g p w (hits w (fun _ b => condHolds w.cond s.time.mst b)) 0 := by
  simp [retest, testWaits, hx, hwaiting, hkind]

/-- A WAIT on MST ends where every comparand has come. -/
theorem retest_mst_resumed {s : State} {g : Grp} {x : Group} {p : Path} {w : WaitRec} (hx : getGroup s g = some x) (halone : Alone x p) (hstat : p.stat = .waiting w)
    (hyield : x.run = none → p.yielding = false) (hacq : w.acq = 0) (hkind : w.kind = 5) (hcond : w.cond = 2) (hleft : w.left ≠ 0)
    (hcover : ∀ k < 32, has w.left k = true → ∃ q ∈ w.target, q.1 = k) (hcome : ∀ q ∈ w.target, q.2.2.toNat ≤ s.time.mst) (htime : w.notBefore ≤ s.time.mst) :
    ∃ y, retest s g = setGroup s g y ∧ Resumed x p y := by
  rw [retest_mst hx (waiting_of_only halone.allPaths hstat) hkind]
  refine waitHit_resumed hx halone hyield hacq (by omega) hleft (fun k hk hl => ?_) htime
  obtain ⟨q, hq, hqk⟩ := hcover k hk hl
  rw [has_hits w _ hk, decide_eq_true_iff]
  exact ⟨q, hq, by simpa [condHolds, hcond] using hcome q hq, hqk⟩

/-- A WAIT on MST stands as long as a thread's comparand has not come. -/
theorem retest_mst_stands {s : State} {g : Grp} {x : Group} {p : Path} {w : WaitRec} {k : Nat} (hx : getGroup s g = some x) (halone : Alone x p) (hrun : x.run = some p)
    (hstat : p.stat = .waiting w) (hkind : w.kind = 5) (hcond : w.cond = 2) (hk : k < 32) (hleft : has w.left k = true)
    (hlate : ∀ q ∈ w.target, q.1 = k → s.time.mst < q.2.2.toNat) :
    ∃ w', getGroup (retest s g) g = some { x with run := some { p with stat := .waiting w' } } ∧ (retest s g).mem = s.mem ∧ w'.kind = 5 ∧ w'.cond = 2 ∧
      has w'.left k = true := by
  rw [retest_mst hx (waiting_of_only halone.allPaths hstat) hkind]
  generalize hhit : hits w (fun _ b => condHolds w.cond s.time.mst b) = hit
  have hmiss : has hit k = false := by
    rw [← hhit, has_hits w _ hk, decide_eq_false_iff_not]
    rintro ⟨q, hq, hholds, hqk⟩
    have hlt := hlate q hq hqk
    simp [condHolds, hcond] at hholds
    omega
  by_cases hnone : hit &&& w.left = 0
  · refine ⟨w, ?_, ?_, hkind, hcond, hleft⟩
    · simp only [waitHit, hx, hnone, if_true, ← hstat, ← hrun]
    · simp only [waitHit, hx, hnone, if_true]
  · have hstay : has (w.left &&& ~~~hit) k = true := by
      rw [has_and, hleft, Bool.true_and]
      show (~~~hit).getLsbD k = true
      rw [BitVec.getLsbD_not, show hit.getLsbD k = false from hmiss]
      simp [hk]
    have hmore : w.left &&& ~~~hit ≠ 0 := by
      intro hz
      rw [hz] at hstay
      simp [has] at hstay
    refine ⟨{ w with left := w.left &&& ~~~hit, notBefore := max w.notBefore 0 }, ?_, ?_, hkind, hcond, hstay⟩ <;>
      simp only [waitHit, hx, hnone, if_false, hmore, ne_eq, not_false_eq_true, if_true, swapPath, hrun, getGroup_setGroup_self]
    rfl

/-- The only path, which waits, gives up the pipe. -/
theorem blockRun_waiting {s : State} {g : Grp} {x : Group} {p : Path} {w : WaitRec} (hx : getGroup s g = some x) (hrun : x.run = some p) (hstat : p.stat = .waiting w)
    (hothers : x.others = []) :
    blockRun s g = setGroup s g { x with run := none, others := [p], yieldCyc := cycles s (coreHalf g.core), lastLow := lowest p.mask } := by
  obtain ⟨pc, mask, entry, yielding, stat, fences, depth, ran⟩ := p
  obtain rfl : stat = .waiting w := hstat
  simp [blockRun, hx, hrun, Path.runnable, giveUp, hothers, choose, nextPath]

/-- A path that runs keeps the pipe. -/
theorem blockRun_running {s : State} {g : Grp} {x : Group} {p : Path} (hx : getGroup s g = some x) (hrun : x.run = some p) (hstat : p.stat = .ready) :
    blockRun s g = s := by
  simp [blockRun, hx, hrun, Path.runnable, hstat]

/-! ### WAIT (R119) -/

/-- What a WAIT on MST or on a waymark waits for. -/
def waitRec (s : State) (e : Env) (f : RForm) (cx : Ctx) (kind bw : Nat) : WaitRec :=
  { kind := kind, cond := 2, acq := f.c.toNat % 4, left := e.ex, lastRead := s.now, inUnit := waitUnits e.k < 64,
    target := (threads e.ex).map (fun k => (k, BitVec.ofNat 64 (wmIndex cx (e.x.opnd e.sc 32 f.a k)), BitVec.ofNat 64 (e.x.opnd e.sc bw f.b k))) }

/-- The group whose running path has begun to wait, at a waypoint. -/
def waitGroup (s : State) (e : Env) (w : WaitRec) : Group := { countIssue (waypointed s e.g e.x) with run := some { e.p with stat := .waiting w } }

def waitState (s : State) (e : Env) (w : WaitRec) : State := setGroup (setGroup s e.g (waypointed s e.g e.x)) e.g (waitGroup s e w)

/-- WAIT tests or asks for what it waits for; a path still blocked gives up the pipe. -/
theorem does_wait {s : State} {g : Grp} {f : RForm} {e : Env} {kind bw : Nat} {w : WaitRec} {P : State → Prop} (hkind : kind = 0 ∧ bw = 32 ∨ kind = 5 ∧ bw = 64)
    (hty : f.ty = 0) (htail : PlainTail f) (hacq : f.c.toNat < 4) (hd : f.d.toNat = kind + 32) (hex : e.ex ≠ 0)
    (hcan : CanIssue s g f.pr f.pn e [⟨24, f.a, if kind = 0 then .r else .z⟩, ⟨32, f.b, if bw = 64 then .w else .r⟩])
    (hw : w = waitRec s e f ((getCtx s e.ctx).getD {}) kind bw)
    (hP : P (blockRun (if kind = 0 then sendReads (waitState s e w) g.core w else retest (waitState s e w) g) g)) : Does (.wait g f) s P := by
  obtain ⟨hrm, hsat, hsub⟩ := htail
  obtain ⟨rfl, -, hx, -⟩ := env?_some hcan.1
  have hlow : f.d.toNat % 16 = kind := by omega
  have hcond : f.d.toNat / 16 = 2 := by omega
  have hbw : (if (kind = 2 || kind = 5) = true then 64 else 32) = bw := by
    rcases hkind with ⟨rfl, rfl⟩ | ⟨rfl, rfl⟩ <;> rfl
  have hflag : (decide (kind = 1) || decide (kind = 2)) = false := by rcases hkind with ⟨rfl, -⟩ | ⟨rfl, -⟩ <;> rfl
  refine does_issue rfl hcan rfl ?_ ?_ fun e' he => ?_
  · simp only [hlow, hbw, hflag, Bool.false_eq_true, if_false]
  · rcases hkind with ⟨rfl, -⟩ | ⟨rfl, -⟩ <;> simp [hlow, hcond, hacq, hty, hrm, hsat, hsub]
  · obtain ⟨-, hk, hctx, hx', hp, hex', hsc, -⟩ := Env.eq_of_insn he
    simp only [hk, hctx, hx', hp, hex', hsc, hlow, hcond, hbw, hflag, Bool.false_and, Bool.false_eq_true, if_false, if_neg hex, atWaypoint_eq hx, getGroup_setGroup_self,
      Option.getD_some, List.map_map]
    rw [hw] at hP
    exact hP

/-- The path that waits is the only one of its group. -/
theorem waitGroup_alone {s : State} {e : Env} {w : WaitRec} (hs : Straight e) (hothers : e.x.others = []) (hentries : e.x.entries = []) :
    Alone (waitGroup s e w) { e.p with stat := .waiting w } := ⟨.inl ⟨rfl, hothers⟩, hs.1, hentries, hs.2⟩

theorem getGroup_waitState (s : State) (e : Env) (w : WaitRec) : getGroup (waitState s e w) e.g = some (waitGroup s e w) := getGroup_setGroup_self _ _ _

/-- A path that waits has given up the pipe with its registers kept. -/
theorem waits_of_blockRun {s t : State} {e : Env} {w w' : WaitRec} (ht : getGroup t e.g = some { waitGroup s e w with run := some { e.p with stat := .waiting w' } })
    (hothers : e.x.others = []) :
    KeepsRegs (blockRun t e.g) e ∧ (blockRun t e.g).mem = t.mem ∧ (blockRun t e.g).flds = t.flds ∧ (blockRun t e.g).wm = t.wm ∧
      ∃ x, getGroup (blockRun t e.g) e.g = some x ∧ x.run = none ∧ x.others = [{ e.p with stat := .waiting w' }] := by
  rw [blockRun_waiting ht rfl rfl hothers]
  exact ⟨⟨_, getGroup_setGroup_self _ _ _, rfl, rfl, rfl, rfl⟩, rfl, rfl, rfl, _, getGroup_setGroup_self _ _ _, rfl, rfl⟩

/-- A WAIT on MST whose comparands have all come goes on at once. -/
theorem wait_mst_goes {s : State} {g : Grp} {f : RForm} {e : Env} (hs : Straight e) (hty : f.ty = 0) (htail : PlainTail f) (hc : f.c = 0) (hd : f.d = 0x25) (hex : e.ex ≠ 0)
    (hcan : CanIssue s g f.pr f.pn e [⟨24, f.a, .z⟩, ⟨32, f.b, .w⟩]) (hothers : e.x.others = []) (hentries : e.x.entries = [])
    (hcome : ∀ k < 32, has e.ex k = true → e.x.opnd e.sc 64 f.b k ≤ s.time.mst) :
    Does (.wait g f) s (fun t => RunsAt t e (e.p.pc + 8) ∧ KeepsRegs t e ∧ t.mem = s.mem) := by
  refine does_wait (kind := 5) (.inr ⟨rfl, rfl⟩) hty htail (by simp [hc]) (by simp [hd]) hex hcan rfl ?_
  obtain ⟨rfl, -, -, -⟩ := env?_some hcan.1
  simp only [show ¬(5 : Nat) = 0 by decide, if_false]
  generalize hw : waitRec s e f ((getCtx s e.ctx).getD {}) 5 64 = w
  have htarget : ∀ q ∈ w.target, has e.ex q.1 = true ∧ q.1 < 32 ∧ q.2.2 = BitVec.ofNat 64 (e.x.opnd e.sc 64 f.b q.1) := by
    rw [← hw]
    simp only [waitRec, List.mem_map]
    rintro _ ⟨k, hk, rfl⟩
    exact ⟨(mem_threads.mp hk).2, (mem_threads.mp hk).1, rfl⟩
  obtain ⟨y, hy, ⟨hxs, hus, hpreds, harith⟩, -, hrun⟩ := retest_mst_resumed (getGroup_waitState s e w) (waitGroup_alone hs hothers hentries) rfl (fun h => by cases h)
    (by rw [← hw]; simp [waitRec, hc]) (by rw [← hw]; rfl) (by rw [← hw]; rfl) (by rw [← hw]; exact hex)
    (fun k hk hl => by
      rw [← hw] at hl ⊢
      exact ⟨_, List.mem_map.mpr ⟨k, mem_threads.mpr ⟨hk, hl⟩, rfl⟩, rfl⟩)
    (fun q hq => by
      obtain ⟨hqe, hqk, hqb⟩ := htarget q hq
      rw [hqb, BitVec.toNat_ofNat, Nat.mod_eq_of_lt (opnd_lt _ _ (by decide) (.inr rfl) _ _)]
      exact hcome q.1 hqk hqe)
    (by rw [← hw]; exact Nat.zero_le _)
  have hpath : y.run = some { e.p with pc := e.p.pc + 8 } := by
    rw [hrun]
    simp [waitGroup, Path.pastWait, ← (env?_ready hcan.1).1]
  rw [hy, blockRun_running (getGroup_setGroup_self _ _ _) hpath (env?_ready hcan.1).1]
  exact ⟨⟨y, getGroup_setGroup_self _ _ _, hpath⟩, ⟨y, getGroup_setGroup_self _ _ _, hxs, hus, hpreds, harith⟩, rfl⟩

/-- A WAIT on MST blocks its path while a thread's comparand has not come. -/
theorem wait_mst_blocks {s : State} {g : Grp} {f : RForm} {e : Env} {k : Nat} (hs : Straight e) (hty : f.ty = 0) (htail : PlainTail f) (hc : f.c = 0) (hd : f.d = 0x25)
    (hcan : CanIssue s g f.pr f.pn e [⟨24, f.a, .z⟩, ⟨32, f.b, .w⟩]) (hothers : e.x.others = []) (hentries : e.x.entries = []) (hk : k < 32) (hke : has e.ex k = true)
    (hlate : s.time.mst < e.x.opnd e.sc 64 f.b k) :
    Does (.wait g f) s (fun t => KeepsRegs t e ∧ t.mem = s.mem ∧ ∃ (x : Group) (w : WaitRec), getGroup t g = some x ∧ x.run = none ∧
      x.others = [{ e.p with stat := .waiting w }] ∧ w.kind = 5 ∧ w.cond = 2 ∧ has w.left k = true) := by
  have hex : e.ex ≠ 0 := by
    intro hz
    rw [hz] at hke
    simp [has] at hke
  refine does_wait (kind := 5) (.inr ⟨rfl, rfl⟩) hty htail (by simp [hc]) (by simp [hd]) hex hcan rfl ?_
  obtain ⟨rfl, -, -, -⟩ := env?_some hcan.1
  simp only [show ¬(5 : Nat) = 0 by decide, if_false]
  generalize hw : waitRec s e f ((getCtx s e.ctx).getD {}) 5 64 = w
  obtain ⟨w', hgroup, hmem, hkind, hcond, hleft⟩ := retest_mst_stands (getGroup_waitState s e w) (waitGroup_alone hs hothers hentries) rfl rfl (by rw [← hw]; rfl)
    (by rw [← hw]; rfl) hk (by rw [← hw]; exact hke) (fun q hq hqk => by
      rw [← hw] at hq
      obtain ⟨j, -, rfl⟩ := List.mem_map.mp hq
      obtain rfl : j = k := hqk
      rw [BitVec.toNat_ofNat, Nat.mod_eq_of_lt (opnd_lt _ _ (by decide) (.inr rfl) _ _)]
      exact hlate)
  obtain ⟨hregs, hmem', -, -, x, hx, hrun, hwait⟩ := waits_of_blockRun hgroup hothers
  exact ⟨hregs, hmem'.trans hmem, x, w', hx, hrun, hwait, hkind, hcond, hleft⟩

/-- One thread's waymark is asked for with one READ. -/
theorem sendReads_one {s : State} {w : WaitRec} {k m : Nat} {b : W64} (c : Nat) (htarget : w.target = [(k, BitVec.ofNat 64 m, b)]) (hleft : has w.left k = true)
    (hm : m < 2 ^ 64) : sendReads s c w = sendWm s (stopEvent .read c m 0 0) := by
  simp only [sendReads, htarget, List.filter_cons, hleft, if_true, List.filter_nil, List.map_cons, List.map_nil, BitVec.toNat_ofNat, Nat.mod_eq_of_lt hm, distinct, List.foldl_cons,
    List.foldl_nil, List.contains_nil, Bool.false_eq_true, if_false, List.nil_append, each_cons, each_nil]
  rfl

/-- An event is sent where nothing but its sending moves the register fields and the events in flight. -/
theorem sent_of_sendWm {s s' t : State} {ev : WmEvent} (hkind : ev.kind ≠ .update) (hsend : CanSend s' ev) (hflds : s'.flds = s.flds) (hwm : s'.wm = s.wm)
    (htflds : t.flds = (sendWm s' ev).flds) (htwm : t.wm = (sendWm s' ev).wm) : Sent s t ev := by
  obtain ⟨fl, hsent, hframe⟩ := sendWm_eq hkind hsend
  refine ⟨?_, fun f i hf hf' => ?_⟩
  · rw [htwm, hsent, hwm]
  · have hread := hframe f i hf hf'
    simp only [rd, hflds] at hread
    simp only [rd, htflds, hread]

/-- A WAIT on a waymark asks its bank and blocks the path. -/
theorem wait_waymark {s : State} {g : Grp} {f : RForm} {e : Env} {k : Nat} {cx : Ctx} (hty : f.ty = 0) (htail : PlainTail f) (hacq : f.c.toNat < 4) (hd : f.d = 0x20)
    (hthreads : threads e.ex = [k]) (hcan : CanIssue s g f.pr f.pn e [⟨24, f.a, .r⟩, ⟨32, f.b, .r⟩]) (hothers : e.x.others = []) (hctx : getCtx s e.ctx = some cx)
    (hsend : CanSend s (stopEvent .read g.core (wmIndex cx (e.x.opnd e.sc 32 f.a k)) 0 0)) :
    Does (.wait g f) s (fun t => KeepsRegs t e ∧ t.mem = s.mem ∧ Sent s t (stopEvent .read g.core (wmIndex cx (e.x.opnd e.sc 32 f.a k)) 0 0) ∧
      ∃ (x : Group) (w : WaitRec), getGroup t g = some x ∧ x.run = none ∧ x.others = [{ e.p with stat := .waiting w }] ∧ w.left = e.ex) := by
  have hex : e.ex ≠ 0 := ex_ne_zero_of_head (k := k) (by rw [hthreads]; rfl)
  refine does_wait (kind := 0) (.inl ⟨rfl, rfl⟩) hty htail hacq (by simp [hd]) hex hcan rfl ?_
  obtain ⟨rfl, -, -, -⟩ := env?_some hcan.1
  simp only [if_true, hctx, Option.getD_some]
  generalize hw : waitRec s e f cx 0 32 = w
  have hke : has e.ex k = true := (mem_threads.mp (by rw [hthreads]; simp)).2
  have hreads : sendReads (waitState s e w) e.g.core w = sendWm (waitState s e w) (stopEvent .read e.g.core (wmIndex cx (e.x.opnd e.sc 32 f.a k)) 0 0) :=
    sendReads_one (k := k) (b := BitVec.ofNat 64 (e.x.opnd e.sc 32 f.b k)) e.g.core (by rw [← hw]; simp only [waitRec, hthreads, List.map_cons, List.map_nil]) (by rw [← hw]; exact hke) (by unfold wmIndex; omega)
  obtain ⟨fl, hsent, -⟩ := sendWm_eq (s := waitState s e w) (ev := stopEvent .read e.g.core (wmIndex cx (e.x.opnd e.sc 32 f.a k)) 0 0) (by simp [stopEvent]) hsend
  rw [hreads]
  obtain ⟨hregs, hmem, hflds, hwm, x, hx, hrun, hwait⟩ := waits_of_blockRun (s := s) (w := w) (w' := w)
    (t := sendWm (waitState s e w) (stopEvent .read e.g.core (wmIndex cx (e.x.opnd e.sc 32 f.a k)) 0 0))
    (by rw [hsent]; exact getGroup_waitState s e w) hothers
  exact ⟨hregs, hmem.trans (by rw [hsent]; rfl), sent_of_sendWm (s' := waitState s e w) (by simp [stopEvent]) hsend rfl rfl hflds hwm, x, w, hx, hrun, hwait, by rw [← hw]; rfl⟩

/-! ### Blocked paths (R119) -/

/-- The record of the only path's WAIT. -/
theorem waitOf_alone {s : State} {g : Grp} {x : Group} {p : Path} {w : WaitRec} {k : Nat} (hx : getGroup s g = some x) (halone : Alone x p) (hstat : p.stat = .waiting w)
    (hmask : has p.mask k = true) : waitOf s g k = some (p, w) := by
  simp [waitOf, hx, waiting_of_only halone.allPaths hstat, hmask]

/-- The stamp of a test leaves the path alone in its group. -/
theorem stampWait_alone {s : State} {g : Grp} {x : Group} {p : Path} (w : WaitRec) (hx : getGroup s g = some x) (halone : Alone x p) :
    ∃ x', stampWait s g p w = setGroup s g x' ∧ Alone x' { p with stat := .waiting { w with lastRead := s.now } } ∧ SameRegs x x' ∧ x'.run.isSome = x.run.isSome :=
  ⟨_, by simp only [stampWait, hx], halone.swapPath halone.entry, swapPath_sameRegs x p _, swapPath_pipe x p _⟩

/-- Marking the fills of a line stale leaves the groups. -/
theorem getGroup_staleFills (s : State) (g : Grp) (line : Nat) : getGroup (setCore s g.core (staleFills (getCore s g.core) line)) g = getGroup s g := by
  have hgroups : (staleFills (getCore s g.core) line).groups = (getCore s g.core).groups := by
    unfold staleFills
    split <;> rfl
  simp [getGroup, hgroups]

/-- A flag in a live core's loft is read where it stands. -/
theorem readFlags_loft {s : State} {g : Grp} {x : Group} {p : Path} {w w' : WaitRec} {k a : Nat} {b : W64} (hx : getGroup s g = some x) (halone : Alone x p)
    (hstat : p.stat = .waiting w') (hkind : w.kind = 1) (hleft : has w.left k = true) (htarget : w.target = [(k, BitVec.ofNat 64 a, b)]) (hcond : w.cond = 0) (ha : a < 2 ^ 64)
    (hdev : devOf a = myDev s) (hloft : isLoft s a = true) (hlive : coreLive s ((locOf a - loftBase) / loftStride) = true) (hflag : readNat s.mem (locOf a) 4 = b.toNat) :
    readFlags s g (lowest p.mask) w = waitHit (setCore s g.core (staleFills (getCore s g.core) (a / 64))) g p w' (maskOf [k]) 0 := by
  have hready : ∀ n, isLoft s n = true → flagReady s g.core n = true := fun n hn => by simp [flagReady, hn]
  have hwaiting : waiting x = [(p, w')] := waiting_of_only halone.allPaths hstat
  have htrouble : ∀ ctx, flagTrouble s g.core ctx [a] = (none, s) := fun ctx => by simp [flagTrouble, flagStop, hloft, hlive]
  have hval : flagVal s g.core a 4 = b.toNat := by simp [flagVal, hloft, hflag]
  simp only [readFlags, hkind, htarget, List.filter_cons, List.filter_nil, hleft, BitVec.toNat_ofNat, Nat.mod_eq_of_lt ha, hdev, decide_true, if_true, List.map_cons, List.map_nil,
    each_cons, each_nil, hready _ ((isLoft_line s a).trans hloft), hready a hloft, htrouble, hval, hcond, condHolds, ne_eq, not_true_eq_false, decide_false, Bool.false_eq_true, if_false,
    List.isEmpty_nil, Bool.true_or, getGroup_staleFills, hx, hwaiting, List.find?_cons]

section
variable {s : State} {g : Grp} {x : Group} {p : Path} {w : WaitRec} {k : Nat} (hx : getGroup s g = some x) (hrun : x.run = none) (halone : Alone x p)
  (hstat : p.stat = .waiting w) (hyield : p.yielding = false) (hmask : has p.mask k = true) (hacq : w.acq = 0)
include hx hrun halone hstat hyield hmask hacq

omit hx halone hstat hmask hacq in
/-- A path that takes the pipe as its WAIT ends. -/
theorem Resumed.takes {y : Group} (h : Resumed x p y) : SameRegs x y ∧ y.run = some { p with stat := .ready, pc := p.pc + 8, ran := true } ∧ y.others = [] := by
  obtain ⟨hregs, hothers, htakes⟩ := h
  refine ⟨hregs, ?_, hothers⟩
  rw [htakes]
  simp [hrun, Path.pastWait, hyield]

/-- A blocked WAIT on MST ends when MST comes. -/
theorem waitMstReached_ends (hkind : w.kind = 5) (hcond : w.cond = 2) (hleft : w.left ≠ 0) (hcover : ∀ j < 32, has w.left j = true → ∃ q ∈ w.target, q.1 = j)
    (hcome : ∀ q ∈ w.target, q.1 < 32 ∧ q.2.2.toNat ≤ s.time.mst) (htime : w.notBefore ≤ s.time.mst) :
    Does (.waitMstReached g k) s (fun t => ∃ y : Group, getGroup t g = some y ∧ SameRegs x y ∧ y.run = some { p with stat := .ready, pc := p.pc + 8, ran := true } ∧
      y.others = []) := by
  obtain ⟨y, hy, hresumed⟩ := retest_mst_resumed hx halone hstat (fun _ => hyield) hacq hkind hcond hleft hcover (fun q hq => (hcome q hq).2) htime
  refine ⟨_, rfl, y, ?_, hresumed.takes hrun hyield⟩
  simp only [waitOf_alone hx halone hstat hmask, hleft, hkind, if_false, if_true, hy, getGroup_setGroup_self]

/-- A WAIT whose waymarks have all been reached ends at its release time. -/
theorem waitMstReached_releases (hleft : w.left = 0) (htime : w.notBefore ≤ s.time.mst) :
    Does (.waitMstReached g k) s (fun t => ∃ y : Group, getGroup t g = some y ∧ SameRegs x y ∧ y.run = some { p with stat := .ready, pc := p.pc + 8, ran := true } ∧
      y.others = []) := by
  obtain ⟨y, hy, hresumed⟩ := endWait_resumed (s := s) (g := g) halone hacq (fun _ => hyield)
  refine ⟨_, rfl, y, ?_, hresumed.takes hrun hyield⟩
  simp only [waitOf_alone hx halone hstat hmask, hleft, htime, hx, if_true, hy, getGroup_setGroup_self]

/-- A blocked WAIT on a flag in a loft ends where the flag is found with its value. -/
theorem flagReread_ends {a : Nat} {b : W64} (hkind : w.kind = 1) (hleft : w.left = bit 32 k) (htarget : w.target = [(k, BitVec.ofNat 64 a, b)]) (hcond : w.cond = 0)
    (ha : a < 2 ^ 64) (hdev : devOf a = myDev s) (hloft : isLoft s a = true) (hlive : coreLive s ((locOf a - loftBase) / loftStride) = true)
    (hflag : readNat s.mem (locOf a) 4 = b.toNat) (htime : w.notBefore ≤ s.time.mst) :
    Does (.flagReread g k) s (fun t => ∃ y : Group, getGroup t g = some y ∧ SameRegs x y ∧ y.run = some { p with stat := .ready, pc := p.pc + 8, ran := true } ∧
      y.others = []) := by
  have hk : k < 32 := BitVec.lt_of_getLsbD hmask
  have hleftk : has w.left k = true := by simp [hleft, has_bit hk]
  have hne : w.left ≠ 0 := by
    intro hz
    simp [hz, has] at hleftk
  obtain ⟨x', hstamp, halone', ⟨hxs, hus, hpreds, harith⟩, hpipe⟩ := stampWait_alone w hx halone
  have hrun' : x'.run = none := Option.isNone_iff_eq_none.mp (by simpa [hrun] using hpipe)
  obtain ⟨y, hy, hresumed⟩ := waitHit_resumed (s := setCore (setGroup s g x') g.core (staleFills (getCore (setGroup s g x') g.core) (a / 64))) (g := g) (x := x')
    (p := { p with stat := .waiting { w with lastRead := s.now } }) (w := { w with lastRead := s.now }) (hit := maskOf [k])
    ((getGroup_staleFills _ _ _).trans (getGroup_setGroup_self _ _ _)) halone' (fun _ => hyield) hacq (by simp [hkind]) hne
    (fun j hj hl => by
      rw [show has w.left j = decide (j = k) by rw [hleft, has_bit hj]] at hl
      simpa [has_maskOf [k] hj] using hl) htime
  obtain ⟨⟨hxs', hus', hpreds', harith'⟩, hgoes, hothers⟩ := Resumed.takes (p := { p with stat := .waiting { w with lastRead := s.now } }) hrun' hyield hresumed
  refine ⟨_, rfl, y, ?_, ⟨hxs'.trans hxs, hus'.trans hus, hpreds'.trans hpreds, harith'.trans harith⟩, hgoes, hothers⟩
  have hread := readFlags_loft (s := setGroup s g x') (g := g) (w := w) (b := b) (getGroup_setGroup_self _ _ _) halone' rfl hkind hleftk htarget hcond ha hdev hloft hlive hflag
  simp only [waitOf_alone hx halone hstat hmask, hkind, hne, htarget, List.any_cons, List.any_nil, hleftk, BitVec.toNat_ofNat, Nat.mod_eq_of_lt ha, hdev, hstamp, decide_true,
    Bool.true_or, Bool.true_and, ne_eq, not_false_eq_true, Bool.or_false, if_true]
  rw [hread, hy, getGroup_setGroup_self]

omit hrun hyield hacq in
/-- A blocked WAIT on a waymark asks the bank again after its interval. -/
theorem waitReread_asks {m : Nat} {b : W64} (hkind : w.kind = 0) (hleft : w.left = bit 32 k) (htarget : w.target = [(k, BitVec.ofNat 64 m, b)]) (hm : m < 4096)
    (hdue : w.lastRead + (if w.inUnit then 16000 else 1000) ≤ s.now) (hsend : CanSend s (stopEvent .read g.core m 0 0)) :
    Does (.waitReread g k) s (fun t => t.mem = s.mem ∧ Sent s t (stopEvent .read g.core m 0 0)) := by
  have hk : k < 32 := BitVec.lt_of_getLsbD hmask
  have hleftk : has w.left k = true := by simp [hleft, has_bit hk]
  have hne : w.left ≠ 0 := by
    intro hz
    simp [hz, has] at hleftk
  obtain ⟨x', hstamp, -⟩ := stampWait_alone w hx halone
  obtain ⟨fl, hsent, -⟩ := sendWm_eq (s := setGroup s g x') (ev := stopEvent .read g.core m 0 0) (by simp [stopEvent]) hsend
  refine ⟨sendWm (setGroup s g x') (stopEvent .read g.core m 0 0), ?_, by rw [hsent]; rfl, sent_of_sendWm (s' := setGroup s g x') (by simp [stopEvent]) hsend rfl rfl rfl rfl⟩
  show execWaitReread g k s = _
  simp only [execWaitReread, waitOf_alone hx halone hstat hmask, hkind, hne, ne_eq, not_false_eq_true, decide_true, Bool.and_true, if_true, hdue, hstamp, sendReads_one g.core htarget hleftk (by omega : m < 2 ^ 64)]

end

/-- Settles O24: by the test of the WAIT's condition, now or when it is due again. -/
theorem waitsBlockAndEnd : Obligations.WaitsBlockAndEnd := by
  unfold Obligations.WaitsBlockAndEnd
  intro s g e hs
  refine ⟨fun f hty htail hc hd hex hcan hothers _ hentries => ⟨?_, ?_⟩, ?_, ?_⟩
  · exact wait_mst_goes hs hty htail hc hd hex hcan hothers hentries
  · exact fun k hk hke hlate => wait_mst_blocks hs hty htail hc hd hcan hothers hentries hk hke hlate
  · intro f k cx hty htail hacq hd hthreads hcan hothers hctx m ev hsend
    exact wait_waymark hty htail hacq hd hthreads hcan hothers hctx hsend
  · intro x p w k hx hrun hothers hregion hentries hentry hstat hyield hmask hacq
    have halone : Alone x p := ⟨.inr ⟨hrun, hothers⟩, hregion, hentries, hentry⟩
    refine ⟨?_, ?_, ?_, ?_⟩
    · exact fun hkind hcond hleft hcover hcome htime => waitMstReached_ends hx hrun halone hstat hyield hmask hacq hkind hcond hleft hcover hcome htime
    · exact fun _ hleft htime => waitMstReached_releases hx hrun halone hstat hyield hmask hacq hleft htime
    · intro hkind hleft a htarget hcond ha hdev hloft hlive hflag htime
      obtain ⟨t, hexec, y, hy, hregs, hgoes, -⟩ := flagReread_ends hx hrun halone hstat hyield hmask hacq hkind hleft htarget hcond ha hdev hloft hlive hflag htime
      exact ⟨t, hexec, y, _, hy, hregs, hgoes, rfl, rfl, rfl⟩
    · intro hkind hleft m htarget hm hdue ev hsend
      exact waitReread_asks hx halone hstat hmask hkind hleft htarget hm hdue hsend

end Sys2Proof.Machine
end

section
/-! SUPPORT. A fresh block on a core (R128, R169, R340): taking a core, the acquire of a block's start, the groups at entry. -/

namespace Sys2Proof.Machine

theorem SMap.get_mapV {V : Type} (m : SMap V) (f : Nat → V → V) (k : Nat) : (m.mapV f).get k = (m.get k).map (f k) := by
  induction m with
  | nil => rfl
  | cons e t ih =>
    obtain ⟨a, v⟩ := e
    show (if a = k then some (f a v) else SMap.get (SMap.mapV t f) k) = (if a = k then some v else SMap.get t k).map (f k)
    split
    · next h => rw [h]; rfl
    · exact ih

/-- Entries of an injective change of keys and a change of values that keeps zero. -/
theorem SMap.getD_map (l : List (Nat × Nat)) {g f : Nat → Nat} (hg : ∀ a b, g a = g b → a = b) (hf : f 0 = 0) (k : Nat) :
    SMap.getD (l.map (fun e => (g e.1, f e.2))) (g k) 0 = f (SMap.getD l k 0) := by
  induction l with
  | nil => exact hf.symm
  | cons e t ih =>
    obtain ⟨a, v⟩ := e
    by_cases h : a = k
    · simp [SMap.getD, SMap.get, h]
    · have hne : ¬g a = g k := fun heq => h (hg a k heq)
      simpa [SMap.getD, SMap.get, h, hne] using ih

/-- An absent register reads as zero: entries of zero can be left out. -/
theorem SMap.getD_nonzero {l : List (Nat × Nat)} (hl : l.Pairwise (fun a b => a.1 ≠ b.1)) (k : Nat) : SMap.getD (l.filter (fun e => e.2 ≠ 0)) k 0 = SMap.getD l k 0 := by
  have habsent : ∀ t : List (Nat × Nat), (∀ e ∈ t, k ≠ e.1) → SMap.getD (t.filter (fun e => e.2 ≠ 0)) k 0 = 0 := by
    intro t ht
    cases hget : SMap.get (t.filter (fun e => e.2 ≠ 0)) k with
    | none => rw [SMap.getD, hget]; rfl
    | some v => exact absurd rfl (ht _ (List.mem_filter.mp (SMap.mem_of_get hget)).1)
  induction l with
  | nil => rfl
  | cons e t ih =>
    obtain ⟨a, v⟩ := e
    obtain ⟨hhead, htail⟩ := List.pairwise_cons.mp hl
    by_cases hv : v = 0
    · rw [List.filter_cons_of_neg (by simp [hv])]
      by_cases h : a = k
      · rw [habsent t (fun e he => h ▸ hhead e he)]
        simp [SMap.getD, SMap.get, h, hv]
      · rw [ih htail]
        simp [SMap.getD, SMap.get, h]
    · rw [List.filter_cons_of_pos (by simpa using hv)]
      by_cases h : a = k
      · simp [SMap.getD, SMap.get, h]
      · simpa [SMap.getD, SMap.get, h] using ih htail

/-! ### Taking a core (R73, R342) -/

/-- A core taken for another context than its last has its loft zeroed; otherwise memory stands. -/
theorem takeCore_mem (s : State) (c n : Nat) :
    (takeCore s c n).mem = if s.sched.lastCtx.get c = some n then s.mem else s.mem.filter (fun e => !(loftAt c ≤ e.1 && e.1 < loftAt c + loftStride)) := by
  unfold takeCore
  split <;> rfl

/-- Nothing but memory, the core and the record of the last contexts differs. -/
theorem takeCore_eq (s : State) (c n : Nat) :
    takeCore s c n = { s with mem := (takeCore s c n).mem, cores := (takeCore s c n).cores, sched := { s.sched with lastCtx := s.sched.lastCtx.put c n } } := by
  unfold takeCore
  split <;> rfl

theorem takeCore_core (s : State) (c n : Nat) : (getCore (takeCore s c n) c).ctx = some n ∧ (getCore (takeCore s c n) c).halted = false := by
  unfold takeCore
  simp only [getCore, setCore, SMap.getD_set_self, and_self]

theorem readByte_clear (m : List Host.Cell) (lo hi a : Nat) :
    readByte (m.filter (fun e => !(lo ≤ e.1 && e.1 < hi))) a = if lo ≤ a ∧ a < hi then 0 else readByte m a := by
  unfold readByte
  rw [SMap.getD, SMap.get_filter_key m (fun k => !(lo ≤ k && k < hi))]
  by_cases h : lo ≤ a ∧ a < hi
  · simp [h]
  · rw [if_neg h, if_pos (by simp; omega), SMap.getD]

/-! ### The acquire of a block's start and resumption (R169) -/

/-- A group whose paths wait for one more fence. -/
def acquiring (f : FenceRec) (x : Group) : Group :=
  { x with run := x.run.map (fun p => { p with fences := p.fences ++ [f] }), others := x.others.map (fun p => { p with fences := p.fences ++ [f] }) }

theorem startAdvance_eq (s : State) (n : Nat) : (startAdvance s n).1 = { s with coh := (startAdvance s n).1.coh } := by
  unfold startAdvance
  split
  · rfl
  · split <;> rfl

/-- Only the far-epoch advance and the paths' fences are new. -/
theorem coreAcquire_eq (s : State) (c n : Nat) :
    ∃ (f : FenceRec) (k : Coh), coreAcquire s c n =
      setCore { s with coh := k } c { getCore s c with groups := (getCore s c).groups.mapV (fun _ x => acquiring f x) } := by
  have hcore : getCore (startAdvance s n).1 c = getCore s c := by rw [startAdvance_eq]; rfl
  refine ⟨{ acquire := true, scope := 3, ops := [], advance := (startAdvance s n).2 }, (startAdvance s n).1.coh, ?_⟩
  show setCore (startAdvance s n).1 c { getCore (startAdvance s n).1 c with groups := (getCore (startAdvance s n).1 c).groups.mapV _ } = _
  rw [hcore, startAdvance_eq]
  rfl

/-! ### The groups at entry (R128, R340) -/

/-- What a block's groups find in their registers, by register. -/
def entryRegs (number g : Nat) (l : Launch) : List (Nat × Nat) := [(0, l.args), (1, number), (2, g), (3, l.groups), (4, l.list)]

theorem entryRegs_distinct (number g : Nat) (l : Launch) : (entryRegs number g l).Pairwise (fun a b => a.1 ≠ b.1) := by simp [entryRegs]

/-- Outside the S-cores the values stand in U registers. -/
theorem entryGroup_ureg (s : State) (c blk number g : Nat) {l : Launch} (h : l.ctype ≠ 3) (k : Nat) :
    (entryGroup s c blk number g l).ureg k = SMap.getD (entryRegs number g l) k 0 % 2 ^ 64 := by
  rw [← SMap.getD_nonzero (entryRegs_distinct number g l)]
  simp only [Group.ureg, entryGroup, h, if_false]
  exact SMap.getD_map (g := fun a => a) (f := fun v => v % 2 ^ 64) _ (fun _ _ heq => heq) rfl k

/-- On an S-core the first four stand in X registers of thread 0. -/
theorem entryGroup_xreg (s : State) (c blk number g : Nat) {l : Launch} (h : l.ctype = 3) {k : Nat} (hk : k < 4) :
    (entryGroup s c blk number g l).xreg k 0 = SMap.getD (entryRegs number g l) k 0 % 2 ^ 64 := by
  rw [← SMap.getD_nonzero (entryRegs_distinct number g l)]
  simp only [Group.xreg, entryGroup, h, if_true]
  rw [show k * 32 + 0 = k * 32 from rfl]
  refine (SMap.getD_map (g := fun a => a * 32) (f := fun v => v % 2 ^ 64) _ (fun a b heq => by omega) rfl k).trans (congrArg (· % 2 ^ 64) ?_)
  rw [SMap.getD, SMap.get_filter_key _ (fun a => decide (a < 4)), if_pos (by simpa using hk)]
  rfl

/-- The key of the group with a number (R340). -/
def entryKey (ct g : Nat) : Nat := g % pipesOf ct * 16 + g / pipesOf ct

theorem entryKey_inj {ct g h : Nat} (hg : g < 16) (hh : h < 16) (heq : entryKey ct g = entryKey ct h) : g = h := by
  unfold entryKey pipesOf at heq
  split at heq <;> omega

/-- Each of the groups put at distinct keys stands at its key. -/
theorem get_foldl_put {V : Type} {key : Nat → Nat} {val : Nat → V} {n : Nat} (hinj : ∀ g < n, ∀ h < n, key g = key h → g = h) {j : Nat} (hj : j < n) (m : SMap V) :
    SMap.get (((List.range n).map (fun g => (key g, val g))).foldl (fun m e => m.put e.1 e.2) m) (key j) = some (val j) := by
  induction n with
  | zero => omega
  | succ n ih =>
    rw [List.range_succ, List.map_append, List.foldl_append]
    simp only [List.map_cons, List.map_nil, List.foldl_cons, List.foldl_nil, SMap.get_put]
    by_cases h : j = n
    · rw [if_pos (by rw [h]), h]
    · rw [if_neg (fun heq => h (hinj j hj n (by omega) heq)), ih (fun g hg h' hh => hinj g (by omega) h' (by omega)) (by omega)]

/-! ### A fresh block (R128, R340) -/

/-- The record of a launch's next block on a core. -/
def freshBlock (c n lid : Nat) (l : Launch) : Block := { ctx := n, launch := lid, number := l.fresh, st := .running c, left := c, loftTop := l.loftBytes }

/-- The scheduler's state with that block. -/
def freshSched (q : Sched) (c n lid : Nat) (l : Launch) : Sched :=
  { q with lastCtx := q.lastCtx.put c n, nextId := q.nextId + 1, launches := q.launches.put lid { l with fresh := l.fresh + 1 }
           blocks := q.blocks.put q.nextId (freshBlock c n lid l) }

/-- The core that holds it, with its groups. -/
def freshCore (t : State) (c id : Nat) (l : Launch) : Core :=
  { getCore t c with blocks := [id], groups := ((List.range l.groups).map (fun g => (entryKey l.ctype g, entryGroup t c id l.fresh g l))).foldl (fun m e => m.put e.1 e.2) [] }

/-- The state in which the block is known, before its groups stand in the core. -/
def freshState (s : State) (c n lid : Nat) (l : Launch) : State := { takeCore s c n with sched := freshSched s.sched c n lid l }

theorem startBlock_eq (s : State) (c n lid : Nat) (l : Launch) :
    startBlock s c n lid l = coreAcquire (setCore (freshState s c n lid l) c (freshCore (freshState s c n lid l) c s.sched.nextId l)) c n := by
  have hsched : (takeCore s c n).sched = { s.sched with lastCtx := s.sched.lastCtx.put c n } := by rw [takeCore_eq]
  simp only [startBlock, hsched]
  rfl

/-- The core of a block that has started: its context, and each group as at entry, with the acquire pending. -/
theorem startBlock_core (s : State) (c n lid : Nat) {l : Launch} (hgroups : l.groups ≤ 16) :
    ∃ f : FenceRec, (getCore (startBlock s c n lid l) c).ctx = some n ∧ (getCore (startBlock s c n lid l) c).halted = false ∧
      ∀ j < l.groups, (getCore (startBlock s c n lid l) c).groups.get (entryKey l.ctype j) =
        some (acquiring f (entryGroup (freshState s c n lid l) c s.sched.nextId l.fresh j l)) := by
  obtain ⟨f, k, hstart⟩ := coreAcquire_eq (setCore (freshState s c n lid l) c (freshCore (freshState s c n lid l) c s.sched.nextId l)) c n
  rw [startBlock_eq, hstart]
  simp only [getCore_setCore_self]
  refine ⟨f, (takeCore_core s c n).1, (takeCore_core s c n).2, fun j hj => ?_⟩
  rw [SMap.get_mapV]
  exact congrArg (Option.map (acquiring f)) (get_foldl_put (key := entryKey l.ctype) (val := fun g => entryGroup (freshState s c n lid l) c s.sched.nextId l.fresh g l)
    (fun g hg h hh => entryKey_inj (by omega) (by omega)) hj [])

/-- Outside the core, what a started block changes. -/
theorem startBlock_keeps (s : State) (c n lid : Nat) (l : Launch) :
    (startBlock s c n lid l).sched = freshSched s.sched c n lid l ∧ (startBlock s c n lid l).mem = (takeCore s c n).mem ∧ (startBlock s c n lid l).flds = s.flds := by
  obtain ⟨f, k, hstart⟩ := coreAcquire_eq (setCore (freshState s c n lid l) c (freshCore (freshState s c n lid l) c s.sched.nextId l)) c n
  rw [startBlock_eq, hstart]
  refine ⟨rfl, rfl, ?_⟩
  show (takeCore s c n).flds = s.flds
  rw [takeCore_eq]

/-- A group of a started block: its registers, and its one path at the kernel's first instruction. -/
def AtEntry (x : Group) (number j : Nat) (l : Launch) : Prop :=
  ∃ p : Path, x.index = j ∧ x.n = l.n ∧ x.arith = l.arith ∧ x.run = some p ∧ p.pc = BitVec.ofNat 64 (l.entry + 64) ∧
    p.mask = (if l.ctype = 3 then 1 else BitVec.allOnes 32) ∧ p.stat = .ready ∧ x.others = [] ∧
    (l.ctype ≠ 3 → x.ureg 0 = l.args % 2 ^ 64 ∧ x.ureg 1 = number % 2 ^ 64 ∧ x.ureg 2 = j ∧ x.ureg 3 = l.groups) ∧
    (l.ctype = 3 → x.xreg 0 0 = l.args % 2 ^ 64 ∧ x.xreg 1 0 = number % 2 ^ 64 ∧ x.xreg 2 0 = j ∧ x.xreg 3 0 = l.groups)

theorem acquiring_entryGroup (f : FenceRec) (s : State) (c blk number : Nat) {j : Nat} {l : Launch} (hgroups : l.groups ≤ 16) (hj : j < l.groups) :
    AtEntry (acquiring f (entryGroup s c blk number j l)) number j l := by
  have hsmall : j % 2 ^ 64 = j ∧ l.groups % 2 ^ 64 = l.groups := by omega
  have hregs : SMap.getD (entryRegs number j l) 0 0 = l.args ∧ SMap.getD (entryRegs number j l) 1 0 = number ∧ SMap.getD (entryRegs number j l) 2 0 = j ∧
      SMap.getD (entryRegs number j l) 3 0 = l.groups := ⟨rfl, rfl, rfl, rfl⟩
  obtain ⟨h0, h1, h2, h3⟩ := hregs
  refine ⟨_, rfl, rfl, rfl, rfl, rfl, ?_, rfl, rfl, fun h => ?_, fun h => ?_⟩
  · simp only
  · have hureg := fun k => entryGroup_ureg s c blk number j h k
    refine ⟨?_, ?_, ?_, ?_⟩
    · exact (hureg 0).trans (by rw [h0])
    · exact (hureg 1).trans (by rw [h1])
    · exact (hureg 2).trans (by rw [h2, hsmall.1])
    · exact (hureg 3).trans (by rw [h3, hsmall.2])
  · have hxreg := fun k (hk : k < 4) => entryGroup_xreg s c blk number j h hk
    refine ⟨?_, ?_, ?_, ?_⟩
    · exact (hxreg 0 (by decide)).trans (by rw [h0])
    · exact (hxreg 1 (by decide)).trans (by rw [h1])
    · exact (hxreg 2 (by decide)).trans (by rw [h2, hsmall.1])
    · exact (hxreg 3 (by decide)).trans (by rw [h3, hsmall.2])

/-- A free core takes the fresh block chosen for it. -/
theorem does_coreFree_fresh {s : State} {c n lid : Nat} {l : Launch} (hctx : (getCore s c).ctx = none) (hchosen : chosen s c = some (n, .fresh lid))
    (hfirst : comesFirst s c n (.fresh lid) = true) (hlaunch : s.sched.launches.get lid = some l) (hgroups : l.groups ≤ 16) :
    Does (.coreFree c) s (fun t => (getCore t c).ctx = some n ∧ (getCore t c).halted = false ∧ t.sched.launches.get lid = some { l with fresh := l.fresh + 1 } ∧
      (∃ b : Block, t.sched.blocks.get s.sched.nextId = some b ∧ b.ctx = n ∧ b.launch = lid ∧ b.number = l.fresh ∧ b.st = .running c) ∧
      (∀ j < l.groups, ∃ x : Group, getGroup t { core := c, pipe := j % pipesOf l.ctype, slot := j / pipesOf l.ctype } = some x ∧ AtEntry x l.fresh j l) ∧
      (s.sched.lastCtx.get c = some n → t.mem = s.mem) ∧
      (s.sched.lastCtx.get c ≠ some n → (∀ a, loftAt c ≤ a → a < loftAt c + loftStride → readByte t.mem a = 0) ∧
        ∀ a, (a < loftAt c ∨ loftAt c + loftStride ≤ a) → readByte t.mem a = readByte s.mem a) ∧ t.flds = s.flds) := by
  refine ⟨startBlock { s with freeCtr := s.freeCtr + 1 } c n lid l, ?_, ?_⟩
  · show execCoreFree c s = _
    simp only [execCoreFree, hctx, hchosen, hfirst, hlaunch, Bool.not_true, Bool.false_eq_true, if_false]
  · obtain ⟨f, hrun, hhalt, hgrp⟩ := startBlock_core { s with freeCtr := s.freeCtr + 1 } c n lid hgroups
    obtain ⟨hsched, hmem, hflds⟩ := startBlock_keeps { s with freeCtr := s.freeCtr + 1 } c n lid l
    have htake := takeCore_mem { s with freeCtr := s.freeCtr + 1 } c n
    refine ⟨hrun, hhalt, ?_, ⟨freshBlock c n lid l, ?_, rfl, rfl, rfl, rfl⟩, fun j hj => ⟨_, hgrp j hj, acquiring_entryGroup f _ c _ l.fresh hgroups hj⟩, fun h => ?_,
      fun h => ⟨fun a hlo hhi => ?_, fun a ha => ?_⟩, hflds⟩
    · rw [hsched]; exact SMap.get_put_self _ _ _
    · rw [hsched]; exact SMap.get_put_self _ _ _
    · rw [hmem, htake, if_pos h]
    · rw [hmem, htake, if_neg h, readByte_clear, if_pos ⟨hlo, hhi⟩]
    · rw [hmem, htake, if_neg h, readByte_clear, if_neg (by omega)]

end Sys2Proof.Machine
end

section
/-! SUPPORT. Charges and tolls (R342, R344, R345), cores whose work has left them (R169), PREEMPT, agents (R336) and the accounting period (R343-R346). -/

namespace Sys2Proof.Machine

/-! ### Charges and tolls (R342, R344) -/

/-- Only what contexts are charged, and since when cores are held, differs. -/
structure Charges (s t : State) : Prop where
  eq : t = { s with freeCtr := t.freeCtr, cores := t.cores, sched := { s.sched with ctxs := t.sched.ctxs, instTolls := t.sched.instTolls } }
  core : ∀ c, getCore t c = { getCore s c with since := (getCore t c).since, sinceCyc := (getCore t c).sinceCyc }
  ctx : ∀ m x, getCtx s m = some x → ∃ y, getCtx t m = some y ∧ y.weight = x.weight ∧ y.nextWeight = x.nextWeight ∧ y.st = x.st

namespace Charges

variable {s t u : State}

theorem refl (s : State) : Charges s s := ⟨rfl, fun _ => rfl, fun _ x hx => ⟨x, hx, rfl, rfl, rfl⟩⟩

theorem trans (h : Charges s t) (k : Charges t u) : Charges s u := by
  obtain ⟨heq, hcore, hctx⟩ := h
  obtain ⟨heq', hcore', hctx'⟩ := k
  refine ⟨by rw [heq', heq], fun c => by rw [hcore' c, hcore c], fun m x hx => ?_⟩
  obtain ⟨y, hy, hw, hn, hst⟩ := hctx m x hx
  obtain ⟨z, hz, hw', hn', hst'⟩ := hctx' m y hy
  exact ⟨z, hz, hw'.trans hw, hn'.trans hn, hst'.trans hst⟩

/-- A context's accounts. -/
theorem setCtx {n : Nat} {x x' : Ctx} (hx : getCtx s n = some x) (hw : x'.weight = x.weight) (hn : x'.nextWeight = x.nextWeight) (hst : x'.st = x.st) :
    Charges s (setCtx s n x') := by
  refine ⟨rfl, fun _ => rfl, fun m y hy => ?_⟩
  rw [getCtx_setCtx]
  split
  · next h =>
    rw [h, hx] at hy
    cases hy
    exact ⟨x', rfl, hw, hn, hst⟩
  · exact ⟨y, hy, rfl, rfl, rfl⟩

theorem freeCtr (s : State) (n : Nat) : Charges s { s with freeCtr := n } := ⟨rfl, fun _ => rfl, fun _ x hx => ⟨x, hx, rfl, rfl, rfl⟩⟩

theorem each {α : Type} {f : State → α → State} (h : ∀ t a, Charges t (f t a)) (l : List α) (s : State) : Charges s (each l f s) :=
  each_keeps (P := Charges s) l f (fun t a _ ht => ht.trans (h t a)) s (.refl s)

end Charges

theorem toll_charges (s : State) (ctx k n : Nat) : Charges s (toll s ctx k n) := by
  unfold toll
  split
  · exact .refl s
  · next x hx =>
    extract_lets up t zero
    have ht : Charges s t := .setCtx hx rfl rfl rfl
    exact ht.trans ⟨rfl, fun _ => rfl, fun _ y hy => ⟨y, hy, rfl, rfl, rfl⟩⟩

theorem settle_charges (s : State) (c : Nat) : Charges s (settle_ s c) := by
  unfold settle_
  extract_lets k cyc
  split
  · exact .refl s
  · next n _ =>
    extract_lets t u
    have hu : Charges s u := by
      have ht : Charges s t := toll_charges s _ _ _
      unfold u
      split
      · next x hx => exact ht.trans (.setCtx hx rfl rfl rfl)
      · exact ht
    refine hu.trans ⟨rfl, fun d => ?_, fun _ x hx => ⟨x, hx, rfl, rfl, rfl⟩⟩
    rw [getCore_setCore]
    split
    · next h =>
      rw [h, hu.core c]
    · rfl

/-! ### A core is free (R169) -/

/-- What waits for a core to be free: nothing. -/
theorem afterFree_of_quiet {s : State} {c : Nat} (hfencing : s.rel.fencing = none) (hinst : s.inst.cores.get c = none) : afterFree s c = s := by
  simp [afterFree, hfencing, hinst]

/-- A core is free, and nothing but charges and what was asked of the core has changed. -/
structure Freed (s : State) (c : Nat) (t : State) : Prop where
  ctx : (getCore t c).ctx = none
  groups : (getCore t c).groups = []
  mem : t.mem = s.mem
  flds : t.flds = s.flds
  host : t.host = s.host
  blocks : t.sched.blocks = s.sched.blocks
  launches : t.sched.launches = s.sched.launches
  images : t.sched.images = s.sched.images

theorem freeCore_freed {s : State} {c : Nat} (hfencing : s.rel.fencing = none) (hinst : s.inst.cores.get c = none) : Freed s c (freeCore s c) := by
  have hsettled := (settle_charges s c).eq
  unfold freeCore
  extract_lets t k u
  have ht : ∀ {α : Type} (f : State → α), f t = f { s with freeCtr := t.freeCtr, cores := t.cores, sched := { s.sched with ctxs := t.sched.ctxs, instTolls := t.sched.instTolls } } :=
    fun f => congrArg f hsettled
  rw [afterFree_of_quiet (s := { u with sched := { u.sched with wantPre := u.sched.wantPre.filter (· ≠ c) } }) ((ht (·.rel.fencing)).trans hfencing)
    ((ht (·.inst.cores.get c)).trans hinst)]
  exact ⟨congrArg Core.ctx (getCore_setCore_self _ _ _), congrArg Core.groups (getCore_setCore_self _ _ _), ht (·.mem), ht (·.flds), ht (·.host), ht (·.sched.blocks),
    ht (·.sched.launches), ht (·.sched.images)⟩

/-! ### The end of a block (R169, R340) -/

theorem blockEnds_more {s : State} {id : Nat} {b : Block} {l : Launch} (hb : s.sched.blocks.get id = some b) (hl : s.sched.launches.get b.launch = some l)
    (hmore : l.ended + 1 < l.wblocks) :
    blockEnds s id = { s with sched := { s.sched with blocks := s.sched.blocks.del id, launches := s.sched.launches.put b.launch { l with ended := l.ended + 1 } } } := by
  simp only [blockEnds, hb, hl, hmore, if_true]

theorem blockEnds_last {s : State} {id : Nat} {b : Block} {l : Launch} {r : CmdRef} (hb : s.sched.blocks.get id = some b) (hl : s.sched.launches.get b.launch = some l)
    (hlast : l.wblocks ≤ l.ended + 1) (hcmd : l.cmd = some r) :
    blockEnds s id = finCmd { s with sched := { s.sched with blocks := s.sched.blocks.del id, launches := s.sched.launches.del b.launch } } r 0 0 := by
  simp only [blockEnds, hb, hl, Nat.not_lt.mpr hlast, if_false, hcmd]

/-- A command that has not ended ends. -/
theorem finCmd_ends {s : State} {r : CmdRef} {q : Cmd} (hq : getCmd s r = some q) (hfin : q.fin = none) (status detail : Nat) :
    Ended (finCmd s r status detail) r status detail ∧ finCmd s r status detail = { s with host := (finCmd s r status detail).host } := by
  have href : q.ref = r := by simpa using List.find?_some hq
  have hset : finCmd s r status detail = setCmd s { q with started := true, fin := some (status, detail) } := by
    simp only [finCmd, hq, hfin, Option.isSome_none, Bool.false_eq_true, if_false]
  rw [hset]
  refine ⟨⟨{ q with started := true, fin := some (status, detail) }, ?_, rfl⟩, rfl⟩
  unfold getCmd at hq ⊢
  simp only [setCmd, href]
  generalize s.host.cmds = l at hq
  induction l with
  | nil => cases hq
  | cons d l ih =>
    by_cases h : d.ref = r
    · simp [h]
    · simp only [List.map_cons, h, if_false, List.find?_cons, decide_false]
      exact ih (by simpa [h] using hq)

section
variable {s : State} {c n id : Nat} {b : Block} {l : Launch} (hctx : (getCore s c).ctx = some n)
  (hquiet : contributed s c = [] ∧ ∀ e ∈ s.deck.chans, ∀ w ∈ e.2.wcb, c ∉ w.writers) (hfencing : s.rel.fencing = none) (hinst : s.inst.cores.get c = none)
  (hblocks : (getCore s c).blocks = [id]) (hb : s.sched.blocks.get id = some b) (hhalt : (getCore s c).halted = false) (hdone : coreDone s c = true)
  (hl : s.sched.launches.get b.launch = some l)

include hctx hquiet hblocks hhalt hdone in
/-- A core whose block is complete is freed of it. -/
theorem execCoreFree_ends : execCoreFree c s = .next (freeCore (blockEnds s id) c) := by
  obtain ⟨hcontr, hwcb⟩ := hquiet
  simp only [execCoreFree, hctx, hblocks, hhalt, hdone, hcontr, relStart_of_quiet hcontr hwcb, Bool.not_true, Bool.or_self, Bool.false_eq_true, if_false, List.isEmpty_nil, each_cons,
    each_nil]

include hctx hquiet hfencing hinst hblocks hb hhalt hdone hl

/-- A block ends of a launch that has others. -/
theorem does_coreFree_more (hmore : l.ended + 1 < l.wblocks) :
    Does (.coreFree c) s (fun t => (getCore t c).ctx = none ∧ (getCore t c).groups = [] ∧ t.sched.blocks.get id = none ∧
      t.sched.launches.get b.launch = some { l with ended := l.ended + 1 } ∧ t.flds = s.flds ∧ t.mem = s.mem) := by
  refine ⟨_, execCoreFree_ends hctx hquiet hblocks hhalt hdone, ?_⟩
  rw [blockEnds_more hb hl hmore]
  obtain ⟨hidle, hgroups, hmem, hflds, -, hblk, hlaunch, -⟩ := freeCore_freed (s := { s with sched := { s.sched with
    blocks := s.sched.blocks.del id, launches := s.sched.launches.put b.launch { l with ended := l.ended + 1 } } }) (c := c) hfencing hinst
  exact ⟨hidle, hgroups, by rw [hblk, SMap.get_del, if_pos rfl], by rw [hlaunch, SMap.get_put_self], hflds, hmem⟩

/-- With a launch's last block its LAUNCH ends. -/
theorem does_coreFree_last {r : CmdRef} {q : Cmd} (hlast : l.wblocks ≤ l.ended + 1) (hcmd : l.cmd = some r) (hq : getCmd s r = some q) (hfin : q.fin = none) :
    Does (.coreFree c) s (fun t => (getCore t c).ctx = none ∧ t.sched.blocks.get id = none ∧ t.sched.launches.get b.launch = none ∧ Ended t r 0 0 ∧ t.flds = s.flds ∧
      t.mem = s.mem) := by
  refine ⟨_, execCoreFree_ends hctx hquiet hblocks hhalt hdone, ?_⟩
  rw [blockEnds_last hb hl hlast hcmd]
  obtain ⟨hended, heq⟩ := finCmd_ends (s := { s with sched := { s.sched with blocks := s.sched.blocks.del id, launches := s.sched.launches.del b.launch } }) hq hfin 0 0
  generalize finCmd { s with sched := { s.sched with blocks := s.sched.blocks.del id, launches := s.sched.launches.del b.launch } } r 0 0 = u at hended heq
  obtain ⟨hidle, -, hmem, hflds, hhost, hblk, hlaunch, -⟩ := freeCore_freed (s := u) (c := c) (by rw [heq]; exact hfencing) (by rw [heq]; exact hinst)
  refine ⟨hidle, ?_, ?_, ?_, hflds.trans (by rw [heq]), hmem.trans (by rw [heq])⟩
  · rw [hblk, heq]
    exact (SMap.get_del _ _ _).trans (if_pos rfl)
  · rw [hlaunch, heq]
    exact (SMap.get_del _ _ _).trans (if_pos rfl)
  · unfold Ended getCmd at hended ⊢
    rw [hhost]
    exact hended

end

/-! ### PREEMPT (R347) -/

/-- PREEMPT marks the core; groups that stand at a waypoint stop. -/
theorem does_preempt {s : State} {c n : Nat} (hwant : c ∈ s.sched.wantPre) (hctx : (getCore s c).ctx = some n) :
    Does (.preempt c) s (fun t => (getCore t c).preempting = true ∧ c ∉ t.sched.wantPre ∧ t.flds = s.flds ∧ t.mem = s.mem ∧
      (∀ k x, (getCore s c).groups.get k = some x → ∃ y : Group, (getCore t c).groups.get k = some y ∧ SameRegs x y ∧ y.stopped = (x.stopped || anyWaiting x)) ∧
      ∀ d, d ≠ c → getCore t d = getCore s d) := by
  refine ⟨setCore { s with sched := { s.sched with wantPre := s.sched.wantPre.filter (· ≠ c) } } c { getCore s c with
    preempting := true, groups := (getCore s c).groups.mapV (fun _ x => if anyWaiting x then { x with stopped := true } else x) }, ?_, ?_⟩
  · show execPreempt c s = _
    have hasked : s.sched.wantPre.contains c = true := List.contains_iff_mem.mpr hwant
    have hheld : (getCore { s with sched := { s.sched with wantPre := s.sched.wantPre.filter (· ≠ c) } } c).ctx.isNone = false := by
      rw [show (getCore { s with sched := { s.sched with wantPre := s.sched.wantPre.filter (· ≠ c) } } c).ctx = some n from hctx]; rfl
    simp only [execPreempt, hasked, hheld, Bool.not_true, Bool.false_eq_true, if_false]
    rfl
  · beta_reduce
    rw [getCore_setCore_self]
    refine ⟨rfl, by simp, rfl, rfl, fun k x hx => ⟨if anyWaiting x then { x with stopped := true } else x, ?_, ?_, ?_⟩, fun d hd => by rw [getCore_setCore, if_neg hd]; rfl⟩
    · rw [SMap.get_mapV, hx]; rfl
    · split <;> exact ⟨rfl, rfl, rfl, rfl⟩
    · split <;> next h => simp [h]

/-! ### Agents (R336, R360) -/

/-- Taking a set bit's weight away clears it. -/
theorem testBit_sub_two_pow {w b : Nat} (h : w.testBit b = true) : (w - 2 ^ b).testBit b = false := by
  have hle : 2 ^ b ≤ w := Nat.ge_two_pow_of_testBit h
  rw [Nat.testBit_eq_decide_div_mod_eq, decide_eq_true_iff, Nat.div_eq_sub_div (Nat.two_pow_pos b) hle] at h
  rw [Nat.testBit_eq_decide_div_mod_eq, decide_eq_false_iff_not]
  omega

/-- A core that belonged to an instance belongs to none, and its bit of IN_CORES is clear. -/
theorem leaveInst_spec {u : State} {c k : Nat} (h : u.inst.cores.get c = some k) :
    (leaveInst u c).inst.cores.get c = none ∧ (rd (leaveInst u c) .IN_CORES_CORES (k * 16 + c / 64)).testBit (c % 64) = false ∧ FldFrame u (leaveInst u c) [.IN_CORES_CORES] ∧
      (leaveInst u c).mem = u.mem ∧ (leaveInst u c).cores = u.cores ∧ (leaveInst u c).sched = u.sched := by
  have hgone : (u.inst.cores.del c).get c = none := (SMap.get_del _ _ _).trans (if_pos rfl)
  simp only [leaveInst, h]
  split
  · next hbit =>
    refine ⟨hgone, ?_, fun f i hf _ => rd_wr_fld _ _ _ _ (fun heq => hf (by simp [heq])), rfl, rfl, rfl⟩
    rw [rd_wr_self, Nat.testBit_mod_two_pow, testBit_sub_two_pow hbit, Bool.and_false]
  · next hbit => exact ⟨hgone, Bool.eq_false_iff.mpr hbit, fun _ _ _ _ => rfl, rfl, rfl, rfl⟩

/-- The record of an agent's restart goes. -/
def agentBack (s : State) (half : Nat) : State := { s with sched := { s.sched with agents := s.sched.agents.del half } }

theorem agentBack_agents (s : State) (half : Nat) : (agentBack s half).sched.agents.get half = none := (SMap.get_del _ _ _).trans (if_pos rfl)

section
variable {s : State} {half since x c : Nat} (hagent : s.sched.agents.get half = some (x, some since)) (hlive : (liveS s half).head? = some c)
include hagent hlive

/-- The agent restarts on a free core, which then belongs to no instance. -/
theorem execAgentRestart_free (hctx : (getCore s c).ctx = none) : execAgentRestart half s = .next (leaveInst (agentBack s half) c) := by
  simp only [execAgentRestart, hagent, hlive, hctx, Option.isSome_none, Bool.false_eq_true, if_false]
  rfl

theorem does_agentRestart_outside (hctx : (getCore s c).ctx = none) (hinst : s.inst.cores.get c = none) :
    Does (.agentRestart half) s (fun t => t.sched.agents.get half = none ∧ t = { s with sched := t.sched }) := by
  refine ⟨_, execAgentRestart_free hagent hlive hctx, ?_⟩
  rw [leaveInst, show (agentBack s half).inst.cores.get c = none from hinst]
  exact ⟨agentBack_agents s half, rfl⟩

theorem does_agentRestart_inside {k : Nat} (hctx : (getCore s c).ctx = none) (hinst : s.inst.cores.get c = some k) :
    Does (.agentRestart half) s (fun t => t.sched.agents.get half = none ∧ t.inst.cores.get c = none ∧ (rd t .IN_CORES_CORES (k * 16 + c / 64)).testBit (c % 64) = false ∧
      FldFrame s t [.IN_CORES_CORES] ∧ t.mem = s.mem ∧ t.cores = s.cores) := by
  obtain ⟨hgone, hbit, hframe, hmem, hcores, hsched⟩ := leaveInst_spec (u := agentBack s half) hinst
  exact ⟨_, execAgentRestart_free hagent hlive hctx, by rw [hsched]; exact agentBack_agents s half, hgone, hbit, hframe, hmem, hcores⟩

/-- Work on the core is asked to leave it first. -/
theorem does_agentRestart_busy {n : Nat} (hctx : (getCore s c).ctx = some n) (hwant : c ∉ s.sched.wantPre) (hpre : (getCore s c).preempting = false) :
    Does (.agentRestart half) s (fun t => t = { s with sched := { s.sched with wantPre := s.sched.wantPre ++ [c] } }) := by
  refine ⟨_, ?_, rfl⟩
  show execAgentRestart half s = _
  have hasked : s.sched.wantPre.contains c = false := by simpa using hwant
  simp only [execAgentRestart, hagent, hlive, hctx, Option.isSome_some, if_true, askPreempt, hasked, hpre, Option.isNone_some, Bool.or_self, Bool.false_eq_true, if_false]

end

/-! ### The accounting period (R343-R346) -/

theorem shareEnergy_charges (s : State) : Charges s (shareEnergy s) := by
  unfold shareEnergy
  extract_lets t e stat dyn act total wsum s0 u rest zero l r
  have hu : Charges s u := .each (fun v a => toll_charges v _ _ _) _ s
  split
  · exact hu
  · exact hu.trans ⟨rfl, fun _ => rfl, fun _ y hy => ⟨y, hy, rfl, rfl, rfl⟩⟩

/-- A context's accounts at the end of a period. -/
def closeCtx (s : State) (n : Nat) : State :=
  match getCtx s n with
  | none => s
  | some x => setCtx { s with freeCtr := s.freeCtr + 1 } n
      { x with slowdown := slowdownOf x.held (Config.freeNat s.freeCtr % (x.held + 1)), held := 0, stalls := 0, heldCore := false, periodTolls := x.tolls }

theorem closeCtx_charges (s : State) (n : Nat) : Charges s (closeCtx s n) := by
  unfold closeCtx
  split
  · exact .refl s
  · next x hx => exact (Charges.freeCtr s _).trans (.setCtx (s := { s with freeCtr := s.freeCtr + 1 }) hx rfl rfl rfl)

/-- A context that has been closed holds nothing, whatever is closed after it. -/
theorem closeCtx_held (s : State) (n m : Nat) : ∀ y, getCtx (closeCtx s n) m = some y → (m = n ∨ ∀ x, getCtx s m = some x → x.held = 0) → y.held = 0 := by
  intro y hy hm
  unfold closeCtx at hy
  split at hy
  · next hn =>
    rcases hm with rfl | hm
    · rw [hn] at hy; cases hy
    · exact hm y hy
  · next x hx =>
    rw [getCtx_setCtx] at hy
    split at hy
    · cases hy; rfl
    · next hne => exact (hm.resolve_left hne) y hy

theorem each_closeCtx_held {l : List (Nat × Ctx)} {m : Nat} (hm : m ∈ l.map (·.1)) (s : State) : ∀ y, getCtx (each l (fun s c => closeCtx s c.1) s) m = some y → y.held = 0 := by
  have hkeep : ∀ (l : List (Nat × Ctx)) (t : State), (∀ x, getCtx t m = some x → x.held = 0) → ∀ y, getCtx (each l (fun s c => closeCtx s c.1) t) m = some y → y.held = 0 :=
    fun l t ht => each_keeps (P := fun t => ∀ y, getCtx t m = some y → y.held = 0) l _ (fun t a _ ht y hy => closeCtx_held t a.1 m y hy (.inr ht)) t ht
  induction l generalizing s with
  | nil => cases hm
  | cons a l ih =>
    rcases List.mem_cons.mp hm with h | h
    · exact hkeep l _ (fun y hy => closeCtx_held s a.1 m y hy (.inl h))
    · exact ih h _

/-- R343 for one instance and core type. -/
def shareCores (s : State) (p : Nat × Nat) : State :=
  match sharePreempt s p.1 p.2 with | some c => askPreempt { s with freeCtr := s.freeCtr + 3 } c | none => s

theorem shareCores_eq (s : State) (p : Nat × Nat) :
    shareCores s p = { s with freeCtr := (shareCores s p).freeCtr, sched := { s.sched with wantPre := (shareCores s p).sched.wantPre } } := by
  unfold shareCores askPreempt
  split
  · split <;> rfl
  · rfl

/-- Energy and accounts are shared out, and cores are asked for. -/
def periodShared (s : State) : State :=
  let t := shareEnergy (each s.cores.keys settle_ s)
  each ((List.range 65).flatMap (fun i => [(i, 1), (i, 2), (i, 3)])) shareCores (each t.sched.ctxs (fun s c => closeCtx s c.1) t)

/-- The weight of the next period. -/
def nextPeriod (x : Ctx) : Ctx := { x with weight := x.nextWeight.getD x.weight, nextWeight := none }

/-- A period that has been shared out gives way to the next. -/
def openPeriod (u : State) : State :=
  let t := { u with sched := { u.sched with ctxs := u.sched.ctxs.mapV (fun _ => nextPeriod) } }
  { t with sched := { t.sched with periodStart := t.now, periodUj := rd t .PW_ENERGY_UJ } }

theorem openPeriod_spec (u : State) : (openPeriod u).sched.periodStart = u.now ∧ (openPeriod u).flds = u.flds ∧ (openPeriod u).mem = u.mem ∧
    ∀ m y, getCtx u m = some y → getCtx (openPeriod u) m = some (nextPeriod y) := by
  refine ⟨rfl, rfl, rfl, fun m y hy => ?_⟩
  show (u.sched.ctxs.mapV (fun _ => nextPeriod)).get m = _
  rw [SMap.get_mapV, show SMap.get u.sched.ctxs m = some y from hy]
  rfl

theorem execAccountingPeriod_due {s : State} (hdue : s.sched.periodStart + rd s .TP_CFG_PERIOD * 100000 ≤ s.now) :
    execAccountingPeriod s = .next (openPeriod (periodShared s)) := by
  rw [execAccountingPeriod, if_neg (Nat.not_lt.mpr hdue)]
  unfold periodShared
  dsimp only
  generalize (List.range 65).flatMap (fun i => [(i, 1), (i, 2), (i, 3)]) = pairs
  generalize shareEnergy (each s.cores.keys settle_ s) = t
  rfl

/-- What sharing leaves: registers, memory, time, and each context with its weights and no held cycles. -/
theorem periodShared_spec (s : State) :
    (periodShared s).flds = s.flds ∧ (periodShared s).mem = s.mem ∧ (periodShared s).now = s.now ∧
      ∀ m x, getCtx s m = some x → ∃ y, getCtx (periodShared s) m = some y ∧ y.weight = x.weight ∧ y.nextWeight = x.nextWeight ∧ y.st = x.st ∧ y.held = 0 := by
  unfold periodShared
  extract_lets t
  have ht : Charges s t := (Charges.each settle_charges s.cores.keys s).trans (shareEnergy_charges _)
  have hclosed := ht.trans (Charges.each (fun u (c : Nat × Ctx) => closeCtx_charges u c.1) t.sched.ctxs t)
  have hheld := fun m hm => each_closeCtx_held (l := t.sched.ctxs) (m := m) hm t
  generalize each t.sched.ctxs (fun s c => closeCtx s c.1) t = u at hclosed hheld
  have hshare : ∀ l, ∃ k w, each l shareCores u = { u with freeCtr := k, sched := { u.sched with wantPre := w } } := fun l =>
    each_keeps (P := fun v => ∃ k w, v = { u with freeCtr := k, sched := { u.sched with wantPre := w } }) l _ (fun v p _ hv => by
      obtain ⟨k, w, rfl⟩ := hv
      exact ⟨_, _, shareCores_eq _ p⟩) u ⟨u.freeCtr, u.sched.wantPre, rfl⟩
  obtain ⟨k, w, hend⟩ := hshare ((List.range 65).flatMap (fun i => [(i, 1), (i, 2), (i, 3)]))
  rw [hend]
  have heq := hclosed.eq
  refine ⟨?_, ?_, ?_, fun m x hx => ?_⟩
  · exact (congrArg State.flds heq :)
  · exact (congrArg State.mem heq :)
  · exact (congrArg State.now heq :)
  · obtain ⟨y, hy, hw, hn, hst⟩ := hclosed.ctx m x hx
    obtain ⟨z, hz, -⟩ := ht.ctx m x hx
    exact ⟨y, hy, hw, hn, hst, hheld m (List.mem_map.mpr ⟨(m, z), SMap.mem_of_get hz, rfl⟩) y hy⟩

/-- At a period's end the weights of the next period hold. -/
theorem does_accountingPeriod {s : State} (hdue : s.sched.periodStart + rd s .TP_CFG_PERIOD * 100000 ≤ s.now) :
    Does .accountingPeriod s (fun t => t.sched.periodStart = s.now ∧ t.flds = s.flds ∧ t.mem = s.mem ∧
      ∀ m x, getCtx s m = some x → ∃ y : Ctx, getCtx t m = some y ∧ y.weight = x.nextWeight.getD x.weight ∧ y.nextWeight = none ∧ y.st = x.st ∧ y.held = 0) := by
  obtain ⟨hflds, hmem, hnow, hctx⟩ := periodShared_spec s
  obtain ⟨hstart, hflds', hmem', hopen⟩ := openPeriod_spec (periodShared s)
  refine ⟨_, execAccountingPeriod_due hdue, hstart.trans hnow, hflds'.trans hflds, hmem'.trans hmem, fun m x hx => ?_⟩
  obtain ⟨y, hy, hw, hn, hst, hheld⟩ := hctx m x hx
  exact ⟨nextPeriod y, hopen m y hy, by rw [nextPeriod, hn, hw], rfl, hst, hheld⟩

end Sys2Proof.Machine
end

section
/-! SUPPORT. What reads and writes of the deck's arrays leave: the engines' queues, the instances, a fence under way; and, where no line is marked, every
register field (R227-R229, R237-R241). -/

namespace Sys2Proof.Machine

/-- The queues and sub-queues of the deck engines stand, and so do the instances and a fence under way. -/
structure KeepsQueues (s t : State) : Prop where
  queue : ∀ ch, (getChan t ch).queue = (getChan s ch).queue
  sub : ∀ ch, (getChan t ch).sub = (getChan s ch).sub
  inst : t.inst = s.inst
  fencing : t.rel.fencing = s.rel.fencing

namespace KeepsQueues

variable {s t u : State}

theorem of_chans (hchans : t.deck.chans = s.deck.chans) (hinst : t.inst = s.inst) (hfencing : t.rel.fencing = s.rel.fencing) : KeepsQueues s t := by
  have hchan : ∀ ch, getChan t ch = getChan s ch := fun ch => by rw [getChan, hchans]; rfl
  exact ⟨fun ch => by rw [hchan], fun ch => by rw [hchan], hinst, hfencing⟩

theorem refl (s : State) : KeepsQueues s s := .of_chans rfl rfl rfl

theorem trans (h : KeepsQueues s t) (k : KeepsQueues t u) : KeepsQueues s u :=
  ⟨fun ch => (k.queue ch).trans (h.queue ch), fun ch => (k.sub ch).trans (h.sub ch), k.inst.trans h.inst, k.fencing.trans h.fencing⟩

/-- Register fields are no part of it. -/
theorem wr (h : KeepsQueues s t) (f : Fld) (i v : Nat) : KeepsQueues s (wr t f i v) := h.trans (.of_chans rfl rfl rfl)

theorem ite (h : KeepsQueues s t) {c : Prop} [Decidable c] (k : KeepsQueues t u) : KeepsQueues s (if c then u else t) := by
  split
  · exact h.trans k
  · exact h

theorem ite_not (h : KeepsQueues s t) {c : Prop} [Decidable c] (k : KeepsQueues t u) : KeepsQueues s (if c then t else u) := by
  split
  · exact h
  · exact h.trans k

/-- A channel whose queues stand. -/
theorem setChan {ch : Nat} {x : Chan} (hqueue : x.queue = (getChan s ch).queue) (hsub : x.sub = (getChan s ch).sub) : KeepsQueues s (setChan s ch x) := by
  refine ⟨fun d => ?_, fun d => ?_, rfl, rfl⟩ <;>
    · rw [getChan_setChan]
      split
      · next h => rw [h]; assumption
      · rfl

theorem each {α : Type} {f : State → α → State} (h : ∀ t a, KeepsQueues t (f t a)) (l : List α) (s : State) : KeepsQueues s (each l f s) :=
  each_keeps (P := KeepsQueues s) l f (fun t a _ ht => ht.trans (h t a)) s (.refl s)

end KeepsQueues

/-! ### Error records (R237-R241) -/

theorem logErr_keepsQueues (s : State) (r : ErrRec) : KeepsQueues s (logErr s r) := by
  unfold logErr
  extract_lets j _ t u
  have ht : KeepsQueues s t := .of_chans rfl rfl rfl
  exact (ht.wr _ _ _).ite ((KeepsQueues.refl u).wr _ _ _)

theorem retirePage_keepsQueues (s : State) (page reason : Nat) : KeepsQueues s (retirePage s page reason) := by
  unfold retirePage
  extract_lets n r t u v
  have hu : KeepsQueues s u := ((((KeepsQueues.refl s).wr _ _ _).wr _ _ _).wr _ _ _).wr _ _ _
  have hv : KeepsQueues s v := hu.ite ((KeepsQueues.refl u).wr _ _ _)
  split
  · exact ((KeepsQueues.refl s).wr _ _ _).trans (logErr_keepsQueues _ _)
  · have hretired : KeepsQueues v { v with deck := { v.deck with retired := v.deck.retired ++ [page] } } := .of_chans rfl rfl rfl
    exact (hv.trans hretired).trans (logErr_keepsQueues _ r)

theorem pageCandidate_keepsQueues (s : State) (page reason : Nat) : KeepsQueues s (pageCandidate s page reason) := by
  unfold pageCandidate
  split
  · exact .refl s
  · split
    · extract_lets _ t
      have ht : KeepsQueues s t := .of_chans rfl rfl rfl
      exact (ht.wr _ _ _).trans (logErr_keepsQueues _ _)
    · exact retirePage_keepsQueues s page reason

theorem lineUncorrectable_keepsQueues (s : State) (loc : Nat) (mark : Bool) : KeepsQueues s (lineUncorrectable s loc mark) := by
  unfold lineUncorrectable
  extract_lets ch t u
  have hu : KeepsQueues s u := (((KeepsQueues.refl s).wr _ _ _).wr _ _ _).trans (logErr_keepsQueues t _)
  exact hu.ite_not (pageCandidate_keepsQueues u _ _)

theorem logCorrected_keepsQueues (s : State) (unit : Nat) (r : ErrRec) : KeepsQueues s (logCorrected s unit r) := by
  have hcorr : ∀ l, KeepsQueues s { s with rel := { s.rel with corr := l } } := fun l => .of_chans rfl rfl rfl
  unfold logCorrected
  split
  · split
    · exact (hcorr _).trans (logErr_keepsQueues _ _)
    · exact hcorr _
  · exact (hcorr _).trans (logErr_keepsQueues _ _)

theorem lineCorrected_keepsQueues (s : State) (loc lane : Nat) : KeepsQueues s (lineCorrected s loc lane) := by
  unfold lineCorrected
  extract_lets ch page t u c lp v x w e deck e' y
  have hu : KeepsQueues s u := (((KeepsQueues.refl s).wr _ _ _).wr _ _ _).trans (logCorrected_keepsQueues t _ _)
  have hv : KeepsQueues u v := .setChan rfl rfl
  have hdeg : KeepsQueues v (setChan v ch { getChan v ch with degraded := c.degraded ++ [lane] }) := .setChan rfl rfl
  have hw : KeepsQueues v w := (KeepsQueues.refl v).ite ((hdeg.wr _ _ _).trans (logErr_keepsQueues _ _))
  have herrs : ∀ l, KeepsQueues w { w with deck := { w.deck with errs := l } } := fun l => .of_chans rfl rfl rfl
  refine hu.ite_not ((hv.trans hw).trans ?_)
  split
  · exact (herrs _).trans (pageCandidate_keepsQueues _ _ _)
  · exact (herrs _).ite (pageCandidate_keepsQueues y _ _)

/-- A read of the arrays, whatever it meets. -/
theorem arrayRead_keepsQueues (s : State) (loc : Nat) (out : EccOut) : KeepsQueues s (arrayRead s loc out).2 := by
  have hmark : ∀ m, KeepsQueues s (setMark s loc m) := fun m => .of_chans rfl rfl rfl
  unfold arrayRead
  split
  · exact lineUncorrectable_keepsQueues s loc false
  · exact (KeepsQueues.refl s).wr _ _ _
  · exact ((KeepsQueues.refl s).wr _ _ _).trans (lineUncorrectable_keepsQueues _ loc true)
  · exact .refl s
  · exact (hmark _).trans (lineCorrected_keepsQueues _ _ _)
  · exact (hmark _).trans (lineUncorrectable_keepsQueues _ loc false)

/-! ### Writes of context memory (R227-R229) -/

/-- Where no line is marked, register fields stand, and no line becomes marked. -/
def Unmarked (s t : State) : Prop := (∀ n, getMark s n = none) → t.flds = s.flds ∧ ∀ n, getMark t n = none

/-- What a write leaves. -/
structure Writes (s t : State) : Prop where
  queues : KeepsQueues s t
  sched : KeepsSched s t
  wm : t.wm = s.wm
  unmarked : Unmarked s t

namespace Writes

variable {s t u : State}

theorem refl (s : State) : Writes s s := ⟨.refl s, .refl s, rfl, fun h => ⟨rfl, h⟩⟩

theorem trans (h : Writes s t) (k : Writes t u) : Writes s u := by
  refine ⟨h.queues.trans k.queues, h.sched.trans k.sched, k.wm.trans h.wm, fun hnone => ?_⟩
  obtain ⟨hflds, ht⟩ := h.unmarked hnone
  obtain ⟨hflds', hu⟩ := k.unmarked ht
  exact ⟨hflds'.trans hflds, hu⟩

theorem ite (h : Writes s t) {c : Prop} [Decidable c] (k : Writes t u) : Writes s (if c then u else t) := by
  split
  · exact h.trans k
  · exact h

theorem ite_not (h : Writes s t) {c : Prop} [Decidable c] (k : Writes t u) : Writes s (if c then t else u) := by
  split
  · exact h
  · exact h.trans k

theorem each {α : Type} {f : State → α → State} (h : ∀ t a, Writes t (f t a)) (l : List α) (s : State) : Writes s (each l f s) :=
  each_keeps (P := Writes s) l f (fun t a _ ht => ht.trans (h t a)) s (.refl s)

/-- Memory, messages and free values are no part of it. -/
theorem of_eq (hdeck : t.deck = s.deck) (hinst : t.inst = s.inst) (hrel : t.rel = s.rel) (hsched : t.sched = s.sched) (hcores : t.cores = s.cores) (hwm : t.wm = s.wm)
    (hflds : t.flds = s.flds) : Writes s t := by
  have hmark : ∀ n, getMark t n = getMark s n := fun n => by rw [getMark, hdeck]; rfl
  exact ⟨.of_chans (by rw [hdeck]) hinst (by rw [hrel]), .of_eq hsched hcores, hwm, fun h => ⟨hflds, fun n => (hmark n).trans (h n)⟩⟩

/-- A channel whose queues stand. -/
theorem setChan {ch : Nat} {x : Chan} (hqueue : x.queue = (getChan s ch).queue) (hsub : x.sub = (getChan s ch).sub) : Writes s (setChan s ch x) :=
  ⟨.setChan hqueue hsub, .of_eq rfl rfl, rfl, fun h => ⟨rfl, h⟩⟩

end Writes

theorem useSlot_writes (s : State) (ch : Nat) (q : QClass) (half : Nat) : Writes s (useSlot s ch q half) := by
  unfold useSlot
  extract_lets c r fill c'
  have hc' : c'.queue = c.queue ∧ c'.sub = c.sub := by
    unfold c'
    split <;> exact ⟨rfl, rfl⟩
  split
  · exact .setChan rfl rfl
  · clear_value c' fill r
    cases r <;> exact .setChan hc'.1 hc'.2

theorem arrayRead_ok_writes (s : State) (loc : Nat) : Writes s (arrayRead s loc .ok).2 := by
  obtain ⟨hkeeps, hnone⟩ := arrayRead_ok_keepsButRecords s loc
  refine ⟨arrayRead_keepsQueues s loc .ok, hkeeps.keepsSched, by rw [hkeeps.eq], fun h => ?_⟩
  rw [hnone (h loc)]
  exact ⟨rfl, h⟩

/-- A mark taken away, or one that marks what was marked. -/
theorem setMark_writes {s : State} {loc : Nat} {m : Option Mark} (hm : getMark s loc = none → m = none) : Writes s (setMark s loc m) := by
  refine ⟨.of_chans rfl rfl rfl, .of_eq rfl rfl, rfl, fun h => ⟨rfl, fun n => ?_⟩⟩
  rw [hm (h loc)]
  exact (SMap.get_del _ _ _).trans (by rw [show SMap.get s.deck.marks n = none from h n, ite_self])

theorem flushWcb_writes (s : State) (loc : Nat) : Writes s (flushWcb s loc) := by
  unfold flushWcb flushAs
  split
  · exact .refl s
  · extract_lets full t u m v
    have ht : Writes s t := (Writes.refl s).ite_not (arrayRead_ok_writes s loc)
    have hu : Writes t u := useSlot_writes t _ _ _
    have hv : Writes u v := by
      have hmem : ∀ l, Writes u { u with mem := l } := fun l => .of_eq rfl rfl rfl rfl rfl rfl rfl
      exact (hmem _).trans (.setChan rfl rfl)
    refine ((ht.trans hu).trans hv).trans (setMark_writes fun h => ?_)
    have hm : m = none := h
    split
    · rfl
    · rw [hm]; rfl

theorem putDeck_writes (s : State) (loc : Nat) (l : Line) : Writes s (putDeck s loc l) := by
  unfold putDeck
  extract_lets t
  have ht : Writes s t := (Writes.refl s).ite (.setChan rfl rfl)
  have hmem : ∀ l, Writes t { t with mem := l } := fun l => .of_eq rfl rfl rfl rfl rfl rfl rfl
  exact (ht.trans (hmem _)).trans (setMark_writes fun _ => rfl)

theorem combine_writes (s : State) (loc : Nat) (data : Line) (mask : BitVec 64) (writer : Nat) : Writes s (combine s loc data mask writer) := by
  unfold combine
  split
  · exact putDeck_writes s loc data
  · extract_lets t ch c u c'
    have ht : Writes s t := by
      unfold t
      split
      · exact setMark_writes fun _ => rfl
      · exact .refl s
    split
    · have hset : ∀ l, Writes t (setChan t ch { c with wcb := l }) := fun l => .setChan rfl rfl
      exact ht.trans ((hset _).ite (flushWcb_writes _ loc))
    · have hu : Writes t u := by
        unfold u
        split
        · split
          · exact flushWcb_writes t _
          · exact .refl t
        · exact .refl t
      exact (ht.trans hu).trans (.setChan rfl rfl)

theorem orderWrite_writes (s : State) (line : Nat) (data : Line) (mask : BitVec 64) (writer : Nat) : Writes s (orderWrite s line data mask writer) := by
  have hsched := orderWrite_keepsSched s line data mask writer
  suffices h : KeepsQueues s (orderWrite s line data mask writer) ∧ (orderWrite s line data mask writer).wm = s.wm ∧ Unmarked s (orderWrite s line data mask writer) from
    ⟨h.1, hsched, h.2.1, h.2.2⟩
  unfold orderWrite
  extract_lets hd here upd full msg _ t
  have ht : KeepsQueues s t ∧ Unmarked s t := ⟨.of_chans rfl rfl rfl, fun h => ⟨rfl, h⟩⟩
  have hthen : ∀ {v}, Writes t v → KeepsQueues s v ∧ v.wm = s.wm ∧ Unmarked s v := fun hv =>
    ⟨ht.1.trans hv.queues, hv.wm, fun h => by
      obtain ⟨hflds, hnone⟩ := hv.unmarked (ht.2 h).2
      exact ⟨hflds, hnone⟩⟩
  split
  · refine hthen (setMark_writes fun h => ?_)
    rw [h]
  · exact hthen (combine_writes t _ _ _ _)

theorem winMark_writes (s : State) (a n : Nat) : Writes s (winMark s a n) := ⟨.of_chans rfl rfl rfl, winMark_keepsSched s a n, rfl, fun h => ⟨rfl, h⟩⟩

theorem orderWriteBytes_writes (s : State) (a : Nat) (bs : List Byte) (writer : Nat) : Writes s (orderWriteBytes s a bs writer) := by
  have hmem : ∀ l, Writes s { s with mem := l } := fun l => .of_eq rfl rfl rfl rfl rfl rfl rfl
  unfold orderWriteBytes
  split
  · exact (hmem _).trans (winMark_writes _ _ _)
  · exact .each (fun _ _ => orderWrite_writes _ _ _ _ _) _ s

end Sys2Proof.Machine
end

section
/-! SUPPORT. The save of a core (R347-R349) and its image's way to the pool. -/

namespace Sys2Proof.Machine

/-! ### Writes where no channel combines (R228, R229) -/

/-- Register fields as in `s`, and no entry in a write-combining buffer. -/
def NoWcb (s t : State) : Prop := t.flds = s.flds ∧ ∀ ch, (getChan t ch).wcb = []

theorem orderWrite_cases (s : State) (line : Nat) (data : Line) (mask : BitVec 64) (writer : Nat) :
    ∃ t : State, t.flds = s.flds ∧ t.deck = s.deck ∧
      ((∃ m, orderWrite s line data mask writer = setMark t (locLine line) m) ∨ orderWrite s line data mask writer = combine t (locLine line) data mask writer) := by
  unfold orderWrite
  extract_lets hd here upd full msg _ t
  refine ⟨t, rfl, rfl, ?_⟩
  split
  · exact .inl ⟨_, rfl⟩
  · exact .inr rfl

/-- A full line passes the buffers. -/
theorem orderWrite_full {s t : State} (h : NoWcb s t) (line : Nat) (data : Line) (writer : Nat) : NoWcb s (orderWrite t line data (BitVec.allOnes 64) writer) := by
  obtain ⟨hflds, hwcb⟩ := h
  obtain ⟨u, hu, hdeck, ⟨m, hw⟩ | hw⟩ := orderWrite_cases t line data (BitVec.allOnes 64) writer
  all_goals
    have hchan : ∀ ch, (getChan u ch).wcb = [] := fun ch => by rw [getChan, hdeck]; exact hwcb ch
    rw [hw]
  · exact ⟨hu.trans hflds, hchan⟩
  · have hget : getWcb u (locLine line) = none := by simp [getWcb, hchan]
    simp only [combine, putDeck, hget, if_true, Option.isSome_none, Bool.false_eq_true, if_false]
    exact ⟨hu.trans hflds, hchan⟩

/-- The first entry of a buffer flushes none. -/
theorem orderWrite_flds {s t : State} (h : NoWcb s t) (line : Nat) (data : Line) (mask : BitVec 64) (writer : Nat) : (orderWrite t line data mask writer).flds = s.flds := by
  by_cases hfull : mask = BitVec.allOnes 64
  · rw [hfull]; exact (orderWrite_full h line data writer).1
  · obtain ⟨hflds, hwcb⟩ := h
    obtain ⟨u, hu, hdeck, ⟨m, hw⟩ | hw⟩ := orderWrite_cases t line data mask writer
    · rw [hw]; exact hu.trans hflds
    · rw [hw]
      unfold combine
      rw [if_neg hfull]
      extract_lets v ch c w c'
      have hv : v.flds = u.flds ∧ v.deck.chans = u.deck.chans := by
        unfold v
        split <;> exact ⟨rfl, rfl⟩
      have hc : c.wcb = [] := by
        show (v.deck.chans.getD ch {}).wcb = []
        rw [hv.2, hdeck]
        exact hwcb ch
      have hw : w = v := by simp [w, hc]
      split
      · next e he => simp [hc] at he
      · show w.flds = s.flds
        rw [hw, hv.1, hu, hflds]

/-- Every piece of bytes that begin a line is a full line, but the last. -/
theorem linePieces_full {a : Nat} (ha : a % 64 = 0) {bs : List Byte} (hbs : bs ≠ []) :
    ∃ (l : List (Nat × BitVec 64 × Line)) (p : Nat × BitVec 64 × Line), linePieces a bs = l ++ [p] ∧ ∀ q ∈ l, q.2.1 = BitVec.allOnes 64 := by
  have hlen : bs.length ≠ 0 := by simpa using hbs
  simp only [linePieces, hlen, if_false, List.range_succ, List.map_append, List.map_cons, List.map_nil]
  refine ⟨_, _, rfl, fun q hq => ?_⟩
  obtain ⟨j, hj, rfl⟩ := List.mem_map.mp hq
  have hj' := List.mem_range.mp hj
  have hlo : max a ((a / 64 + j) * 64) = (a / 64 + j) * 64 := by omega
  have hhi : min (a + bs.length) ((a / 64 + j) * 64 + 64) = (a / 64 + j) * 64 + 64 := by omega
  simp only [hlo, hhi, Nat.add_sub_cancel_left, Nat.sub_self]
  rfl

/-- Bytes that begin a line move no register field where nothing combines. -/
theorem orderWriteBytes_flds {s : State} {a : Nat} (ha : a % 64 = 0) (hwcb : ∀ ch, (getChan s ch).wcb = []) (bs : List Byte) (writer : Nat) :
    (orderWriteBytes s a bs writer).flds = s.flds := by
  unfold orderWriteBytes
  split
  · rfl
  · by_cases hbs : bs = []
    · simp [hbs, linePieces]
    · obtain ⟨l, p, hpieces, hfull⟩ := linePieces_full ha hbs
      rw [hpieces, each, List.foldl_append]
      have hl : NoWcb s (each l (fun s p => orderWrite s p.1 p.2.2 p.2.1 writer) s) :=
        each_keeps (P := NoWcb s) l _ (fun t q hq ht => by rw [hfull q hq]; exact orderWrite_full ht _ _ _) s ⟨rfl, hwcb⟩
      exact orderWrite_flds hl _ _ _ _

/-! ### The image (R347-R349) -/

theorem imageOut_magic (i : SaveImg) (resumes : Nat) : (imageOut i resumes).take 4 = natLe 4 0x45564153 := by
  have hlen : 64 ≤ imageBytes i := by simp only [imageBytes]; omega
  have hhead : ∀ l : List Byte, ((natLe 4 0x45564153 ++ l).take 64).take 4 = natLe 4 0x45564153 := fun l => by
    rw [List.take_take]
    exact List.take_left' (length_natLe 4 _)
  simp only [imageOut, imageHeader, Nat.min_eq_left hlen, List.append_assoc]
  rw [List.take_append_of_le_length, hhead]
  simp only [List.length_take, List.length_append, length_natLe]
  omega

theorem slotAt_line (s : State) (k : Nat) : slotAt s k % 64 = 0 := by unfold slotAt; omega

/-- Slots of channels taken move neither memory nor a register field nor a core. -/
theorem useSlot_store (s : State) (ch : Nat) (q : QClass) (half : Nat) :
    (useSlot s ch q half).mem = s.mem ∧ (useSlot s ch q half).flds = s.flds ∧ (useSlot s ch q half).cores = s.cores := by
  unfold useSlot
  dsimp only
  split <;> exact ⟨rfl, rfl, rfl⟩

theorem saveSlots_store (s : State) (c : Nat) (i : SaveImg) : (saveSlots s c i).mem = s.mem ∧ (saveSlots s c i).flds = s.flds ∧ (saveSlots s c i).cores = s.cores := by
  unfold saveSlots
  exact each_keeps (P := fun t => t.mem = s.mem ∧ t.flds = s.flds ∧ t.cores = s.cores) _ _ (fun t ch _ ht => by
    obtain ⟨hmem, hflds, hcores⟩ := useSlot_store t ch .bulk _
    exact ⟨hmem.trans ht.1, hflds.trans ht.2.1, hcores.trans ht.2.2⟩) s ⟨rfl, rfl, rfl⟩

theorem saveSlots_writes (s : State) (c : Nat) (i : SaveImg) : Writes s (saveSlots s c i) := .each (fun t ch => useSlot_writes t ch .bulk _) _ s

/-- A core whose descriptors and walks go keeps what combines in the channels. -/
theorem dropWalks_dropDescs_wcb (s : State) (c ch : Nat) : (getChan (dropWalks (dropDescs s c) c) ch).wcb = (getChan s ch).wcb := by
  show (getChan (dropDescs s c) ch).wcb = _
  unfold dropDescs
  split
  · rfl
  · extract_lets gone
    refine each_keeps (P := fun t => ∀ d, (getChan t d).wcb = (getChan s d).wcb) _ _ (fun t e _ ht d => ?_) s (fun _ => rfl) ch
    rw [getChan_setChan]
    split
    · next h => rw [h]; exact ht e
    · exact ht d

/-- A group in an image: its counts go on from where they stood. -/
def savedGroup (s : State) (c : Nat) (x : Group) : Group :=
  { x with wpCyc := cycles s (coreHalf c) - x.wpCyc, yieldCyc := cycles s (coreHalf c) - x.yieldCyc, stopped := false }

theorem saveImage_groups (s : State) (c top k : Nat) : (saveImage s c top).groups.get k = ((getCore s c).groups.get k).map (savedGroup s c) :=
  SMap.get_mapV (getCore s c).groups (fun _ => savedGroup s c) k

/-! ### The save (R347) -/

/-- The block of a saved image. -/
def savedBlock (b : Block) (c slot : Nat) (i : SaveImg) : Block := { b with st := .saved, left := c, loftTop := max b.loftTop i.loftSaved, slot := slot }

/-- The scheduler knows of the image. -/
def imageKnown (t : State) (c id slot : Nat) (b : Block) (i : SaveImg) : State :=
  { t with sched := { t.sched with images := t.sched.images.put id i, blocks := t.sched.blocks.put id (savedBlock b c slot i) } }

theorem imageKnown_keeps (t : State) (c id slot : Nat) (b : Block) (i : SaveImg) :
    (imageKnown t c id slot b i).flds = t.flds ∧ (imageKnown t c id slot b i).mem = t.mem ∧ (imageKnown t c id slot b i).inst = t.inst ∧ (imageKnown t c id slot b i).rel = t.rel :=
  ⟨rfl, rfl, rfl, rfl⟩

/-- The image is in the pool. -/
def imageWritten (s : State) (c id slot : Nat) (b : Block) : State :=
  imageKnown (writeImage (dropWalks (dropDescs s c) c) slot (saveImage s c b.loftTop) b.resumes) c id slot b (saveImage s c b.loftTop)

/-- The image has passed the channels and been charged. -/
def imagePaid (s : State) (c n id slot : Nat) (b : Block) : State :=
  toll (saveSlots (imageWritten s c id slot b) c (saveImage s c b.loftTop)) n 4 ((imageBytes (saveImage s c b.loftTop) + 63) / 64 * 64)

section
variable {s : State} {c n id slot : Nat} {b : Block} (hctx : (getCore s c).ctx = some n)
  (hquiet : contributed s c = [] ∧ ∀ e ∈ s.deck.chans, ∀ w ∈ e.2.wcb, c ∉ w.writers) (hfencing : s.rel.fencing = none) (hinst : s.inst.cores.get c = none)
  (hblocks : (getCore s c).blocks = [id]) (hb : s.sched.blocks.get id = some b) (hsaved : savedUp s c = true) (hpasses : savePasses s c = true)

include hctx hquiet hblocks hb hsaved hpasses in
/-- Without a slot the save waits. -/
theorem does_preemptSave_waits (hslot : freeSlot s (((getCtx s n).map (·.inst)).getD 0) = none) : Does (.preemptSave c) s (fun t => t = s) := by
  refine ⟨_, ?_, rfl⟩
  show execPreemptSave c s = _
  simp only [execPreemptSave, hctx, hblocks, hsaved, hpasses, hquiet.1, hb, hslot, Bool.not_true, Bool.or_self, Bool.false_eq_true, if_false, List.isEmpty_nil]

include hctx hquiet hblocks hb hsaved hpasses in
theorem execPreemptSave_saves (hslot : freeSlot s (((getCtx s n).map (·.inst)).getD 0) = some slot) :
    execPreemptSave c s = .next (freeCore (imagePaid s c n id slot b) c) := by
  obtain ⟨hcontr, hwcb⟩ := hquiet
  simp only [execPreemptSave, hctx, hblocks, hsaved, hpasses, hcontr, hb, hslot, relStart_of_quiet hcontr hwcb, Bool.not_true, Bool.or_self, Bool.false_eq_true, if_false,
    List.isEmpty_nil]
  rfl

include hfencing hinst in
/-- What the image's write leaves. -/
theorem imageWritten_spec : (imageWritten s c id slot b).rel.fencing = none ∧ (imageWritten s c id slot b).inst.cores.get c = none ∧
    (imageWritten s c id slot b).sched.blocks.get id = some (savedBlock b c slot (saveImage s c b.loftTop)) ∧
    (imageWritten s c id slot b).sched.images.get id = some (saveImage s c b.loftTop) ∧ (s.deck.chans = [] → (imageWritten s c id slot b).flds = s.flds) := by
  obtain ⟨-, -, -, hflds⟩ := dropWalks_dropDescs_keeps s c
  have hdropped : (dropWalks (dropDescs s c) c).inst = s.inst ∧ (dropWalks (dropDescs s c) c).rel = s.rel := by
    simp only [dropWalks]
    rw [dropDescs_eq]
    exact ⟨rfl, rfl⟩
  have hwcb := dropWalks_dropDescs_wcb s c
  unfold imageWritten
  generalize saveImage s c b.loftTop = i
  generalize dropWalks (dropDescs s c) c = u at *
  have hqueues : KeepsQueues u (writeImage u slot i b.resumes) := (orderWriteBytes_writes u _ _ _).queues
  have hsaved : s.deck.chans = [] → (writeImage u slot i b.resumes).flds = u.flds := fun hchans =>
    orderWriteBytes_flds (slotAt_line u slot) (fun ch => by
      rw [hwcb, getChan, hchans]
      rfl) _ _
  generalize writeImage u slot i b.resumes = w at *
  obtain ⟨hkflds, -, hkinst, hkrel⟩ := imageKnown_keeps w c id slot b i
  rw [hkflds, hkinst, hkrel, hqueues.fencing, hqueues.inst, hdropped.1, hdropped.2]
  exact ⟨hfencing, hinst, SMap.get_put_self _ _ _, SMap.get_put_self _ _ _, fun hchans => (hsaved hchans).trans hflds⟩

/-- Slots and charges are the image's only price. -/
theorem pay_keeps (w : State) (i : SaveImg) (c n k : Nat) :
    (toll (saveSlots w c i) n 4 k).rel.fencing = w.rel.fencing ∧ (toll (saveSlots w c i) n 4 k).inst = w.inst ∧ (toll (saveSlots w c i) n 4 k).sched.blocks = w.sched.blocks ∧
      (toll (saveSlots w c i) n 4 k).sched.images = w.sched.images ∧ (toll (saveSlots w c i) n 4 k).mem = w.mem ∧ (toll (saveSlots w c i) n 4 k).flds = w.flds := by
  obtain ⟨hqueues, ⟨hsched, -⟩, -⟩ := saveSlots_writes w c i
  obtain ⟨hmem, hflds, -⟩ := saveSlots_store w c i
  generalize saveSlots w c i = x at *
  have hpaid := (toll_charges x n 4 k).eq
  have hx : ∀ {α : Type} (f : State → α), f (toll x n 4 k) = f { x with freeCtr := (toll x n 4 k).freeCtr, cores := (toll x n 4 k).cores, sched := { x.sched with
      ctxs := (toll x n 4 k).sched.ctxs, instTolls := (toll x n 4 k).sched.instTolls } } := fun f => congrArg f hpaid
  exact ⟨(hx (·.rel.fencing)).trans hqueues.fencing, (hx (·.inst)).trans hqueues.inst, (hx (·.sched.blocks)).trans (congrArg Sched.blocks hsched :),
    (hx (·.sched.images)).trans (congrArg Sched.images hsched :), (hx (·.mem)).trans hmem, (hx (·.flds)).trans hflds⟩

include hctx hquiet hfencing hinst hblocks hb hsaved hpasses in
/-- The save leaves an image in the slot and a free core. -/
theorem does_preemptSave_saves (hslot : freeSlot s (((getCtx s n).map (·.inst)).getD 0) = some slot) :
    Does (.preemptSave c) s (fun t => (getCore t c).ctx = none ∧ (getCore t c).groups = [] ∧
      (∃ k : Block, t.sched.blocks.get id = some k ∧ k.st = .saved ∧ k.left = c ∧ k.ctx = b.ctx ∧ k.number = b.number ∧ k.slot = slot) ∧
      (∃ i : SaveImg, t.sched.images.get id = some i ∧ i.source = c ∧ (∀ k x, (getCore s c).groups.get k = some x → ∃ y : Group, i.groups.get k = some y ∧ SameRegs x y) ∧
        (imageOut i b.resumes).take 4 = natLe 4 0x45564153 ∧ ∃ p : State, p.mem = s.mem ∧ p.flds = s.flds ∧ t.mem = (writeImage p slot i b.resumes).mem) ∧
      (s.deck.chans = [] → t.flds = s.flds)) := by
  refine ⟨_, execPreemptSave_saves hctx hquiet hblocks hb hsaved hpasses hslot, ?_⟩
  obtain ⟨hfencing', hinst', hblock, himage, hflds⟩ := imageWritten_spec (id := id) (slot := slot) (b := b) hfencing hinst
  obtain ⟨hpfencing, hpinst, hpblk, hpimg, hpmem, hpflds⟩ :=
    pay_keeps (imageWritten s c id slot b) (saveImage s c b.loftTop) c n ((imageBytes (saveImage s c b.loftTop) + 63) / 64 * 64)
  obtain ⟨hidle, hgroups, hmem, hflds', -, hblk, -, himg⟩ := freeCore_freed (s := imagePaid s c n id slot b) (hpfencing.trans hfencing')
    ((congrArg (fun q : InstS => q.cores.get c) hpinst :).trans hinst')
  obtain ⟨-, -, hmem0, hflds0⟩ := dropWalks_dropDescs_keeps s c
  refine ⟨hidle, hgroups, ⟨savedBlock b c slot (saveImage s c b.loftTop), ?_, rfl, rfl, rfl, rfl, rfl⟩, ⟨saveImage s c b.loftTop, ?_, rfl, fun k x hx => ?_, imageOut_magic _ _,
    dropWalks (dropDescs s c) c, hmem0, hflds0, ?_⟩, fun hchans => ?_⟩
  · rw [hblk, imagePaid, hpblk, hblock]
  · rw [himg, imagePaid, hpimg, himage]
  · rw [saveImage_groups, hx]
    exact ⟨savedGroup s c x, rfl, rfl, rfl, rfl, rfl⟩
  · rw [hmem, imagePaid, hpmem, imageWritten, (imageKnown_keeps _ _ _ _ _ _).2.1]
  · rw [hflds', imagePaid, hpflds, hflds hchans]

end

end Sys2Proof.Machine
end

section
/-! SUPPORT. The reload of a saved block (R347, R348): what its waits, armed again, leave; and O43. -/

namespace Sys2Proof.Machine

/-! ### Where blocks stand -/

/-- Blocks and images, and what each core holds, are as they were. -/
structure KeepsPlace (s t : State) : Prop where
  blocks : t.sched.blocks = s.sched.blocks
  images : t.sched.images = s.sched.images
  core : ∀ c, (getCore t c).ctx = (getCore s c).ctx ∧ (getCore t c).blocks = (getCore s c).blocks

namespace KeepsPlace

variable {s t u : State}

theorem of_eq (hsched : t.sched = s.sched) (hcores : t.cores = s.cores) : KeepsPlace s t :=
  ⟨by rw [hsched], by rw [hsched], fun c => by rw [getCore, hcores]; exact ⟨rfl, rfl⟩⟩

theorem refl (s : State) : KeepsPlace s s := .of_eq rfl rfl

theorem trans (h : KeepsPlace s t) (k : KeepsPlace t u) : KeepsPlace s u :=
  ⟨k.blocks.trans h.blocks, k.images.trans h.images, fun c => ⟨(k.core c).1.trans (h.core c).1, (k.core c).2.trans (h.core c).2⟩⟩

/-- A core that holds what it held. -/
theorem setCore {c : Nat} {k : Core} (hctx : k.ctx = (getCore s c).ctx) (hblocks : k.blocks = (getCore s c).blocks) : KeepsPlace s (setCore s c k) := by
  refine ⟨rfl, rfl, fun d => ?_⟩
  rw [getCore_setCore]
  split
  · next h => rw [h]; exact ⟨hctx, hblocks⟩
  · exact ⟨rfl, rfl⟩

theorem setGroup (s : State) (g : Grp) (x : Group) : KeepsPlace s (setGroup s g x) := .setCore rfl rfl

theorem each {α : Type} {f : State → α → State} (h : ∀ t a, KeepsPlace t (f t a)) (l : List α) (s : State) : KeepsPlace s (each l f s) :=
  each_keeps (P := KeepsPlace s) l f (fun t a _ ht => ht.trans (h t a)) s (.refl s)

end KeepsPlace

theorem raiseFault_keepsPlace (s : State) (f : FaultRec) : KeepsPlace s (raiseFault s f) := by
  unfold raiseFault
  extract_lets _ t
  have ht : KeepsPlace s t := ⟨rfl, rfl, fun _ => ⟨rfl, rfl⟩⟩
  have hhalt : ∀ (u : State) (c : Nat), KeepsPlace u (setCore u c { getCore u c with halted := true }) := fun _ _ => .setCore rfl rfl
  exact ht.trans (.each hhalt _ t)

theorem pathFault_keepsPlace (s : State) (g : Grp) (code detail : Nat) (insn addr : Option Nat) (m : W32) (pc : W64) :
    KeepsPlace s (pathFault s g code detail insn addr m pc) := by
  unfold pathFault
  split
  · exact raiseFault_keepsPlace s _
  · exact .refl s

theorem finish_keepsPlace (s : State) (g : Grp) (r : Group × Option (Nat × Nat)) : KeepsPlace s (finish s g r) := by
  have hset : KeepsPlace s (setGroup s g r.1) := .setGroup s g _
  unfold finish
  split
  · exact hset
  · exact hset.trans (pathFault_keepsPlace _ _ _ _ _ _ _ _)
  · unfold groupFault
    split
    · exact hset.trans (pathFault_keepsPlace _ _ _ _ _ _ _ _)
    · exact hset

theorem endWait_keepsPlace (s : State) (g : Grp) (x : Group) (p : Path) (w : WaitRec) : KeepsPlace s (endWait s g x p w) := by
  refine .trans (t := (if w.acq = 3 then startAdvance s ((getCore s g.core).ctx.getD 0) else (s, false)).1) ?_ (finish_keepsPlace _ g _)
  split
  · rw [startAdvance_eq]; exact .of_eq rfl rfl
  · exact .refl s

theorem setGate_keepsPlace (s : State) (c at_ : Nat) : KeepsPlace s (setGate s c at_) := by
  unfold setGate
  extract_lets k
  split
  · exact .refl s
  · exact .setCore rfl rfl

theorem waitHit_keepsPlace (s : State) (g : Grp) (p : Path) (w : WaitRec) (hit : W32) (rel : Nat) : KeepsPlace s (waitHit s g p w hit rel) := by
  unfold waitHit
  split
  · exact .refl s
  · split
    · exact .refl s
    · extract_lets w' p' y h t
      have ht : KeepsPlace s t := by
        unfold t
        split
        · exact setGate_keepsPlace s _ _
        · exact .refl s
      split
      · exact .setGroup s g _
      · split
        · exact ht.trans (endWait_keepsPlace _ _ _ _ _)
        · exact ht.trans (.setGroup t g _)

/-! ### Waits armed again (R348) -/

/-- Memory and the blocks' places stand, and every group has its registers. -/
def KeepsBlocks (s t : State) : Prop := KeepsEngines s t ∧ KeepsPlace s t

namespace KeepsBlocks

variable {s t u : State}

theorem refl (s : State) : KeepsBlocks s s := ⟨.refl s, .refl s⟩

theorem trans (h : KeepsBlocks s t) (k : KeepsBlocks t u) : KeepsBlocks s u := ⟨h.1.trans k.1, h.2.trans k.2⟩

/-- What changes neither memory nor a core nor the scheduler's state. -/
theorem of_eq (hmem : t.mem = s.mem) (hcores : t.cores = s.cores) (hsched : t.sched = s.sched) : KeepsBlocks s t := ⟨.of_cores hmem hcores, .of_eq hsched hcores⟩

/-- A core with its groups, engines and blocks. -/
theorem setCore {c : Nat} {k : Core} (hengines : k.engines = (getCore s c).engines) (hgroups : k.groups = (getCore s c).groups) (hctx : k.ctx = (getCore s c).ctx)
    (hblocks : k.blocks = (getCore s c).blocks) : KeepsBlocks s (setCore s c k) := ⟨.setCore hengines hgroups, .setCore hctx hblocks⟩

theorem setGroup {g : Grp} {x y : Group} (hx : getGroup s g = some x) (hxy : SameRegs x y) : KeepsBlocks s (setGroup s g y) := ⟨.setGroup hx hxy, .setGroup s g y⟩

theorem each {α : Type} {f : State → α → State} (h : ∀ t a, KeepsBlocks t (f t a)) (l : List α) (s : State) : KeepsBlocks s (each l f s) :=
  each_keeps (P := KeepsBlocks s) l f (fun t a _ ht => ht.trans (h t a)) s (.refl s)

end KeepsBlocks

theorem waitHit_keepsBlocks (s : State) (g : Grp) (p : Path) (w : WaitRec) (hit : W32) (rel : Nat) : KeepsBlocks s (waitHit s g p w hit rel) :=
  ⟨waitHit_keepsEngines s g p w hit rel, waitHit_keepsPlace s g p w hit rel⟩

theorem retest_keepsBlocks (s : State) (g : Grp) : KeepsBlocks s (retest s g) := by
  unfold retest testWaits
  split
  · exact .refl s
  · exact .each (fun t _ => waitHit_keepsBlocks t _ _ _ _ _) _ s

theorem sendWm_keepsBlocks (s : State) (ev : WmEvent) : KeepsBlocks s (sendWm s ev) := by
  unfold sendWm offerWm
  split
  · exact .of_eq rfl rfl rfl
  · split
    · exact .of_eq rfl rfl rfl
    · split
      · exact .of_eq rfl rfl rfl
      · split <;> exact .of_eq rfl rfl rfl

theorem sendReads_keepsBlocks (s : State) (c : Nat) (w : WaitRec) : KeepsBlocks s (sendReads s c w) := .each (fun t _ => sendWm_keepsBlocks t _) _ s

theorem orderRead_keepsBlocks (s : State) (line : Nat) : KeepsBlocks s (orderRead s line).2 := by
  unfold orderRead
  extract_lets held
  split
  · have h := (arrayRead_ok_keepsButRecords s (locLine line)).1.eq
    exact .of_eq (by rw [h]) (by rw [h]) (by rw [h])
  · exact .refl s

theorem flagTrouble_keepsBlocks (s : State) (c ctx : Nat) (sas : List Nat) : KeepsBlocks s (flagTrouble s c ctx sas).2 := by
  have hstop : ∀ t sa, KeepsBlocks t (flagStop t c ctx sa).2 := by
    intro t sa
    unfold flagStop
    extract_lets line r mine
    split
    · exact .refl t
    · show KeepsBlocks t r.2
      unfold r
      split
      · exact .refl t
      · exact orderRead_keepsBlocks t _
  unfold flagTrouble
  suffices h : ∀ (l : List Nat) (st : Option (Nat × Nat × Nat) × State), KeepsBlocks s st.2 →
      KeepsBlocks s (l.foldl (fun st sa => ((st.1.orElse (fun _ => (flagStop st.2 c ctx sa).1)), (flagStop st.2 c ctx sa).2)) st).2 from h sas (none, s) (.refl s)
  intro l
  induction l with
  | nil => exact fun _ h => h
  | cons a l ih => exact fun st h => ih _ (h.trans (hstop _ _))

theorem pushPartial_keepsBlocks (s : State) (die line : Nat) (l : List Msg) : KeepsBlocks s (pushPartial s die line l) := by
  unfold pushPartial
  split
  · split
    · exact .of_eq rfl rfl rfl
    · exact .refl s
  · exact .refl s

theorem staleFills_keepsBlocks (s : State) (c line : Nat) : KeepsBlocks s (setCore s c (staleFills (getCore s c) line)) := by
  have h : ∀ k : Core, (staleFills k line).engines = k.engines ∧ (staleFills k line).groups = k.groups ∧ (staleFills k line).ctx = k.ctx ∧ (staleFills k line).blocks = k.blocks := by
    intro k
    unfold staleFills
    split <;> exact ⟨rfl, rfl, rfl, rfl⟩
  obtain ⟨hengines, hgroups, hctx, hblocks⟩ := h (getCore s c)
  exact .setCore hengines hgroups hctx hblocks

theorem pathFault_keepsBlocks (s : State) (g : Grp) (code detail : Nat) (insn addr : Option Nat) (m : W32) (pc : W64) :
    KeepsBlocks s (pathFault s g code detail insn addr m pc) := ⟨pathFault_keepsEngines s g code detail insn addr m pc, pathFault_keepsPlace s g code detail insn addr m pc⟩

theorem send_keepsBlocks (s : State) (m : Msg) : KeepsBlocks s (send s m) := .of_eq rfl rfl rfl

/-- A read of flags without trouble: fills become stale, far flags are asked for, and the wait is tested. -/
def lookFlags (s : State) (g : Grp) (low : Nat) (w : WaitRec) (size : Nat) (look loc : List (Nat × W64 × W64)) (owner : Option (Path × WaitRec)) : State :=
  let rem := look.filter (fun t => devOf t.2.1.toNat ≠ myDev s)
  let m := maskOf ((loc.filter (fun t => condHolds w.cond (flagVal s g.core t.2.1.toNat size) t.2.2.toNat)).map (·.1))
  let s := each (loc.map (fun t => t.2.1.toNat / 64)) (fun s line => setCore s g.core (staleFills (getCore s g.core) line)) s
  let k := getCore s g.core
  let (path, pc) := match owner with | some (p, _) => (p.mask, p.pc) | none => (0, 0)
  let asked := k.outs.any (fun o => o.pipe = g.pipe && o.slot = g.slot && o.pathLow = low && (match o.kind with | .flag _ => true | _ => false))
  let s := if rem.isEmpty || asked then s else
    let id := k.nextOp
    let s := addOut s g.core { id := id, pipe := g.pipe, slot := g.slot, pathLow := low, path := path, pc := pc, kind := .flag size,
                               parts := rem.map (fun t => ⟨t.1, t.2.1.toNat, size, 0⟩), far := true, install := false }
    each (distinct (rem.map (fun t => t.2.1.toNat / 64))) (fun s line => send s { coreMsg g.core id line .gets with flags := 2 }) s
  match getGroup s g with
  | some x =>
    match (waiting x).find? (fun pw => lowest pw.1.mask = low) with
    | some (p, w) => waitHit s g p w m 0
    | none => s
  | none => s

theorem lookFlags_keepsBlocks (s : State) (g : Grp) (low : Nat) (w : WaitRec) (size : Nat) (look loc : List (Nat × W64 × W64)) (owner : Option (Path × WaitRec)) :
    KeepsBlocks s (lookFlags s g low w size look loc owner) := by
  unfold lookFlags
  extract_lets rem m v k asked id
  have hv : KeepsBlocks s v := .each (fun x line => staleFills_keepsBlocks x g.core line) _ s
  split
  extract_lets y x
  have hy : KeepsBlocks v y := .setCore rfl rfl rfl rfl
  have hx : KeepsBlocks v x := by
    unfold x
    split
    · exact .refl v
    · exact hy.trans (.each (fun z line => send_keepsBlocks z _) _ y)
  split
  · split
    · exact (hv.trans hx).trans (waitHit_keepsBlocks _ _ _ _ _ _)
    · exact hv.trans hx
  · exact hv.trans hx

theorem readFlags_keepsBlocks (s : State) (g : Grp) (low : Nat) (w : WaitRec) : KeepsBlocks s (readFlags s g low w) := by
  unfold readFlags
  extract_lets size look here t loc owner
  have ht : KeepsBlocks s t := .each (fun u n => by
    split
    · exact .refl u
    · exact pushPartial_keepsBlocks u _ _ _) _ s
  have htrouble := flagTrouble_keepsBlocks t g.core ((getCore t g.core).ctx.getD 0) (loc.map (·.2.1.toNat))
  clear_value owner
  generalize flagTrouble t g.core ((getCore t g.core).ctx.getD 0) (loc.map (·.2.1.toNat)) = trouble at htrouble ⊢
  obtain ⟨stop, u⟩ := trouble
  have hu : KeepsBlocks s u := ht.trans htrouble
  have hlook : KeepsBlocks s (lookFlags u g low w size look loc owner) := hu.trans (lookFlags_keepsBlocks u g low w size look loc owner)
  rcases stop with - | ⟨code, det, a⟩
  · exact hlook
  · rcases owner with - | ⟨p, v⟩
    · exact hlook
    · exact hu.trans (pathFault_keepsBlocks _ _ _ _ _ _ _ _)

theorem rearm_keepsBlocks (s : State) (g : Grp) : KeepsBlocks s (rearm s g) := by
  unfold rearm
  split
  · exact .refl s
  · next x hx =>
    extract_lets fresh t
    have ht : KeepsBlocks s t := .setGroup hx ⟨rfl, rfl, rfl, rfl⟩
    split
    · exact ht
    · refine (ht.trans (.each (fun u pw => ?_) _ t)).trans (retest_keepsBlocks _ _)
      split
      · exact sendReads_keepsBlocks u _ _
      · split
        · exact readFlags_keepsBlocks u _ _ _
        · exact .refl u

/-! ### The image's bytes in the loft (R347) -/

theorem SMap.get_of_mem {V : Type} {m : SMap V} (hwf : m.wf) {k : Nat} {v : V} (h : (k, v) ∈ m) : m.get k = some v := by
  induction m with
  | nil => cases h
  | cons e t ih =>
    obtain ⟨hhead, htail⟩ := List.pairwise_cons.mp hwf
    rcases List.mem_cons.mp h with rfl | ht
    · simp [SMap.get]
    · have hne : ¬e.1 = k := Nat.ne_of_lt (hhead _ ht)
      simp only [SMap.get, hne, if_false]
      exact ih htail ht

/-- The bytes of a list of cells, written one by one: those of distinct places are found again. -/
theorem readByte_cells {l : SMap Byte} (hwf : l.wf) (base a : Nat) (m : List Host.Cell) (hzero : readByte m (base + a) = 0) :
    readByte (l.foldl (fun m e => writeByte m (base + e.1) e.2) m) (base + a) = SMap.getD l a 0 := by
  have hmiss : ∀ m, ∀ e ∈ l, ¬e.1 = a → readByte (writeByte m (base + e.1) e.2) (base + a) = readByte m (base + a) :=
    fun m e _ h => readByte_writeByte_ne m e.2 (by omega)
  rw [SMap.getD]
  cases hget : l.get a with
  | none =>
    refine (foldl_read_of_miss (read := fun m => readByte m (base + a)) (fun m e he => hmiss m e he fun h => ?_) m).trans hzero
    rw [← h, SMap.get_of_mem hwf he] at hget
    cases hget
  | some v =>
    refine foldl_read_of_hit (read := fun m => readByte m (base + a)) (hit := fun e => e.1 = a) (fun m e he h => ?_) hmiss ⟨(a, v), SMap.mem_of_get hget, rfl⟩ m
    rw [← h, SMap.get_of_mem hwf he] at hget
    rw [← h, readByte_writeByte]
    exact Option.some.inj hget

/-- The loft after an image's bytes are put into it. -/
theorem readByte_loadLoft {i : SaveImg} (hwf : SMap.wf i.loft) (hin : ∀ e ∈ i.loft, e.1 < i.loftSaved) (s : State) (c : Nat) :
    (∀ a < i.loftSaved, readByte (loadLoft s c i).mem (loftAt c + a) = SMap.getD i.loft a 0) ∧
      ∀ a, (a < loftAt c ∨ loftAt c + i.loftSaved ≤ a) → readByte (loadLoft s c i).mem a = readByte s.mem a := by
  refine ⟨fun a ha => ?_, fun a ha => ?_⟩
  · exact readByte_cells hwf (loftAt c) a _ ((readByte_clear s.mem _ _ _).trans (if_pos ⟨by omega, by omega⟩))
  · refine (foldl_read_of_miss (read := fun m => readByte m a) (fun m e he => ?_) _).trans ((readByte_clear s.mem _ _ _).trans (if_neg (by omega)))
    have hlt := hin e he
    exact readByte_writeByte_ne m e.2 (by omega)

/-! ### The reload (R347) -/

/-- The core is taken, its loft loaded, and the block known to run. -/
def imageLoaded (s : State) (c n id : Nat) (b : Block) (i : SaveImg) : State :=
  let t := loadLoft (saveSlots (takeCore s c n) c i) c i
  { t with sched := { t.sched with images := t.sched.images.del id, blocks := t.sched.blocks.put id { b with st := .running c, resumes := b.resumes + 1 } } }

/-- The first number for what the core issues next (R148). -/
def resumeBase (k : Core) (i : SaveImg) : Nat := (i.engines.flatMap (fun e => e.2.queue.map (·.seq)) ++ i.descs.flatMap (fun e => e.2.map (·.seq))).foldl (fun a q => max a (q + 1)) k.nextOp

/-- The reads that are issued again. -/
def resumeOuts (k : Core) (i : SaveImg) : List OutOp := (i.outs.zipIdx).map (fun e => { e.1 with id := resumeBase k i + e.2 })

/-- A group again in its core. -/
def resumedGroup (s : State) (c : Nat) (x : Group) : Group := { x with wpCyc := cycles s (coreHalf c) - x.wpCyc, yieldCyc := cycles s (coreHalf c) - x.yieldCyc }

/-- The core with the block's work. -/
def resumedCore (s : State) (c id : Nat) (i : SaveImg) : Core :=
  { getCore s c with
    blocks := [id]
    groups := i.groups.mapV (fun _ => resumedGroup s c)
    outs := resumeOuts (getCore s c) i
    nextOp := resumeBase (getCore s c) i + (resumeOuts (getCore s c) i).length
    engines := i.engines }

/-- Descriptors are back in their queues, reads asked for, waits armed. -/
def workAgain (s : State) (c : Nat) (i : SaveImg) (outs : List OutOp) : State :=
  let s := each i.descs (fun s e => setChan s (nearChan c + e.1) { getChan s (nearChan c + e.1) with
    queue := (getChan s (nearChan c + e.1)).queue ++ e.2.map (fun d => { d with core := c }) }) s
  let s := each outs (fun s o =>
    let gat : Bool := match o.kind with | .load _ _ true => true | _ => false
    each (distinct (o.parts.map (fun p => if gat then p.addr / 16 else p.addr / 64 * 4))) (fun s a =>
      send s { coreMsg c o.id (a / 4) .gets with flags := (if o.install then 0 else 2) + (if gat then 8 else 0), thread := a % 4 }) s) s
  each (coreGroups s c) rearm s

theorem workAgain_keepsBlocks (s : State) (c : Nat) (i : SaveImg) (outs : List OutOp) : KeepsBlocks s (workAgain s c i outs) := by
  unfold workAgain
  extract_lets t u
  have hset : ∀ v ch x, KeepsBlocks v (setChan v ch x) := fun _ _ _ => .of_eq rfl rfl rfl
  have ht : KeepsBlocks s t := .each (fun v e => hset v _ _) _ s
  have hu : KeepsBlocks t u := .each (fun v o => .each (fun w a => send_keepsBlocks w _) _ v) _ t
  exact (ht.trans hu).trans (.each rearm_keepsBlocks _ u)

section
variable {s : State} {c n id : Nat} {b : Block} {i : SaveImg}

theorem execBlockResume_reloads (hchosen : chosen s c = some (n, .saved id)) (hfirst : comesFirst s c n (.saved id) = true) (hb : s.sched.blocks.get id = some b)
    (hi : s.sched.images.get id = some i) (hpasses : savePasses s c = true) :
    let t := imageLoaded s c n id b i
    execBlockResume c id s = .next (coreAcquire (toll (workAgain (setCore t c (resumedCore t c id i)) c i (resumeOuts (getCore t c) i)) n 4 ((imageBytes i + 63) / 64 * 64)) c n) := by
  simp only [execBlockResume, hchosen, hb, hi, hfirst, hpasses, ne_eq, not_true_eq_false, decide_false, Bool.not_true, Bool.or_self, Bool.false_eq_true, if_false]
  rfl

/-- What stands when the image's bytes are in the loft. -/
theorem imageLoaded_spec (hwf : SMap.wf i.loft) (hin : ∀ e ∈ i.loft, e.1 < i.loftSaved) :
    (getCore (imageLoaded s c n id b i) c).ctx = some n ∧ (imageLoaded s c n id b i).sched.images.get id = none ∧
      (∃ k : Block, (imageLoaded s c n id b i).sched.blocks.get id = some k ∧ k.st = .running c) ∧
      (∀ a < i.loftSaved, readByte (imageLoaded s c n id b i).mem (loftAt c + a) = SMap.getD i.loft a 0) ∧
      ∀ a, (a < loftAt c ∨ loftAt c + loftStride ≤ a) → i.loftSaved ≤ loftStride → readByte (imageLoaded s c n id b i).mem a = readByte s.mem a := by
  obtain ⟨hmem, -, hcores⟩ := saveSlots_store (takeCore s c n) c i
  obtain ⟨hinside, houtside⟩ := readByte_loadLoft hwf hin (saveSlots (takeCore s c n) c i) c
  refine ⟨?_, (SMap.get_del _ _ _).trans (if_pos rfl), ⟨_, SMap.get_put_self _ _ _, rfl⟩, hinside, fun a ha hsize => (houtside a (by omega)).trans ?_⟩
  · show ((State.cores (saveSlots (takeCore s c n) c i)).getD c {}).ctx = some n
    rw [hcores]
    exact (takeCore_core s c n).1
  · rw [hmem, takeCore_mem]
    split
    · rfl
    · rw [readByte_clear, if_neg (by omega)]

theorem toll_keepsBlocks (s : State) (ctx k m : Nat) : KeepsBlocks s (toll s ctx k m) := by
  refine ⟨toll_keepsEngines s ctx k m, ?_⟩
  unfold toll
  split
  · exact .refl s
  · exact ⟨rfl, rfl, fun _ => ⟨rfl, rfl⟩⟩

/-- The acquire of a resumed block leaves all but its paths' fences. -/
theorem coreAcquire_keepsBlocks (s : State) (c n : Nat) :
    (coreAcquire s c n).mem = s.mem ∧ KeepsPlace s (coreAcquire s c n) ∧
      ∀ k x, (getCore s c).groups.get k = some x → ∃ y : Group, (getCore (coreAcquire s c n) c).groups.get k = some y ∧ SameRegs x y := by
  obtain ⟨f, q, heq⟩ := coreAcquire_eq s c n
  have hcoh : KeepsPlace s { s with coh := q } := .of_eq rfl rfl
  rw [heq]
  refine ⟨rfl, hcoh.trans (.setCore rfl rfl), fun k x hx => ⟨acquiring f x, ?_, rfl, rfl, rfl, rfl⟩⟩
  rw [getCore_setCore_self, SMap.get_mapV, hx]
  rfl

/-- A saved block is again on a core, with its loft and its registers. -/
theorem does_blockResume (hchosen : chosen s c = some (n, .saved id)) (hfirst : comesFirst s c n (.saved id) = true) (hb : s.sched.blocks.get id = some b)
    (hi : s.sched.images.get id = some i) (hpasses : savePasses s c = true) (hwf : SMap.wf i.loft) (hin : ∀ e ∈ i.loft, e.1 < i.loftSaved) :
    Does (.blockResume c id) s (fun t => (getCore t c).ctx = some n ∧ (getCore t c).blocks = [id] ∧ t.sched.images.get id = none ∧
      (∃ k : Block, t.sched.blocks.get id = some k ∧ k.st = .running c) ∧ (∀ a < i.loftSaved, readByte t.mem (loftAt c + a) = SMap.getD i.loft a 0) ∧
      (∀ a, (a < loftAt c ∨ loftAt c + loftStride ≤ a) → i.loftSaved ≤ loftStride → readByte t.mem a = readByte s.mem a) ∧
      ∀ k x, i.groups.get k = some x → ∃ y : Group, (getCore t c).groups.get k = some y ∧ SameRegs x y) := by
  refine ⟨_, execBlockResume_reloads hchosen hfirst hb hi hpasses, ?_⟩
  obtain ⟨hctx, himages, ⟨blk, hblk, hrunning⟩, hinside, houtside⟩ := imageLoaded_spec (s := s) (c := c) (n := n) (id := id) (b := b) hwf hin
  generalize imageLoaded s c n id b i = t at *
  have hagain := (workAgain_keepsBlocks (setCore t c (resumedCore t c id i)) c i (resumeOuts (getCore t c) i)).trans (toll_keepsBlocks _ n 4 ((imageBytes i + 63) / 64 * 64))
  generalize toll (workAgain (setCore t c (resumedCore t c id i)) c i (resumeOuts (getCore t c) i)) n 4 ((imageBytes i + 63) / 64 * 64) = u at hagain ⊢
  obtain ⟨⟨hmem, -, hgroups⟩, hblocks, hunimaged, hcore⟩ := hagain
  obtain ⟨hmem', ⟨hblocks', hunimaged', hcore'⟩, hgroups'⟩ := coreAcquire_keepsBlocks u c n
  have hheld : (getCore (setCore t c (resumedCore t c id i)) c).ctx = some n ∧ (getCore (setCore t c (resumedCore t c id i)) c).blocks = [id] := by
    rw [getCore_setCore_self]
    exact ⟨hctx, rfl⟩
  have hbytes : (coreAcquire u c n).mem = t.mem := hmem'.trans hmem
  refine ⟨(hcore' c).1.trans ((hcore c).1.trans hheld.1), (hcore' c).2.trans ((hcore c).2.trans hheld.2), ?_, ⟨blk, ?_, hrunning⟩, fun a ha => ?_, fun a ha hsize => ?_, fun k x hx => ?_⟩
  · rw [hunimaged', hunimaged]; exact himages
  · rw [hblocks', hblocks]; exact hblk
  · rw [hbytes, hinside a ha]
  · rw [hbytes, houtside a ha hsize]
  · have hput : getGroup (setCore t c (resumedCore t c id i)) ⟨c, 0, k⟩ = some (resumedGroup t c x) := by
      rw [getGroup, getCore_setCore_self, show gkey ⟨c, 0, k⟩ = k from by simp [gkey]]
      exact (SMap.get_mapV i.groups (fun _ => resumedGroup t c) k).trans (by rw [hx, Option.map_some])
    obtain ⟨y, hy, hxy⟩ := hgroups _ _ hput
    rw [getGroup, show gkey ⟨c, 0, k⟩ = k from by simp [gkey]] at hy
    obtain ⟨z, hz, hyz⟩ := hgroups' k y hy
    exact ⟨z, hz, SameRegs.trans ⟨rfl, rfl, rfl, rfl⟩ (hxy.trans hyz)⟩

end

/-- Settles O43: each row of the scheduler by what it leaves of the core, the block and its image. -/
theorem placementAndPreemption : Obligations.PlacementAndPreemption := by
  unfold Obligations.PlacementAndPreemption
  intro s c n _
  refine ⟨?_, ?_, ?_, ?_, ?_, fun hdue => does_accountingPeriod hdue⟩
  · intro lid l hctx hchosen hfirst hl _ hgroups
    obtain ⟨t, hexec, hrun, hhalt, hlaunch, hblock, hentry, hsame, hcleared, hflds⟩ := does_coreFree_fresh hctx hchosen hfirst hl hgroups
    refine ⟨t, hexec, hrun, hhalt, hlaunch, hblock, fun j hj => ?_, hsame, hcleared, hflds⟩
    obtain ⟨x, hx, p, hat⟩ := hentry j hj
    exact ⟨x, p, hx, hat⟩
  · intro hctx hquiet hfencing hinst id b hblocks hb
    refine ⟨fun l hhalt hdone hl => ⟨?_, ?_⟩, fun hsaved hpasses => ⟨?_, ?_⟩⟩
    · exact fun hmore => does_coreFree_more hctx hquiet hfencing hinst hblocks hb hhalt hdone hl hmore
    · exact fun r q hlast hcmd hq hfin => does_coreFree_last hctx hquiet hfencing hinst hblocks hb hhalt hdone hl hlast hcmd hq hfin
    · exact fun hslot => does_preemptSave_waits hctx hquiet hblocks hb hsaved hpasses hslot
    · exact fun slot hslot => does_preemptSave_saves hctx hquiet hfencing hinst hblocks hb hsaved hpasses hslot
  · intro id b i hchosen hfirst hb hi hpasses hwf hin
    exact does_blockResume hchosen hfirst hb hi hpasses hwf hin
  · exact fun hwant hctx => does_preempt hwant hctx
  · intro half since x hagent hlive
    refine ⟨?_, ?_, ?_⟩
    · exact fun hctx hinst => does_agentRestart_outside hagent hlive hctx hinst
    · exact fun k hctx hinst _ => does_agentRestart_inside hagent hlive hctx hinst
    · exact fun hctx hwant hpre => does_agentRestart_busy hagent hlive hctx hwant hpre

end Sys2Proof.Machine
end

section
/-! SUPPORT. DESC (R122, R248) and the completion of a descriptor (R250). -/

namespace Sys2Proof.Machine

/-! ### DESC (R122) -/

/-- The descriptor that DESC queues, without its number. -/
def issuedDesc (s : State) (g : Grp) (e : Env) (a : Nat) : DDesc :=
  let raw : Line := BitVec.ofNat 512 (readNat s.mem (loftAt g.core + a) 64)
  let v := dview raw
  { id := 0, raw := raw, ctx := e.ctx, core := g.core, pipe := g.pipe, slot := g.slot, rm := (resolveRm e.x.arith v.rm v.sat).1, sat := (resolveRm e.x.arith v.rm v.sat).2
    seq := e.k.nextOp, ranges := if v.ok false then descRanges s g.core e.ctx v else [] }

section
variable {s : State} {g : Grp} {f : RForm} {e : Env} {k : Nat} (hct : e.ct = 1) (hty : f.ty = 0) (htail : PlainTail f) (hfences : e.p.fences = [])
  (hk : (threads e.ex).head? = some k) (hcan : CanIssue s g f.pr f.pn e (rOps f .z .r .r .z))
include hct hty htail hfences hk hcan

/-- DESC checks its offset, then waits or queues the 64 bytes there. -/
theorem does_desc {P : State → Prop} (hP : ∀ e' : Env, e' = { e with insn := e'.insn } →
      let a := e.x.opnd e.sc 32 f.a k
      let ch := nearChan g.core + e.x.opnd e.sc 32 f.b k % 4
      P (if a + 64 > loftSize g.core then memFault s e' (insnWord f.pr f.pn 0 0x340 f.d f.a) (0x0204, a, a)
        else if a % 64 ≠ 0 then memFault s e' (insnWord f.pr f.pn 0 0x340 f.d f.a) (0x0203, 64, a)
        else if sbBlocked s g.core [rng true false a 64] || (getChan s ch).queue.length ≥ 16 then s
        else advance (putDesc (setCore s g.core { e.k with nextOp := e.k.nextOp + 1 }) ch (issuedDesc s g e a)) g e.x 8)) : Does (.desc g f) s P := by
  obtain ⟨hrm, hsat, hsub⟩ := htail
  refine does_issue rfl hcan (by simp [hct]) rfl (by simp [plainTail, hty, hrm, hsat, hsub]) fun e' he => ?_
  obtain ⟨-, hk', hctx, hx, hp, hex, hsc, -⟩ := Env.eq_of_insn he
  simp only [hk', hctx, hx, hp, hex, hsc, fenceHolds_of_no_fences hfences, lowest_of_head hk, Bool.false_eq_true, if_false, if_neg (ex_ne_zero_of_head hk)]
  exact hP e' he

theorem desc_range (hrange : loftSize g.core < e.x.opnd e.sc 32 f.a k + 64) :
    Does (.desc g f) s (fun t => Faulted s t e 0x0204 (e.x.opnd e.sc 32 f.a k)) := by
  refine does_desc hct hty htail hfences hk hcan fun e' he => ?_
  obtain ⟨hg, -⟩ := Env.eq_of_insn he
  simp only [hrange, if_true, memFault, hg]
  obtain ⟨rfl, -⟩ := env?_some hcan.1
  exact groupFault_faulted hcan.1 _ _ _ _

theorem desc_align (hrange : e.x.opnd e.sc 32 f.a k + 64 ≤ loftSize g.core) (halign : e.x.opnd e.sc 32 f.a k % 64 ≠ 0) :
    Does (.desc g f) s (fun t => Faulted s t e 0x0203 64) := by
  refine does_desc hct hty htail hfences hk hcan fun e' he => ?_
  obtain ⟨hg, -⟩ := Env.eq_of_insn he
  simp only [gt_iff_lt, Nat.not_lt.mpr hrange, halign, ne_eq, not_false_eq_true, if_false, if_true, memFault, hg]
  obtain ⟨rfl, -⟩ := env?_some hcan.1
  exact groupFault_faulted hcan.1 _ _ _ _

/-- DESC queues the descriptor on the channel that it names. -/
theorem desc_queues (hs : Straight e) (hrange : e.x.opnd e.sc 32 f.a k + 64 ≤ loftSize g.core) (halign : e.x.opnd e.sc 32 f.a k % 64 = 0)
    (hclear : sbBlocked s g.core [rng true false (e.x.opnd e.sc 32 f.a k) 64] = false)
    (hroom : (getChan s (nearChan g.core + e.x.opnd e.sc 32 f.b k % 4)).queue.length < 16) :
    Does (.desc g f) s (fun t => RunsAt t e (e.p.pc + 8) ∧ KeepsRegs t e ∧ t.mem = s.mem ∧ t.flds = s.flds ∧ ∃ d : DDesc,
      (getChan t (nearChan g.core + e.x.opnd e.sc 32 f.b k % 4)).queue = (getChan s (nearChan g.core + e.x.opnd e.sc 32 f.b k % 4)).queue ++ [d] ∧
      d.raw = BitVec.ofNat 512 (readNat s.mem (loftAt g.core + e.x.opnd e.sc 32 f.a k) 64) ∧ d.ctx = e.ctx ∧ d.core = g.core ∧ d.phase = 0 ∧ d.turnpike = false) := by
  refine does_desc hct hty htail hfences hk hcan fun e' he => ?_
  obtain ⟨hregion, hentry⟩ := hs
  obtain ⟨rfl, -, -, hrun⟩ := env?_some hcan.1
  simp only [gt_iff_lt, Nat.not_lt.mpr hrange, halign, hclear, ge_iff_le, Nat.not_le.mpr hroom, ne_eq, not_true_eq_false, decide_false, Bool.or_self, Bool.false_eq_true, if_false]
  rw [advance_straight _ e.g 8 hrun hregion hentry]
  refine ⟨⟨_, getGroup_setGroup_self _ _ _, rfl⟩, ⟨_, getGroup_setGroup_self _ _ _, rfl, rfl, rfl, rfl⟩, rfl, rfl,
    { issuedDesc s e.g e (e.x.opnd e.sc 32 f.a k) with id := s.deck.nextId }, ?_, rfl, rfl, rfl, rfl, rfl⟩
  exact congrArg Chan.queue ((getChan_setChan _ _ _ _).trans (if_pos rfl))

end

/-! ### Completion (R250) -/

/-- The status record of a descriptor (R250). -/
def statusBytes (s : State) (d : DDesc) : List Byte :=
  natLe 2 d.code ++ natLe 1 d.arith.toNat ++ natLe 1 0 ++ natLe 4 d.skipped ++ natLe 4 d.result ++ natLe 4 (mstNow s % 2 ^ 32)

theorem length_statusBytes (s : State) (d : DDesc) : (statusBytes s d).length = 16 := by simp [statusBytes, length_natLe]

/-- The descriptor has left the queue, its status record written. -/
def descLeaves (s : State) (ch : Nat) (d : DDesc) : State :=
  let t := setChan s ch { getChan s ch with queue := (getChan s ch).queue.filter (fun q => q.id ≠ d.id) }
  if (dview d.raw).stEn then { t with mem := writeBytes t.mem (loftAt (chanCore ch) + (dview d.raw).stOff) (statusBytes s d) } else t

/-- What a completed descriptor leaves behind. -/
def DescGone (s : State) (ch : Nat) (d : DDesc) (rest : List DDesc) (t : State) : Prop :=
  (getChan t ch).queue = rest ∧ t.cores = s.cores ∧ ((dview d.raw).stEn = false → t.mem = s.mem) ∧
    ((dview d.raw).stEn = true → (∀ j < 16, readByte t.mem (loftAt (chanCore ch) + (dview d.raw).stOff + j) = (statusBytes s d).getD j 0) ∧
      ∀ a, (a < loftAt (chanCore ch) + (dview d.raw).stOff ∨ loftAt (chanCore ch) + (dview d.raw).stOff + 16 ≤ a) → readByte t.mem a = readByte s.mem a)

theorem descLeaves_gone {s : State} {ch : Nat} {d : DDesc} {rest : List DDesc} (hqueue : (getChan s ch).queue = d :: rest) (hids : ∀ q ∈ rest, q.id ≠ d.id) :
    DescGone s ch d rest (descLeaves s ch d) ∧ (descLeaves s ch d).wm = s.wm ∧ (descLeaves s ch d).flds = s.flds ∧ (descLeaves s ch d).die = s.die := by
  have hleft : ((getChan s ch).queue.filter (fun q => q.id ≠ d.id)) = rest := by
    rw [hqueue, List.filter_cons_of_neg (by simp)]
    exact List.filter_eq_self.mpr fun q hq => by simpa using hids q hq
  have hchan : ∀ m, (getChan { setChan s ch { getChan s ch with queue := (getChan s ch).queue.filter (fun q => q.id ≠ d.id) } with mem := m } ch).queue = rest := fun m =>
    (congrArg Chan.queue ((getChan_setChan s ch ch _).trans (if_pos rfl))).trans hleft
  unfold descLeaves DescGone
  by_cases hst : (dview d.raw).stEn = true
  · simp only [hst, if_true]
    refine ⟨⟨hchan _, rfl, fun h => (by cases h), fun _ => ⟨fun j hj => ?_, fun a ha => ?_⟩⟩, rfl, rfl, rfl⟩
    · rw [readByte_writeBytes_in _ _ _ _ (by rw [length_statusBytes]; exact hj), List.getD_eq_getElem _ _ (by rw [length_statusBytes]; exact hj)]
    · exact readByte_writeBytes_out _ _ _ _ (by rw [length_statusBytes]; exact ha)
  · simp only [hst]
    exact ⟨⟨hchan _, rfl, fun _ => rfl, fun h => absurd h (by simp)⟩, rfl, rfl, rfl⟩

section
variable {s : State} {ch : Nat} {d : DDesc} {rest : List DDesc} {x : Ctx} (hqueue : (getChan s ch).queue = d :: rest) (hids : ∀ q ∈ rest, q.id ≠ d.id) (hphase : d.phase = 2)
  (hawaiting : d.awaiting = []) (hreds : d.reds = []) (hctx : getCtx s d.ctx = some x) (hphys : (dview d.raw).phys = false)
  (hwcb : ∀ e ∈ s.deck.chans, ∀ w ∈ e.2.wcb, engWriter ch ∉ w.writers)
include hqueue hphase hawaiting hreds hctx hphys hwcb

theorem execDescComplete_eq : execDescComplete ch s = .next (if tb (dview d.raw).done 12 then
    sendWm (descLeaves s ch d) { kind := .add, wm := wmIndex x ((dview d.raw).done % 4096), half := chanHalf ch, core := chanCore ch, count := 1 } else descLeaves s ch d) := by
  have hmine : s.deck.chans.flatMap (fun e => (e.2.wcb.filter (fun w => w.writers.contains (engWriter ch))).map (·.line)) = [] := by
    refine List.flatMap_eq_nil_iff.2 fun e he => ?_
    rw [List.map_eq_nil_iff, List.filter_eq_nil_iff]
    exact fun w hw => by simpa using hwcb e he w hw
  have hfind : (getChan s ch).queue.find? (fun d => d.phase = 2 && d.awaiting.isEmpty && d.reds.isEmpty) = some d := by
    simp [hqueue, hphase, hawaiting, hreds]
  have hleft : getCtx (descLeaves s ch d) d.ctx = some x := by
    unfold descLeaves
    split <;> exact hctx
  have hexec : execDescComplete ch s = .next (match getCtx (descLeaves s ch d) d.ctx with
      | some x => if tb (dview d.raw).done 12 then
          sendWm (descLeaves s ch d) { kind := .add, wm := wmIndex x ((dview d.raw).done % 4096), half := chanHalf ch, core := chanCore ch, count := 1 } else descLeaves s ch d
      | none => descLeaves s ch d) := by
    simp only [execDescComplete, hfind, hmine, each_nil, hphys, Bool.false_eq_true, if_false]
    rfl
  rw [hexec, hleft]

include hids

/-- Without a waymark the status record is all. -/
theorem descComplete_quiet (hdone : tb (dview d.raw).done 12 = false) :
    Does (.descComplete ch) s (fun t => DescGone s ch d rest t ∧ t.wm = s.wm ∧ t.flds = s.flds) := by
  obtain ⟨hgone, hwm, hflds, -⟩ := descLeaves_gone hqueue hids
  refine ⟨_, execDescComplete_eq hqueue hphase hawaiting hreds hctx hphys hwcb, ?_⟩
  simp only [hdone, Bool.false_eq_true, if_false]
  exact ⟨hgone, hwm, hflds⟩

/-- The waymark is incremented after the status record is written. -/
theorem descComplete_counts (hdone : tb (dview d.raw).done 12 = true)
    (hsend : CanSend s { kind := .add, wm := wmIndex x ((dview d.raw).done % 4096), half := chanHalf ch, core := chanCore ch, count := 1 }) :
    Does (.descComplete ch) s (fun t => DescGone s ch d rest t ∧
      Sent s t { kind := .add, wm := wmIndex x ((dview d.raw).done % 4096), half := chanHalf ch, core := chanCore ch, count := 1 }) := by
  obtain ⟨⟨hchan, hcores, hmem, hrec⟩, hwm, hflds, hdie⟩ := descLeaves_gone hqueue hids
  have hsend' : CanSend (descLeaves s ch d) { kind := .add, wm := wmIndex x ((dview d.raw).done % 4096), half := chanHalf ch, core := chanCore ch, count := 1 } := by
    unfold CanSend boundaryOpen halfUp at hsend ⊢
    simpa only [rd, hflds, hdie] using hsend
  obtain ⟨fl, hsent, -⟩ := sendWm_eq (by simp) hsend'
  refine ⟨_, execDescComplete_eq hqueue hphase hawaiting hreds hctx hphys hwcb, ?_⟩
  simp only [hdone, if_true]
  refine ⟨?_, sent_of_sendWm (by simp) hsend' hflds hwm rfl rfl⟩
  rw [hsent]
  exact ⟨hchan, hcores, hmem, hrec⟩

end

end Sys2Proof.Machine
end

section
/-! SUPPORT. A step of a deck engine on its own descriptor (R246, R247, R249): what each outcome of its checks does. -/

namespace Sys2Proof.Machine

/-! ### The descriptor at the head of a queue -/

section
variable {s t : State} {ch : Nat} {d : DDesc} {rest : List DDesc}

theorem current_of_head (hqueue : (getChan s ch).queue = d :: rest) (hphase : d.phase ≠ 2) : current s ch = some d := by
  simp [current, hqueue, hphase]

/-- The head of a queue changed: the rest of the channel and of the state stand. -/
theorem setCurrent_of_head (hqueue : (getChan s ch).queue = d :: rest) (hids : ∀ q ∈ rest, q.id ≠ d.id) (hphase : d.phase ≠ 2) (f : DDesc → DDesc) :
    setCurrent s ch f = setChan s ch { getChan s ch with queue := f d :: rest } := by
  have hrest : rest.map (fun q => if q.id = d.id then f q else q) = rest := (List.map_congr_left fun q hq => if_neg (hids q hq)).trans rest.map_id
  simp only [setCurrent, current_of_head hqueue hphase, hqueue, List.map_cons, if_true, hrest]

theorem queue_setChan (s : State) (ch : Nat) (x : Chan) : (getChan (setChan s ch x) ch).queue = x.queue := by rw [getChan_setChan, if_pos rfl]

/-- The head of the queue of `ch` became `x`; memory and register fields stand. -/
def HeadIs (s t : State) (ch : Nat) (x : DDesc) (rest : List DDesc) : Prop := t.mem = s.mem ∧ t.flds = s.flds ∧ (getChan t ch).queue = x :: rest

theorem HeadIs.setCurrent (hqueue : (getChan s ch).queue = d :: rest) (hids : ∀ q ∈ rest, q.id ≠ d.id) (hphase : d.phase ≠ 2) (f : DDesc → DDesc) :
    HeadIs s (setCurrent s ch f) ch (f d) rest := by
  rw [setCurrent_of_head hqueue hids hphase]
  exact ⟨rfl, rfl, queue_setChan _ _ _⟩

end

/-! ### The step (R246, R247, R249) -/

/-- The lines of a portion, each with whether it is written. -/
def portionLines (s : State) (ch : Nat) (d : DDesc) (v : Dv) (w : Work) : List (Nat × Bool) :=
  mergeLines (runLines s ch d.ctx (w.runs v) ++ if v.phys then physLines s w.v else [])

/-- Whether a line is to be asked for. -/
def needsAsk (s : State) (d : DDesc) (p : Nat × Bool) : Bool := resOf s (pageOf (locLine p.1 * 64)) ≠ 0 && !(d.asked.contains p.1 && lineReady s p.1 p.2)

/-- Ask the slices for lines and wait for their answers. -/
def askLines (s : State) (ch : Nat) (l : List (Nat × Bool)) : State :=
  claimLines (setCurrent s ch (fun q => { q with asked := q.asked ++ l.map (·.1), awaiting := l.map (·.1) })) ch l

/-- The parts of a portion that lie in other channels go to their engines. -/
def passParts (s : State) (ch : Nat) (d : DDesc) (left : List EngLine) : State :=
  each (distinct ((left.filter (fun p => p.chan ≠ ch)).map (·.chan))) (fun s to_ => passPart s ch to_ d) s

/-- The engine reads the next line of its own part, `left` lines being unread. -/
def readNext (s : State) (ch : Nat) (d : DDesc) (v : Dv) (out : EccOut) (left : Nat) (p : EngLine) (more : List EngLine) : State :=
  match engRead (useSlot s ch v.cls v.half) d.ctx p out with
  | (some (code, va), s) => descFault s ch d code (some va)
  | (none, s) =>
    let s := setCurrent s ch (fun q => { q with read := q.read ++ [p.line], passed := q.passed && left ≠ 1 })
    if more.isEmpty then partDone s ch ch d else s

/-- The tolls and slots of a portion whose effect is `t`. -/
def portionPaid (t : State) (d : DDesc) (v : Dv) (w : Work) (lines : List (Nat × Bool)) : State :=
  let gran := if v.half = 1 then w.rows.runs.length - 1 else 0
  each (lines.filter (·.2)) (fun s p => useSlot s (chanOf (locLine p.1 * 64)) v.cls 2) (toll t d.ctx 4 (64 * (lines.length - gran) + 16 * gran))

/-- What a portion leaves of its descriptor. -/
def portionEnds (rows : Rows) (w : Work) (r : DRes) (reds : List Msg) (q : DDesc) : DDesc :=
  { q with reds := q.reds ++ reds.map (·.line), arith := q.arith ||| r.fl, result := r.result, cand := r.cand
           skipped := if w.last then rows.skipped else 0, code := if w.last && rows.skipped ≠ 0 then 1 else 0 }

/-- The portion has its effect. -/
def portionDone (s : State) (ch : Nat) (d : DDesc) (v : Dv) (rows : Rows) (w : Work) (lines : List (Nat × Bool)) : State :=
  let r := descEffect s ch d.ctx v rows w d.cand
  let reds := redMsgs s ch d.ctx v r.reds
  each reds (fun s m => send s m) (unitDone (portionPaid r.s d v w lines) ch w.next w.last (portionEnds rows w r reds))

/-- A step on a portion of which the engine's own channel leads. -/
def portionStep (s : State) (ch : Nat) (d : DDesc) (v : Dv) (rows : Rows) (out : EccOut) : State :=
  let w := descWork d v rows
  let left := descLeft s ch d v rows
  let t := passParts s ch d left
  let lines := portionLines t ch d v w
  match left.filter (fun p => p.chan = ch) with
  | p :: more =>
    let l := (lines.filter (fun q => (p :: more).any (fun m => m.line = q.1) && needsAsk t d q)).take 64
    if !l.isEmpty then askLines t ch l else readNext t ch d v out left.length p more
  | [] =>
    if !left.isEmpty then
      (if left.all (fun p => (getChan t p.chan).sub.any (fun w => w.lead = ch && w.desc = d.id)) then setCurrent t ch (fun q => { q with passed := true }) else t)
    else
      let l := (lines.filter (needsAsk t d)).take 64
      if !l.isEmpty then askLines t ch l else portionDone t ch d v rows w lines

section
variable {s : State} {ch : Nat} {d : DDesc} {rest : List DDesc} {v : Dv} (hat : AtEngine s ch d rest v) (out : EccOut)
include hat

theorem AtEngine.head : (getChan s ch).queue = d :: rest ∧ (∀ q ∈ rest, q.id ≠ d.id) ∧ d.phase ≠ 2 := by
  obtain ⟨hqueue, hids, -, hphase, -⟩ := hat
  exact ⟨hqueue, hids, hphase⟩

/-- The checks of a descriptor that is not held back; its fields as `v` gives them. -/
theorem runUnit_checked : runUnit ⟨ch, out⟩ ch d s =
    if d.unit = 0 && (!(dview d.raw).ok d.turnpike || (v.stEn && v.stOff + 16 > loftSize (chanCore ch))) then descFault s ch d 0x0302 none else
      match v.runs.findSome? (runStop s ch d.ctx) with
      | some (.wait va acc) => engWalk s ch d va acc
      | some (.fault code addr) => descFault s ch d code addr
      | none => match tableRows s ch d.ctx v with
        | .error (.wait va acc) => engWalk s ch d va acc
        | .error (.fault code addr) => descFault s ch d code addr
        | .ok rows => match rows.runs.findSome? (runStop s ch d.ctx) with
          | some (.wait va acc) => engWalk s ch d va acc
          | some (.fault code addr) => descFault s ch d code addr
          | none => if unitCount v rows = 0 then unitDone s ch 0 true (fun q => { q with
              result := if v.op = 9 then v.param % 2 ^ 32 else 0, skipped := rows.skipped, code := if rows.skipped ≠ 0 then 1 else 0 })
            else portionStep s ch d v rows out := by
  obtain ⟨-, -, hv, -, -, -, hawait, hhalt, hpre, hgate, hdie, hserves, hready⟩ := hat
  have hheld : ((getCore s (chanCore ch)).halted && decide ((getCore s (chanCore ch)).ctx = some d.ctx)) = false := by
    rcases hhalt with h | h <;> simp [h]
  have hpre' : ((getCore s (chanCore ch)).preempting && !d.turnpike) = false := by
    rcases hpre with h | h <;> simp [h]
  unfold runUnit
  extract_lets chan raw v' c k half stop checked rowsOk
  have hv' : v = v' := hv
  clear_value v'
  subst hv'
  simp only [hawait, hheld, hpre', hgate, hdie, hserves, hready, chan, c, k, half, stop, checked, rowsOk, List.isEmpty_nil, Bool.not_true, Bool.or_self, Bool.false_eq_true, if_false]
  refine if_congr Iff.rfl rfl ?_
  cases hstop : v.runs.findSome? (runStop s ch d.ctx) with
  | some e => cases e <;> rfl
  | none =>
    dsimp only
    cases htable : tableRows s ch d.ctx v with
    | error e => cases e <;> rfl
    | ok rows =>
      dsimp only
      cases hrows : rows.runs.findSome? (runStop s ch d.ctx) with
      | some e => cases e <;> rfl
      | none =>
        dsimp only
        refine if_congr Iff.rfl rfl ?_
        simp only [if_true, ne_eq, not_true_eq_false, if_false]
        rfl

end

end Sys2Proof.Machine
end

section
/-! SUPPORT. The rows of the deck engines: faults, walks, parts passed on, lines asked for and read (R242, R246, R247, R249). -/

namespace Sys2Proof.Machine

/-- The rows of the operations, each with its number (R244). -/
def engineRows : List (Nat × (EngAt → Instr)) :=
  [(1, .copy), (2, .fill), (3, .zero), (4, .convert), (5, .reduce), (6, .gatherReduce), (7, .scatterAdd), (8, .topk), (9, .crc32c)]

theorem exec_engineRow {e : EngAt} {p : Nat × Instr} (hp : p ∈ engineRows.map (fun q => (q.1, q.2 e))) (s : State) :
    exec p.2 s = .next (engineRow p.1 e s) := by
  simp only [engineRows, List.map_cons, List.map_nil, List.mem_cons, List.not_mem_nil, or_false] at hp
  rcases hp with rfl | rfl | rfl | rfl | rfl | rfl | rfl | rfl | rfl <;> rfl

theorem engineRows_pos {e : EngAt} {p : Nat × Instr} (hp : p ∈ engineRows.map (fun q => (q.1, q.2 e))) : 1 ≤ p.1 := by
  obtain ⟨q, hq, rfl⟩ := List.mem_map.1 hp
  have hall : ∀ n ∈ engineRows.map (·.1), 1 ≤ n := by decide
  exact hall q.1 (List.mem_map_of_mem hq)

section
variable {s : State} {ch : Nat} {d : DDesc} {rest : List DDesc} {v : Dv} (hat : AtEngine s ch d rest v) {out : EccOut} {p : Nat × Instr}
  (hp : p ∈ engineRows.map (fun q => (q.1, q.2 ⟨ch, out⟩)))
include hat hp

/-- The row of a descriptor's operation, or any row on a reserved one, takes the engine's step. -/
theorem does_engine (hop : v.op = p.1 ∨ v.op = 0 ∨ 9 < v.op) {P : State → Prop} (hP : P (runUnit ⟨ch, out⟩ ch d s)) : Does p.2 s P := by
  obtain ⟨-, -, hv, -, hwork, -⟩ := hat
  have hraw : (dview d.raw).op = v.op := by rw [hv]
  have hstep : ¬(1 ≤ v.op ∧ v.op ≤ 9 ∧ v.op ≠ p.1) := by omega
  refine ⟨_, exec_engineRow hp s, ?_⟩
  simp only [engineRow, hwork, hraw, Bool.and_eq_true, decide_eq_true_eq, ne_eq, and_assoc, hstep, if_false]
  exact hP

end

/-! ### Faults and walks -/

/-- The record of a descriptor's fault (R98, R246). -/
def descRec (s : State) (ch : Nat) (d : DDesc) (code : Nat) (addr : Option Nat) : FaultRec :=
  let index := match addr.map (fun a => engAddr s ch d.ctx a .read) with | some (.ok a) => errIndex s (locLine (a / 64)) | _ => lastErr s
  { ctx := d.ctx, code := code, core := chanCore ch, pipe := d.pipe, slot := d.slot, group := !d.turnpike, addr := addr, manager := d.turnpike
    detail := match code with | 0x0302 => ch | 0x0207 => index | _ => 0 }

theorem descFault_eq (s : State) (ch : Nat) (d : DDesc) (code : Nat) (addr : Option Nat) : descFault s ch d code addr = raiseFault s (descRec s ch d code addr) := rfl

theorem descFault_spec (s : State) (ch : Nat) (d : DDesc) (code : Nat) (addr : Option Nat) :
    (descFault s ch d code addr).mem = s.mem ∧ (descFault s ch d code addr).flds = s.flds ∧
      ∃ r : FaultRec, (descFault s ch d code addr).sched.faults = s.sched.faults ++ [r] ∧ r.ctx = d.ctx ∧ r.code = code ∧ r.addr = addr ∧ (code = 0x0302 → r.detail = ch) := by
  rw [descFault_eq]
  obtain ⟨hfaults, hmem, hflds, -⟩ := raiseFault_spec s (descRec s ch d code addr)
  refine ⟨hmem, hflds, _, hfaults, rfl, rfl, rfl, ?_⟩
  rintro rfl
  rfl

theorem raiseFault_deck (s : State) (f : FaultRec) : (raiseFault s f).deck = s.deck :=
  each_keeps (P := fun t => t.deck = s.deck) _ (fun s c => setCore s c { getCore s c with halted := true }) (fun _ _ _ h => h) _ rfl

theorem engWalk_spec (s : State) (ch : Nat) (d : DDesc) (va : Nat) (acc : Access) :
    (engWalk s ch d va acc).mem = s.mem ∧ (engWalk s ch d va acc).flds = s.flds ∧ (getChan (engWalk s ch d va acc) ch).queue = (getChan s ch).queue ∧
      ∃ w ∈ (engWalk s ch d va acc).deck.walks, w.ctx = d.ctx ∧ w.va = va ∧ w.acc = acc ∧ w.agent = .engine ch := by
  unfold engWalk
  extract_lets w
  split
  · next hany =>
    obtain ⟨q, hq, heq⟩ := List.any_eq_true.1 hany
    have heq : { q with deferred := false } = w := by simpa using heq
    exact ⟨rfl, rfl, rfl, q, hq, congrArg WalkReq.ctx heq, congrArg WalkReq.va heq, congrArg WalkReq.acc heq, congrArg WalkReq.agent heq⟩
  · exact ⟨rfl, rfl, rfl, w, List.mem_append_right _ (List.mem_singleton_self w), rfl, rfl, rfl, rfl⟩

theorem descBad_iff (ch : Nat) (d : DDesc) (v : Dv) : (!(dview d.raw).ok d.turnpike || (v.stEn && decide (v.stOff + 16 > loftSize (chanCore ch)))) = true ↔ ¬DescOk ch d v := by
  unfold DescOk
  cases (dview d.raw).ok d.turnpike <;> cases v.stEn <;> simp

section
variable {s : State} {ch : Nat} {d : DDesc} {rest : List DDesc} {v : Dv} (hat : AtEngine s ch d rest v) {out : EccOut} {p : Nat × Instr}
  (hp : p ∈ engineRows.map (fun q => (q.1, q.2 ⟨ch, out⟩)))
include hat

theorem runUnit_bad (hbad : ¬DescOk ch d v) (hunit : d.unit = 0) : runUnit ⟨ch, out⟩ ch d s = descFault s ch d 0x0302 none := by
  rw [runUnit_checked hat, if_pos]
  simp only [hunit, decide_true, Bool.true_and]
  exact (descBad_iff ch d v).2 hbad

theorem runUnit_stop (hok : DescOk ch d v) {e : DStop} (hstop : v.runs.findSome? (runStop s ch d.ctx) = some e) :
    runUnit ⟨ch, out⟩ ch d s = match (generalizing := false) e with
      | .wait va acc => engWalk s ch d va acc
      | .fault code addr => descFault s ch d code addr := by
  have hgood := mt (descBad_iff ch d v).1 (not_not_intro hok)
  rw [runUnit_checked hat, if_neg (by simp only [Bool.and_eq_true]; exact fun h => hgood h.2), hstop]
  cases e <;> rfl

theorem runUnit_clear (hok : DescOk ch d v) {rows : Rows} (hclear : DescClear s ch d v rows) : runUnit ⟨ch, out⟩ ch d s =
    if unitCount v rows = 0 then unitDone s ch 0 true (fun q => { q with
      result := if v.op = 9 then v.param % 2 ^ 32 else 0, skipped := rows.skipped, code := if rows.skipped ≠ 0 then 1 else 0 })
    else portionStep s ch d v rows out := by
  obtain ⟨hruns, htable, hrows⟩ := hclear
  have hgood := mt (descBad_iff ch d v).1 (not_not_intro hok)
  rw [runUnit_checked hat, if_neg (by simp only [Bool.and_eq_true]; exact fun h => hgood h.2), List.findSome?_eq_none_iff.2 hruns, htable]
  dsimp only
  rw [List.findSome?_eq_none_iff.2 hrows]

include hp

/-- A descriptor that is not legal faults, as does a reserved operation. -/
theorem engine_bad (hbad : ¬DescOk ch d v) (hunit : d.unit = 0) (hop : v.op = p.1 ∨ v.op = 0 ∨ 9 < v.op) : Does p.2 s (fun t => t.mem = s.mem ∧ t.flds = s.flds ∧
    ∃ r : FaultRec, t.sched.faults = s.sched.faults ++ [r] ∧ r.ctx = d.ctx ∧ r.code = 0x0302 ∧ r.detail = ch) := by
  refine does_engine hat hp hop ?_
  rw [runUnit_bad hat hbad hunit]
  obtain ⟨hmem, hflds, r, hfaults, hctx, hcode, -, hdetail⟩ := descFault_spec s ch d 0x0302 none
  exact ⟨hmem, hflds, r, hfaults, hctx, hcode, hdetail rfl⟩

theorem engine_waits (hok : DescOk ch d v) (hop : v.op = p.1) {va : Nat} {acc : Access} (hstop : v.runs.findSome? (runStop s ch d.ctx) = some (.wait va acc)) :
    Does p.2 s (fun t => t.mem = s.mem ∧ t.flds = s.flds ∧ (getChan t ch).queue = d :: rest ∧
      ∃ w ∈ t.deck.walks, w.ctx = d.ctx ∧ w.va = va ∧ w.acc = acc ∧ w.agent = .engine ch) := by
  refine does_engine hat hp (.inl hop) ?_
  rw [runUnit_stop hat hok hstop]
  obtain ⟨hmem, hflds, hqueue, hwalk⟩ := engWalk_spec s ch d va acc
  exact ⟨hmem, hflds, hqueue.trans hat.head.1, hwalk⟩

theorem engine_faults (hok : DescOk ch d v) (hop : v.op = p.1) {code : Nat} {addr : Option Nat} (hstop : v.runs.findSome? (runStop s ch d.ctx) = some (.fault code addr)) :
    Does p.2 s (fun t => t.mem = s.mem ∧ t.flds = s.flds ∧ ∃ r : FaultRec, t.sched.faults = s.sched.faults ++ [r] ∧ r.ctx = d.ctx ∧ r.code = code ∧ r.addr = addr) := by
  refine does_engine hat hp (.inl hop) ?_
  rw [runUnit_stop hat hok hstop]
  obtain ⟨hmem, hflds, r, hfaults, hctx, hcode, haddr, -⟩ := descFault_spec s ch d code addr
  exact ⟨hmem, hflds, r, hfaults, hctx, hcode, haddr⟩

/-- A descriptor of no portion is done at once (R8). -/
theorem engine_empty (hok : DescOk ch d v) (hop : v.op = p.1) {rows : Rows} (hclear : DescClear s ch d v rows) (hcount : unitCount v rows = 0) :
    Does p.2 s (fun t => t.mem = s.mem ∧ t.flds = s.flds ∧ ∃ x : DDesc, (getChan t ch).queue = x :: rest ∧ x.raw = d.raw ∧ x.phase = 2 ∧
      x.arith = d.arith ∧ x.skipped = rows.skipped ∧ x.result = (if v.op = 9 then v.param % 2 ^ 32 else 0) ∧ x.code = if rows.skipped = 0 then 0 else 1) := by
  refine does_engine hat hp (.inl hop) ?_
  rw [runUnit_clear hat hok hclear, if_pos hcount]
  obtain ⟨hqueue, hids, hphase⟩ := hat.head
  obtain ⟨hmem, hflds, hhead⟩ := HeadIs.setCurrent hqueue hids hphase (fun q => (fun q : DDesc => { q with
      result := if v.op = 9 then v.param % 2 ^ 32 else 0, skipped := rows.skipped, code := if rows.skipped ≠ 0 then 1 else 0 })
        { q with unit := 0, asked := [], read := [], passed := false, phase := if true then 2 else q.phase, trans := if true then [] else q.trans })
  exact ⟨hmem, hflds, _, hhead, rfl, rfl, rfl, rfl, rfl, ite_not _ _ _⟩

end

/-! ### Parts of a portion go to their engines (R242, R249) -/

section
variable {s : State} {ch : Nat} {d : DDesc}

theorem passPart_eq (s : State) (ch to_ : Nat) (d : DDesc) : passPart s ch to_ d = { s with deck := { s.deck with chans := (passPart s ch to_ d).deck.chans } } := by
  unfold passPart
  dsimp only
  split <;> rfl

theorem getChan_passPart_ne {c to_ : Nat} (h : c ≠ to_) : getChan (passPart s ch to_ d) c = getChan s c := by
  unfold passPart
  dsimp only
  split
  · rfl
  · rw [getChan_setChan, if_neg h]

/-- The engine of channel `c` holds a part of the portion in hand. -/
def HasPart (s : State) (ch : Nat) (d : DDesc) (c : Nat) : Prop := ∃ q ∈ (getChan s c).sub, q.lead = ch ∧ q.desc = d.id

theorem HasPart.passPart {c : Nat} (h : HasPart s ch d c) (to_ : Nat) : HasPart (passPart s ch to_ d) ch d c := by
  by_cases hc : c = to_
  · subst hc
    obtain ⟨q, hq, hlead⟩ := h
    unfold Machine.passPart
    dsimp only
    split
    · exact ⟨q, hq, hlead⟩
    · refine ⟨q, ?_, hlead⟩
      rw [getChan_setChan, if_pos rfl]
      exact List.mem_append_left _ hq
  · unfold HasPart
    rw [getChan_passPart_ne hc]
    exact h

theorem hasPart_passPart {c : Nat} (hroom : (getChan s c).sub.length < 4) : HasPart (passPart s ch c d) ch d c := by
  unfold passPart
  dsimp only
  split
  · next hfull =>
    rw [Bool.or_eq_true, decide_eq_true_eq] at hfull
    obtain ⟨q, hq, heq⟩ := List.any_eq_true.1 (hfull.resolve_left (Nat.not_le.2 hroom))
    exact ⟨q, hq, by simpa using heq⟩
  · refine ⟨{ lead := ch, desc := d.id, at_ := s.deck.nextId }, ?_, rfl, rfl⟩
    rw [getChan_setChan, if_pos rfl]
    exact List.mem_append_right _ (List.mem_singleton_self _)

theorem passParts_eq (left : List EngLine) : passParts s ch d left = { s with deck := { s.deck with chans := (passParts s ch d left).deck.chans } } :=
  each_keeps (P := fun t => t = { s with deck := { s.deck with chans := t.deck.chans } }) _ _ (fun t c _ ht => by
    rw [passPart_eq t, ht]) s rfl

theorem getChan_passParts_own (left : List EngLine) : getChan (passParts s ch d left) ch = getChan s ch :=
  each_keeps (P := fun t => getChan t ch = getChan s ch) _ _ (fun t c hc ht => by
    obtain ⟨l, hl, rfl⟩ := List.mem_map.1 (mem_distinct.1 hc)
    have hne : l.chan ≠ ch := by simpa using (List.mem_filter.1 hl).2
    exact (getChan_passPart_ne (Ne.symm hne)).trans ht) s rfl

/-- Each part whose engine has room for it is passed on. -/
theorem hasPart_passParts {left : List EngLine} {l : EngLine} (hl : l ∈ left) (hne : l.chan ≠ ch) (hroom : (getChan s l.chan).sub.length < 4) :
    HasPart (passParts s ch d left) ch d l.chan := by
  have hmem : l.chan ∈ distinct ((left.filter (fun p => p.chan ≠ ch)).map (·.chan)) := mem_distinct.2 (List.mem_map.2 ⟨l, List.mem_filter.2 ⟨hl, by simpa using hne⟩, rfl⟩)
  obtain ⟨a, b, hab⟩ := List.append_of_mem hmem
  unfold passParts
  rw [hab, each, List.foldl_append, List.foldl_cons]
  have hbefore : HasPart (each a (fun s to_ => passPart s ch to_ d) s) ch d l.chan ∨ getChan (each a (fun s to_ => passPart s ch to_ d) s) l.chan = getChan s l.chan :=
    each_keeps (P := fun t => HasPart t ch d l.chan ∨ getChan t l.chan = getChan s l.chan) a _ (fun t c _ ht => by
      rcases ht with ht | ht
      · exact .inl (ht.passPart c)
      · by_cases hc : l.chan = c
        · subst hc
          exact .inl (hasPart_passPart (by rw [ht]; exact hroom))
        · exact .inr ((getChan_passPart_ne hc).trans ht)) s (.inr rfl)
  have hat : HasPart (passPart (each a (fun s to_ => passPart s ch to_ d) s) ch l.chan d) ch d l.chan := by
    rcases hbefore with h | h
    · exact h.passPart _
    · exact hasPart_passPart (by rw [h]; exact hroom)
  exact each_keeps (P := fun t => HasPart t ch d l.chan) b _ (fun t c _ ht => ht.passPart c) _ hat

end

end Sys2Proof.Machine
end

section
/-! SUPPORT. Lines that an engine asks for, and lines that it reads (R230, R237, R247, R249). -/

namespace Sys2Proof.Machine

/-! ### A line read at its channel (R237) -/

/-- The fields that records of the deck's errors move, but for the counts of a channel. -/
def recordFlds : List Fld :=
  [.RL_ERR_HEAD_COUNT, .RL_ERR_HEAD_WRAPPED, .DK_RETIRE_COUNT_FULL, .DK_RETIRE_DATA_PAGE, .DK_RETIRE_DATA_REASON, .DK_RETIRE_DATA_HOURS, .DK_RETIRE_COUNT_COUNT,
   .DK_RETIRE_COUNT_PENDING]

theorem logErr_frame (s : State) (r : ErrRec) : FldFrame s (logErr s r) recordFlds := by
  obtain ⟨-, hframe, -⟩ := logErr_spec s r
  exact hframe.mono (by decide) (List.Subset.refl _)

theorem pageCandidate_frame (s : State) (page reason : Nat) : FldFrame s (pageCandidate s page reason) recordFlds := by
  have hwr : ∀ {t : State} (f : Fld) (i v : Nat), FldFrame s t recordFlds → f ∈ recordFlds → FldFrame s (wr t f i v) recordFlds := fun f i v h hf => h.wr i v (.inl hf)
  unfold pageCandidate
  split
  · exact .refl _ _ _
  · split
    · extract_lets _ t
      have ht : FldFrame s t recordFlds := .of_flds rfl
      exact (hwr _ _ _ ht (by decide)).trans (logErr_frame _ _)
    · unfold retirePage
      extract_lets n r t u w
      have ht : FldFrame s t recordFlds := hwr _ _ _ (hwr _ _ _ (hwr _ _ _ (.refl _ _ _) (by decide)) (by decide)) (by decide)
      have hu : FldFrame s u recordFlds := hwr _ _ _ ht (by decide)
      split
      · exact (hwr _ _ _ (.refl _ _ _) (by decide)).trans (logErr_frame _ _)
      · have hw : FldFrame s w recordFlds := by
          unfold w
          split
          · exact hwr _ _ _ hu (by decide)
          · exact hu
        have hretired : FldFrame w { w with deck := { w.deck with retired := w.deck.retired ++ [page] } } recordFlds := .of_flds rfl
        exact (hw.trans hretired).trans (logErr_frame _ _)

/-- An uncorrectable line is counted at its channel. -/
theorem lineUncorrectable_counts (s : State) (loc : Nat) (mark : Bool) :
    rd (lineUncorrectable s loc mark) .DK_CHAN_STATUS_UNCORR (chanOf (loc * 64)) = min (rd s .DK_CHAN_STATUS_UNCORR (chanOf (loc * 64)) + 1) 255 := by
  unfold lineUncorrectable
  extract_lets ch t u
  have ht : rd t .DK_CHAN_STATUS_UNCORR ch = min (rd s .DK_CHAN_STATUS_UNCORR ch + 1) 255 := by
    have hcap : min (rd s .DK_CHAN_STATUS_UNCORR ch + 1) 255 < 256 := by omega
    exact (rd_wr_fld _ _ _ _ (by decide)).trans ((rd_wr_self _ _ _ _).trans (Nat.mod_eq_of_lt hcap))
  have hu : rd u .DK_CHAN_STATUS_UNCORR ch = rd t .DK_CHAN_STATUS_UNCORR ch := logErr_frame t _ _ _ (by decide) (by decide)
  split
  · exact hu.trans ht
  · exact (pageCandidate_frame u _ _ _ _ (by decide) (by decide)).trans (hu.trans ht)

/-- A line that carries no mark reads well where the check finds nothing. -/
theorem engRead_ok {s : State} {p : EngLine} (ctx : Nat) (hmark : getMark s (locLine p.line) = none) : engRead s ctx p .ok = (none, s) := by
  simp [engRead, arrayRead, hmark]

theorem engRead_uncorrectable {s : State} {p : EngLine} (ctx : Nat) (hmark : getMark s (locLine p.line) = none) :
    engRead s ctx p .uncorrectable = (some (0x0207, p.va), lineUncorrectable (setMark s (locLine p.line) (some .bad)) (locLine p.line) false) := by
  simp [engRead, arrayRead, hmark]

theorem engRead_keepsQueues (s : State) (ctx : Nat) (p : EngLine) (out : EccOut) : KeepsQueues s (engRead s ctx p out).2 := arrayRead_keepsQueues s _ out

/-- Slots taken mark no line and fault nothing. -/
theorem useSlot_marks (s : State) (ch : Nat) (q : QClass) (half : Nat) : (useSlot s ch q half).deck.marks = s.deck.marks ∧ (useSlot s ch q half).sched = s.sched := by
  unfold useSlot
  dsimp only
  split <;> exact ⟨rfl, rfl⟩

/-! ### The sub-queues of other engines stand -/

/-- The sub-queue of a channel's engine stands. -/
def KeepsSub (c : Nat) (s t : State) : Prop := (getChan t c).sub = (getChan s c).sub

namespace KeepsSub

variable {c : Nat} {s t u : State}

theorem refl (c : Nat) (s : State) : KeepsSub c s s := rfl

theorem trans (h : KeepsSub c s t) (k : KeepsSub c t u) : KeepsSub c s u := Eq.trans k h

theorem setCurrent (c : Nat) (s : State) (ch : Nat) (f : DDesc → DDesc) : KeepsSub c s (setCurrent s ch f) := by
  unfold KeepsSub Machine.setCurrent
  split
  · rfl
  · rw [getChan_setChan]
    split
    · next h => rw [h]
    · rfl

theorem partDone {ch : Nat} (h : c ≠ ch) (s : State) (lead : Nat) (d : DDesc) : KeepsSub c s (partDone s ch lead d) := by
  unfold KeepsSub Machine.partDone
  rw [getChan_setChan, if_neg h]

theorem of_deck (h : t.deck = s.deck) : KeepsSub c s t := by unfold KeepsSub getChan; rw [h]

end KeepsSub

/-- CLEAN or CLAIM of a line (R230, R247). -/
def claimMsg (ch : Nat) (p : Nat × Bool) : Msg :=
  { kind := if p.2 then .claim else .clean, req := .engine ch, die := homeDie p.1, slice := sliceOf p.1, line := p.1, id := 0 }

theorem claimLines_eq (s : State) (ch : Nat) (l : List (Nat × Bool)) :
    claimLines s ch l = { s with coh := { s.coh with net := s.coh.net ++ l.map (claimMsg ch) } } := each_send l (claimMsg ch) s

section
variable {s : State} {ch : Nat} {d : DDesc} {rest : List DDesc} {v : Dv}

theorem askLines_keepsSub (c : Nat) (s : State) (ch : Nat) (l : List (Nat × Bool)) : KeepsSub c s (askLines s ch l) := by
  unfold askLines
  rw [claimLines_eq]
  exact (KeepsSub.setCurrent c s ch _).trans (.of_deck rfl)

theorem readNext_keepsSub {c : Nat} (h : c ≠ ch) (s : State) (d : DDesc) (v : Dv) (out : EccOut) (n : Nat) (p : EngLine) (more : List EngLine) :
    KeepsSub c s (readNext s ch d v out n p more) := by
  have hread : KeepsSub c s (engRead (useSlot s ch v.cls v.half) d.ctx p out).2 :=
    ((useSlot_writes s ch v.cls v.half).queues.trans (engRead_keepsQueues _ d.ctx p out)).sub c
  unfold readNext
  cases hres : engRead (useSlot s ch v.cls v.half) d.ctx p out with
  | mk trouble t =>
    rw [hres] at hread
    cases trouble with
    | some f => exact hread.trans (.of_deck (raiseFault_deck t _))
    | none =>
      dsimp only
      split
      · exact (hread.trans (.setCurrent c t ch _)).trans (.partDone h _ _ _)
      · exact hread.trans (.setCurrent c t ch _)

/-- A step moves no sub-queue of another engine, beyond the parts that it passes on. -/
theorem portionStep_keepsSub {c : Nat} (h : c ≠ ch) {rows : Rows} (out : EccOut) (hleft : descLeft s ch d v rows ≠ []) :
    KeepsSub c (passParts s ch d (descLeft s ch d v rows)) (portionStep s ch d v rows out) := by
  unfold portionStep
  extract_lets w left t lines
  have hleft' : left.isEmpty = false := by simpa using hleft
  simp only [hleft', Bool.not_false, if_true]
  split
  · split
    · exact askLines_keepsSub c t ch _
    · exact readNext_keepsSub h t d v out _ _ _
  · split
    · exact .setCurrent c t ch _
    · exact .refl c t

/-! ### What parts passed on leave -/

/-- Only the channels' records may differ, and not that of `ch`. -/
structure OtherChans (s t : State) (ch : Nat) : Prop where
  eq : t = { s with deck := { s.deck with chans := t.deck.chans } }
  own : getChan t ch = getChan s ch

theorem passParts_others (s : State) (ch : Nat) (d : DDesc) (left : List EngLine) : OtherChans s (passParts s ch d left) ch := ⟨passParts_eq left, getChan_passParts_own left⟩

namespace OtherChans

variable {t : State} (h : OtherChans s t ch)
include h

theorem engAddr (ctx va : Nat) (acc : Access) : engAddr t ch ctx va acc = engAddr s ch ctx va acc := by
  have hcur : current t ch = current s ch := by unfold current; rw [h.own]
  unfold Machine.engAddr
  rw [hcur, h.eq]
  rfl

theorem portionLines (d : DDesc) (v : Dv) (w : Work) : portionLines t ch d v w = portionLines s ch d v w := by
  have hphys : physLines t w.v = physLines s w.v := by rw [h.eq]; rfl
  simp only [Machine.portionLines, runLines, h.engAddr, hphys]

theorem needsAsk (d : DDesc) (p : Nat × Bool) : needsAsk t d p = needsAsk s d p := by
  rw [h.eq]
  rfl

end OtherChans

theorem useSlot_getMark {t : State} (h : OtherChans s t ch) (v : Dv) (n : Nat) : getMark (useSlot t ch v.cls v.half) n = getMark s n := by
  rw [getMark, (useSlot_marks _ _ _ _).1, h.eq]
  rfl

theorem descAsks_eq (s : State) (ch : Nat) (d : DDesc) (v : Dv) (rows : Rows) : descAsks s ch d v rows = (portionLines s ch d v (descWork d v rows)).filter (needsAsk s d) := rfl

/-- Nothing asked for, a line of the engine's own part is read. -/
theorem portionStep_reads {rows : Rows} (out : EccOut) {l : EngLine} {more : List EngLine} (hown : (descLeft s ch d v rows).filter (fun l => l.chan = ch) = l :: more)
    (hasks : descAsks s ch d v rows = []) :
    ∃ t, OtherChans s t ch ∧ portionStep s ch d v rows out = readNext t ch d v out (descLeft s ch d v rows).length l more := by
  have ht := passParts_others s ch d (descLeft s ch d v rows)
  refine ⟨_, ht, ?_⟩
  rw [descAsks_eq, List.filter_eq_nil_iff] at hasks
  have hnone : ∀ f : Nat × Bool → Bool, ((portionLines s ch d v (descWork d v rows)).filter (fun q => f q && needsAsk s d q)).take 64 = [] := fun f => by
    rw [List.filter_eq_nil_iff.2 fun q hq hboth => hasks q hq (Bool.and_eq_true_iff.1 hboth).2]
    rfl
  unfold portionStep
  simp only [hown, ht.portionLines, ht.needsAsk, hnone, List.isEmpty_nil, Bool.not_true, Bool.false_eq_true, if_false]

/-- Nothing left to read, what a slice may hold is asked for, 64 lines at most. -/
theorem portionStep_asks {rows : Rows} (out : EccOut) (hleft : descLeft s ch d v rows = []) (hasks : descAsks s ch d v rows ≠ []) :
    portionStep s ch d v rows out = askLines s ch ((descAsks s ch d v rows).take 64) := by
  have hsome : (((portionLines s ch d v (descWork d v rows)).filter (needsAsk s d)).take 64).isEmpty = false := by
    rw [← descAsks_eq]
    cases h : descAsks s ch d v rows with
    | nil => exact absurd h hasks
    | cons a l => rfl
  unfold portionStep
  simp only [hleft, passParts, List.filter_nil, List.map_nil, show distinct [] = [] from rfl, each_nil, List.isEmpty_nil, Bool.not_true, Bool.false_eq_true, if_false, hsome, Bool.not_false, if_true]
  rfl

/-- Nothing left to read and nothing to ask for, the portion has its effect. -/
theorem portionStep_done {rows : Rows} (out : EccOut) (hleft : descLeft s ch d v rows = []) (hasks : descAsks s ch d v rows = []) :
    portionStep s ch d v rows out = portionDone s ch d v rows (descWork d v rows) (portionLines s ch d v (descWork d v rows)) := by
  rw [descAsks_eq] at hasks
  unfold portionStep
  simp only [hleft, passParts, List.filter_nil, List.map_nil, show distinct [] = [] from rfl, each_nil, List.isEmpty_nil, Bool.not_true, Bool.false_eq_true, if_false, hasks, List.take_nil]

end

/-! ### The rows -/

section
variable {s : State} {ch : Nat} {d : DDesc} {rest : List DDesc} {v : Dv} {rows : Rows} (hat : AtEngine s ch d rest v) {out : EccOut} {p : Nat × Instr}
  (hp : p ∈ engineRows.map (fun q => (q.1, q.2 ⟨ch, out⟩))) (hok : DescOk ch d v) (hop : v.op = p.1) (hclear : DescClear s ch d v rows) (hcount : unitCount v rows ≠ 0)
include hat hp hok hop hclear hcount

theorem does_portion {P : State → Prop} (hP : P (portionStep s ch d v rows out)) : Does p.2 s P := by
  refine does_engine hat hp (.inl hop) ?_
  rw [runUnit_clear hat hok hclear, if_neg hcount]
  exact hP

/-- What lies in another channel of the group goes to its engine. -/
theorem engine_passes {l : EngLine} (hl : l ∈ descLeft s ch d v rows) (hne : l.chan ≠ ch) (hroom : (getChan s l.chan).sub.length < 4) :
    Does p.2 s (fun t => ∃ q ∈ (getChan t l.chan).sub, q.lead = ch ∧ q.desc = d.id) := by
  refine does_portion hat hp hok hop hclear hcount ?_
  rw [portionStep_keepsSub hne out (List.ne_nil_of_mem hl)]
  exact hasPart_passParts hl hne hroom

section
variable {l : EngLine} {more : List EngLine} (hown : (descLeft s ch d v rows).filter (fun l => l.chan = ch) = l :: more) (hasks : descAsks s ch d v rows = [])
  (hmark : getMark s (locLine l.line) = none)
include hown hasks hmark

theorem engine_reads (hout : out = .ok) : Does p.2 s (fun t => t.mem = s.mem ∧ t.flds = s.flds ∧ ∃ x : DDesc, (getChan t ch).queue = x :: rest ∧ x.raw = d.raw ∧ x.unit = d.unit ∧
    x.phase = d.phase ∧ x.read = d.read ++ [l.line]) := by
  subst hout
  refine does_portion hat hp hok hop hclear hcount ?_
  obtain ⟨t, ht, hstep⟩ := portionStep_reads .ok hown hasks
  obtain ⟨hqueue, hids, hphase⟩ := hat.head
  rw [hstep]
  have hu := useSlot_writes t ch v.cls v.half
  obtain ⟨hmem, hflds, -⟩ := useSlot_store t ch v.cls v.half
  have hmark' := (useSlot_getMark ht v (locLine l.line)).trans hmark
  have hqueue' : (getChan (useSlot t ch v.cls v.half) ch).queue = d :: rest := by rw [hu.queues.queue, ht.own, hqueue]
  obtain ⟨hmem', hflds', hhead⟩ := HeadIs.setCurrent hqueue' hids hphase (fun q => { q with read := q.read ++ [l.line], passed := q.passed && (descLeft s ch d v rows).length ≠ 1 })
  have hboth : ∀ {x : State}, x.mem = (useSlot t ch v.cls v.half).mem → x.flds = (useSlot t ch v.cls v.half).flds → x.mem = s.mem ∧ x.flds = s.flds := fun hm hf =>
    ⟨(hm.trans hmem).trans (by rw [ht.eq]), (hf.trans hflds).trans (by rw [ht.eq])⟩
  unfold readNext
  rw [engRead_ok d.ctx hmark']
  dsimp only
  split
  · obtain ⟨hm, hf⟩ := hboth hmem' hflds'
    exact ⟨hm, hf, _, (queue_setChan _ _ _).trans hhead, rfl, rfl, rfl, rfl⟩
  · obtain ⟨hm, hf⟩ := hboth hmem' hflds'
    exact ⟨hm, hf, _, hhead, rfl, rfl, rfl, rfl⟩

theorem engine_uncorrectable (hout : out = .uncorrectable) : Does p.2 s (fun t => t.mem = s.mem ∧
    rd t .DK_CHAN_STATUS_UNCORR (chanOf (locLine l.line * 64)) = min (rd s .DK_CHAN_STATUS_UNCORR (chanOf (locLine l.line * 64)) + 1) 255 ∧
    ∃ r : FaultRec, t.sched.faults = s.sched.faults ++ [r] ∧ r.ctx = d.ctx ∧ r.code = 0x0207 ∧ r.addr = some l.va) := by
  subst hout
  refine does_portion hat hp hok hop hclear hcount ?_
  obtain ⟨t, ht, hstep⟩ := portionStep_reads .uncorrectable hown hasks
  rw [hstep]
  obtain ⟨hmem, hflds, -⟩ := useSlot_store t ch v.cls v.half
  have hsched : (useSlot t ch v.cls v.half).sched = s.sched := (useSlot_marks _ _ _ _).2.trans (by rw [ht.eq])
  have hmark' := (useSlot_getMark ht v (locLine l.line)).trans hmark
  unfold readNext
  rw [engRead_uncorrectable d.ctx hmark']
  dsimp only
  have hcounts := lineUncorrectable_counts (setMark (useSlot t ch v.cls v.half) (locLine l.line) (some .bad)) (locLine l.line) false
  have hkeeps := lineUncorrectable_keepsButRecords (setMark (useSlot t ch v.cls v.half) (locLine l.line) (some .bad)) (locLine l.line) false
  generalize lineUncorrectable (setMark (useSlot t ch v.cls v.half) (locLine l.line) (some .bad)) (locLine l.line) false = u at hcounts hkeeps ⊢
  obtain ⟨hmem', hflds', r, hfaults, hctx, hcode, haddr, -⟩ := descFault_spec u ch d 0x0207 (some l.va)
  refine ⟨hmem'.trans ?_, ((rd_congr hflds' _ _).trans hcounts).trans ?_, r, hfaults.trans ?_, hctx, hcode, haddr⟩
  · rw [hkeeps.eq]
    exact hmem.trans (by rw [ht.eq])
  · rw [rd_congr (show (setMark (useSlot t ch v.cls v.half) (locLine l.line) (some .bad)).flds = s.flds from hflds.trans (by rw [ht.eq]))]
  · rw [hkeeps.eq]
    exact congrArg (fun q => q.faults ++ [r]) hsched

end

theorem engine_asks (hleft : descLeft s ch d v rows = []) (hasks : descAsks s ch d v rows ≠ []) :
    Does p.2 s (fun t => t.mem = s.mem ∧ t.flds = s.flds ∧
      (∃ x : DDesc, (getChan t ch).queue = x :: rest ∧ x.unit = d.unit ∧ x.awaiting = ((descAsks s ch d v rows).take 64).map (·.1)) ∧
      ∀ q ∈ (descAsks s ch d v rows).take 64, ∃ m ∈ t.coh.net, m.line = q.1 ∧ m.req = .engine ch ∧ m.kind = if q.2 then .claim else .clean) := by
  refine does_portion hat hp hok hop hclear hcount ?_
  rw [portionStep_asks out hleft hasks, askLines, claimLines_eq]
  obtain ⟨hqueue, hids, hphase⟩ := hat.head
  generalize (descAsks s ch d v rows).take 64 = ask
  obtain ⟨hmem, hflds, hhead⟩ := HeadIs.setCurrent hqueue hids hphase (fun q => { q with asked := q.asked ++ ask.map (·.1), awaiting := ask.map (·.1) })
  exact ⟨hmem, hflds, ⟨_, hhead, rfl, rfl⟩, fun q hq => ⟨claimMsg ch q, List.mem_append_right _ (List.mem_map_of_mem hq), rfl, rfl, rfl⟩⟩

end

end Sys2Proof.Machine
end

section
/-! SUPPORT. The effect of a portion (R244, R249, R252); and O51. -/

namespace Sys2Proof.Machine

/-! ### What an effect leaves -/

theorem freeCtr_writes (s : State) (n : Nat) : Writes s { s with freeCtr := n } := .of_eq rfl rfl rfl rfl rfl rfl rfl

theorem deWrite_writes (s : State) (ch ctx : Nat) (loft : Bool) (a : Nat) (bs : List Byte) : Writes s (deWrite s ch ctx loft a bs) := by
  unfold deWrite
  split
  · exact .of_eq rfl rfl rfl rfl rfl rfl rfl
  · refine .each (fun t p => ?_) _ s
    split
    · exact orderWriteBytes_writes _ _ _ _
    · exact .refl t

theorem putRow_writes {s : State} {r : DRes} (h : Writes s r.s) (ch ctx : Nat) (v : Dv) (a : Nat) (bs : List Byte) : Writes s (putRow ch ctx v r a bs).s := by
  unfold putRow
  split
  · exact h
  · exact h.trans (deWrite_writes _ _ _ _ _ _)

/-- Results row after row, each of which writes. -/
theorem foldl_writes {α : Type} {f : DRes → α → DRes} (hf : ∀ r a, Writes r.s (f r a).s) (l : List α) (r : DRes) : Writes r.s (l.foldl f r).s := by
  induction l generalizing r with
  | nil => exact .refl _
  | cons a l ih => exact (hf r a).trans (ih _)

theorem descResult_writes (s : State) (ch ctx : Nat) (w : Work) (cand : List (Nat × Nat)) : Writes s (descResult s ch ctx w cand).s := by
  unfold descResult
  dsimp only
  split
  · exact deWrite_writes _ _ _ _ _ _
  · exact deWrite_writes _ _ _ _ _ _
  · split
    · exact orderWriteBytes_writes _ _ _ _
    · exact deWrite_writes _ _ _ _ _ _
  · split
    · refine putRow_writes ?_ _ _ _ _ _
      exact freeCtr_writes _ _
    · exact ((freeCtr_writes _ _).trans (deWrite_writes _ _ _ _ _ _)).trans (deWrite_writes _ _ _ _ _ _)
  · refine putRow_writes ?_ _ _ _ _ _
    exact freeCtr_writes _ _
  · refine foldl_writes (fun r b => ?_) _ { s := s }
    split
    · exact freeCtr_writes _ _
    · refine putRow_writes ?_ _ _ _ _ _
      exact freeCtr_writes _ _
  · exact foldl_writes (fun r b => deWrite_writes _ _ _ _ _ _) _ { s := s }
  · split
    · exact .refl s
    · exact (deWrite_writes _ _ _ _ _ _).trans (deWrite_writes _ _ _ _ _ _)
  · exact .refl s

theorem descEffect_writes (s : State) (ch ctx : Nat) (v : Dv) (rows : Rows) (w : Work) (cand : List (Nat × Nat)) : Writes s (descEffect s ch ctx v rows w cand).s := by
  have hres := descResult_writes s ch ctx w cand
  unfold descEffect
  extract_lets r s1
  split
  · exact hres
  · have h1 : Writes r.s s1 := .each (fun t q => (freeCtr_writes t _).trans (deWrite_writes _ _ _ _ _ _)) _ _
    exact (hres.trans h1).trans (freeCtr_writes _ _)

/-- Tolls and slots move neither memory nor a register field nor a queue. -/
theorem portionPaid_spec (t : State) (d : DDesc) (v : Dv) (w : Work) (lines : List (Nat × Bool)) :
    (portionPaid t d v w lines).mem = t.mem ∧ (portionPaid t d v w lines).flds = t.flds ∧ ∀ c, (getChan (portionPaid t d v w lines) c).queue = (getChan t c).queue := by
  have htoll : ∀ n, (toll t d.ctx 4 n).mem = t.mem ∧ (toll t d.ctx 4 n).flds = t.flds ∧ (toll t d.ctx 4 n).deck = t.deck := fun n => by
    unfold toll
    split <;> exact ⟨rfl, rfl, rfl⟩
  unfold portionPaid
  extract_lets gran
  obtain ⟨hmem, hflds, hdeck⟩ := htoll (64 * (lines.length - gran) + 16 * gran)
  exact each_keeps (P := fun u => u.mem = t.mem ∧ u.flds = t.flds ∧ ∀ c, (getChan u c).queue = (getChan t c).queue) _ _ (fun u q _ ⟨hm, hf, hq⟩ => by
    obtain ⟨hm', hf', -⟩ := useSlot_store u (chanOf (locLine q.1 * 64)) v.cls 2
    exact ⟨hm'.trans hm, hf'.trans hf, fun c => ((useSlot_writes u _ v.cls 2).queues.queue c).trans (hq c)⟩) _ ⟨hmem, hflds, fun c => by rw [getChan, hdeck]; rfl⟩

/-- A portion leaves its effect, and of its descriptor the progress. -/
theorem portionDone_spec {s : State} {ch : Nat} {d : DDesc} {rest : List DDesc} (hqueue : (getChan s ch).queue = d :: rest) (hids : ∀ q ∈ rest, q.id ≠ d.id) (hphase : d.phase ≠ 2)
    (v : Dv) (rows : Rows) (w : Work) (lines : List (Nat × Bool)) :
    (portionDone s ch d v rows w lines).mem = (descEffect s ch d.ctx v rows w d.cand).s.mem ∧
      (portionDone s ch d v rows w lines).flds = (descEffect s ch d.ctx v rows w d.cand).s.flds ∧
      ∃ x : DDesc, (getChan (portionDone s ch d v rows w lines) ch).queue = x :: rest ∧ x.raw = d.raw ∧ x.unit = w.next ∧ x.phase = (if w.last then 2 else d.phase) ∧
        x.arith = d.arith ||| (descEffect s ch d.ctx v rows w d.cand).fl ∧ x.result = (descEffect s ch d.ctx v rows w d.cand).result ∧
        (w.last = true → x.skipped = rows.skipped ∧ x.code = if rows.skipped = 0 then 0 else 1) := by
  have heffect := (descEffect_writes s ch d.ctx v rows w d.cand).queues.queue ch
  unfold portionDone
  extract_lets r reds
  obtain ⟨hmem, hflds, hpaid⟩ := portionPaid_spec r.s d v w lines
  have hqueue' : (getChan (portionPaid r.s d v w lines) ch).queue = d :: rest := (hpaid ch).trans (heffect.trans hqueue)
  obtain ⟨hmem', hflds', hhead⟩ := HeadIs.setCurrent hqueue' hids hphase (fun q => portionEnds rows w r reds
    { q with unit := w.next, asked := [], read := [], passed := false, phase := if w.last then 2 else q.phase, trans := if w.last then [] else q.trans })
  rw [show each reds (fun s m => send s m) = each reds (fun s m => send s (id m)) from rfl, each_send]
  refine ⟨hmem'.trans hmem, hflds'.trans hflds, _, hhead, rfl, rfl, rfl, rfl, rfl, fun hlast => ?_⟩
  simp only [portionEnds, hlast, if_true, Bool.true_and, decide_eq_true_eq, true_and]
  exact ite_not _ _ _

/-! ### COPY, FILL, ZERO and CRC32C between lofts (R244) -/

/-- The portion of one of these. -/
def plainPart (d : DDesc) (v : Dv) : Dv :=
  { v with param := if v.op = 9 && d.unit ≠ 0 then d.result else v.param, len := min 64 (v.len - 64 * d.unit), src := v.src + 64 * d.unit, dst := v.dst + 64 * d.unit }

theorem descWork_plain {d : DDesc} {v : Dv} (rows : Rows) (hop : v.op = 1 ∨ v.op = 2 ∨ v.op = 3 ∨ v.op = 9) : (descWork d v rows).v = plainPart d v ∧ (descWork d v rows).rows = {} := by
  rcases hop with hop | hop | hop | hop
  case inr.inr.inr =>
    by_cases hunit : d.unit = 0 <;> simp [descWork, portionOf, plainPart, hop, hunit]
  all_goals simp [descWork, portionOf, plainPart, hop]

theorem length_readBytes (m : List Host.Cell) (a n : Nat) : (readBytes m a n).length = n := by simp [readBytes]

theorem readBytes_writeBytes (m : List Host.Cell) (a : Nat) (bs : List Byte) : readBytes (writeBytes m a bs) a bs.length = bs := by
  refine List.ext_getElem (length_readBytes _ _ _) fun k hk hk' => ?_
  simp only [readBytes, List.getElem_map, List.getElem_range]
  exact readByte_writeBytes_in m a k bs hk'

/-- What a portion of COPY, FILL or ZERO writes. -/
def plainBytes (s : State) (ch : Nat) (d : DDesc) (v : Dv) : List Byte :=
  let n := min 64 (v.len - 64 * d.unit)
  if v.op = 1 then readBytes s.mem (loftAt (chanCore ch) + (v.src + 64 * d.unit)) n
  else if v.op = 2 then (List.range n).map (fun k => BitVec.ofNat 8 (bits v.param (8 * (k % 8)) 8)) else List.replicate n 0

section
variable {s : State} {ch : Nat} {d : DDesc} {v : Dv} (rows : Rows) (cand : List (Nat × Nat))

theorem length_plainBytes : (plainBytes s ch d v).length = min 64 (v.len - 64 * d.unit) := by
  unfold plainBytes
  extract_lets n
  split
  · exact length_readBytes _ _ _
  · split
    · simp [n]
    · simp [n]

theorem descMixed_plain (hop : v.op = 2 ∨ v.op = 3 ∨ v.op = 9) : descMixed v rows = false := by
  rcases hop with hop | hop | hop <;> simp [descMixed, hop]

section
variable (hop : v.op = 1 ∨ v.op = 2 ∨ v.op = 3) (hsrc : v.srcLoft = true ∨ v.op = 2 ∨ v.op = 3) (hdst : v.dstLoft = true) (hphys : v.op = 3 → v.phys = false)
include hop hsrc hdst hphys

theorem descResult_plain : (descResult s ch d.ctx (descWork d v rows) cand).s.mem =
    writeBytes s.mem (loftAt (chanCore ch) + (v.dst + 64 * d.unit)) (plainBytes s ch d v) := by
  obtain ⟨hv, -⟩ := descWork_plain (d := d) rows (by omega : v.op = 1 ∨ v.op = 2 ∨ v.op = 3 ∨ v.op = 9)
  have hdst' : (plainPart d v).dstLoft = true := hdst
  unfold descResult
  rw [hv]
  rcases hop with hop | hop | hop
  · have hop' : (plainPart d v).op = 1 := hop
    have hsrc' : (plainPart d v).srcLoft = true := hsrc.resolve_right (by omega)
    simp only [hop', deWrite, deRead, hdst', hsrc', if_true, plainBytes, hop]
    rfl
  · have hop' : (plainPart d v).op = 2 := hop
    have hparam : (plainPart d v).param = v.param := by simp [plainPart, hop]
    simp only [hop', deWrite, hdst', hparam, if_true, plainBytes, hop, Nat.reduceEqDiff, if_false]
    rfl
  · have hop' : (plainPart d v).op = 3 := hop
    have hphys' : (plainPart d v).phys = false := hphys hop
    simp only [hop', deWrite, hdst', hphys', if_true, plainBytes, hop, Nat.reduceEqDiff, if_false]
    rfl

/-- Where the operands do not run into one another the portion is written whole. -/
theorem descEffect_plain (hmixed : descMixed v rows = false) : (descEffect s ch d.ctx v rows (descWork d v rows) cand).s.mem =
    writeBytes s.mem (loftAt (chanCore ch) + (v.dst + 64 * d.unit)) (plainBytes s ch d v) := by
  rw [← descResult_plain rows cand hop hsrc hdst hphys]
  simp [descEffect, hmixed]

/-- Outside the portion's bytes memory stands, whether or not the operands run into one another. -/
theorem descEffect_outside {j : Nat} (hj : j < loftAt (chanCore ch) + (v.dst + 64 * d.unit) ∨
      loftAt (chanCore ch) + (v.dst + 64 * d.unit) + min 64 (v.len - 64 * d.unit) ≤ j) :
    readByte (descEffect s ch d.ctx v rows (descWork d v rows) cand).s.mem j = readByte s.mem j := by
  have hres : readByte (descResult s ch d.ctx (descWork d v rows) cand).s.mem j = readByte s.mem j := by
    rw [descResult_plain rows cand hop hsrc hdst hphys]
    exact readByte_writeBytes_out _ _ _ _ (by rw [length_plainBytes]; exact hj)
  obtain ⟨hv, hrows⟩ := descWork_plain (d := d) rows (by omega : v.op = 1 ∨ v.op = 2 ∨ v.op = 3 ∨ v.op = 9)
  have hwrites : ∀ q ∈ descWrites (plainPart d v) {}, v.op = 1 → q.loft = true ∧ q.a = v.dst + 64 * d.unit ∧ q.n = min 64 (v.len - 64 * d.unit) := fun q hq hop1 => by
    have hop' : (plainPart d v).op = 1 := hop1
    unfold descWrites Dv.runs at hq
    split at hq
    · simp at hq
    · simp only [hop', List.append_nil, List.mem_filter, List.mem_cons, List.not_mem_nil, or_false, decide_eq_true_eq] at hq
      obtain ⟨rfl | rfl, hacc⟩ := hq
      · cases hacc
      · exact ⟨hdst, rfl, rfl⟩
  by_cases hmixed : descMixed v rows = true
  · have hop1 : v.op = 1 := by
      rcases hop with h | h
      · exact h
      · rw [descMixed_plain rows (by omega)] at hmixed
        cases hmixed
    simp only [descEffect, hmixed, Bool.not_true, Bool.false_eq_true, if_false, hv, hrows]
    exact each_keeps (P := fun t => readByte t.mem j = readByte s.mem j) _ _ (fun t q hq ht => by
      obtain ⟨hloft, ha, hn⟩ := hwrites q hq hop1
      simp only [deWrite, hloft, if_true, ha]
      rw [readByte_writeBytes_out _ _ _ _ (by simpa [hn] using hj)]
      exact ht) _ hres
  · simpa [descEffect, hmixed] using hres

end

/-- CRC32C goes on from the result so far and writes nothing. -/
theorem descEffect_crc (hop : v.op = 9) (hsrc : v.srcLoft = true) :
    (descEffect s ch d.ctx v rows (descWork d v rows) cand).s = s ∧ (descEffect s ch d.ctx v rows (descWork d v rows) cand).result =
      crc32c ((if d.unit = 0 then v.param else d.result) % 2 ^ 32) (readBytes s.mem (loftAt (chanCore ch) + (v.src + 64 * d.unit)) (min 64 (v.len - 64 * d.unit))) := by
  obtain ⟨hv, -⟩ := descWork_plain (d := d) rows (by omega : v.op = 1 ∨ v.op = 2 ∨ v.op = 3 ∨ v.op = 9)
  have hsrc' : (plainPart d v).srcLoft = true := hsrc
  have heffect : descEffect s ch d.ctx v rows (descWork d v rows) cand = descResult s ch d.ctx (descWork d v rows) cand := by
    simp [descEffect, descMixed_plain rows (.inr (.inr hop))]
  rw [heffect]
  unfold descResult
  rw [hv]
  have hop' : (plainPart d v).op = 9 := hop
  have hparam : (plainPart d v).param = if d.unit = 0 then v.param else d.result := by
    by_cases hunit : d.unit = 0 <;> simp [plainPart, hop, hunit]
  simp only [hop', deRead, hsrc', if_true, hparam]
  exact ⟨trivial, rfl⟩

end

/-- What a portion between lofts leaves in memory `m`, of which the engine's result is `result` (R244). -/
def LoftPart (s : State) (ch : Nat) (d : DDesc) (v : Dv) (rows : Rows) (result : Nat) (m : List Host.Cell) : Prop :=
  let n := min 64 (v.len - 64 * d.unit)
  let src := readBytes s.mem (loftAt (chanCore ch) + (v.src + 64 * d.unit)) n
  let dst := loftAt (chanCore ch) + (v.dst + 64 * d.unit)
  (v.op = 1 → descMixed v rows = false → readBytes m dst n = src) ∧
  (v.op = 2 → ∀ j < n, readByte m (dst + j) = BitVec.ofNat 8 (bits v.param (8 * (j % 8)) 8)) ∧
  (v.op = 3 → v.phys = false → ∀ j < n, readByte m (dst + j) = 0) ∧
  (v.op ≤ 3 → v.phys = false → ∀ j, (j < dst ∨ dst + n ≤ j) → readByte m j = readByte s.mem j) ∧
  (v.op = 9 → result = crc32c ((if d.unit = 0 then v.param else d.result) % 2 ^ 32) src ∧ m = s.mem)

theorem descEffect_loftPart {s : State} {ch : Nat} {d : DDesc} {v : Dv} (rows : Rows) (cand : List (Nat × Nat)) (hlo : 1 ≤ v.op) (hsrc : v.srcLoft = true ∨ v.op = 2 ∨ v.op = 3)
    (hdst : v.dstLoft = true ∨ v.op = 9) :
    LoftPart s ch d v rows (descEffect s ch d.ctx v rows (descWork d v rows) cand).result (descEffect s ch d.ctx v rows (descWork d v rows) cand).s.mem := by
  have hwritten : (v.op = 2 ∨ v.op = 3) → (v.op = 3 → v.phys = false) → ∀ j (hj : j < min 64 (v.len - 64 * d.unit)),
      readByte (descEffect s ch d.ctx v rows (descWork d v rows) cand).s.mem (loftAt (chanCore ch) + (v.dst + 64 * d.unit) + j) =
        (plainBytes s ch d v)[j]'(by rw [length_plainBytes]; exact hj) := fun hop hphys j hj => by
    rw [descEffect_plain rows cand (.inr hop) hsrc (hdst.resolve_right (by omega)) hphys (descMixed_plain rows (by omega))]
    exact readByte_writeBytes_in _ _ _ _ _
  refine ⟨fun hop hmixed => ?_, fun hop j hj => ?_, fun hop hphys j hj => ?_, fun hop hphys j hj => ?_, fun hop => ?_⟩
  · rw [descEffect_plain rows cand (.inl hop) hsrc (hdst.resolve_right (by omega)) (by omega) hmixed, ← length_plainBytes (s := s) (ch := ch), readBytes_writeBytes]
    simp [plainBytes, hop, length_readBytes]
  · rw [hwritten (.inl hop) (by omega) j hj]
    simp [plainBytes, hop]
  · rw [hwritten (.inr hop) (fun _ => hphys) j hj]
    simp [plainBytes, hop]
  · exact descEffect_outside rows cand (by omega) hsrc (hdst.resolve_right (by omega)) (fun _ => hphys) hj
  · obtain ⟨hs, hresult⟩ := descEffect_crc (s := s) (ch := ch) (d := d) rows cand hop (hsrc.resolve_right (by omega))
    exact ⟨hresult, congrArg State.mem hs⟩

section
variable {s : State} {ch : Nat} {d : DDesc} {rest : List DDesc} {v : Dv} {rows : Rows} (hat : AtEngine s ch d rest v) {out : EccOut} {p : Nat × Instr}
  (hp : p ∈ engineRows.map (fun q => (q.1, q.2 ⟨ch, out⟩))) (hok : DescOk ch d v) (hop : v.op = p.1) (hclear : DescClear s ch d v rows) (hcount : unitCount v rows ≠ 0)
include hat hp hok hop hclear hcount

/-- Once all is read a portion has its effect; the last leaves the descriptor done. -/
theorem engine_effect (hasks : descAsks s ch d v rows = []) (hleft : descLeft s ch d v rows = []) :
    Does p.2 s (fun t => t.mem = (descEffect s ch d.ctx v rows (descWork d v rows) d.cand).s.mem ∧ ((∀ n, getMark s n = none) → t.flds = s.flds) ∧
      (∃ x : DDesc, (getChan t ch).queue = x :: rest ∧ x.raw = d.raw ∧ x.unit = (descWork d v rows).next ∧ x.phase = (if (descWork d v rows).last then 2 else d.phase) ∧
        x.arith = d.arith ||| (descEffect s ch d.ctx v rows (descWork d v rows) d.cand).fl ∧ x.result = (descEffect s ch d.ctx v rows (descWork d v rows) d.cand).result ∧
        ((descWork d v rows).last = true → x.skipped = rows.skipped ∧ x.code = if rows.skipped = 0 then 0 else 1)) ∧
      (v.srcLoft = true ∨ v.op = 2 ∨ v.op = 3 → v.dstLoft = true ∨ v.op = 9 →
        LoftPart s ch d v rows (descEffect s ch d.ctx v rows (descWork d v rows) d.cand).result t.mem)) := by
  refine does_portion hat hp hok hop hclear hcount ?_
  obtain ⟨hqueue, hids, hphase⟩ := hat.head
  obtain ⟨hmem, hflds, hhead⟩ := portionDone_spec hqueue hids hphase v rows (descWork d v rows) (portionLines s ch d v (descWork d v rows))
  rw [portionStep_done out hleft hasks]
  refine ⟨hmem, fun hnone => ?_, hhead, fun hsrc hdst => ?_⟩
  · exact hflds.trans ((descEffect_writes s ch d.ctx v rows _ _).unmarked hnone).1
  · rw [hmem]
    exact descEffect_loftPart rows d.cand (hop ▸ engineRows_pos hp) hsrc hdst

end

/-- Settles O51: DESC checks its offset and queues the bytes there; a step of an engine by what its checks and the lines left to read and to ask for decide; a done descriptor by
its status record and waymark. -/
theorem deckEngines : Obligations.DeckEngines := by
  refine ⟨fun s g f e k hs hct hty htail hfences hk hcan => ⟨?_, ?_, ?_⟩, fun s ch d rest v hat out p hp => ⟨?_, fun hok hop => ⟨fun rows hclear => ⟨?_, fun hcount => ?_⟩, ?_, ?_⟩⟩,
    fun s ch d rest x hqueue hids hphase hawaiting hreds hctx hphys hwcb => ⟨?_, ?_⟩⟩
  · exact fun halign hrange hclear hroom => desc_queues hct hty htail hfences hk hcan hs hrange halign hclear hroom
  · exact fun halign hrange => desc_align hct hty htail hfences hk hcan hrange halign
  · exact desc_range hct hty htail hfences hk hcan
  · exact engine_bad hat hp
  · exact engine_empty hat hp hok hop hclear
  · refine ⟨fun l hl hne hroom => engine_passes hat hp hok hop hclear hcount hl hne hroom, fun l more hown hasks hmark => ⟨?_, ?_⟩, ?_, ?_⟩
    · exact engine_reads hat hp hok hop hclear hcount hown hasks hmark
    · exact engine_uncorrectable hat hp hok hop hclear hcount hown hasks hmark
    · exact engine_effect hat hp hok hop hclear hcount
    · exact fun hasks hleft => engine_asks hat hp hok hop hclear hcount hleft hasks
  · exact fun va acc hstop => engine_waits hat hp hok hop hstop
  · exact fun code addr hstop => engine_faults hat hp hok hop hstop
  · exact descComplete_quiet hqueue hids hphase hawaiting hreds hctx hphys hwcb
  · exact descComplete_counts hqueue hids hphase hawaiting hreds hctx hphys hwcb

end Sys2Proof.Machine
end
